-- ==== Sys2Proof/Word.lean ====
section
/-!
DEFINITION. The word types of the Nyxis Kolfemos and their plainest arithmetic (spec/00_scope.md R3, R5;
spec/04_tile_core.md R80, R81).
-/

namespace Sys2Proof

/-- One byte. -/
abbrev Byte := BitVec 8

/-- A scalar register, a system register or an address (R80). -/
abbrev Word := BitVec 64

/-- One 32-bit code word or one 32-bit lane (R192). -/
abbrev Word32 := BitVec 32

/-- One 128-byte row of a tile register (R81). -/
abbrev Row := BitVec 1024

/-- The number of a scalar register, s0 to s31 (R5). -/
abbrev Reg := BitVec 5

/-- Bits [hi:lo] of a number, both ends inclusive (R3). -/
def bits (w hi lo : Nat) : Nat := (w >>> lo) % 2 ^ (hi + 1 - lo)

/-- Bit n of a number (R3). -/
def bit (w n : Nat) : Bool := (w >>> n) % 2 == 1

/-- The number w of n bits read as two's complement. -/
def signed (n w : Nat) : Int := if 2 * (w % 2 ^ n) < 2 ^ n then (w % 2 ^ n : Nat) else (w % 2 ^ n : Nat) - (2 ^ n : Nat)

/-- An integer taken modulo 2^n. -/
def wrap (n : Nat) (x : Int) : Nat := (x % (2 ^ n : Nat)).toNat

/-- Sat of R6. -/
def satInt (x lo hi : Int) : Int := if x < lo then lo else if hi < x then hi else x

/-- Quotient rounded up. -/
def ceilDiv (a b : Nat) : Nat := (a + b - 1) / b

end Sys2Proof
end

