-- ==== Sys2Proof/Machine/Table.lean ====
section
/-!
DEFINITION. Finite tables: lists of (key, value) pairs in one canonical form, keys strictly rising and no entry equal to
what an unlisted key reads as. Memory is such a table of bytes.
-/

namespace Sys2Proof.Machine

/-- A table from numbers to values. -/
abbrev Tbl (α : Type) := List (Nat × α)

/-- The value at a key; an unlisted key reads as d. -/
def Tbl.get {α : Type} (d : α) : Tbl α → Nat → α
  | [], _ => d
  | (k', v) :: t, k => if k' = k then v else Tbl.get d t k

/-- The entries that a run of values starting at a key lists. -/
def Tbl.run {α : Type} [DecidableEq α] (d : α) : Nat → List α → Tbl α
  | _, [] => []
  | k, v :: vs => if v = d then Tbl.run d (k + 1) vs else (k, v) :: Tbl.run d (k + 1) vs

/-- The table with the values vs at keys a, a + 1, … . -/
def Tbl.write {α : Type} [DecidableEq α] (d : α) (t : Tbl α) (a : Nat) (vs : List α) : Tbl α :=
  t.filter (fun e => decide (e.1 < a)) ++ Tbl.run d a vs ++ t.filter (fun e => decide (a + vs.length ≤ e.1))

/-- The table with one value changed. -/
def Tbl.set {α : Type} [DecidableEq α] (d : α) (t : Tbl α) (k : Nat) (v : α) : Tbl α := t.write d k [v]

/-- The values at n keys from a. -/
def Tbl.read {α : Type} (d : α) (t : Tbl α) (a n : Nat) : List α := (List.range n).map fun i => t.get d (a + i)

/-- The canonical form: keys strictly rising from a bound, no default entry. -/
def Tbl.sorted {α : Type} [DecidableEq α] (d : α) : Nat → Tbl α → Bool
  | _, [] => true
  | lo, (k, v) :: t => decide (lo ≤ k) && decide (v ≠ d) && Tbl.sorted d (k + 1) t

/-- The canonical form of a table. -/
def Tbl.wf {α : Type} [DecidableEq α] (d : α) (t : Tbl α) : Bool := t.sorted d 0

/-- A byte memory. -/
abbrev Memory := Tbl Byte

/-- What an address that nothing has written reads as: 0 (R393 for beat memory; a design choice elsewhere). (DESIGN CHOICE, log entry 2.) -/
def Memory.unlisted : Byte := 0

/-- One byte of a memory. -/
def Memory.byte (m : Memory) (a : Nat) : Byte := Tbl.get Memory.unlisted m a

/-- n bytes of a memory, in ascending address order. -/
def Memory.bytes (m : Memory) (a n : Nat) : List Byte := Tbl.read Memory.unlisted m a n

/-- A memory with the bytes bs stored from address a on. -/
def Memory.store (m : Memory) (a : Nat) (bs : List Byte) : Memory := Tbl.write Memory.unlisted m a bs

/-- The canonical form of a memory: addresses strictly rising, no entry equal to what an unlisted address reads as. -/
def Memory.wf (m : Memory) : Bool := Tbl.wf Memory.unlisted m

/-- The little-endian number that a list of bytes holds (R4, R32). -/
def leNat : List Byte → Nat
  | [] => 0
  | b :: bs => b.toNat + 256 * leNat bs

/-- The n little-endian bytes of a number. -/
def leBytes : Nat → Nat → List Byte
  | 0, _ => []
  | n + 1, v => BitVec.ofNat 8 v :: leBytes n (v / 256)

/-- The little-endian number of n bytes at an address. -/
def Memory.num (m : Memory) (a n : Nat) : Nat := leNat (m.bytes a n)

/-- The bytes of a row. -/
def rowBytes (r : Row) : List Byte := leBytes 128 r.toNat

/-- A row of bytes. -/
def rowOf (bs : List Byte) : Row := BitVec.ofNat 1024 (leNat bs)

/-- The elements of width w of a number of n × w bits, the lowest first (R32). -/
def elems (w : Nat) : Nat → Nat → List Nat
  | 0, _ => []
  | n + 1, v => v % 2 ^ w :: elems w n (v / 2 ^ w)

/-- The number that elements of width w make. -/
def packElems (w : Nat) : List Nat → Nat
  | [] => 0
  | x :: xs => x % 2 ^ w + 2 ^ w * packElems w xs

end Sys2Proof.Machine
end

