-- ==== Sys2Proof/Syntax.lean ====
section
/-!
DEFINITION. The instructions and steps of the machine: one constructor of `Instr` for each row of
spec/opcode_table.json, with its operands. A slot word belongs to a slot by its position in the bundle
(spec/10_encoding.md R196), so a constructor carries the operands of its word, of its payload word and of the prefix
words that stand before it. A step of the machine carries the names of the agents it concerns.
-/

namespace Sys2Proof

/-- The prefixes of one slot word (R201). -/
structure Pfx where
  /-- Class 0, pfx.round: the rounding code. -/
  round : Option (BitVec 3) := none
  /-- Class 1, pfx.sat. -/
  sat : Option Bool := none
  /-- Class 2, pfx.stream: stream and scope. -/
  stream : Option (BitVec 4 × BitVec 3) := none
  /-- Class 3, pfx.fmt: F1 (when V1 = 1). -/
  fmt1 : Option (BitVec 5) := none
  /-- Class 3, pfx.fmt: F2 (when V2 = 1). -/
  fmt2 : Option (BitVec 5) := none
  /-- Class 4, pfx.beat: the offset from DBEAT. -/
  beat : Option (BitVec 8) := none
  /-- Class 5, pfx.rand: true names the common sequence. -/
  rand : Option Bool := none
  deriving DecidableEq, Repr

/-- No prefix. -/
def Pfx.empty : Pfx := { }

/-- The operands of the first word of a V-slot or F-slot instruction (R199): TYPE, VAR and the fields a, b and c. -/
structure VOp where
  ty : BitVec 5
  var : BitVec 3
  a : BitVec 5
  b : BitVec 5
  c : BitVec 5
  p : Pfx
  deriving DecidableEq, Repr

/-- The row word of V and F (R200). -/
structure VRow where
  f2 : BitVec 5
  td : BitVec 4
  rd : BitVec 5
  rc : BitVec 5
  rb : BitVec 5
  ra : BitVec 5
  deriving DecidableEq, Repr

/-- Layout A of R256: SIZE, SX, base and data register. -/
structure MemA where
  size : BitVec 3
  sx : Bool
  b : Reg
  a : Reg
  deriving DecidableEq, Repr

/-- Layout B of R256: tile or row form, row, base register and tile register. -/
structure MemB where
  t : Bool
  row : BitVec 5
  b : Reg
  a : BitVec 5
  deriving DecidableEq, Repr

/-- Layout C of R256: tile or row form, row, element size, index tile, base register and data tile. -/
structure MemC where
  t : Bool
  row : BitVec 5
  sz : Bool
  x : BitVec 5
  b : Reg
  a : BitVec 5
  deriving DecidableEq, Repr

/-- Layout D of R256: the operation of R208, size, marks, operand, base and destination. -/
structure AtomOp where
  acq : Bool
  rel : Bool
  op : BitVec 4
  size : BitVec 3
  c : Reg
  b : Reg
  a : Reg
  deriving DecidableEq, Repr

/-- The payload word of a stamped M-slot instruction (R200): issue stamp and beat tag. -/
structure Stamp where
  stamp : BitVec 16
  tag : BitVec 16
  deriving DecidableEq, Repr

/-- The word of AMAC (R267). -/
structure AmacOp where
  row : BitVec 5
  nm1 : BitVec 5
  g : BitVec 2
  t : BitVec 4
  sp : BitVec 4
  deriving DecidableEq, Repr

/-- The word of AOP.op (R209, R272). -/
structure AopOp where
  ty : BitVec 2
  sat : Bool
  op : BitVec 3
  c : Reg
  b : Reg
  a : Reg
  deriving DecidableEq, Repr

/-- The word of ASUM (R273). -/
structure AsumOp where
  ty : BitVec 2
  hi : Bool
  c : Reg
  b : Reg
  deriving DecidableEq, Repr

/-- The word of TMMA (R274). -/
structure TmmaOp where
  ty : BitVec 5
  z : Bool
  c : BitVec 5
  b : BitVec 5
  a : BitVec 5
  deriving DecidableEq, Repr

/-- The word of CRESP, COPA and COPA.C (R275). -/
structure CorrOp where
  nm1 : BitVec 5
  q8 : BitVec 2
  k8 : BitVec 2
  tq : BitVec 4
  e : Bool
  tk : BitVec 4
  bn : BitVec 2
  sp : BitVec 4
  deriving DecidableEq, Repr

/-- The word of CCHK (R276). -/
structure CchkOp where
  nm1 : BitVec 5
  re : BitVec 5
  te : BitVec 4
  e : Bool
  sp : BitVec 4
  deriving DecidableEq, Repr

/-- The word of an engine command (R169, R296): marks, fields a, b and c, and its stream prefix. -/
structure EOp where
  acq : Bool
  rel : Bool
  wg : Bool
  a : Reg
  b : Reg
  c : Reg
  p : Pfx
  deriving DecidableEq, Repr

/-- An engine: a block-transfer channel of a bay, or a tack engine of a die (unit = 16 × class + index, R141). -/
inductive Engine where
  | btx (bay ch : Nat)
  | tack (die unit : Nat)
  deriving DecidableEq, Repr

/-- A report (R366): its cause and its four syndrome words. -/
structure Report where
  cause : Nat
  i0 : Word := 0
  i1 : Word := 0
  i2 : Word := 0
  i3 : Word := 0
  deriving DecidableEq, Repr

/-- What a host request names: beat memory or expander memory, the device's HDM decoders of one of the two (R380), or the .data of a
task for the loader, by the partition and RCB of its region: of its scratch or its beat column (R190). -/
inductive HostSpace where
  | beat
  | expander
  | hdm (expander : Bool)
  | image (part rcb : Nat) (beat : Bool)
  deriving DecidableEq, Repr

/-- What a host request does: a read, a write, or an atomic of R208 (its operation, operand and compare value). -/
inductive HostAct where
  | read
  | write (data : BitVec 512)
  | atomic (op : BitVec 4) (v cmp : Word)
  deriving DecidableEq, Repr

/-- A host request to device memory (R117). A write that names the HDM decoders opens the extent of len bytes at addr, or, with
data 0, closes it; any other request to decoders or .data does nothing. -/
structure HostReq where
  space : HostSpace
  addr : Nat
  len : Nat
  act : HostAct
  deriving DecidableEq, Repr

/-- A contribution of one rank to a collective round (R306, R386). -/
structure Contribution where
  group : Nat
  rank : Nat
  round : Nat
  nrank : Nat
  op : Nat
  ty : Nat
  root : Nat
  data : List Word32
  deriving DecidableEq, Repr

/-- A Jexvik flit after correction (R384): its header, payload and CRC, and its number within its virtual channel, by which the
sender and the receiver tell the flits of a channel apart. -/
structure Flit where
  header : BitVec 32
  payload : BitVec 1920
  crc : BitVec 32
  seq : Nat
  deriving DecidableEq, Repr

/-- The virtual channel of a flit. -/
def Flit.vc (f : Flit) : Nat := f.header.toNat % 8

/-- The type of a flit. -/
def Flit.kind (f : Flit) : Nat := f.header.toNat / 8 % 32

/-- The credits that a flit returns. -/
def Flit.credit (f : Flit) : Nat := f.header.toNat / 256

/-- The flit modes in which a CXL link trains (R378). -/
inductive FlitMode where
  | flit256
  | flit68
  | latencyOpt
  deriving DecidableEq, Repr

/-- An upstream port that has trained: its speed in GT/s, its lanes and its flit mode (R378). -/
structure PortUp where
  port : Nat
  gts : Nat
  lanes : Nat
  mode : FlitMode
  deriving DecidableEq, Repr

/-- An SPDM request (R392): slot or index parameter, the algorithms it asks for, offset and length, and its nonce. -/
structure SpdmReq where
  param : Nat
  sigAlg : Nat
  hashAlg : Nat
  offset : Nat
  len : Nat
  nonce : BitVec 256
  deriving DecidableEq, Repr

/-- An error found by ECC (R399, R400): the die, the unit code of RASERR and the physical address. -/
structure EccError where
  die : Nat
  unit : Nat
  addr : Nat
  deriving DecidableEq, Repr

/-- The host's answer for a line of host memory: the line, its bytes where the host has changed them, and whether the copy is a
shared one, which suffices for a load only (R381). -/
structure LineAnswer where
  line : Nat
  data : Option (BitVec 512)
  shared : Bool
  deriving DecidableEq, Repr

/-- One constructor for each row of spec/opcode_table.json: the slot instructions of the bundle encoding and the
steps of the machine (spec/95_what_each_step_holds.md). -/
inductive Instr where
  /-- BUNDLE_ISSUE (R111). A task's bundle reaches its issue point once its gap, wait and stamp allow, and its slot instructions issue together. -/
  | bundleIssue (bay : Nat)
  /-- SHORT_OP_LAND (R90). A short operation's result and flags land in its destination at issue + L. -/
  | shortOpLand (bay : Nat)
  /-- SCRATCH_WRITE_APPLY (R112). Scratch timeline writes due on a cycle are applied in engine, remote, L, W order. -/
  | scratchWriteApply (bay : Nat)
  /-- SCRATCH_LOAD_SAMPLE (R95). A scratch load samples its bytes at issue + 2, row j at + j. -/
  | scratchLoadSample (bay : Nat)
  /-- STREAM_DELIVER (R113). The head entry of a stream queue is delivered to its home intake or target timeline. -/
  | streamDeliver (bay : Nat) (q : Nat)
  /-- FENCE_MARKER_LEAVE (R121). FENCE markers leave their queues once every earlier masked entry is performed within scope. -/
  | fenceMarkerLeave (bay : Nat)
  /-- HOST_ACK (R123). The host port acknowledges a device write to a host line, making it visible to the host. -/
  | hostAck (line : Nat)
  /-- BEAT_QUEUE_ARRIVAL (R56). A beat-tagged instruction for another bay reaches that bay's beat queue. -/
  | beatQueueArrival (bay : Nat) (id : Nat)
  /-- BEAT_LOAD_SERVE (R54). A beat load is served in its beat from the snapshot at the close of the previous beat. -/
  | beatLoadServe (bay : Nat) (id : Nat)
  /-- REMOTE_LOAD_LAND (R310). The rows of a load served for another bay land in the issuing task. -/
  | remoteLoadLand (bay : Nat) (id : Nat)
  /-- BEAT_CLOSE (R62). The open beat closes once its plan, refresh and tagged work are done, and the next beat opens. -/
  | beatClose (part : Nat)
  /-- BEAT_OVERRUN (R63). At plan + BEATOVL, a bay abandons unserved entries of the beat and a beat-overrun report is raised. -/
  | beatOverrun (bay : Nat)
  /-- REFRESH_DUE (R64). A die's refresh window falls due and the next due time is set. -/
  | refreshDue (die : Nat)
  /-- REFRESH_WINDOW_END (R64). A 64-cycle refresh window ends and the die's rows become usable again. -/
  | refreshWindowEnd (die : Nat)
  /-- ARRAY_OP_START (R312). An in-array operation starts when its beat has opened, the previous one has ended and no refresh runs. -/
  | arrayOpStart (bay : Nat)
  /-- ARRAY_COMMIT_POINT (R63). An in-array operation completes a row, block step or key, and that part stands. -/
  | arrayCommitPoint (bay : Nat)
  /-- ARRAY_OP_COMPLETE (R54). An in-array operation finishes, its results stand and its holds end. -/
  | arrayOpComplete (bay : Nat)
  /-- AWRITE_PIECE_SAMPLE (R271). The weight stage samples one 128-byte piece of an AWRITE source per cycle. -/
  | awritePieceSample (bay : Nat)
  /-- TMMA_COMPLETE (R274). All rows of a TMMA land 1,032 cycles after its start. -/
  | tmmaComplete (bay : Nat)
  /-- BPLAN_TABLE_SAMPLE (R286). BPLAN samples its table at issue + 2 and installs the plan, or reports a fault. -/
  | bplanTableSample (bay : Nat)
  /-- ENGINE_CMD_START (R118). An engine starts the earliest command of its timetable once its cycle, predecessor and acquire allow. -/
  | engineCmdStart (eng : Engine)
  /-- ENGINE_ACCESS_PERFORM (R118). A running command performs one of its reads or writes at its destination. -/
  | engineAccessPerform (eng : Engine)
  /-- ENGINE_CMD_FINISH (R154). A command finishes by writing its completion word. -/
  | engineCmdFinish (eng : Engine)
  /-- INDEX_POP_TIMEOUT (R163). An index not present within 256 cycles of the previous pop fails the gather or scatter. -/
  | indexPopTimeout (bay : Nat) (ch : Nat)
  /-- ATTN_ENTRY_SAMPLE (R168). XATT samples the k-th block-table entry at start + k. -/
  | attnEntrySample (eng : Engine)
  /-- ATTN_TRIPLE_ARRIVE (R173). A slice's triple arrives over the stitch network and is merged in ascending slice id. -/
  | attnTripleArrive (eng : Engine) (slice : Nat)
  /-- LEASE_GRANT (R148). A freed saddle or engine is granted to the first eligible queue head on the next cycle. -/
  | leaseGrant (die : Nat)
  /-- LEASE_WAKE_COMPLETE (R143). A WAKING lease's engine is awake and the lease becomes READY. -/
  | leaseWakeComplete (die : Nat) (lease : Nat)
  /-- LEASE_DEADLINE_PASS (R149). A queued lease past its deadline is withdrawn and the task takes a lease-late fault. -/
  | leaseDeadlinePass (die : Nat) (lease : Nat)
  /-- EVICTION_GRACE_END (R158). After 512 cycles the victim's commands abort, it becomes EVICTED and its saddle passes on. -/
  | evictionGraceEnd (die : Nat) (lease : Nat)
  /-- DROWSY_HOLD_EXPIRE (R142). An unreserved drowsy engine goes cold after DROWSYHOLD cycles. -/
  | drowsyHoldExpire (die : Nat) (unit : Nat)
  /-- TASK_END (R282). A task that executed END ends once no hold, queue entry or engine command remains. -/
  | taskEnd (bay : Nat)
  /-- TRAP_TAKE (R362). A trap is taken at a bundle boundary, syndrome written and handler mode entered. -/
  | trapTake (bay : Nat)
  /-- REPORT_ARRIVE (R366). A report joins the task's pending list, or is dropped setting LOST. -/
  | reportArrive (bay : Nat) (rep : Report)
  /-- TIME_PERIOD_BOUNDARY (R87). CYCLE reaches a multiple of 1,024 and TIME advances. -/
  | timePeriodBoundary (part : Nat)
  /-- THERMAL_T3_ENTRY (R398). At 115 °C the die stops at once and its partitions stop with CAUSE 0xFF. -/
  | thermalT3Entry (die : Nat)
  /-- CONTEXT_DRAIN_EXPIRE (R369). At f + W unfinished commands are cancelled, stream entries withdrawn and the image written. -/
  | contextDrainExpire (bay : Nat)
  /-- PREEMPT_SAVE (R336). The part saves a victim gang's tasks itself into the leaf's save area. -/
  | preemptSave (leaf : Nat) (gang : Nat)
  /-- CONTEXT_RESTORE (R373). The scheduler restores a saved gang from its images with a rebased beat offset. -/
  | contextRestore (leaf : Nat) (gang : Nat)
  /-- SCHED_CHILD_SCAN (R323). On a change of POSTED the scheduler scans and admits posted children. -/
  | schedChildScan (node : Nat)
  /-- NODE_DEP_REACHED (R327). A WAITING node whose DEP falls to 0 or below moves to HELD. -/
  | nodeDepReached (node : Nat)
  /-- NODE_COMPLETE (R329). A node whose completion condition holds becomes DONE, clears its slot and signals. -/
  | nodeComplete (node : Nat)
  /-- GANG_PLACE (R332). The scheduler places a gang on free bays by deficit round-robin and its tasks start. -/
  | gangPlace (die : Nat)
  /-- CLASS0_PREEMPT (R335). A class-0 gang lacking bays picks whole lower-class victim gangs to preempt. -/
  | class0Preempt (die : Nat)
  /-- RGNKILL_WRITE (R339). A write to RGNKILL kills the named node and its subtree. -/
  | rgnkillWrite (part : Nat) (v : Word)
  /-- PREEMPT_WRITE (R367). A write to PREEMPT asks every task of a running leaf to take cause 0x19. -/
  | preemptWrite (part : Nat) (v : Word)
  /-- PARTCFG_GO (R387). A PARTCFG write with GO re-forms partitions or sets BUSY. -/
  | partcfgGo (v : Word)
  /-- KEYCTL_GO (R391). KEYDATA is loaded into key slot INDEX and zeroed, or ERR is set. -/
  | keyctlGo (v : Word)
  /-- KEYCTL_ZAP (R391). Key slot INDEX is emptied, or ERR is set. -/
  | keyctlZap (v : Word)
  /-- FWCTL_GO (R396). The image at ADDR is verified and written to flash, or rejected. -/
  | fwctlGo (v : Word)
  /-- FWCTL_RECOVER (R396). The part resets into the recovery ROM without starting the image. -/
  | fwctlRecover (v : Word)
  /-- FW_WRITE_COMPLETE (R396). The flash write of a new image completes and STATE becomes 3. -/
  | fwWriteComplete
  /-- BFORM_WRITE (R347). A BFORM write sets the form of a beat frame. -/
  | bformWrite (bay : Nat) (v : Word)
  /-- RASERR_READ (R400). A read of RASERR returns and clears CECNT. -/
  | raserrRead (die : Nat)
  /-- REGISTER_WRITE (R5). A write to a register with no row of its own updates its RW and W1C fields. -/
  | registerWrite (off : Nat) (v : Word)
  /-- PAGE_REQUEST_RESPONSE (R351). A Page Request Group Response replays the page group, or fails it with reason 1. -/
  | pageRequestResponse (die : Nat) (asid : Nat) (page : Nat) (ok : Bool)
  /-- HOST_REQUEST_ARRIVE (R117). A host request to device memory arrives at the host port and is passed on. -/
  | hostRequestArrive (req : HostReq)
  /-- HOST_SNOOP (R381). A host snoop takes back a host line after the slice performs earlier entries. -/
  | hostSnoop (line : Nat)
  /-- BACK_INVALIDATE_RESPONSE (R381). The host's response to a back-invalidation lets the slice perform the waiting access. -/
  | backInvalidateResponse (line : Nat) (data : Option (BitVec 512))
  /-- UPSTREAM_PORT_DOWN (R379). An upstream port goes down; its reads return poison and its writes move to the other port. -/
  | upstreamPortDown (port : Nat)
  /-- HOST_PORT_UP (R393). An upstream port comes up and READY.HOST is set. -/
  | hostPortUp (up : PortUp)
  /-- DOWNSTREAM_PORT_DOWN (R383). An expander port goes down and later accesses to its share are poisoned. -/
  | downstreamPortDown (port : Nat)
  /-- JEXVIK_FLIT_RECEIVE (R384). A Jexvik flit is received, checked and delivered in order, or replayed. -/
  | jexvikFlitReceive (link : Nat) (flit : Flit)
  /-- JEXVIK_REPLAY_TIMEOUT (R384). A link that cannot complete a replay within 65,536 cycles goes down. -/
  | jexvikReplayTimeout (link : Nat)
  /-- COLL_CONTRIBUTION_ARRIVE (R386). A rank's contribution to a collective round arrives at the switch. -/
  | collContributionArrive (con : Contribution)
  /-- COLL_ROUND_TIMEOUT (R386). A round missing contributions 16,000 cycles after its first is abandoned. -/
  | collRoundTimeout (group : Nat)
  /-- GET_VERSION (R392). SPDM GET_VERSION request answered through the DOE mailbox. -/
  | getVersion (req : SpdmReq)
  /-- GET_CAPABILITIES (R392). SPDM GET_CAPABILITIES request answered. -/
  | getCapabilities (req : SpdmReq)
  /-- NEGOTIATE_ALGORITHMS (R392). SPDM algorithm negotiation, only ECDSA P-521 and SHA-512. -/
  | negotiateAlgorithms (req : SpdmReq)
  /-- GET_DIGESTS (R392). SPDM GET_DIGESTS request answered. -/
  | getDigests (req : SpdmReq)
  /-- GET_CERTIFICATE (R392). SPDM GET_CERTIFICATE returns the chain to the Dristaiq root. -/
  | getCertificate (req : SpdmReq)
  /-- CHALLENGE (R392). SPDM CHALLENGE is signed with the fused key. -/
  | challenge (req : SpdmReq)
  /-- GET_MEASUREMENTS (R392). SPDM GET_MEASUREMENTS returns SHA-512 measurement blocks 1 to 4. -/
  | getMeasurements (req : SpdmReq)
  /-- POWER_ON_RESET (R395). The recovery ROM measures itself, verifies the firmware image and starts it or stays in recovery. -/
  | powerOnReset
  /-- DIE_READY (R393). A die's beat memory is tested and zeroed and its DIE bit sets. -/
  | dieReady (die : Nat)
  /-- EXPANDERS_READY (R393). Expanders are configured and interleaved and EXP sets. -/
  | expandersReady (ports : Nat)
  /-- JEXVIK_TRAINED (R393). Jexvik links finish training and JEX sets. -/
  | jexvikTrained
  /-- KEYS_READY (R393). Key slots become loadable and KEYS sets. -/
  | keysReady
  /-- ECC_UNCORRECTABLE (R399). An uncorrectable error poisons its row and is recorded in RASERR. -/
  | eccUncorrectable (err : EccError)
  /-- ECC_CORRECTED (R399). A corrected sector is rewritten in place and CECNT counts it. -/
  | eccCorrected (err : EccError)
  /-- FW_VERIFY_COMPLETE (R396). Verification of the image at ADDR ends, and FWCTL.STATE moves from verifying to writing or to rejected. -/
  | fwVerifyComplete
  /-- POWER_FAIL (R396). Power fails; if FWCTL.STATE = 2 the flash is left with no valid image. -/
  | powerFail
  /-- HOST_CXL_CACHE_RESPONSE (R381). The host answers a home slice's CXL.cache read or read for ownership of a host line, with what it has stored there since the slice gave the line up (R123); the slice then performs the waiting access. -/
  | hostCxlCacheResponse (line : LineAnswer)
  /-- RESERVED_ENGINE_DROWSY (R147). A reserved engine that the scheduler began waking from cold at launch reaches the drowsy state. -/
  | reservedEngineDrowsy (die : Nat) (unit : Nat)
  /-- ADD (R217). sd ← sb + sc modulo 2^64. -/
  | add (d : Reg) (b : Reg) (c : Reg)
  /-- SUB (R217). sd ← sb − sc. -/
  | sub (d : Reg) (b : Reg) (c : Reg)
  /-- ADDI (R216). sd ← sb + sign-extended 14-bit immediate. -/
  | addi (d : Reg) (b : Reg) (imm : BitVec 14)
  /-- ADDI_64 (R216). ADDI with a 32-bit immediate in a payload word. -/
  | addi64 (d : Reg) (b : Reg) (imm : BitVec 32)
  /-- ADDSH (R217). sd ← sb + sc × 2^k. -/
  | addsh (d : Reg) (b : Reg) (c : Reg) (k : BitVec 3)
  /-- MUL (R217). Low 64 bits of the product. -/
  | mul (d : Reg) (b : Reg) (c : Reg)
  /-- MULH (R217). High 64 bits of the signed product. -/
  | mulh (d : Reg) (b : Reg) (c : Reg)
  /-- MULHN (R217). High 64 bits of the unsigned product. -/
  | mulhn (d : Reg) (b : Reg) (c : Reg)
  /-- DIV (R218). Signed quotient; all ones on division by zero. -/
  | div (d : Reg) (b : Reg) (c : Reg)
  /-- DIVN (R218). Unsigned quotient. -/
  | divn (d : Reg) (b : Reg) (c : Reg)
  /-- REM (R218). Signed remainder. -/
  | rem (d : Reg) (b : Reg) (c : Reg)
  /-- REMN (R218). Unsigned remainder. -/
  | remn (d : Reg) (b : Reg) (c : Reg)
  /-- MIN (R217). Signed minimum. -/
  | min (d : Reg) (b : Reg) (c : Reg)
  /-- MAX (R217). Signed maximum. -/
  | max (d : Reg) (b : Reg) (c : Reg)
  /-- MINN (R217). Unsigned minimum. -/
  | minn (d : Reg) (b : Reg) (c : Reg)
  /-- MAXN (R217). Unsigned maximum. -/
  | maxn (d : Reg) (b : Reg) (c : Reg)
  /-- AND (R217). Bitwise AND. -/
  | and (d : Reg) (b : Reg) (c : Reg)
  /-- ANDI (R216). AND with zero-extended 14-bit immediate. -/
  | andi (d : Reg) (b : Reg) (imm : BitVec 14)
  /-- ANDI_64 (R216). ANDI with a 32-bit immediate word. -/
  | andi64 (d : Reg) (b : Reg) (imm : BitVec 32)
  /-- OR (R217). Bitwise OR. -/
  | or (d : Reg) (b : Reg) (c : Reg)
  /-- ORI (R216). OR with zero-extended immediate. -/
  | ori (d : Reg) (b : Reg) (imm : BitVec 14)
  /-- ORI_64 (R216). ORI with a 32-bit immediate word. -/
  | ori64 (d : Reg) (b : Reg) (imm : BitVec 32)
  /-- XOR (R217). Bitwise XOR. -/
  | xor (d : Reg) (b : Reg) (c : Reg)
  /-- XORI (R216). XOR with zero-extended immediate. -/
  | xori (d : Reg) (b : Reg) (imm : BitVec 14)
  /-- XORI_64 (R216). XORI with a 32-bit immediate word. -/
  | xori64 (d : Reg) (b : Reg) (imm : BitVec 32)
  /-- ANDN (R217). sb AND NOT sc. -/
  | andn (d : Reg) (b : Reg) (c : Reg)
  /-- SEL (R221). sd ← sb if sk ≠ 0, else sc. -/
  | sel (d : Reg) (k : Reg) (b : Reg) (c : Reg)
  /-- SHL (R217). Shift left by sc[5:0]. -/
  | shl (d : Reg) (b : Reg) (c : Reg)
  /-- SHLI (R216). Shift left by an immediate count. -/
  | shli (d : Reg) (b : Reg) (imm : BitVec 14)
  /-- SHLI_64 (R216). SHLI with count in a payload word. -/
  | shli64 (d : Reg) (b : Reg) (imm : BitVec 32)
  /-- SHRL (R217). Logical shift right. -/
  | shrl (d : Reg) (b : Reg) (c : Reg)
  /-- SHRLI (R216). Logical shift right by immediate. -/
  | shrli (d : Reg) (b : Reg) (imm : BitVec 14)
  /-- SHRLI_64 (R216). SHRLI with count in a payload word. -/
  | shrli64 (d : Reg) (b : Reg) (imm : BitVec 32)
  /-- SHRA (R217). Arithmetic shift right. -/
  | shra (d : Reg) (b : Reg) (c : Reg)
  /-- SHRAI (R216). Arithmetic shift right by immediate. -/
  | shrai (d : Reg) (b : Reg) (imm : BitVec 14)
  /-- SHRAI_64 (R216). SHRAI with count in a payload word. -/
  | shrai64 (d : Reg) (b : Reg) (imm : BitVec 32)
  /-- ROTL (R217). Rotate left by sc[5:0]. -/
  | rotl (d : Reg) (b : Reg) (c : Reg)
  /-- CMP_CC (R221). sd ← 1 when the integer condition holds, else 0. -/
  | cmp (cc : BitVec 3) (d : Reg) (b : Reg) (c : Reg)
  /-- CLZ (R219). Count leading zeros. -/
  | clz (d : Reg) (b : Reg)
  /-- CTZ (R219). Count trailing zeros. -/
  | ctz (d : Reg) (b : Reg)
  /-- POPC (R219). Count set bits. -/
  | popc (d : Reg) (b : Reg)
  /-- BREV (R219). Reverse bits. -/
  | brev (d : Reg) (b : Reg)
  /-- BSWAP (R219). Reverse bytes. -/
  | bswap (d : Reg) (b : Reg)
  /-- EXTB (R220). Extract a bit field, optionally sign-extended. -/
  | extb (sx : Bool) (d : Reg) (b : Reg) (c : Reg)
  /-- INSB (R220). Insert a bit field of sb into sd. -/
  | insb (d : Reg) (b : Reg) (c : Reg)
  /-- LI (R216). sd ← sign-extended 14-bit immediate. -/
  | li (d : Reg) (imm : BitVec 14)
  /-- LI_64 (R216). sd ← sign-extended 32-bit immediate word. -/
  | li64 (d : Reg) (imm : BitVec 32)
  /-- LIH (R216). sd[63:32] ← zero-extended immediate. -/
  | lih (d : Reg) (imm : BitVec 14)
  /-- LIH_64 (R216). sd[63:32] ← 32-bit immediate word. -/
  | lih64 (d : Reg) (imm : BitVec 32)
  /-- MOV (R221). sd ← sb. -/
  | mov (d : Reg) (b : Reg)
  /-- FADD (R223). FP32 add with one rounding. -/
  | fadd (d : Reg) (b : Reg) (c : Reg) (p : Pfx)
  /-- FSUB (R223). FP32 subtract with one rounding. -/
  | fsub (d : Reg) (b : Reg) (c : Reg) (p : Pfx)
  /-- FMUL (R223). FP32 multiply with one rounding. -/
  | fmul (d : Reg) (b : Reg) (c : Reg) (p : Pfx)
  /-- FFMA (R223). FP32 fused multiply-add. -/
  | ffma (d : Reg) (b : Reg) (c : Reg) (e : Reg) (p : Pfx)
  /-- FMIN (R224). FP32 minimum with the NaN rules. -/
  | fmin (d : Reg) (b : Reg) (c : Reg)
  /-- FMAX (R224). FP32 maximum with the NaN rules. -/
  | fmax (d : Reg) (b : Reg) (c : Reg)
  /-- FCMP_CC (R225). Quiet FP32 compare writing 1 or 0. -/
  | fcmp (cc : BitVec 3) (d : Reg) (b : Reg) (c : Reg)
  /-- FCVT (R226). Convert one scalar value between formats. -/
  | fcvt (dst : BitVec 4) (src : BitVec 4) (d : Reg) (b : Reg) (p : Pfx)
  /-- FCLASS (R227). Classify a floating-point value into one of ten bits. -/
  | fclass (f : BitVec 4) (d : Reg) (b : Reg)
  /-- RDS (R228). Read a special register. -/
  | rds (n : BitVec 9) (d : Reg)
  /-- WRS (R228). Write a special register. -/
  | wrs (n : BitVec 9) (b : Reg)
  /-- TADD_T (R235). Element-wise add over a whole tile. -/
  | taddT (o : VOp)
  /-- TADD_R (R235). Element-wise add on one row. -/
  | taddR (o : VOp) (r : VRow)
  /-- TSUB_T (R235). Element-wise subtract over a tile. -/
  | tsubT (o : VOp)
  /-- TSUB_R (R235). Element-wise subtract on one row. -/
  | tsubR (o : VOp) (r : VRow)
  /-- TMUL_T (R235). Element-wise multiply over a tile. -/
  | tmulT (o : VOp)
  /-- TMUL_R (R235). Element-wise multiply on one row. -/
  | tmulR (o : VOp) (r : VRow)
  /-- TFMA_T (R235). Fused multiply-add over a tile, 64-bit word. -/
  | tfmaT (o : VOp) (r : VRow)
  /-- TFMA_R (R235). Fused multiply-add on one row. -/
  | tfmaR (o : VOp) (r : VRow)
  /-- TFMS_T (R235). Fused multiply-subtract over a tile. -/
  | tfmsT (o : VOp) (r : VRow)
  /-- TFMS_R (R235). Fused multiply-subtract on one row. -/
  | tfmsR (o : VOp) (r : VRow)
  /-- TMIN_T (R236). Element-wise minimum over a tile. -/
  | tminT (o : VOp)
  /-- TMIN_R (R236). Element-wise minimum on one row. -/
  | tminR (o : VOp) (r : VRow)
  /-- TMAX_T (R236). Element-wise maximum over a tile. -/
  | tmaxT (o : VOp)
  /-- TMAX_R (R236). Element-wise maximum on one row. -/
  | tmaxR (o : VOp) (r : VRow)
  /-- TABS_T (R237). Absolute value over a tile. -/
  | tabsT (o : VOp)
  /-- TABS_R (R237). Absolute value on one row. -/
  | tabsR (o : VOp) (r : VRow)
  /-- TNEG_T (R237). Negation over a tile. -/
  | tnegT (o : VOp)
  /-- TNEG_R (R237). Negation on one row. -/
  | tnegR (o : VOp) (r : VRow)
  /-- TAND_T (R238). Bitwise AND over a tile. -/
  | tandT (o : VOp)
  /-- TAND_R (R238). Bitwise AND on one row. -/
  | tandR (o : VOp) (r : VRow)
  /-- TOR_T (R238). Bitwise OR over a tile. -/
  | torT (o : VOp)
  /-- TOR_R (R238). Bitwise OR on one row. -/
  | torR (o : VOp) (r : VRow)
  /-- TXOR_T (R238). Bitwise XOR over a tile. -/
  | txorT (o : VOp)
  /-- TXOR_R (R238). Bitwise XOR on one row. -/
  | txorR (o : VOp) (r : VRow)
  /-- TSHL_T (R238). Element shift left over a tile. -/
  | tshlT (o : VOp)
  /-- TSHL_R (R238). Element shift left on one row. -/
  | tshlR (o : VOp) (r : VRow)
  /-- TSHR_T (R238). Logical element shift right over a tile. -/
  | tshrT (o : VOp)
  /-- TSHR_R (R238). Logical element shift right on one row. -/
  | tshrR (o : VOp) (r : VRow)
  /-- TSHRA_T (R238). Arithmetic element shift right over a tile. -/
  | tshraT (o : VOp)
  /-- TSHRA_R (R238). Arithmetic element shift right on one row. -/
  | tshraR (o : VOp) (r : VRow)
  /-- TCMP_T (R239). Element compare to masks over a tile. -/
  | tcmpT (o : VOp)
  /-- TCMP_R (R239). Element compare to masks on one row. -/
  | tcmpR (o : VOp) (r : VRow)
  /-- TSEL_T (R239). Select by mask over a tile, 64-bit word. -/
  | tselT (o : VOp) (r : VRow)
  /-- TSEL_R (R239). Select by mask on one row. -/
  | tselR (o : VOp) (r : VRow)
  /-- TCVT_T (R240). Convert elements over a tile. -/
  | tcvtT (o : VOp) (r : VRow)
  /-- TCVT_R (R240). Convert elements of one row. -/
  | tcvtR (o : VOp) (r : VRow)
  /-- TQNT_T (R241). Quantise each row to a block format. -/
  | tqntT (o : VOp) (r : VRow)
  /-- TQNT_R (R241). Quantise one row to a block format. -/
  | tqntR (o : VOp) (r : VRow)
  /-- TDQ_T (R242). Dequantise block rows to FP32 over a tile. -/
  | tdqT (o : VOp) (r : VRow)
  /-- TDQ_R (R242). Dequantise one block row to FP32. -/
  | tdqR (o : VOp) (r : VRow)
  /-- TRED_T (R243). Reduce each row by the fixed tree into row e. -/
  | tredT (o : VOp)
  /-- TRED_R (R243). Reduce one row into element e. -/
  | tredR (o : VOp) (r : VRow)
  /-- TSCAN_T (R244). Running sums of each row. -/
  | tscanT (o : VOp)
  /-- TSCAN_R (R244). Running sums of one row. -/
  | tscanR (o : VOp) (r : VRow)
  /-- TBCST_T (R245). Broadcast one element over each row. -/
  | tbcstT (o : VOp)
  /-- TBCST_R (R245). Broadcast one element over a row. -/
  | tbcstR (o : VOp) (r : VRow)
  /-- TINS_R (R245). Insert a scalar into one element of a row. -/
  | tinsR (o : VOp) (r : VRow)
  /-- TEXT_T (R245). Extract element e to element 0 of each row. -/
  | textT (o : VOp)
  /-- TEXT_R (R245). Extract element e of one row. -/
  | textR (o : VOp) (r : VRow)
  /-- TPERM_T (R247). Permute lanes of each row by an index row. -/
  | tpermT (o : VOp)
  /-- TPERM_R (R247). Permute lanes of one row. -/
  | tpermR (o : VOp) (r : VRow)
  /-- TTRN_T (R248). Transpose 32 × 32 element blocks. -/
  | ttrnT (o : VOp)
  /-- TTRN_R (R248). Interleave the quarters of a row. -/
  | ttrnR (o : VOp) (r : VRow)
  /-- TZERO_T (R249). Zero a whole tile. -/
  | tzeroT (o : VOp)
  /-- TZERO_R (R249). Zero one row. -/
  | tzeroR (o : VOp) (r : VRow)
  /-- TMOV_T (R249). Copy a whole tile. -/
  | tmovT (o : VOp)
  /-- TMOV_R (R249). Copy one row. -/
  | tmovR (o : VOp) (r : VRow)
  /-- TSHF_T (R246). Shift elements along each row. -/
  | tshfT (o : VOp)
  /-- TSHF_R (R246). Shift elements along one row. -/
  | tshfR (o : VOp) (r : VRow)
  /-- FEXP2_T (R250). 2^x over a tile. -/
  | fexp2T (o : VOp)
  /-- FEXP2_R (R250). 2^x on one row. -/
  | fexp2R (o : VOp) (r : VRow)
  /-- FLOG2_T (R250). log2 x over a tile. -/
  | flog2T (o : VOp)
  /-- FLOG2_R (R250). log2 x on one row. -/
  | flog2R (o : VOp) (r : VRow)
  /-- FRCP_T (R250). Reciprocal over a tile. -/
  | frcpT (o : VOp)
  /-- FRCP_R (R250). Reciprocal on one row. -/
  | frcpR (o : VOp) (r : VRow)
  /-- FRSQ_T (R250). Reciprocal square root over a tile. -/
  | frsqT (o : VOp)
  /-- FRSQ_R (R250). Reciprocal square root on one row. -/
  | frsqR (o : VOp) (r : VRow)
  /-- FSQRT_T (R250). Square root over a tile. -/
  | fsqrtT (o : VOp)
  /-- FSQRT_R (R250). Square root on one row. -/
  | fsqrtR (o : VOp) (r : VRow)
  /-- FDIVT_T (R251). Element division over a tile. -/
  | fdivtT (o : VOp)
  /-- FDIVT_R (R251). Element division on one row. -/
  | fdivtR (o : VOp) (r : VRow)
  /-- FTANH_T (R250). tanh over a tile. -/
  | ftanhT (o : VOp)
  /-- FTANH_R (R250). tanh on one row. -/
  | ftanhR (o : VOp) (r : VRow)
  /-- FSIGM_T (R250). Sigmoid over a tile. -/
  | fsigmT (o : VOp)
  /-- FSIGM_R (R250). Sigmoid on one row. -/
  | fsigmR (o : VOp) (r : VRow)
  /-- FSIN_T (R250). Sine over a tile. -/
  | fsinT (o : VOp)
  /-- FSIN_R (R250). Sine on one row. -/
  | fsinR (o : VOp) (r : VRow)
  /-- FCOS_T (R250). Cosine over a tile. -/
  | fcosT (o : VOp)
  /-- FCOS_R (R250). Cosine on one row. -/
  | fcosR (o : VOp) (r : VRow)
  /-- FEXPQ_T (R252). E4M3 codes of 2^x × 256 over a tile. -/
  | fexpqT (o : VOp)
  /-- FEXPQ_R (R252). E4M3 codes of 2^x × 256 for one row. -/
  | fexpqR (o : VOp) (r : VRow)
  /-- FRAND_T (R253). Fill a tile from the random-bits queue. -/
  | frandT (o : VOp)
  /-- FRAND_R (R253). Fill one row from the random-bits queue. -/
  | frandR (o : VOp) (r : VRow)
  /-- LD (R257). Load 1 to 16 bytes of own scratch into scalars. -/
  | ld (m : MemA) (off : BitVec 8)
  /-- LD_64 (R257). LD with a 32-bit offset word. -/
  | ld64 (m : MemA) (off : BitVec 32)
  /-- LDT (R258). Load a row or tile from own scratch. -/
  | ldt (m : MemB) (off : BitVec 5)
  /-- LDT_64 (R258). LDT with a 32-bit offset word. -/
  | ldt64 (m : MemB) (off : BitVec 32)
  /-- LDB (R262). Beat-tagged load of beat memory or accumulators into tile rows. -/
  | ldb (acc : Bool) (m : MemB) (off : BitVec 5) (p : Pfx)
  /-- LDB_64 (R262). LDB with explicit beat tag and offset word. -/
  | ldb64 (acc : Bool) (m : MemB) (off : BitVec 16) (tag : BitVec 16)
  /-- LDG (R263). Global load through a stream queue. -/
  | ldg (acq : Bool) (m : MemA) (off : BitVec 8) (p : Pfx)
  /-- LDG_64 (R263). LDG with a 32-bit offset word. -/
  | ldg64 (acq : Bool) (m : MemA) (off : BitVec 32) (p : Pfx)
  /-- LDX (R259). Gather elements from own scratch by an index row. -/
  | ldx (m : MemC) (off : Option (BitVec 32))
  /-- ATOM (R264). Atomic read-modify-write at the line's home. -/
  | atom (o : AtomOp) (off : Option (BitVec 32)) (p : Pfx)
  /-- ST (R257). Store 1 to 16 bytes to scratch, local or remote. -/
  | st (m : MemA) (off : BitVec 8) (p : Pfx)
  /-- ST_64 (R257). ST with a 32-bit offset word. -/
  | st64 (m : MemA) (off : BitVec 32) (p : Pfx)
  /-- STT (R258). Store a row or tile to scratch. -/
  | stt (m : MemB) (off : BitVec 5) (p : Pfx)
  /-- STT_64 (R258). STT with a 32-bit offset word. -/
  | stt64 (m : MemB) (off : BitVec 32) (p : Pfx)
  /-- STB (R262). Beat-tagged store of tile rows to beat memory or accumulators. -/
  | stb (acc : Bool) (m : MemB) (off : BitVec 5) (p : Pfx)
  /-- STB_64 (R262). STB with explicit beat tag and offset word. -/
  | stb64 (acc : Bool) (m : MemB) (off : BitVec 16) (tag : BitVec 16)
  /-- STG (R263). Global store through a stream queue. -/
  | stg (rel : Bool) (m : MemA) (off : BitVec 8) (p : Pfx)
  /-- STG_64 (R263). STG with a 32-bit offset word. -/
  | stg64 (rel : Bool) (m : MemA) (off : BitVec 32) (p : Pfx)
  /-- STX (R259). Scatter elements to scratch by an index row. -/
  | stx (m : MemC) (off : Option (BitVec 32)) (p : Pfx)
  /-- AMAC (R73). Stream tile rows through lane groups and accumulate into bank accumulators. -/
  | amac (o : AmacOp) (p : Pfx)
  /-- AMAC_64 (R73). AMAC with stamp and explicit beat tag. -/
  | amac64 (o : AmacOp) (p : Pfx) (x : Stamp)
  /-- AZERO (R269). Write +0 to accumulator rows. -/
  | azero (b : Reg) (c : Reg) (p : Pfx)
  /-- AZERO_64 (R269). AZERO with stamp and tag. -/
  | azero64 (b : Reg) (c : Reg) (x : Stamp)
  /-- ADRAIN (R269). Copy accumulator rows to beat rows, optionally zeroing. -/
  | adrain (b : Reg) (c : Reg) (p : Pfx)
  /-- ADRAIN_64 (R269). ADRAIN with stamp and tag. -/
  | adrain64 (b : Reg) (c : Reg) (x : Stamp)
  /-- ASWAP (R270). Request the glove exchange of a bank set. -/
  | aswap (b : Reg) (p : Pfx)
  /-- ASWAP_64 (R270). ASWAP with stamp and tag. -/
  | aswap64 (b : Reg) (x : Stamp)
  /-- AWRITE (R271). Write weights from own scratch onto the off side. -/
  | awrite (b : Reg) (c : Reg) (p : Pfx)
  /-- AWRITE_64 (R271). AWRITE with stamp and tag. -/
  | awrite64 (b : Reg) (c : Reg) (x : Stamp)
  /-- AOP (R74). In-place row arithmetic on beat rows. -/
  | aop (o : AopOp) (p : Pfx)
  /-- AOP_64 (R74). AOP with stamp and tag. -/
  | aop64 (o : AopOp) (x : Stamp)
  /-- ASUM (R75). Add beat rows into an accumulator row. -/
  | asum (o : AsumOp) (p : Pfx)
  /-- ASUM_64 (R75). ASUM with stamp and tag. -/
  | asum64 (o : AsumOp) (x : Stamp)
  /-- TMMA (R274). 32 × 32 tile matrix multiply-accumulate. -/
  | tmma (o : TmmaOp)
  /-- TMMA_64 (R274). TMMA with a stamp. -/
  | tmma64 (o : TmmaOp) (stamp : BitVec 16)
  /-- CRESP (R135). Write response rows S·k for n keys. -/
  | cresp (o : CorrOp) (p : Pfx)
  /-- CRESP_64 (R135). CRESP with stamp and tag. -/
  | cresp64 (o : CorrOp) (x : Stamp)
  /-- COPA (R134). Apply n keys to the state one at a time. -/
  | copa (o : CorrOp) (p : Pfx)
  /-- COPA_64 (R134). COPA with stamp and tag. -/
  | copa64 (o : CorrOp) (x : Stamp)
  /-- COPA_C (R137). Apply precomputed error rows of a chunk. -/
  | copaC (o : CorrOp) (p : Pfx)
  /-- COPA_C_64 (R137). COPA.C with stamp and tag. -/
  | copaC64 (o : CorrOp) (x : Stamp)
  /-- CCHK (R138). Check error rows and state for divergence. -/
  | cchk (o : CchkOp) (p : Pfx)
  /-- CCHK_64 (R138). CCHK with stamp and tag. -/
  | cchk64 (o : CchkOp) (x : Stamp)
  /-- CSNAP_SV (R140). Copy an accumulator tile to beat rows. -/
  | csnapSv (a : Reg) (b : Reg) (p : Pfx)
  /-- CSNAP_SV_64 (R140). CSNAP.SV with stamp and tag. -/
  | csnapSv64 (a : Reg) (b : Reg) (x : Stamp)
  /-- CSNAP_LD (R140). Copy beat rows back into an accumulator tile. -/
  | csnapLd (a : Reg) (b : Reg) (p : Pfx)
  /-- CSNAP_LD_64 (R140). CSNAP.LD with stamp and tag. -/
  | csnapLd64 (a : Reg) (b : Reg) (x : Stamp)
  /-- B (R280). Unconditional branch. -/
  | br (off : BitVec 24)
  /-- B_64 (R280). Branch with a 32-bit offset word. -/
  | br64 (off : BitVec 32)
  /-- BZ (R280). Branch if sb is zero. -/
  | bz (b : Reg) (off : BitVec 14)
  /-- BZ_64 (R280). BZ with a 32-bit offset word. -/
  | bz64 (b : Reg) (off : BitVec 32)
  /-- BNZ (R280). Branch if sb is nonzero. -/
  | bnz (b : Reg) (off : BitVec 14)
  /-- BNZ_64 (R280). BNZ with a 32-bit offset word. -/
  | bnz64 (b : Reg) (off : BitVec 32)
  /-- BCC (R280). Branch on an integer or FP32 comparison. -/
  | bcc (f : Bool) (cc : BitVec 3) (b : Reg) (c : Reg) (off : BitVec 9)
  /-- BCC_64 (R280). BCC with a 32-bit offset word. -/
  | bcc64 (f : Bool) (cc : BitVec 3) (b : Reg) (c : Reg) (off : BitVec 32)
  /-- CALL (R280). Branch and write the link to s31. -/
  | call (off : BitVec 24)
  /-- CALL_64 (R280). CALL with a 32-bit offset word. -/
  | call64 (off : BitVec 32)
  /-- CALLR (R280). Call the address in sb. -/
  | callr (b : Reg)
  /-- RET (R280). Return to the address in s31. -/
  | ret
  /-- JR (R280). Jump to the address in sb. -/
  | jr (b : Reg)
  /-- LOOP (R280). Decrement sb and branch while nonzero. -/
  | loop (b : Reg) (off : BitVec 14)
  /-- LOOP_64 (R280). LOOP with a 32-bit offset word. -/
  | loop64 (b : Reg) (off : BitVec 32)
  /-- TRAP (R281). Raise cause 0x18 after the bundle issues. -/
  | trap (imm : BitVec 16)
  /-- SYS (R281). Raise cause 0x17, the call into system software. -/
  | sys (imm : BitVec 16)
  /-- END (R282). The task issues nothing more and ends when its work drains. -/
  | endTask
  /-- SETF (R283). Write fmt from sb, governing from issue + 5. -/
  | setf (b : Reg)
  /-- SETSZ (R283). Write fmt.RND and fmt.SATD. -/
  | setsz (rnd : BitVec 3) (sat : Bool)
  /-- FRAME (R101). Open a schedule frame with FB = issue + k. -/
  | frame (k : BitVec 9)
  /-- BEATSET (R285). Write DBEAT from sb[15:0]. -/
  | beatset (b : Reg)
  /-- BEATSET_64 (R285). Write DBEAT from an immediate tag word. -/
  | beatset64 (tag : BitVec 16)
  /-- BEATNEXT (R53). Add 2 to DBEAT. -/
  | beatnext
  /-- BPLAN (R286). Replace the bay's beat plan from a scratch table at sb. -/
  | bplan (b : Reg)
  /-- BPLAN_64 (R286). BPLAN with the table offset in a payload word. -/
  | bplan64 (off : BitVec 20)
  /-- PHASE (R104). Install a phase set after checking its ranges for overlap. -/
  | phase (b : Reg)
  /-- BAR (R292). Gang barrier with stream markers at scope SC. -/
  | bar (sc : BitVec 3)
  /-- WAITW (R290). Wait until a channel's watermarks pass an address. -/
  | waitw (ch : BitVec 3) (b : Reg)
  /-- WAITL (R151). Wait until a lease is READY. -/
  | waitl (b : Reg)
  /-- WAITC_REG (R289). Wait until no hold lies on a register or row. -/
  | waitcReg (n : BitVec 10)
  /-- WAITC_WORD (R289). Wait until a scratch completion word shows nonzero STATUS. -/
  | waitcWord (b : Reg)
  /-- WAITC_G (R289). Wait until a global completion word read at home shows nonzero STATUS. -/
  | waitcG (b : Reg)
  /-- FENCE (R121). Place markers in the masked stream queues at a scope. -/
  | fence (sc : BitVec 3) (mask : BitVec 16)
  /-- CINV (R294). Drop the core's L1 copies of a range. -/
  | cinv (b : Reg) (c : Reg)
  /-- CINV_LLC (R294). Write back and drop a range from LLC and L1. -/
  | cinvLlc (b : Reg) (c : Reg)
  /-- CWB (R294). Write back dirty LLC lines of a range. -/
  | cwb (b : Reg) (c : Reg)
  /-- ERET (R363). Leave handler mode and resume at TRAPPC. -/
  | eret
  /-- RDSYS (R295). Read a system register. -/
  | rdsys (n : BitVec 9) (d : Reg)
  /-- WRSYS (R295). Write a system register. -/
  | wrsys (n : BitVec 9) (b : Reg)
  /-- CTXSV (R369). Save the trapped task's context image. -/
  | ctxsv (b : Reg)
  /-- CTXLD (R373). Restore a context image onto an empty bay. -/
  | ctxld (b : Reg)
  /-- TLBINV (R348). Invalidate selected translations across the partition. -/
  | tlbinv (b : Reg) (c : Reg)
  /-- FRZ (R370). Freeze the bay's array passes into an image. -/
  | frz (b : Reg)
  /-- LEASE (R147). Request a tack-engine lease and write its handle. -/
  | lease (d : Reg) (b : Reg) (cls : BitVec 3) (prio : BitVec 2)
  /-- UNLEASE (R150). Give up a lease. -/
  | unlease (b : Reg)
  /-- LSTAT (R152). Write a lease's status word. -/
  | lstat (d : Reg) (b : Reg)
  /-- XCPY (R300). Block copy between spaces on a channel. -/
  | xcpy (ch : BitVec 3) (o : EOp)
  /-- XCPY_64 (R300). Stamped XCPY. -/
  | xcpy64 (ch : BitVec 3) (o : EOp) (stamp : BitVec 16)
  /-- XGTH (R163). Gather table rows by queued indices. -/
  | xgth (ch : BitVec 3) (n : BitVec 8) (o : EOp)
  /-- XGTH_64 (R163). Stamped XGTH. -/
  | xgth64 (ch : BitVec 3) (n : BitVec 8) (o : EOp) (stamp : BitVec 16)
  /-- XSCT (R163). Scatter rows to table rows by queued indices. -/
  | xsct (ch : BitVec 3) (n : BitVec 8) (o : EOp)
  /-- XSCT_64 (R163). Stamped XSCT. -/
  | xsct64 (ch : BitVec 3) (n : BitVec 8) (o : EOp) (stamp : BitVec 16)
  /-- XPUSH (R163). Push an index into a channel's address queue. -/
  | xpush (ch : BitVec 3) (b : Reg)
  /-- XRED (R302). Sum indexed table rows into an accumulator row. -/
  | xred (o : EOp)
  /-- XRED_64 (R302). Stamped XRED. -/
  | xred64 (o : EOp) (stamp : BitVec 16)
  /-- XSRT (R303). Stable sort of records. -/
  | xsrt (o : EOp)
  /-- XSRT_64 (R303). Stamped XSRT. -/
  | xsrt64 (o : EOp) (stamp : BitVec 16)
  /-- XMRG (R304). Merge 2 to 16 runs. -/
  | xmrg (o : EOp)
  /-- XMRG_64 (R304). Stamped XMRG. -/
  | xmrg64 (o : EOp) (stamp : BitVec 16)
  /-- XSOLV (R136). Compute the chunk matrix T. -/
  | xsolv (o : EOp)
  /-- XSOLV_64 (R136). Stamped XSOLV. -/
  | xsolv64 (o : EOp) (stamp : BitVec 16)
  /-- XCOLL (R306). Take part in one collective round. -/
  | xcoll (o : EOp)
  /-- XCOLL_64 (R306). Stamped XCOLL. -/
  | xcoll64 (o : EOp) (stamp : BitVec 16)
  /-- XQNT (R307). Requantise a page and swap its entry. -/
  | xqnt (o : EOp)
  /-- XQNT_64 (R307). Stamped XQNT. -/
  | xqnt64 (o : EOp) (stamp : BitVec 16)
  /-- XCMP (R307). Compress or elide a page. -/
  | xcmp (o : EOp)
  /-- XCMP_64 (R307). Stamped XCMP. -/
  | xcmp64 (o : EOp) (stamp : BitVec 16)
  /-- XDCMP (R307). Materialise a page into an ordinary frame. -/
  | xdcmp (o : EOp)
  /-- XDCMP_64 (R307). Stamped XDCMP. -/
  | xdcmp64 (o : EOp) (stamp : BitVec 16)
  /-- XATT (R172). Attention over cached KV blocks for a group of queries. -/
  | xatt (o : EOp)
  /-- XATT_64 (R172). Stamped XATT. -/
  | xatt64 (o : EOp) (stamp : BitVec 16)
  /-- XKVT (R166). Load the KV address generator and frequencies. -/
  | xkvt (o : EOp)
  /-- XKVT_64 (R166). Stamped XKVT. -/
  | xkvt64 (o : EOp) (stamp : BitVec 16)
  /-- XSPLC (R177). Splice a chunk into the block table and open a window record. -/
  | xsplc (o : EOp)
  /-- XSPLC_64 (R177). Stamped XSPLC. -/
  | xsplc64 (o : EOp) (stamp : BitVec 16)
  /-- XSPLC_DONE (R178). Close a splice record. -/
  | xsplcDone (o : EOp)
  /-- XSPLC_DONE_64 (R178). Stamped XSPLC.done. -/
  | xsplcDone64 (o : EOp) (stamp : BitVec 16)
  /-- SPAWN (R308). Hand a child RCB to the region scheduler. -/
  | spawn (o : EOp)
  /-- SPAWN_64 (R308). Stamped SPAWN. -/
  | spawn64 (o : EOp) (stamp : BitVec 16)
  deriving DecidableEq, Repr

end Sys2Proof
end

