-- ==== Sys2Proof/WellFormed.lean ====
section
/-!
DEFINITION. Which operands an instruction may have (spec/10_encoding.md R199 to R211 and the reference entries of
spec/11 to spec/14). `Instr.bad` names, for each reason of R212, whether the operands of the instruction give that
reason; `Instr.wf` says that they give none, and that prefix words can give its prefixes. The reserved bits of the raw words are the decoder's.
-/

namespace Sys2Proof

/-- The encoding faults of one slot word by reason of R212, in the fixed order of R213 step 2. -/
structure Bad where
  /-- 0x0006: a form that the entry does not have. -/
  form : Bool := false
  /-- 0x0002: a function, TYPE, VAR, condition, operation or register value that the entry does not assign. -/
  func : Bool := false
  /-- 0x0004: a tile register number above 15. -/
  tile : Bool := false
  /-- 0x0003: a nonzero reserved bit. -/
  rsv : Bool := false
  /-- 0x000C: ACQ or REL where R208 forbids it. -/
  mark : Bool := false
  /-- 0x0007: a prefix that the slot word does not accept. -/
  pfx : Bool := false
  /-- 0x0005: a beat tag of the wrong parity. -/
  parity : Bool := false
  deriving DecidableEq, Repr

/-- The first reason in the order of R213 step 2, or none. -/
def Bad.first (x : Bad) : Option Nat :=
  if x.form then some 0x0006 else if x.func then some 0x0002 else if x.tile then some 0x0004
  else if x.rsv then some 0x0003 else if x.mark then some 0x000C else if x.pfx then some 0x0007
  else if x.parity then some 0x0005 else none

/-- Two findings taken together. -/
def Bad.or (x y : Bad) : Bad where
  form := x.form || y.form
  func := x.func || y.func
  tile := x.tile || y.tile
  rsv := x.rsv || y.rsv
  mark := x.mark || y.mark
  pfx := x.pfx || y.pfx
  parity := x.parity || y.parity

/-- The operations of the V and F slots (R206, R207). -/
inductive VKind where
  | tadd | tsub | tmul | tfma | tfms | tmin | tmax | tabs | tneg | tand | tor | txor | tshl | tshr | tshra
  | tcmp | tsel | tcvt | tqnt | tdq | tred | tscan | tbcst | tins | text | tperm | ttrn | tzero | tmov | tshf
  | fexp2 | flog2 | frcp | frsq | fsqrt | fdivt | ftanh | fsigm | fsin | fcos | fexpq | frand
  deriving DecidableEq, Repr

/-- The type sets of R230, as predicates on the format codes of R25. -/
def isFE (t : Nat) : Bool := 8 ≤ t && t ≤ 13
def isFS (t : Nat) : Bool := 8 ≤ t && t ≤ 10
def isIN (t : Nat) : Bool := t ≤ 6 && t != 3
def isANY (t : Nat) : Bool := isFE t || isIN t
def isW8 (t : Nat) : Bool := isANY t && t != 13
def isMX (t : Nat) : Bool := 14 ≤ t && t ≤ 16
def isNBF (t : Nat) : Bool := 18 ≤ t && t ≤ 24
def isBLK (t : Nat) : Bool := isMX t || isNBF t

/-- A format code that R25 lists. -/
def fmtListed (t : Nat) : Bool := t ≤ 16 || isNBF t

/-- The width in bits of an element of a scalar format code (R25, R230). -/
def fmtWidth (t : Nat) : Nat :=
  if t = 0 then 8 else if t = 1 then 16 else if t = 2 then 32 else if t = 3 then 64
  else if t = 4 then 8 else if t = 5 then 16 else if t = 6 then 32 else if t = 7 then 64
  else if t = 8 then 32 else if t = 9 then 16 else if t = 10 then 16 else if t = 11 then 8 else if t = 12 then 8
  else if t = 13 then 4 else if t = 14 then 8 else if t = 15 then 8 else if t = 16 then 4 else t - 16

/-- Elements of a format in one 128-byte row (R230). -/
def rowElems (t : Nat) : Nat := 1024 / fmtWidth t

/-- Element bytes of one quantised source row (R241). -/
def blkBytes (t : Nat) : Nat := if t = 16 then 16 else if isMX t then 32 else 4 * (t - 16)

/-- The limit of the part p of TQNT and TDQ (R241). -/
def blkParts (t : Nat) : Nat :=
  if t = 16 then 8 else if isMX t then 4 else min 8 (32 / (t - 16))

/-- What field c of a V or F word names. -/
inductive CRole where
  | zero | tile | scalar | imm
  deriving DecidableEq, Repr

/-- Whether the operation is one of the F slot. -/
def VKind.isF : VKind → Bool
  | .fexp2 | .flog2 | .frcp | .frsq | .fsqrt | .fdivt | .ftanh | .fsigm | .fsin | .fcos | .fexpq | .frand => true
  | _ => false

/-- The opcode of R206 and R207. -/
def VKind.op : VKind → Nat
  | .tadd => 0x01 | .tsub => 0x02 | .tmul => 0x03 | .tfma => 0x04 | .tfms => 0x05 | .tmin => 0x06 | .tmax => 0x07
  | .tabs => 0x08 | .tneg => 0x09 | .tand => 0x0A | .tor => 0x0B | .txor => 0x0C | .tshl => 0x0D | .tshr => 0x0E
  | .tshra => 0x0F | .tcmp => 0x10 | .tsel => 0x11 | .tcvt => 0x12 | .tqnt => 0x13 | .tdq => 0x14 | .tred => 0x15
  | .tscan => 0x16 | .tbcst => 0x17 | .tins => 0x18 | .text => 0x19 | .tperm => 0x1A | .ttrn => 0x1B
  | .tzero => 0x1C | .tmov => 0x1D | .tshf => 0x1E
  | .fexp2 => 0x01 | .flog2 => 0x02 | .frcp => 0x03 | .frsq => 0x04 | .fsqrt => 0x05 | .fdivt => 0x06
  | .ftanh => 0x07 | .fsigm => 0x08 | .fsin => 0x09 | .fcos => 0x0A | .fexpq => 0x0B | .frand => 0x0C

/-- Whether the .t form is a 64-bit word, because it needs F2 or TD (R200). -/
def VKind.wideT : VKind → Bool
  | .tfma | .tfms | .tsel | .tcvt | .tqnt | .tdq => true
  | _ => false

/-- Whether the operation has the fourth tile operand TD (R200). -/
def VKind.hasTd : VKind → Bool
  | .tfma | .tfms | .tsel => true
  | _ => false

/-- Whether the operation has the second format F2 (R200). -/
def VKind.hasF2 : VKind → Bool
  | .tcvt | .tqnt | .tdq => true
  | _ => false

/-- Whether field b names a source tile (R234, R250). -/
def VKind.hasB (k : VKind) (var : Nat) : Bool :=
  match k with
  | .tins | .tzero | .frand => false
  | .tbcst => !bit var 0
  | _ => true

/-- The role of field c (R234, R250). -/
def VKind.cRole (k : VKind) (var : Nat) : CRole :=
  match k with
  | .tadd | .tsub | .tmul | .tfma | .tfms | .tmin | .tmax | .tand | .tor | .txor =>
    if bit var 0 then .scalar else .tile
  | .tshl | .tshr | .tshra => if bit var 0 then .imm else .tile
  | .tcmp | .tsel | .tdq | .tperm | .fdivt => .tile
  | .tred | .text => .imm
  | .tbcst => if bit var 0 then .scalar else .imm
  | .tins => .scalar
  | .tshf => if bit var 2 then .scalar else .imm
  | _ => .zero

/-- The TYPE codes of the entry (R234, R250). -/
def VKind.tyOk (k : VKind) (t : Nat) : Bool :=
  match k with
  | .tadd | .tsub | .tmul | .tmin | .tmax | .tabs | .tneg | .tcmp | .tsel | .tcvt | .tred | .tscan => isANY t
  | .tfma | .tfms => isFE t
  | .tand | .tor | .txor | .tshl | .tshr | .tshra => isIN t
  | .tqnt | .fexpq => t == 8
  | .tdq => isBLK t
  | .tbcst | .tins | .text | .tperm | .ttrn | .tshf => isW8 t
  | .tzero | .tmov => t == 0
  | .frand => t == 5 || t == 6 || t == 8 || t == 10
  | _ => isFS t

/-- The part ratio q of TCVT (R240). -/
def cvtRatio (s d : Nat) : Nat := max (fmtWidth s) (fmtWidth d) / min (fmtWidth s) (fmtWidth d)

/-- The VAR codes of the entry, with the index limits of R240, R241 and R245 (R234, R250). -/
def VKind.varOk (k : VKind) (t var c f2 : Nat) : Bool :=
  match k with
  | .tadd | .tsub | .tmul | .tfma | .tfms | .tmin | .tmax | .tand | .tor | .txor | .tshl | .tshr | .tshra => var < 2
  | .tcmp | .tshf => true
  | .tcvt => var < cvtRatio t f2
  | .tqnt => var < blkParts f2
  | .tdq => var < blkParts t
  | .tbcst => if bit var 0 then var == 1 else c + 32 * (var / 2) < rowElems t
  | .text => !bit var 0 && c + 32 * (var / 2) < rowElems t
  | .fexpq => var < 4
  | _ => var == 0

/-- The F2 codes of the entry (R234). -/
def VKind.f2Ok (k : VKind) (f : Nat) : Bool :=
  match k with
  | .tcvt => isANY f
  | .tqnt => isBLK f
  | .tdq => f == 8
  | _ => true

/-- The prefixes that the entry accepts (R232, R234, R250): rounding, saturation, random sequence. -/
def VKind.pfxOk (k : VKind) (t : Nat) : Bool × Bool × Bool :=
  match k with
  | .tadd | .tsub | .tmul | .tred | .tscan => (isFE t, true, isFE t)
  | .tfma | .tfms | .tcvt | .tdq => (true, true, true)
  | .tabs | .tneg => (false, isIN t, false)
  | .tshl => (false, true, false)
  | .tqnt => (true, false, true)
  | .fexpq => (false, true, false)
  | .frand => (false, false, true)
  | .fexp2 | .flog2 | .frcp | .frsq | .fsqrt | .fdivt | .ftanh | .fsigm | .fsin | .fcos => (true, true, true)
  | _ => (false, false, false)

/-- A prefix set that holds only rounding, saturation and random prefixes that are accepted. -/
def Pfx.onlyMath (p : Pfx) (round sat rand : Bool) : Bool :=
  (p.round.isNone || round) && (p.sat.isNone || sat) && (p.rand.isNone || rand)
    && p.stream.isNone && p.fmt1.isNone && p.fmt2.isNone && p.beat.isNone

/-- A prefix set that holds at most pfx.stream. -/
def Pfx.onlyStream (p : Pfx) : Bool :=
  p.round.isNone && p.sat.isNone && p.rand.isNone && p.fmt1.isNone && p.fmt2.isNone && p.beat.isNone

/-- A prefix set that holds at most pfx.beat, and pfx.fmt where it is accepted. -/
def Pfx.onlyArray (p : Pfx) (fmt beat : Bool) : Bool :=
  p.round.isNone && p.sat.isNone && p.rand.isNone && p.stream.isNone
    && ((p.fmt1.isNone && p.fmt2.isNone) || fmt) && (p.beat.isNone || beat)

/-- The findings of a V or F word (R199, R200, R231, R234, R250). -/
def VKind.bad (k : VKind) (t : Bool) (o : VOp) (r : VRow) : Bad :=
  let ty := o.ty.toNat
  let var := o.var.toNat
  let role := k.cRole var
  let ok := k.pfxOk ty
  { func := !(k.tyOk ty && k.f2Ok r.f2.toNat && k.varOk ty var o.c.toNat r.f2.toNat) || (k == .tins && t)
    tile := 15 < o.a.toNat || (k.hasB var && 15 < o.b.toNat) || (role == .tile && 15 < o.c.toNat)
      || (k == .tqnt && o.a.toNat == 15)
    rsv := (!k.hasB var && o.b != 0) || (role == .zero && o.c != 0)
      || (!k.hasF2 && r.f2 != 0) || (!k.hasTd && (r.td != 0 || r.rd != 0)) || (role != .tile && r.rc != 0) || (!k.hasB var && r.rb != 0)
      || (t && (r.ra != 0 || r.rb != 0 || r.rc != 0 || r.rd != 0))
    pfx := !o.p.onlyMath ok.1 ok.2.1 ok.2.2 }

/-- The row word of a 32-bit form: every field zero. -/
def VRow.zero : VRow := ⟨0, 0, 0, 0, 0, 0⟩

/-- The numbers that RDS and WRS may name (R84). -/
def specialListed (n : Nat) : Bool := n ≤ 0x008 || (0x010 ≤ n && n ≤ 0x018) || (0x020 ≤ n && n ≤ 0x027)

/-- The numbers that RDSYS and WRSYS may name (R368). -/
def systemListed (n : Nat) : Bool :=
  specialListed n || (0x100 ≤ n && n ≤ 0x10A) || n == 0x120 || n == 0x121 || n == 0x130 || n == 0x131
    || (0x140 ≤ n && n ≤ 0x144)

/-- Findings of a layout A word (R256, R257). -/
def MemA.bad (m : MemA) (store : Bool) : Bad where
  func := 4 < m.size.toNat || (m.size.toNat == 4 && bit m.a.toNat 0)
  rsv := m.sx && (store || 3 ≤ m.size.toNat)

/-- Findings of a layout B word (R256). -/
def MemB.bad (m : MemB) : Bad where
  tile := 15 < m.a.toNat
  rsv := m.t && m.row != 0

/-- Findings of a layout C word (R256). -/
def MemC.bad (m : MemC) : Bad where
  tile := 15 < m.a.toNat || 15 < m.x.toNat
  rsv := m.t && m.row != 0

/-- Findings of ATOM.op (R208, R256, R264). -/
def AtomOp.bad (o : AtomOp) : Bad where
  func := !(o.size.toNat == 2 || o.size.toNat == 3) || 10 < o.op.toNat || (o.op.toNat == 1 && o.size.toNat == 3)

/-- Findings of AMAC (R267). -/
def AmacOp.bad (o : AmacOp) : Bad where
  func := 31 < o.row.toNat + o.nm1.toNat || o.g.toNat == 3 || (o.nm1.toNat + 1) % 2 ^ o.g.toNat != 0 || o.sp == 0

/-- Findings of AOP (R209, R272). -/
def AopOp.bad (o : AopOp) : Bad where
  func := o.op.toNat == 7 || (o.op.toNat == 2 && 15 < o.c.toNat)
  rsv := (o.op.toNat == 6 && o.b != 0) || (o.op.toNat == 5 && o.c != 0)

/-- Findings of ASUM (R273). -/
def AsumOp.bad (o : AsumOp) : Bad where
  func := 1 < o.ty.toNat
  rsv := o.hi && o.ty.toNat == 0

/-- Findings of TMMA (R274). -/
def TmmaOp.bad (o : TmmaOp) : Bad where
  func := !(o.ty.toNat == 8 || o.ty.toNat == 10)
  tile := 15 < o.a.toNat || 15 < o.b.toNat || 15 < o.c.toNat

/-- Findings of CRESP (which = 0), COPA (1) and COPA.C (2) (R275). -/
def CorrOp.bad (o : CorrOp) (which : Nat) : Bad where
  func := o.sp == 0
  tile := which == 1 && o.e && o.tq.toNat == 15
  rsv := (which == 0 && (o.e || o.bn != 0)) || (which == 2 && o.e)

/-- Findings of CCHK (R276). -/
def CchkOp.bad (o : CchkOp) : Bad where
  func := o.sp == 0
  rsv := !o.e && (o.nm1 != 0 || o.re != 0 || o.te != 0)

/-- Findings of an engine command on a lease or channel (R203, R296). -/
def EOp.bad (o : EOp) : Bad where
  pfx := !o.p.onlyStream

/-- Findings of XCPY, XGTH and XSCT: the register triple (R296). -/
def EOp.badTriple (o : EOp) : Bad :=
  { o.bad with func := o.b.toNat == 0 || 29 < o.b.toNat, rsv := o.a != 0 }

/-- The beat tag of a 64-bit word has the parity of the kind: 1 for compute, 0 for access (R51). -/
def badTag (odd : Bool) (tag : BitVec 16) : Bad where
  parity := bit tag.toNat 0 != odd

/-- A V or F instruction taken apart: its operation, whether it is the .t form, and its operands. -/
def Instr.vec : Instr → Option (VKind × Bool × VOp × VRow)
  | .taddT o => some (.tadd, true, o, .zero) | .taddR o r => some (.tadd, false, o, r)
  | .tsubT o => some (.tsub, true, o, .zero) | .tsubR o r => some (.tsub, false, o, r)
  | .tmulT o => some (.tmul, true, o, .zero) | .tmulR o r => some (.tmul, false, o, r)
  | .tfmaT o r => some (.tfma, true, o, r) | .tfmaR o r => some (.tfma, false, o, r)
  | .tfmsT o r => some (.tfms, true, o, r) | .tfmsR o r => some (.tfms, false, o, r)
  | .tminT o => some (.tmin, true, o, .zero) | .tminR o r => some (.tmin, false, o, r)
  | .tmaxT o => some (.tmax, true, o, .zero) | .tmaxR o r => some (.tmax, false, o, r)
  | .tabsT o => some (.tabs, true, o, .zero) | .tabsR o r => some (.tabs, false, o, r)
  | .tnegT o => some (.tneg, true, o, .zero) | .tnegR o r => some (.tneg, false, o, r)
  | .tandT o => some (.tand, true, o, .zero) | .tandR o r => some (.tand, false, o, r)
  | .torT o => some (.tor, true, o, .zero) | .torR o r => some (.tor, false, o, r)
  | .txorT o => some (.txor, true, o, .zero) | .txorR o r => some (.txor, false, o, r)
  | .tshlT o => some (.tshl, true, o, .zero) | .tshlR o r => some (.tshl, false, o, r)
  | .tshrT o => some (.tshr, true, o, .zero) | .tshrR o r => some (.tshr, false, o, r)
  | .tshraT o => some (.tshra, true, o, .zero) | .tshraR o r => some (.tshra, false, o, r)
  | .tcmpT o => some (.tcmp, true, o, .zero) | .tcmpR o r => some (.tcmp, false, o, r)
  | .tselT o r => some (.tsel, true, o, r) | .tselR o r => some (.tsel, false, o, r)
  | .tcvtT o r => some (.tcvt, true, o, r) | .tcvtR o r => some (.tcvt, false, o, r)
  | .tqntT o r => some (.tqnt, true, o, r) | .tqntR o r => some (.tqnt, false, o, r)
  | .tdqT o r => some (.tdq, true, o, r) | .tdqR o r => some (.tdq, false, o, r)
  | .tredT o => some (.tred, true, o, .zero) | .tredR o r => some (.tred, false, o, r)
  | .tscanT o => some (.tscan, true, o, .zero) | .tscanR o r => some (.tscan, false, o, r)
  | .tbcstT o => some (.tbcst, true, o, .zero) | .tbcstR o r => some (.tbcst, false, o, r)
  | .tinsR o r => some (.tins, false, o, r)
  | .textT o => some (.text, true, o, .zero) | .textR o r => some (.text, false, o, r)
  | .tpermT o => some (.tperm, true, o, .zero) | .tpermR o r => some (.tperm, false, o, r)
  | .ttrnT o => some (.ttrn, true, o, .zero) | .ttrnR o r => some (.ttrn, false, o, r)
  | .tzeroT o => some (.tzero, true, o, .zero) | .tzeroR o r => some (.tzero, false, o, r)
  | .tmovT o => some (.tmov, true, o, .zero) | .tmovR o r => some (.tmov, false, o, r)
  | .tshfT o => some (.tshf, true, o, .zero) | .tshfR o r => some (.tshf, false, o, r)
  | .fexp2T o => some (.fexp2, true, o, .zero) | .fexp2R o r => some (.fexp2, false, o, r)
  | .flog2T o => some (.flog2, true, o, .zero) | .flog2R o r => some (.flog2, false, o, r)
  | .frcpT o => some (.frcp, true, o, .zero) | .frcpR o r => some (.frcp, false, o, r)
  | .frsqT o => some (.frsq, true, o, .zero) | .frsqR o r => some (.frsq, false, o, r)
  | .fsqrtT o => some (.fsqrt, true, o, .zero) | .fsqrtR o r => some (.fsqrt, false, o, r)
  | .fdivtT o => some (.fdivt, true, o, .zero) | .fdivtR o r => some (.fdivt, false, o, r)
  | .ftanhT o => some (.ftanh, true, o, .zero) | .ftanhR o r => some (.ftanh, false, o, r)
  | .fsigmT o => some (.fsigm, true, o, .zero) | .fsigmR o r => some (.fsigm, false, o, r)
  | .fsinT o => some (.fsin, true, o, .zero) | .fsinR o r => some (.fsin, false, o, r)
  | .fcosT o => some (.fcos, true, o, .zero) | .fcosR o r => some (.fcos, false, o, r)
  | .fexpqT o => some (.fexpq, true, o, .zero) | .fexpqR o r => some (.fexpq, false, o, r)
  | .frandT o => some (.frand, true, o, .zero) | .frandR o r => some (.frand, false, o, r)
  | _ => none

/-- The findings of an instruction's operands (R212). A step of the machine that is no slot instruction has none. -/
def Instr.bad (i : Instr) : Bad :=
  match i.vec with
  | some (k, t, o, r) => k.bad t o r
  | none =>
    match i with
    | .shli _ _ n | .shrli _ _ n | .shrai _ _ n => { func := 63 < n.toNat }
    | .shli64 _ _ n | .shrli64 _ _ n | .shrai64 _ _ n => { func := 63 < n.toNat }
    | .fadd _ _ _ p | .fsub _ _ _ p | .fmul _ _ _ p | .ffma _ _ _ _ p => { pfx := !p.onlyMath true true true }
    | .fcvt d s _ _ p => { func := 13 < d.toNat || 13 < s.toNat, pfx := !p.onlyMath true true true }
    | .fclass f _ _ => { func := !isFE f.toNat }
    | .rds n _ | .wrs n _ => { func := !specialListed n.toNat }
    | .rdsys n _ | .wrsys n _ => { func := !systemListed n.toNat }
    | .ld m _ | .ld64 m _ => m.bad false
    | .st m _ p | .st64 m _ p => { m.bad true with pfx := !p.onlyStream }
    | .ldg _ m _ p | .ldg64 _ m _ p => { m.bad false with pfx := !p.onlyStream }
    | .stg _ m _ p | .stg64 _ m _ p => { m.bad true with pfx := !p.onlyStream }
    | .ldt m _ | .ldt64 m _ => m.bad
    | .stt m _ p | .stt64 m _ p => { m.bad with pfx := !p.onlyStream }
    | .ldb _ m _ p | .stb _ m _ p => { m.bad with pfx := !p.onlyArray false true }
    | .ldb64 _ m _ tag | .stb64 _ m _ tag => (m.bad).or (badTag false tag)
    | .ldx m _ => m.bad
    | .stx m _ p => { m.bad with pfx := !p.onlyStream }
    | .atom o _ p => { o.bad with pfx := !p.onlyStream }
    | .amac o p => { o.bad with pfx := !p.onlyArray true true }
    | .amac64 o p x => ({ o.bad with pfx := !p.onlyArray true false } : Bad).or (badTag true x.tag)
    | .azero _ _ p | .adrain _ _ p | .awrite _ _ p | .aswap _ p => { pfx := !p.onlyArray false true }
    | .azero64 _ _ x | .adrain64 _ _ x => badTag true x.tag
    | .awrite64 _ _ x | .aswap64 _ x => badTag false x.tag
    | .aop o p => { o.bad with pfx := !p.onlyArray false true }
    | .aop64 o x => o.bad.or (badTag true x.tag)
    | .asum o p => { o.bad with pfx := !p.onlyArray false true }
    | .asum64 o x => o.bad.or (badTag true x.tag)
    | .tmma o | .tmma64 o _ => o.bad
    | .cresp o p => { o.bad 0 with pfx := !p.onlyArray false true }
    | .cresp64 o x => (o.bad 0).or (badTag true x.tag)
    | .copa o p => { o.bad 1 with pfx := !p.onlyArray false true }
    | .copa64 o x => (o.bad 1).or (badTag true x.tag)
    | .copaC o p => { o.bad 2 with pfx := !p.onlyArray false true }
    | .copaC64 o x => (o.bad 2).or (badTag true x.tag)
    | .cchk o p => { o.bad with pfx := !p.onlyArray false true }
    | .cchk64 o x => o.bad.or (badTag true x.tag)
    | .csnapSv _ _ p | .csnapLd _ _ p => { pfx := !p.onlyArray false true }
    | .csnapSv64 _ _ x | .csnapLd64 _ _ x => badTag true x.tag
    | .setsz r _ => { func := 4 < r.toNat }
    | .bar sc | .fence sc _ => { func := 4 < sc.toNat }
    | .waitcReg n => { func := n == 0 || 547 < n.toNat }
    | .lease _ _ c _ => { func := c.toNat == 7 }
    | .xcpy _ o | .xcpy64 _ o _ | .xgth _ _ o | .xgth64 _ _ o _ | .xsct _ _ o | .xsct64 _ _ o _ => o.badTriple
    | .xred o | .xred64 o _ | .xsrt o | .xsrt64 o _ | .xmrg o | .xmrg64 o _ | .xsolv o | .xsolv64 o _
    | .xcoll o | .xcoll64 o _ | .xqnt o | .xqnt64 o _ | .xcmp o | .xcmp64 o _ | .xdcmp o | .xdcmp64 o _
    | .xatt o | .xatt64 o _ | .xkvt o | .xkvt64 o _ | .xsplc o | .xsplc64 o _ | .xsplcDone o
    | .xsplcDone64 o _ => o.bad
    | .spawn o | .spawn64 o _ => { o.bad with rsv := o.acq || o.rel || o.a != 0 }
    | _ => { }

/-- The prefixes that an instruction carries. -/
def Instr.pfx (i : Instr) : Pfx :=
  match i.vec with
  | some (_, _, o, _) => o.p
  | none =>
    match i with
    | .fadd _ _ _ p | .fsub _ _ _ p | .fmul _ _ _ p | .ffma _ _ _ _ p | .fcvt _ _ _ _ p | .st _ _ p | .st64 _ _ p
    | .ldg _ _ _ p | .ldg64 _ _ _ p | .stg _ _ _ p | .stg64 _ _ _ p | .stt _ _ p | .stt64 _ _ p | .ldb _ _ _ p
    | .stb _ _ _ p | .stx _ _ p | .atom _ _ p | .amac _ p | .amac64 _ p _ | .azero _ _ p | .adrain _ _ p
    | .aswap _ p | .awrite _ _ p | .aop _ p | .asum _ p | .cresp _ p | .copa _ p | .copaC _ p | .cchk _ p
    | .csnapSv _ _ p | .csnapLd _ _ p => p
    | .xcpy _ o | .xcpy64 _ o _ | .xgth _ _ o | .xgth64 _ _ o _ | .xsct _ _ o | .xsct64 _ _ o _ | .xred o
    | .xred64 o _ | .xsrt o | .xsrt64 o _ | .xmrg o | .xmrg64 o _ | .xsolv o | .xsolv64 o _ | .xcoll o
    | .xcoll64 o _ | .xqnt o | .xqnt64 o _ | .xcmp o | .xcmp64 o _ | .xdcmp o | .xdcmp64 o _ | .xatt o
    | .xatt64 o _ | .xkvt o | .xkvt64 o _ | .xsplc o | .xsplc64 o _ | .xsplcDone o | .xsplcDone64 o _
    | .spawn o | .spawn64 o _ => o.p
    | _ => .empty

/-- How many prefix words a prefix set takes (R201). -/
def Pfx.count (p : Pfx) : Nat :=
  p.round.isSome.toNat + p.sat.isSome.toNat + p.stream.isSome.toNat + (p.fmt1.isSome || p.fmt2.isSome).toNat
    + p.beat.isSome.toNat + p.rand.isSome.toNat

/-- A prefix set that words can give: listed codes (R201), and at most two words (R202). (DEDUCED, log entry 133.) -/
def Pfx.ok (p : Pfx) : Bool :=
  p.round.all (fun m => decide (m.toNat ≤ 4)) && p.stream.all (fun x => decide (x.2.toNat ≤ 4))
    && p.fmt1.all (fun f => fmtListed f.toNat) && p.fmt2.all (fun f => fmtListed f.toNat) && decide (p.count ≤ 2)

/-- An instruction whose operands and prefixes the encoding admits. -/
def Instr.wf (i : Instr) : Bool := i.bad.first.isNone && i.pfx.ok

end Sys2Proof
end

