-- ==== Sys2Proof/Machine/Num.lean ====
section
/-!
DEFINITION. Number formats and exact arithmetic (spec/02_numbers.md R25 to R43, R401): decoding, the one rounding of
R33 to R35, exact sums and products, conversions, and the random sequence of spec/04_tile_core.md R106.
-/

namespace Sys2Proof.Machine

/-! ## Flags -/

/-- Flags as they stand in STAT (R85). -/
abbrev Flags := BitVec 64

def fInvalid : Flags := 0x01
def fOverflow : Flags := 0x02
def fUnderflow : Flags := 0x04
def fInexact : Flags := 0x08
def fDivzero : Flags := 0x10
def fLate : Flags := 0x20
def fTaint : Flags := 0x40

/-! ## Formats -/

/-- A floating-point layout (R28, R31). -/
structure FloatFmt where
  exp : Nat
  man : Nat
  bias : Nat
  deriving DecidableEq, Repr

/-- The layout of a format code of R25; FP32 for a code that names no scalar floating-point format. -/
def floatFmt (f : Nat) : FloatFmt :=
  match f with
  | 9 => ⟨5, 10, 15⟩
  | 10 => ⟨8, 7, 127⟩
  | 11 => ⟨4, 3, 7⟩
  | 12 => ⟨5, 2, 15⟩
  | 13 => ⟨2, 1, 1⟩
  | _ => ⟨8, 23, 127⟩

/-- The least exponent of a normal number. -/
def FloatFmt.emin (f : FloatFmt) : Int := 1 - (f.bias : Int)

/-- The largest finite magnitude as its bit pattern (R28, R31). -/
def maxFinite (f : Nat) : Nat :=
  match f with
  | 9 => 0x7BFF | 10 => 0x7F7F | 11 => 0x7E | 12 => 0x7B | 13 => 0x7 | _ => 0x7F7FFFFF

/-- The pattern of +∞, or none (R31). -/
def infPattern (f : Nat) : Option Nat :=
  match f with
  | 9 => some 0x7C00 | 10 => some 0x7F80 | 11 => none | 12 => some 0x7C | 13 => none | _ => some 0x7F800000

/-- The canonical NaN (R28, R31); E2M1 has none, and a NaN converts to 0 there (R401). -/
def canonNaN (f : Nat) : Nat :=
  match f with
  | 9 => 0x7E00 | 10 => 0x7FC0 | 11 => 0x7F | 12 => 0x7E | 13 => 0 | _ => 0x7FC00000

/-- The sign bit of a format. -/
def signBit (f : Nat) : Nat := 2 ^ (fmtWidth f - 1)

/-- A floating-point value: a NaN (signalling or not), an infinity, or ±m × 2^e. -/
inductive FV where
  | nan (sig : Bool)
  | inf (neg : Bool)
  | fin (neg : Bool) (m : Nat) (e : Int)
  deriving DecidableEq, Repr

/-- The value of a pattern (R28, R30, R31). -/
def decodeF (f w : Nat) : FV :=
  let L := floatFmt f
  let neg := bit w (L.exp + L.man)
  let ex := bits w (L.exp + L.man - 1) L.man
  let fr := w % 2 ^ L.man
  if f = 11 then
    if ex = 15 ∧ fr = 7 then .nan false
    else if ex = 0 then .fin neg fr (L.emin - 3) else .fin neg (8 + fr) ((ex : Int) - L.bias - 3)
  else if f = 13 then
    if ex = 0 then .fin neg fr (L.emin - 1) else .fin neg (2 + fr) ((ex : Int) - L.bias - 1)
  else if ex = 2 ^ L.exp - 1 then
    if fr = 0 then .inf neg else .nan (f != 12 && !bit fr (L.man - 1))
  else if ex = 0 then .fin neg fr (L.emin - L.man)
  else .fin neg (2 ^ L.man + fr) ((ex : Int) - L.bias - L.man)

/-! ## Rounding -/

/-- Whether m × 2^e < m' × 2^e'. -/
def magLt (m : Nat) (e : Int) (m' : Nat) (e' : Int) : Bool :=
  if e ≤ e' then m < m' * 2 ^ (e' - e).toNat else m * 2 ^ (e - e').toNat < m'

/-- A magnitude (m + δ) × 2^e with 0 ≤ δ < 1, δ = 0 unless `sticky`, rounded to a whole multiple of 2^q by the mode of R33
(0 RN, 1 RZ, 2 RU, 3 RD, 4 RS with draw u, R34): the multiple, and whether it differs. -/
def roundMag (mode u : Nat) (neg : Bool) (m : Nat) (e : Int) (sticky : Bool) (q : Int) : Nat × Bool :=
  if q ≤ e then (m * 2 ^ (e - q).toNat, false)
  else
    let s := (q - e).toNat
    let lo := m >>> s
    let rem := m % 2 ^ s
    let inexact := rem != 0 || sticky
    let up := match mode with
      | 0 => decide (2 ^ s < 2 * rem) || (2 * rem == 2 ^ s && (sticky || lo % 2 == 1))
      | 1 => false
      | 2 => inexact && !neg
      | 3 => inexact && neg
      | _ =>
        if neg then
          inexact && decide (2 ^ 16 - ((rem * 2 ^ 16 + (if sticky then 1 else 0) + 2 ^ s - 1) >>> s) ≤ u)
        else decide (u < (rem * 2 ^ 16) >>> s)
    (if up then lo + 1 else lo, inexact)

/-- The pattern of a multiple r of 2^q whose magnitude is at most the largest finite one, without its sign. -/
def packMag (L : FloatFmt) (r : Nat) (q : Int) : Nat :=
  if r < 2 ^ L.man then r
  else if r < 2 ^ (L.man + 1) then (q + L.man + L.bias).toNat * 2 ^ L.man + (r - 2 ^ L.man)
  else (q + 1 + L.man + L.bias).toNat * 2 ^ L.man + (r / 2 - 2 ^ L.man)

/-- What an overflow yields (R35). -/
def overflowPattern (f mode : Nat) (sat neg : Bool) : Nat :=
  let s := if neg then signBit f else 0
  let mx := maxFinite f
  if f = 13 || sat then s + mx
  else match infPattern f with
    | none => s + canonNaN f
    | some i => match mode with
      | 1 => s + mx
      | 2 => if neg then s + mx else i
      | 3 => if neg then s + i else mx
      | _ => s + i

/-- RoundMode of R33 with the flags of R33 and R35: an exact nonnegative magnitude with its sign to format f. Into E2M1, the
magnitude 0.75 that rounds to 1 sets INEXACT alone (the row of R226). (DEDUCED, log entry 15.) -/
def roundF (f mode : Nat) (sat : Bool) (u : Nat) (neg : Bool) (m : Nat) (e : Int) (sticky : Bool) : Nat × Flags :=
  let s := if neg then signBit f else 0
  if m = 0 then (s, 0)
  else
    let L := floatFmt f
    let qU : Int := (Nat.log2 m : Int) + e - L.man
    let (rU, ixU) := roundMag mode u neg m e sticky qU
    let big := match decodeF f (maxFinite f) with
      | .fin _ mm me => magLt mm me rU qU
      | _ => false
    if big then (overflowPattern f mode sat neg, fOverflow ||| fInexact)
    else
      let q := max qU (L.emin - L.man)
      let (r, ix) := roundMag mode u neg m e sticky q
      let row := f = 13 ∧ !ixU ∧ rU = 3 ∧ qU = -2 ∧ r = 2
      let tiny := magLt rU qU 1 L.emin && !decide row
      (s + packMag L r q, (if ix then fInexact else 0) ||| (if ix && tiny then fUnderflow else 0))

/-- Rounding environment of one instruction: mode of R33 and saturation of R35. -/
structure Rnd where
  mode : Nat
  sat : Bool
  deriving DecidableEq, Repr

/-- A value into format f (R33 to R35, R43, R401). -/
def roundFV (f : Nat) (r : Rnd) (u : Nat) (v : FV) : Nat × Flags :=
  match v with
  | .nan sig => (canonNaN f, if sig || f == 13 then fInvalid else 0)
  | .inf neg =>
    match infPattern f with
    | some i => ((if neg then signBit f else 0) + i, 0)
    | none => (overflowPattern f 0 r.sat neg, fOverflow ||| fInexact)
  | .fin neg m e => roundF f r.mode r.sat u neg m e false

/-! ## Exact operations -/

def FV.isNaN : FV → Bool
  | .nan _ => true
  | _ => false

def FV.isSig : FV → Bool
  | .nan s => s
  | _ => false

def FV.isZero : FV → Bool
  | .fin _ m _ => m == 0
  | _ => false

def FV.neg : FV → FV
  | .nan s => .nan s
  | .inf n => .inf (!n)
  | .fin n m e => .fin (!n) m e

/-- A signed whole multiple of 2^e as a value; a zero takes the sign given. -/
def FV.ofInt (x : Int) (e : Int) (zeroNeg : Bool) : FV :=
  if x = 0 then .fin zeroNeg 0 0 else .fin (decide (x < 0)) x.natAbs e

/-- ±m × 2^e as a multiple of 2^q, for q ≤ e. -/
def scaled (neg : Bool) (m : Nat) (e q : Int) : Int :=
  let v : Int := (m * 2 ^ (e - q).toNat : Nat)
  if neg then -v else v

/-- The exact sum, with the sign of a zero sum by R33, and INVALID by R30. -/
def addFV (mode : Nat) (a b : FV) : FV × Flags :=
  let sig : Flags := if a.isSig || b.isSig then fInvalid else 0
  match a, b with
  | .nan _, _ | _, .nan _ => (.nan false, sig)
  | .inf n, .inf n' => if n = n' then (.inf n, 0) else (.nan false, fInvalid)
  | .inf n, _ => (.inf n, 0)
  | _, .inf n => (.inf n, 0)
  | .fin n m e, .fin n' m' e' =>
    let q := min e e'
    let z := if m = 0 ∧ m' = 0 ∧ n = n' then n else mode == 3
    (FV.ofInt (scaled n m e q + scaled n' m' e' q) q z, 0)

/-- The exact product. -/
def mulFV (a b : FV) : FV × Flags :=
  let sig : Flags := if a.isSig || b.isSig then fInvalid else 0
  match a, b with
  | .nan _, _ | _, .nan _ => (.nan false, sig)
  | .inf n, .inf n' => (.inf (n != n'), 0)
  | .inf n, .fin n' m _ => if m = 0 then (.nan false, fInvalid) else (.inf (n != n'), 0)
  | .fin n m _, .inf n' => if m = 0 then (.nan false, fInvalid) else (.inf (n != n'), 0)
  | .fin n m e, .fin n' m' e' => (.fin (n != n') (m * m') (e + e'), 0)

/-- Fma of R6: a × b + c exactly. (DEDUCED, log entry 20.) -/
def fmaFV (mode : Nat) (a b c : FV) : FV × Flags :=
  let (p, f) := mulFV a b
  let (s, f') := addFV mode p c
  (s, f ||| f')

/-- The quotient rounded once (R33): the digits are cut where only their being nonzero matters. -/
def divF (f : Nat) (r : Rnd) (u : Nat) (a b : FV) : Nat × Flags :=
  let sig : Flags := if a.isSig || b.isSig then fInvalid else 0
  match a, b with
  | .nan _, _ | _, .nan _ => (canonNaN f, sig)
  | .inf _, .inf _ => (canonNaN f, fInvalid)
  | .inf n, .fin n' _ _ => roundFV f r u (.inf (n != n'))
  | .fin n _ _, .inf n' => roundFV f r u (.fin (n != n') 0 0)
  | .fin n m e, .fin n' m' e' =>
    if m' = 0 then
      if m = 0 then (canonNaN f, fInvalid)
      else let (x, _) := roundFV f r u (.inf (n != n')); (x, fDivzero)
    else
      let num := m * 2 ^ (128 + Nat.log2 m')
      roundF f r.mode r.sat u (n != n') (num / m') (e - e' - 128 - Nat.log2 m') (num % m' != 0)

/-- The square root rounded once. -/
def sqrtF (f : Nat) (r : Rnd) (u : Nat) (a : FV) : Nat × Flags :=
  match a with
  | .nan s => (canonNaN f, if s then fInvalid else 0)
  | .inf n => if n then (canonNaN f, fInvalid) else roundFV f r u (.inf false)
  | .fin n m e =>
    if m = 0 then roundFV f r u (.fin n 0 0)
    else if n then (canonNaN f, fInvalid)
    else
      let k : Int := if (e - 160) % 2 = 0 then 160 else 161
      let x := m * 2 ^ k.toNat
      let q := Nat.sqrt x
      roundF f r.mode r.sat u false q ((e - k) / 2) (q * q != x)

/-! ## Conversions -/

/-- The range of an integer format code of R25. -/
def intRange (f : Nat) : Int × Int :=
  let w := fmtWidth f
  if f < 4 then (-(2 ^ (w - 1) : Nat), (2 ^ (w - 1) : Nat) - 1) else (0, (2 ^ w : Nat) - 1)

/-- The integer a pattern of an integer format holds (R26). -/
def decodeI (f w : Nat) : Int := if f < 4 then signed (fmtWidth f) w else (w % 2 ^ fmtWidth f : Nat)

/-- The pattern of an integer: wrapped, or clamped under .sat (R26). -/
def encodeI (f : Nat) (sat : Bool) (x : Int) : Nat :=
  let (lo, hi) := intRange f
  wrap (fmtWidth f) (if sat then satInt x lo hi else x)

/-- A floating-point value to an integer format (R27). -/
def toIntF (f mode u : Nat) (v : FV) : Nat × Flags :=
  let (lo, hi) := intRange f
  match v with
  | .nan _ => (0, fInvalid)
  | .inf n => (wrap (fmtWidth f) (if n then lo else hi), fInvalid)
  | .fin n m e =>
    let (r, ix) := roundMag mode u n m e false 0
    let x : Int := if n then -(r : Int) else r
    let y := satInt x lo hi
    (wrap (fmtWidth f) y, if x ≠ y then fInvalid else if ix then fInexact else 0)

/-- An element conversion between any two scalar formats (R26, R27, R43, R401). Between integers the value wraps, or is
clamped under .sat. -/
def convert (src dst : Nat) (r : Rnd) (u : Nat) (w : Nat) : Nat × Flags :=
  if src < 8 then
    let x := decodeI src w
    if dst < 8 then (encodeI dst r.sat x, 0)
    else roundFV dst r u (FV.ofInt x 0 false)
  else if dst < 8 then toIntF dst r.mode u (decodeF src w)
  else roundFV dst r u (decodeF src w)

/-- Two FP32 patterns added under RN (R44). -/
def add32 (a b : Nat) : Nat × Flags :=
  let (v, f) := addFV 0 (decodeF 8 a) (decodeF 8 b)
  let (x, g) := roundFV 8 ⟨0, false⟩ 0 v
  (x, f ||| g)

/-- Two FP32 patterns multiplied under RN. -/
def mul32 (a b : Nat) : Nat × Flags :=
  let (v, f) := mulFV (decodeF 8 a) (decodeF 8 b)
  let (x, g) := roundFV 8 ⟨0, false⟩ 0 v
  (x, f ||| g)

/-- Fma32 of R6 and R33. -/
def fma32 (a b c : Nat) : Nat × Flags :=
  let (v, f) := fmaFV 0 (decodeF 8 a) (decodeF 8 b) (decodeF 8 c)
  let (x, g) := roundFV 8 ⟨0, false⟩ 0 v
  (x, f ||| g)

/-- An element widened exactly to FP32 (R43). (DEDUCED, log entry 16.) -/
def widen32 (f w : Nat) : Nat × Flags := roundFV 8 ⟨0, false⟩ 0 (decodeF f w)

/-! ## Comparisons -/

/-- The signed comparison of two values that are no NaN: less, equal, greater. -/
def cmpFV (a b : FV) : Ordering :=
  match a, b with
  | .inf n, .inf n' => if n = n' then .eq else if n then .lt else .gt
  | .inf n, _ => if n then .lt else .gt
  | _, .inf n => if n then .gt else .lt
  | .fin n m e, .fin n' m' e' =>
    let q := min e e'
    compare (scaled n m e q) (scaled n' m' e' q)
  | _, _ => .eq

/-- A floating-point condition code of R205. -/
def condF (cc : Nat) (a b : FV) : Bool :=
  let un := a.isNaN || b.isNaN
  let o := cmpFV a b
  match cc with
  | 0 => !un && o == .eq
  | 1 => un || o != .eq
  | 2 => !un && o == .lt
  | 3 => !un && o != .gt
  | 4 => !un && o == .gt
  | 5 => !un && o != .lt
  | 6 => un
  | _ => !un

/-- An integer condition code of R205 on patterns of width w. -/
def condI (cc w a b : Nat) : Bool :=
  let x := signed w a
  let y := signed w b
  match cc with
  | 0 => a % 2 ^ w == b % 2 ^ w
  | 1 => a % 2 ^ w != b % 2 ^ w
  | 2 => x < y
  | 3 => x ≤ y
  | 4 => y < x
  | 5 => y ≤ x
  | 6 => a % 2 ^ w < b % 2 ^ w
  | _ => b % 2 ^ w ≤ a % 2 ^ w

/-- The FMIN and FMAX rule (R224): the pattern of the answer and its flags. -/
def minMaxF (f : Nat) (isMax : Bool) (a b : Nat) : Nat × Flags :=
  let x := decodeF f a
  let y := decodeF f b
  let sig : Flags := if x.isSig || y.isSig then fInvalid else 0
  match x.isNaN, y.isNaN with
  | true, true => (canonNaN f, sig)
  | true, false => if x.isSig then (canonNaN f, sig) else (b, sig)
  | false, true => if y.isSig then (canonNaN f, sig) else (a, sig)
  | false, false =>
    match cmpFV x y with
    | .lt => (if isMax then b else a, 0)
    | .gt => (if isMax then a else b, 0)
    | .eq =>
      let aNeg := bit a (fmtWidth f - 1)
      if isMax then (if aNeg then b else a, 0) else (if aNeg then a else b, 0)

/-! ## The random-bits queue -/

/-- One round of Philox-4×32 (R106). -/
def philoxRound (c : Nat × Nat × Nat × Nat) (k0 k1 : Nat) : Nat × Nat × Nat × Nat :=
  let p0 := 0xD2511F53 * c.1
  let p1 := 0xCD9E8D57 * c.2.2.1
  let hi (p : Nat) := p / 2 ^ 32
  let lo (p : Nat) := p % 2 ^ 32
  (Nat.xor (Nat.xor (hi p1) c.2.1) k0, lo p1, Nat.xor (Nat.xor (hi p0) c.2.2.2) k1, lo p0)

/-- The rounds left, with the key incremented between them. -/
def philox : Nat → Nat × Nat × Nat × Nat → Nat → Nat → Nat × Nat × Nat × Nat
  | 0, c, _, _ => c
  | n + 1, c, k0, k1 => philox n (philoxRound c k0 k1) ((k0 + 0x9E3779B9) % 2 ^ 32) ((k1 + 0xBB67AE85) % 2 ^ 32)

/-- Draw p of a sequence (R106). -/
def draw (seed task : Nat) (common : Bool) (p : Nat) : Nat :=
  let p := p % 2 ^ 64
  let n := p / 8
  let k1 := if common then bits seed 63 32 else task % 2 ^ 32
  let o := philox 10 (n % 2 ^ 32, n / 2 ^ 32, (if common then 1 else 0), 0) (bits seed 31 0) k1
  let word := match p % 8 / 2 with
    | 0 => o.1
    | 1 => o.2.1
    | 2 => o.2.2.1
    | _ => o.2.2.2
  if p % 2 = 0 then word % 2 ^ 16 else word / 2 ^ 16

end Sys2Proof.Machine
end

