-- ==== Sys2Proof/Config.lean ====
section
/-!
DEFINITION. What the specification leaves open: free values. Each is an opaque constant applied to a number that
the state gives (from the cycle counter, log entry 5) or to the operands it depends on, so nothing can be proved of its value. The log entries in
notes/assumptions name each use.
-/

namespace Sys2Proof.Config

/-- The value read from a scalar or special register inside an undefined window (R7, R90). -/
opaque freeWord : Nat → Word

/-- The contents of a tile row that is undefined (R7, R81, R90). -/
opaque freeRow : Nat → Row

/-- A byte that is undefined. -/
opaque freeByte : Nat → Byte

/-- A choice between two allowed outcomes. -/
opaque freeBool : Nat → Bool

/-- A number of cycles that the specification does not promise (R112, R118, R123, R310). -/
opaque freeDelay : Nat → Nat

/-- A choice among n allowed outcomes, taken modulo n. -/
opaque freeChoice : Nat → Nat

/-- The ECDSA signature that the fused key makes of a digest (R392): the key is not known outside the part. (DESIGN CHOICE, log entry 117.) -/
opaque sign : BitVec 512 → Nat → BitVec 1056

/-- Whether a firmware image at an address carries a valid signature (R395, R396). -/
opaque imageValid : List Byte → Bool

/-- The certificate chain of a slot (R392). -/
opaque certChain : Nat → List Byte

/-- The firmware image that the flash holds when the machine is first powered (R395). -/
opaque factoryImage : List Byte

/-- The bytes of a firmware image (R396). -/
opaque imageBytes : Nat

/-- The digest that the recovery ROM forms of itself (R395). -/
opaque romDigest : BitVec 512

/-- The revision of the part (R392). -/
opaque partRevision : Nat

/-- The contribution that the types and payloads of a channel's flits make up, once they do (R384): no layout is given. (DESIGN CHOICE, log
entry 134.) -/
opaque contributionOf : List (Nat × BitVec 1920) → Option Contribution

/-- The flits that carry a contribution: the channel, type and payload of each (R384). -/
opaque flitsOf : Contribution → List (Nat × Nat × BitVec 1920)

end Sys2Proof.Config
end

