-- ==== Sys2Proof/Decode.lean ====
section
/-!
DEFINITION. Slot words, their decoder and their encoder (spec/10_encoding.md R192 to R211, with the layouts of
spec/11 to spec/14), and the prefix words (R201). A slot word is read by the opcode map of its slot, which its position
in the bundle gives (R196). The decoder is total: it answers an instruction or the reason of R212.
-/

namespace Sys2Proof

/-- The slots of a bundle in slot order (R99). -/
inductive Slot where
  | s0 | s1 | v0 | v1 | f | m | l | w | e | c
  deriving DecidableEq, Repr

/-- The slot code of R99. -/
def Slot.code : Slot → Nat
  | .s0 => 0 | .s1 => 1 | .v0 => 2 | .v1 => 3 | .f => 4 | .m => 5 | .l => 6 | .w => 7 | .e => 8 | .c => 9

/-- The slots in slot order. -/
def Slot.all : List Slot := [.s0, .s1, .v0, .v1, .f, .m, .l, .w, .e, .c]

/-- The operation of a V-slot opcode (R206). -/
def vKindV : Nat → Option VKind
  | 0x01 => some .tadd | 0x02 => some .tsub | 0x03 => some .tmul | 0x04 => some .tfma | 0x05 => some .tfms
  | 0x06 => some .tmin | 0x07 => some .tmax | 0x08 => some .tabs | 0x09 => some .tneg | 0x0A => some .tand
  | 0x0B => some .tor | 0x0C => some .txor | 0x0D => some .tshl | 0x0E => some .tshr | 0x0F => some .tshra
  | 0x10 => some .tcmp | 0x11 => some .tsel | 0x12 => some .tcvt | 0x13 => some .tqnt | 0x14 => some .tdq
  | 0x15 => some .tred | 0x16 => some .tscan | 0x17 => some .tbcst | 0x18 => some .tins | 0x19 => some .text
  | 0x1A => some .tperm | 0x1B => some .ttrn | 0x1C => some .tzero | 0x1D => some .tmov | 0x1E => some .tshf
  | _ => none

/-- The operation of an F-slot opcode (R207). -/
def vKindF : Nat → Option VKind
  | 0x01 => some .fexp2 | 0x02 => some .flog2 | 0x03 => some .frcp | 0x04 => some .frsq | 0x05 => some .fsqrt
  | 0x06 => some .fdivt | 0x07 => some .ftanh | 0x08 => some .fsigm | 0x09 => some .fsin | 0x0A => some .fcos
  | 0x0B => some .fexpq | 0x0C => some .frand
  | _ => none

/-- The instruction of a V or F operation in its .t form (true) or its .r form. -/
noncomputable def vInstr (k : VKind) (t : Bool) (o : VOp) (r : VRow) : Instr :=
  match k, t with
  | .tadd, true => .taddT o
  | .tadd, false => .taddR o r
  | .tsub, true => .tsubT o
  | .tsub, false => .tsubR o r
  | .tmul, true => .tmulT o
  | .tmul, false => .tmulR o r
  | .tfma, true => .tfmaT o r
  | .tfma, false => .tfmaR o r
  | .tfms, true => .tfmsT o r
  | .tfms, false => .tfmsR o r
  | .tmin, true => .tminT o
  | .tmin, false => .tminR o r
  | .tmax, true => .tmaxT o
  | .tmax, false => .tmaxR o r
  | .tabs, true => .tabsT o
  | .tabs, false => .tabsR o r
  | .tneg, true => .tnegT o
  | .tneg, false => .tnegR o r
  | .tand, true => .tandT o
  | .tand, false => .tandR o r
  | .tor, true => .torT o
  | .tor, false => .torR o r
  | .txor, true => .txorT o
  | .txor, false => .txorR o r
  | .tshl, true => .tshlT o
  | .tshl, false => .tshlR o r
  | .tshr, true => .tshrT o
  | .tshr, false => .tshrR o r
  | .tshra, true => .tshraT o
  | .tshra, false => .tshraR o r
  | .tcmp, true => .tcmpT o
  | .tcmp, false => .tcmpR o r
  | .tsel, true => .tselT o r
  | .tsel, false => .tselR o r
  | .tcvt, true => .tcvtT o r
  | .tcvt, false => .tcvtR o r
  | .tqnt, true => .tqntT o r
  | .tqnt, false => .tqntR o r
  | .tdq, true => .tdqT o r
  | .tdq, false => .tdqR o r
  | .tred, true => .tredT o
  | .tred, false => .tredR o r
  | .tscan, true => .tscanT o
  | .tscan, false => .tscanR o r
  | .tbcst, true => .tbcstT o
  | .tbcst, false => .tbcstR o r
  | .tins, _ => .tinsR o r
  | .text, true => .textT o
  | .text, false => .textR o r
  | .tperm, true => .tpermT o
  | .tperm, false => .tpermR o r
  | .ttrn, true => .ttrnT o
  | .ttrn, false => .ttrnR o r
  | .tzero, true => .tzeroT o
  | .tzero, false => .tzeroR o r
  | .tmov, true => .tmovT o
  | .tmov, false => .tmovR o r
  | .tshf, true => .tshfT o
  | .tshf, false => .tshfR o r
  | .fexp2, true => .fexp2T o
  | .fexp2, false => .fexp2R o r
  | .flog2, true => .flog2T o
  | .flog2, false => .flog2R o r
  | .frcp, true => .frcpT o
  | .frcp, false => .frcpR o r
  | .frsq, true => .frsqT o
  | .frsq, false => .frsqR o r
  | .fsqrt, true => .fsqrtT o
  | .fsqrt, false => .fsqrtR o r
  | .fdivt, true => .fdivtT o
  | .fdivt, false => .fdivtR o r
  | .ftanh, true => .ftanhT o
  | .ftanh, false => .ftanhR o r
  | .fsigm, true => .fsigmT o
  | .fsigm, false => .fsigmR o r
  | .fsin, true => .fsinT o
  | .fsin, false => .fsinR o r
  | .fcos, true => .fcosT o
  | .fcos, false => .fcosR o r
  | .fexpq, true => .fexpqT o
  | .fexpq, false => .fexpqR o r
  | .frand, true => .frandT o
  | .frand, false => .frandR o r

/-- A payload word whose bits [31:16] are set (R200). -/
def hi16 (q : Word32) : Bool := q.extractLsb' 16 16 != 0

/-- An S-slot word (R204, R214 to R228): the instruction its fields name, and what its raw bits get wrong. -/
noncomputable def pickS (w : Word32) (pay : Option Word32) (p : Pfx) : Option (Instr × Bad) :=
  let d := w.extractLsb' 8 5
  let b := w.extractLsb' 13 5
  let c := w.extractLsb' 18 5
  let fn := w.extractLsb' 23 9
  let imm := w.extractLsb' 18 14
  let k64 := pay.isSome
  let np := decide (p ≠ Pfx.empty)
  match (w.extractLsb' 2 6).toNat with
  | 0x01 => some (.add d b c, { form := k64, rsv := fn != 0, pfx := np })
  | 0x02 => some (.sub d b c, { form := k64, rsv := fn != 0, pfx := np })
  | 0x05 => some (.mul d b c, { form := k64, rsv := fn != 0, pfx := np })
  | 0x06 => some (.mulh d b c, { form := k64, rsv := fn != 0, pfx := np })
  | 0x07 => some (.mulhn d b c, { form := k64, rsv := fn != 0, pfx := np })
  | 0x08 => some (.div d b c, { form := k64, rsv := fn != 0, pfx := np })
  | 0x09 => some (.divn d b c, { form := k64, rsv := fn != 0, pfx := np })
  | 0x0A => some (.rem d b c, { form := k64, rsv := fn != 0, pfx := np })
  | 0x0B => some (.remn d b c, { form := k64, rsv := fn != 0, pfx := np })
  | 0x0C => some (.min d b c, { form := k64, rsv := fn != 0, pfx := np })
  | 0x0D => some (.max d b c, { form := k64, rsv := fn != 0, pfx := np })
  | 0x0E => some (.minn d b c, { form := k64, rsv := fn != 0, pfx := np })
  | 0x0F => some (.maxn d b c, { form := k64, rsv := fn != 0, pfx := np })
  | 0x10 => some (.and d b c, { form := k64, rsv := fn != 0, pfx := np })
  | 0x12 => some (.or d b c, { form := k64, rsv := fn != 0, pfx := np })
  | 0x14 => some (.xor d b c, { form := k64, rsv := fn != 0, pfx := np })
  | 0x16 => some (.andn d b c, { form := k64, rsv := fn != 0, pfx := np })
  | 0x18 => some (.shl d b c, { form := k64, rsv := fn != 0, pfx := np })
  | 0x1A => some (.shrl d b c, { form := k64, rsv := fn != 0, pfx := np })
  | 0x1C => some (.shra d b c, { form := k64, rsv := fn != 0, pfx := np })
  | 0x1E => some (.rotl d b c, { form := k64, rsv := fn != 0, pfx := np })
  | 0x34 => some (.fmin d b c, { form := k64, rsv := fn != 0, pfx := np })
  | 0x35 => some (.fmax d b c, { form := k64, rsv := fn != 0, pfx := np })
  | 0x03 => some (match pay with
    | none => (.addi d b imm, { pfx := np })
    | some q => (.addi64 d b q, { rsv := imm != 0, pfx := np }))
  | 0x11 => some (match pay with
    | none => (.andi d b imm, { pfx := np })
    | some q => (.andi64 d b q, { rsv := imm != 0, pfx := np }))
  | 0x13 => some (match pay with
    | none => (.ori d b imm, { pfx := np })
    | some q => (.ori64 d b q, { rsv := imm != 0, pfx := np }))
  | 0x15 => some (match pay with
    | none => (.xori d b imm, { pfx := np })
    | some q => (.xori64 d b q, { rsv := imm != 0, pfx := np }))
  | 0x19 => some (match pay with
    | none => (.shli d b imm, { pfx := np })
    | some q => (.shli64 d b q, { rsv := imm != 0, pfx := np }))
  | 0x1B => some (match pay with
    | none => (.shrli d b imm, { pfx := np })
    | some q => (.shrli64 d b q, { rsv := imm != 0, pfx := np }))
  | 0x1D => some (match pay with
    | none => (.shrai d b imm, { pfx := np })
    | some q => (.shrai64 d b q, { rsv := imm != 0, pfx := np }))
  | 0x20 => some (.clz d b, { form := k64, rsv := fn != 0 || c != 0, pfx := np })
  | 0x21 => some (.ctz d b, { form := k64, rsv := fn != 0 || c != 0, pfx := np })
  | 0x22 => some (.popc d b, { form := k64, rsv := fn != 0 || c != 0, pfx := np })
  | 0x23 => some (.brev d b, { form := k64, rsv := fn != 0 || c != 0, pfx := np })
  | 0x24 => some (.bswap d b, { form := k64, rsv := fn != 0 || c != 0, pfx := np })
  | 0x2A => some (.mov d b, { form := k64, rsv := fn != 0 || c != 0, pfx := np })
  | 0x30 => some (.fadd d b c p, { form := k64, rsv := fn != 0 })
  | 0x31 => some (.fsub d b c p, { form := k64, rsv := fn != 0 })
  | 0x32 => some (.fmul d b c p, { form := k64, rsv := fn != 0 })
  | 0x04 => some (.addsh d b c (w.extractLsb' 23 3), { form := k64, rsv := w.extractLsb' 26 6 != 0, pfx := np })
  | 0x17 => some (.sel d (w.extractLsb' 23 5) b c, { form := k64, rsv := w.extractLsb' 28 4 != 0, pfx := np })
  | 0x1F => some (.cmp (w.extractLsb' 23 3) d b c, { form := k64, rsv := w.extractLsb' 26 6 != 0, pfx := np })
  | 0x25 => some (.extb (w.getLsbD 23) d b c, { form := k64, rsv := w.extractLsb' 24 8 != 0, pfx := np })
  | 0x26 => some (.insb d b c, { form := k64, rsv := fn != 0, pfx := np })
  | 0x28 => some (match pay with
    | none => (.li d imm, { rsv := b != 0, pfx := np })
    | some q => (.li64 d q, { rsv := imm != 0 || b != 0, pfx := np }))
  | 0x29 => some (match pay with
    | none => (.lih d imm, { rsv := b != 0, pfx := np })
    | some q => (.lih64 d q, { rsv := imm != 0 || b != 0, pfx := np }))
  | 0x33 => some (.ffma d b c (w.extractLsb' 23 5) p, { form := k64, rsv := w.extractLsb' 28 4 != 0 })
  | 0x36 => some (.fcmp (w.extractLsb' 23 3) d b c, { form := k64, rsv := w.extractLsb' 26 6 != 0, pfx := np })
  | 0x37 => some (.fcvt (w.extractLsb' 28 4) (w.extractLsb' 24 4) d b p,
      { form := k64, rsv := w.getLsbD 23 || c != 0 })
  | 0x38 => some (.fclass (w.extractLsb' 28 4) d b,
      { form := k64, rsv := w.extractLsb' 23 5 != 0 || c != 0, pfx := np })
  | 0x39 => some (.rds fn d, { form := k64, rsv := b != 0 || c != 0, pfx := np })
  | 0x3A => some (.wrs fn b, { form := k64, rsv := d != 0 || c != 0, pfx := np })
  | _ => none

/-- A V-slot or F-slot word (R199, R200, R206, R207). -/
noncomputable def pickVF (kind : Nat → Option VKind) (w : Word32) (pay : Option Word32) (p : Pfx) : Option (Instr × Bad) :=
  match kind (w.extractLsb' 2 6).toNat with
  | none => none
  | some k =>
    let t := w.getLsbD 23
    let o : VOp := ⟨w.extractLsb' 27 5, w.extractLsb' 24 3, w.extractLsb' 8 5, w.extractLsb' 13 5, w.extractLsb' 18 5, p⟩
    match pay with
    | none => some (vInstr k t o .zero, { form := !t || k.wideT, func := k == .tins && t })
    | some q =>
      let r : VRow := ⟨q.extractLsb' 24 5, q.extractLsb' 20 4, q.extractLsb' 15 5, q.extractLsb' 10 5,
        q.extractLsb' 5 5, q.extractLsb' 0 5⟩
      some (vInstr k t o r, { form := t && !k.wideT && k != .tins, func := k == .tins && t, rsv := q.extractLsb' 29 3 != 0 })

/-- The fields of layout A (R256). -/
def memA (w : Word32) : MemA := ⟨w.extractLsb' 27 3, w.getLsbD 26, w.extractLsb' 13 5, w.extractLsb' 8 5⟩

/-- The fields of layout B (R256). -/
def memB (w : Word32) : MemB := ⟨w.getLsbD 29, w.extractLsb' 24 5, w.extractLsb' 13 5, w.extractLsb' 8 5⟩

/-- The fields of layout C (R256). (DEDUCED, log entry 21.) -/
def memC (w : Word32) : MemC :=
  ⟨w.getLsbD 29, w.extractLsb' 24 5, w.getLsbD 23, w.extractLsb' 18 5, w.extractLsb' 13 5, w.extractLsb' 8 5⟩

/-- An L-slot word (R207, R208, R256). -/
noncomputable def pickL (w : Word32) (pay : Option Word32) (p : Pfx) : Option (Instr × Bad) :=
  let np := decide (p ≠ Pfx.empty)
  let mk := w.extractLsb' 30 2 != 0
  let acq := w.getLsbD 31
  let rel := w.getLsbD 30
  let off8 := w.extractLsb' 18 8
  let off5 := w.extractLsb' 18 5
  let acc := w.getLsbD 23
  match (w.extractLsb' 2 6).toNat with
  | 0x01 => some (match pay with
    | none => (.ld (memA w) off8, { mark := mk, pfx := np })
    | some q => (.ld64 (memA w) q, { rsv := off8 != 0, mark := mk, pfx := np }))
  | 0x02 => some (match pay with
    | none => (.ldt (memB w) off5, { rsv := acc, mark := mk, pfx := np })
    | some q => (.ldt64 (memB w) q, { rsv := acc || off5 != 0, mark := mk, pfx := np }))
  | 0x03 => some (match pay with
    | none => (.ldb acc (memB w) off5 p, { mark := mk })
    | some q => (.ldb64 acc (memB w) (q.extractLsb' 16 16) (q.extractLsb' 0 16), { rsv := off5 != 0, mark := mk, pfx := np }))
  | 0x04 => some (match pay with
    | none => (.ldg acq (memA w) off8 p, { mark := rel })
    | some q => (.ldg64 acq (memA w) q p, { rsv := off8 != 0, mark := rel }))
  | 0x05 => some (.ldx (memC w) pay, { mark := mk, pfx := np })
  | 0x06 => some (.atom ⟨acq, rel, w.extractLsb' 26 4, w.extractLsb' 23 3, w.extractLsb' 18 5, w.extractLsb' 13 5,
      w.extractLsb' 8 5⟩ pay p, { })
  | _ => none

/-- A W-slot word (R207, R208, R256). -/
noncomputable def pickW (w : Word32) (pay : Option Word32) (p : Pfx) : Option (Instr × Bad) :=
  let np := decide (p ≠ Pfx.empty)
  let mk := w.extractLsb' 30 2 != 0
  let acq := w.getLsbD 31
  let rel := w.getLsbD 30
  let off8 := w.extractLsb' 18 8
  let off5 := w.extractLsb' 18 5
  let acc := w.getLsbD 23
  match (w.extractLsb' 2 6).toNat with
  | 0x01 => some (match pay with
    | none => (.st (memA w) off8 p, { mark := mk })
    | some q => (.st64 (memA w) q p, { rsv := off8 != 0, mark := mk }))
  | 0x02 => some (match pay with
    | none => (.stt (memB w) off5 p, { rsv := acc, mark := mk })
    | some q => (.stt64 (memB w) q p, { rsv := acc || off5 != 0, mark := mk }))
  | 0x03 => some (match pay with
    | none => (.stb acc (memB w) off5 p, { mark := mk })
    | some q => (.stb64 acc (memB w) (q.extractLsb' 16 16) (q.extractLsb' 0 16), { rsv := off5 != 0, mark := mk, pfx := np }))
  | 0x04 => some (match pay with
    | none => (.stg rel (memA w) off8 p, { mark := acq })
    | some q => (.stg64 rel (memA w) q p, { rsv := off8 != 0, mark := acq }))
  | 0x05 => some (.stx (memC w) pay p, { mark := mk })
  | _ => none

/-- The fields of the correcting instructions (R275). -/
def corrOp (w : Word32) : CorrOp :=
  ⟨w.extractLsb' 27 5, w.extractLsb' 25 2, w.extractLsb' 23 2, w.extractLsb' 19 4, w.getLsbD 18, w.extractLsb' 14 4,
    w.extractLsb' 12 2, w.extractLsb' 8 4⟩

/-- An M-slot word (R207, R209, R265 to R276). -/
noncomputable def pickM (w : Word32) (pay : Option Word32) (p : Pfx) : Option (Instr × Bad) :=
  let np := decide (p ≠ Pfx.empty)
  let a := w.extractLsb' 8 5
  let b := w.extractLsb' 13 5
  let c := w.extractLsb' 18 5
  let fn := w.extractLsb' 23 9
  let x : Stamp := match pay with
    | some q => ⟨q.extractLsb' 0 16, q.extractLsb' 16 16⟩
    | none => ⟨0, 0⟩
  let k64 := pay.isSome
  let np64 := k64 && np
  match (w.extractLsb' 2 6).toNat with
  | 0x01 =>
    let o : AmacOp := ⟨w.extractLsb' 27 5, w.extractLsb' 22 5, w.extractLsb' 20 2, w.extractLsb' 12 4, w.extractLsb' 8 4⟩
    some (if k64 then .amac64 o p x else .amac o p, { rsv := w.extractLsb' 16 4 != 0 })
  | 0x02 => some (if k64 then .azero64 b c x else .azero b c p, { rsv := a != 0 || fn != 0, pfx := np64 })
  | 0x03 => some (if k64 then .adrain64 b c x else .adrain b c p, { rsv := a != 0 || fn != 0, pfx := np64 })
  | 0x04 => some (if k64 then .aswap64 b x else .aswap b p, { rsv := a != 0 || fn != 0 || c != 0, pfx := np64 })
  | 0x05 => some (if k64 then .awrite64 b c x else .awrite b c p, { rsv := a != 0 || fn != 0, pfx := np64 })
  | 0x06 =>
    let o : AopOp := ⟨w.extractLsb' 30 2, w.getLsbD 29, w.extractLsb' 26 3, c, b, a⟩
    some (if k64 then .aop64 o x else .aop o p, { rsv := w.extractLsb' 23 3 != 0, pfx := np64 })
  | 0x07 =>
    let o : AsumOp := ⟨w.extractLsb' 30 2, w.getLsbD 29, c, b⟩
    some (if k64 then .asum64 o x else .asum o p, { rsv := a != 0 || w.extractLsb' 23 6 != 0, pfx := np64 })
  | 0x08 =>
    let o : TmmaOp := ⟨w.extractLsb' 27 5, w.getLsbD 26, c, b, a⟩
    some (if k64 then .tmma64 o x.stamp else .tmma o, { rsv := w.extractLsb' 23 3 != 0 || x.tag != 0, pfx := np })
  | 0x09 => some (if k64 then .cresp64 (corrOp w) x else .cresp (corrOp w) p, { pfx := np64 })
  | 0x0A => some (if k64 then .copa64 (corrOp w) x else .copa (corrOp w) p, { pfx := np64 })
  | 0x0B => some (if k64 then .copaC64 (corrOp w) x else .copaC (corrOp w) p, { pfx := np64 })
  | 0x0C =>
    let o : CchkOp := ⟨w.extractLsb' 27 5, w.extractLsb' 22 5, w.extractLsb' 18 4, w.getLsbD 17, w.extractLsb' 8 4⟩
    some (if k64 then .cchk64 o x else .cchk o p, { rsv := w.extractLsb' 12 5 != 0, pfx := np64 })
  | 0x0D =>
    some (match w.getLsbD 23, k64 with
      | false, false => .csnapSv a b p
      | false, true => .csnapSv64 a b x
      | true, false => .csnapLd a b p
      | true, true => .csnapLd64 a b x,
      { rsv := w.extractLsb' 24 8 != 0 || c != 0, pfx := np64 })
  | _ => none

/-- A C-slot word (R210, R278). -/
noncomputable def pickC (w : Word32) (pay : Option Word32) (p : Pfx) : Option (Instr × Bad) :=
  let np := decide (p ≠ Pfx.empty)
  let a := w.extractLsb' 8 5
  let b := w.extractLsb' 13 5
  let c := w.extractLsb' 18 5
  let fn := w.extractLsb' 23 9
  let off24 := w.extractLsb' 8 24
  let off14 := w.extractLsb' 18 14
  let k64 := pay.isSome
  let only (i : Instr) (r : Bool) : Option (Instr × Bad) := some (i, { form := k64, rsv := r, pfx := np })
  match (w.extractLsb' 2 6).toNat with
  | 0x01 => some (match pay with
    | none => (.br off24, { pfx := np })
    | some q => (.br64 q, { rsv := off24 != 0, pfx := np }))
  | 0x02 => some (match pay with
    | none => (.bz b off14, { rsv := a != 0, pfx := np })
    | some q => (.bz64 b q, { rsv := a != 0 || off14 != 0, pfx := np }))
  | 0x03 => some (match pay with
    | none => (.bnz b off14, { rsv := a != 0, pfx := np })
    | some q => (.bnz64 b q, { rsv := a != 0 || off14 != 0, pfx := np }))
  | 0x04 => some (match pay with
    | none => (.bcc (w.getLsbD 12) (w.extractLsb' 8 3) b c fn, { rsv := w.getLsbD 11, pfx := np })
    | some q => (.bcc64 (w.getLsbD 12) (w.extractLsb' 8 3) b c q, { rsv := w.getLsbD 11 || fn != 0, pfx := np }))
  | 0x05 => some (match pay with
    | none => (.call off24, { pfx := np })
    | some q => (.call64 q, { rsv := off24 != 0, pfx := np }))
  | 0x06 => only (.callr b) (a != 0 || c != 0 || fn != 0)
  | 0x07 => only .ret (off24 != 0)
  | 0x08 => only (.jr b) (a != 0 || c != 0 || fn != 0)
  | 0x09 => some (match pay with
    | none => (.loop b off14, { rsv := a != 0, pfx := np })
    | some q => (.loop64 b q, { rsv := a != 0 || off14 != 0, pfx := np }))
  | 0x0A => only (.trap (w.extractLsb' 16 16)) (w.extractLsb' 8 8 != 0)
  | 0x0B => only (.sys (w.extractLsb' 16 16)) (w.extractLsb' 8 8 != 0)
  | 0x0C => only .endTask (off24 != 0)
  | 0x10 => only (.setf b) (a != 0 || c != 0 || fn != 0)
  | 0x11 => only (.setsz (w.extractLsb' 24 3) (w.getLsbD 23)) (w.extractLsb' 27 5 != 0 || w.extractLsb' 8 15 != 0)
  | 0x12 => only (.frame fn) (w.extractLsb' 8 15 != 0)
  | 0x13 => some (match pay with
    | none => (.beatset b, { rsv := a != 0 || off14 != 0, pfx := np })
    | some q => (.beatset64 (q.extractLsb' 0 16), { rsv := off24 != 0 || hi16 q, pfx := np }))
  | 0x14 => only .beatnext (off24 != 0)
  | 0x15 => some (match pay with
    | none => (.bplan b, { rsv := a != 0 || off14 != 0, pfx := np })
    | some q => (.bplan64 (q.extractLsb' 0 20), { rsv := off24 != 0 || q.extractLsb' 20 12 != 0, pfx := np }))
  | 0x16 => only (.phase b) (a != 0 || off14 != 0)
  | 0x18 => only (.bar (w.extractLsb' 23 3)) (w.extractLsb' 26 6 != 0 || w.extractLsb' 8 15 != 0)
  | 0x19 => only (.waitw (w.extractLsb' 8 3) b) (w.extractLsb' 11 2 != 0 || off14 != 0)
  | 0x1A => only (.waitl b) (a != 0 || off14 != 0)
  | 0x1B =>
    if w.getLsbD 8 then
      only (if w.getLsbD 9 then .waitcG b else .waitcWord b) (w.extractLsb' 10 3 != 0 || off14 != 0)
    else only (.waitcReg (w.extractLsb' 22 10)) (w.extractLsb' 9 13 != 0)
  | 0x1C => only (.fence (w.extractLsb' 29 3) (w.extractLsb' 13 16)) (a != 0)
  | 0x1D => only (if w.getLsbD 8 then .cinvLlc b c else .cinv b c) (w.extractLsb' 9 4 != 0 || fn != 0)
  | 0x1E => only (.cwb b c) (a != 0 || fn != 0)
  | 0x30 => only .eret (off24 != 0)
  | 0x31 => only (.rdsys fn a) (b != 0 || c != 0)
  | 0x32 => only (.wrsys fn b) (a != 0 || c != 0)
  | 0x33 => only (.ctxsv b) (a != 0 || off14 != 0)
  | 0x34 => only (.ctxld b) (a != 0 || off14 != 0)
  | 0x35 => only (.tlbinv b c) (a != 0 || fn != 0)
  | 0x36 => only (.frz b) (a != 0 || off14 != 0)
  | _ => none

/-- An E-slot word (R169, R211, R296). -/
noncomputable def pickE (w : Word32) (pay : Option Word32) (p : Pfx) : Option (Instr × Bad) :=
  let np := decide (p ≠ Pfx.empty)
  let a := w.extractLsb' 8 5
  let b := w.extractLsb' 13 5
  let c := w.extractLsb' 18 5
  let eo : EOp := ⟨w.getLsbD 31, w.getLsbD 30, w.getLsbD 29, a, b, c, p⟩
  let e6 := w.extractLsb' 23 6
  let ch := w.extractLsb' 26 3
  let done := w.getLsbD 23
  let n : BitVec 8 := w.extractLsb' 23 3 ++ a
  let st : BitVec 16 := match pay with
    | some q => q.extractLsb' 0 16
    | none => 0
  let k64 := pay.isSome
  match (w.extractLsb' 2 6).toNat with
  | 0x01 => some (.lease a b ch (w.extractLsb' 24 2),
      { form := k64, rsv := w.extractLsb' 29 3 != 0 || done || c != 0, pfx := np })
  | 0x02 => some (.unlease b, { form := k64, rsv := w.extractLsb' 18 14 != 0 || a != 0, pfx := np })
  | 0x03 => some (.lstat a b, { form := k64, rsv := w.extractLsb' 18 14 != 0, pfx := np })
  | 0x08 => some (match pay with
    | none => (.xcpy ch eo, { rsv := w.extractLsb' 23 3 != 0 })
    | some q => (.xcpy64 ch eo st, { rsv := w.extractLsb' 23 3 != 0 || hi16 q }))
  | 0x09 => some (match pay with
    | none => (.xgth ch n { eo with a := 0 }, { })
    | some q => (.xgth64 ch n { eo with a := 0 } st, { rsv := hi16 q }))
  | 0x0A => some (match pay with
    | none => (.xsct ch n { eo with a := 0 }, { })
    | some q => (.xsct64 ch n { eo with a := 0 } st, { rsv := hi16 q }))
  | 0x0B => some (.xpush ch b, { form := k64, rsv := w.extractLsb' 29 3 != 0 || w.extractLsb' 18 8 != 0 || a != 0, pfx := np })
  | 0x10 => some (match pay with
    | none => (.xred eo, { rsv := e6 != 0 })
    | some q => (.xred64 eo st, { rsv := e6 != 0 || hi16 q }))
  | 0x11 => some (match pay with
    | none => (.xsrt eo, { rsv := e6 != 0 })
    | some q => (.xsrt64 eo st, { rsv := e6 != 0 || hi16 q }))
  | 0x12 => some (match pay with
    | none => (.xmrg eo, { rsv := e6 != 0 })
    | some q => (.xmrg64 eo st, { rsv := e6 != 0 || hi16 q }))
  | 0x13 => some (match pay with
    | none => (.xsolv eo, { rsv := e6 != 0 })
    | some q => (.xsolv64 eo st, { rsv := e6 != 0 || hi16 q }))
  | 0x14 => some (match pay with
    | none => (.xcoll eo, { rsv := e6 != 0 })
    | some q => (.xcoll64 eo st, { rsv := e6 != 0 || hi16 q }))
  | 0x15 => some (match pay with
    | none => (.xqnt eo, { rsv := e6 != 0 })
    | some q => (.xqnt64 eo st, { rsv := e6 != 0 || hi16 q }))
  | 0x16 => some (match pay with
    | none => (.xcmp eo, { rsv := e6 != 0 })
    | some q => (.xcmp64 eo st, { rsv := e6 != 0 || hi16 q }))
  | 0x17 => some (match pay with
    | none => (.xdcmp eo, { rsv := e6 != 0 })
    | some q => (.xdcmp64 eo st, { rsv := e6 != 0 || hi16 q }))
  | 0x18 => some (match pay with
    | none => (.xatt eo, { rsv := e6 != 0 })
    | some q => (.xatt64 eo st, { rsv := e6 != 0 || hi16 q }))
  | 0x19 => some (match pay with
    | none => (.xkvt eo, { rsv := e6 != 0 })
    | some q => (.xkvt64 eo st, { rsv := e6 != 0 || hi16 q }))
  | 0x1A => some (match pay with
    | none => (if done then .xsplcDone eo else .xsplc eo, { rsv := w.extractLsb' 24 5 != 0 })
    | some q => (if done then .xsplcDone64 eo st else .xsplc64 eo st, { rsv := w.extractLsb' 24 5 != 0 || hi16 q }))
  | 0x20 => some (match pay with
    | none => (.spawn eo, { rsv := e6 != 0 })
    | some q => (.spawn64 eo st, { rsv := e6 != 0 || hi16 q }))
  | _ => none

/-- The word read by the opcode map of its slot. -/
noncomputable def pick (sl : Slot) (w : Word32) (pay : Option Word32) (p : Pfx) : Option (Instr × Bad) :=
  match sl with
  | .s0 | .s1 => pickS w pay p
  | .v0 | .v1 => pickVF vKindV w pay p
  | .f => pickVF vKindF w pay p
  | .m => pickM w pay p
  | .l => pickL w pay p
  | .w => pickW w pay p
  | .e => pickE w pay p
  | .c => pickC w pay p

/-- Whether a beat-tagged instruction is of compute kind (some true) or access kind (some false) (R51). -/
def Instr.kind : Instr → Option Bool
  | .ldb .. | .ldb64 .. | .stb .. | .stb64 .. | .awrite .. | .awrite64 .. | .aswap .. | .aswap64 .. => some false
  | .amac .. | .amac64 .. | .azero .. | .azero64 .. | .adrain .. | .adrain64 .. | .aop .. | .aop64 .. | .asum ..
  | .asum64 .. | .cresp .. | .cresp64 .. | .copa .. | .copa64 .. | .copaC .. | .copaC64 .. | .cchk .. | .cchk64 ..
  | .csnapSv .. | .csnapSv64 .. | .csnapLd .. | .csnapLd64 .. => some true
  | _ => none

/-- Whether pfx.beat gives the instruction a tag of the wrong parity (R51, R203). -/
def beatBad (i : Instr) (p : Pfx) (dbeat : BitVec 16) : Bool :=
  match i.kind, p.beat with
  | some odd, some off => bit (dbeat.toNat + off.toNat) 0 != odd
  | _, _ => false

/-- One slot word with its payload and prefixes, under DBEAT: the instruction, or the reason of R212 in the order of
R213 step 2. (DEDUCED, log entry 22.) (DESIGN CHOICE, log entry 137.) -/
noncomputable def decodeSlot (sl : Slot) (w : Word32) (pay : Option Word32) (p : Pfx) (dbeat : BitVec 16) : Except Nat Instr :=
  match pick sl w pay p with
  | none => .error 0x0001
  | some (i, raw) =>
    match ((raw.or i.bad).or { parity := beatBad i p dbeat }).first with
    | some r => .error r
    | none => .ok i

/-- Where a reason stands in the order of R213 step 2. -/
def reasonRank (r : Nat) : Nat :=
  match r with
  | 0x0001 => 0
  | 0x0006 => 1
  | 0x0002 => 2
  | 0x0004 => 3
  | 0x0003 => 4
  | 0x000C => 5
  | 0x0007 => 6
  | _ => 7

/-- Payload words that differ in the fields that a reason of R212 may lie in: each F2 code alone, and a tag of odd parity. -/
def payloadTries : List Word32 := (List.range 32).map (fun f => BitVec.ofNat 32 (f * 2 ^ 24)) ++ [1, 0x10000]

/-- Whether the offending word of a reason is the payload word (R212): a tag in it, or a value that is not assigned or a reserved bit
when the first word has none, so that another payload would pass that check. (DEDUCED, log entry 26.) -/
noncomputable def payloadBlamed (sl : Slot) (w : Word32) (p : Pfx) (dbeat : BitVec 16) (r : Nat) : Bool :=
  match r with
  | 0x0005 => true
  | 0x0002 | 0x0003 => payloadTries.any fun t => match decodeSlot sl w (some t) p dbeat with
    | .ok _ => true
    | .error r' => decide (reasonRank r < reasonRank r')
  | _ => false

/-- One slot word with its payload and prefixes, two of which may be of one class (R203): the instruction, or the reason with
whether the payload word is the offending one. -/
noncomputable def decodeDoubled (sl : Slot) (w : Word32) (pay : Option Word32) (p : Pfx) (dup : Bool) (dbeat : BitVec 16) :
    Except (Nat × Bool) Instr :=
  match decodeSlot sl w pay p dbeat with
  | .ok i => if dup then .error (0x0007, false) else .ok i
  | .error r =>
    if dup ∧ 6 ≤ reasonRank r then .error (0x0007, false)
    else .error (r, pay.isSome && payloadBlamed sl w p dbeat r)

/-- A prefix word adds its setting to those pending (R201): an answer of none is reason 0x0007, or a second prefix of its
class. -/
def decodePfx (w : Word32) (p : Pfx) : Option Pfx :=
  let low := w.extractLsb' 5 3
  match (w.extractLsb' 2 3).toNat with
  | 0 => if w.extractLsb' 8 24 != 0 || 4 < low.toNat || p.round.isSome then none else some { p with round := some low }
  | 1 => if w.extractLsb' 6 26 != 0 || p.sat.isSome then none else some { p with sat := some (w.getLsbD 5) }
  | 2 =>
    let sc := w.extractLsb' 9 3
    if w.extractLsb' 12 20 != 0 || 4 < sc.toNat || p.stream.isSome then none
    else some { p with stream := some (w.extractLsb' 5 4, sc) }
  | 3 =>
    let f1 := w.extractLsb' 5 5
    let f2 := w.extractLsb' 11 5
    let v1 := w.getLsbD 10
    let v2 := w.getLsbD 16
    if w.extractLsb' 17 15 != 0 || (!v1 && !v2) || (v1 && !fmtListed f1.toNat) || (v2 && !fmtListed f2.toNat)
      || p.fmt1.isSome || p.fmt2.isSome then none
    else some { p with fmt1 := if v1 then some f1 else none, fmt2 := if v2 then some f2 else none }
  | 4 => if w.extractLsb' 13 19 != 0 || p.beat.isSome then none else some { p with beat := some (w.extractLsb' 5 8) }
  | 5 => if w.extractLsb' 6 26 != 0 || p.rand.isSome then none else some { p with rand := some (w.getLsbD 5) }
  | _ => none

/-! ## The encoder -/

/-- The fields of R199 put together. -/
def word (fn : BitVec 9) (c b a : BitVec 5) (op : BitVec 6) (k64 : Bool) : Word32 :=
  fn ++ c ++ b ++ a ++ op ++ (if k64 then 1#2 else 0#2)

/-- A word whose c and FN fields form a 14-bit immediate. -/
def wordImm (i : BitVec 14) (b a : BitVec 5) (op : BitVec 6) (k64 : Bool) : Word32 :=
  i ++ b ++ a ++ op ++ (if k64 then 1#2 else 0#2)

/-- A word whose bits [31:8] form one field. -/
def word24 (x : BitVec 24) (op : BitVec 6) (k64 : Bool) : Word32 := x ++ op ++ (if k64 then 1#2 else 0#2)

/-- One flag as a bit. -/
def b1 (x : Bool) : BitVec 1 := if x then 1 else 0

/-- Layout A. -/
def encA (m1 m2 : Bool) (m : MemA) (off : BitVec 8) (op : BitVec 6) (k64 : Bool) : Word32 :=
  b1 m1 ++ b1 m2 ++ m.size ++ b1 m.sx ++ off ++ m.b ++ m.a ++ op ++ (if k64 then 1#2 else 0#2)

/-- Layout B. -/
def encB (acc : Bool) (m : MemB) (off : BitVec 5) (op : BitVec 6) (k64 : Bool) : Word32 :=
  0#2 ++ b1 m.t ++ m.row ++ b1 acc ++ off ++ m.b ++ m.a ++ op ++ (if k64 then 1#2 else 0#2)

/-- Layout C. -/
def encC (m : MemC) (op : BitVec 6) (k64 : Bool) : Word32 :=
  0#2 ++ b1 m.t ++ m.row ++ b1 m.sz ++ m.x ++ m.b ++ m.a ++ op ++ (if k64 then 1#2 else 0#2)

/-- The payload of a stamped M-slot word. -/
def Stamp.word (x : Stamp) : Word32 := x.tag ++ x.stamp

/-- The word of a correcting instruction (R275). -/
def encCorr (o : CorrOp) (op : BitVec 6) (k64 : Bool) : Word32 :=
  o.nm1 ++ o.q8 ++ o.k8 ++ o.tq ++ b1 o.e ++ o.tk ++ o.bn ++ o.sp ++ op ++ (if k64 then 1#2 else 0#2)

/-- The word of AMAC (R267). -/
def encAmac (o : AmacOp) (k64 : Bool) : Word32 :=
  o.row ++ o.nm1 ++ o.g ++ 0#4 ++ o.t ++ o.sp ++ 0x01#6 ++ (if k64 then 1#2 else 0#2)

/-- The word of CCHK (R276). -/
def encCchk (o : CchkOp) (k64 : Bool) : Word32 :=
  o.nm1 ++ o.re ++ o.te ++ b1 o.e ++ 0#5 ++ o.sp ++ 0x0C#6 ++ (if k64 then 1#2 else 0#2)

/-- The word of AOP (R209, R272). -/
def encAop (o : AopOp) (k64 : Bool) : Word32 :=
  word (o.ty ++ b1 o.sat ++ o.op ++ 0#3) o.c o.b o.a 0x06 k64

/-- The word of ASUM (R273). -/
def encAsum (o : AsumOp) (k64 : Bool) : Word32 := word (o.ty ++ b1 o.hi ++ 0#6) o.c o.b 0 0x07 k64

/-- The word of TMMA (R274). -/
def encTmma (o : TmmaOp) (k64 : Bool) : Word32 := word (o.ty ++ b1 o.z ++ 0#3) o.c o.b o.a 0x08 k64

/-- A command word with DONE in [23] (R169, R296). -/
def eword (o : EOp) (done : BitVec 1) (op : BitVec 6) (k64 : Bool) : Word32 :=
  word (b1 o.acq ++ b1 o.rel ++ b1 o.wg ++ 0#5 ++ done) o.c o.b o.a op k64

/-- A block-transfer command word: marks, channel, the count bits [7:5] and [4:0] (R296). -/
def btxWord (o : EOp) (ch : BitVec 3) (n : BitVec 8) (op : BitVec 6) (k64 : Bool) : Word32 :=
  word (b1 o.acq ++ b1 o.rel ++ b1 o.wg ++ ch ++ n.extractLsb' 5 3) o.c o.b (n.extractLsb' 0 5) op k64

/-- The row word (R200). -/
def VRow.word (r : VRow) : Word32 := 0#3 ++ r.f2 ++ r.td ++ r.rd ++ r.rc ++ r.rb ++ r.ra

/-- The slot, word and payload of a V or F instruction. -/
def encVF (k : VKind) (t : Bool) (o : VOp) (r : VRow) : Slot × Word32 × Option Word32 :=
  let k64 := !t || k.wideT
  (if k.isF then .f else .v0,
    word (o.ty ++ o.var ++ b1 t) o.c o.b o.a (BitVec.ofNat 6 k.op) k64,
    if k64 then some r.word else none)

/-- The slot, slot word and payload word of an instruction, written from the layouts of spec/10 to spec/14. A step of
the machine has none. The prefixes are words of their own (`Pfx.words`). -/
def encode (i : Instr) : Option (Slot × Word32 × Option Word32) :=
  match i with
  | .add d b c => some (.s0, word 0 c b d 0x01 false, none)
  | .sub d b c => some (.s0, word 0 c b d 0x02 false, none)
  | .mul d b c => some (.s0, word 0 c b d 0x05 false, none)
  | .mulh d b c => some (.s0, word 0 c b d 0x06 false, none)
  | .mulhn d b c => some (.s0, word 0 c b d 0x07 false, none)
  | .div d b c => some (.s0, word 0 c b d 0x08 false, none)
  | .divn d b c => some (.s0, word 0 c b d 0x09 false, none)
  | .rem d b c => some (.s0, word 0 c b d 0x0A false, none)
  | .remn d b c => some (.s0, word 0 c b d 0x0B false, none)
  | .min d b c => some (.s0, word 0 c b d 0x0C false, none)
  | .max d b c => some (.s0, word 0 c b d 0x0D false, none)
  | .minn d b c => some (.s0, word 0 c b d 0x0E false, none)
  | .maxn d b c => some (.s0, word 0 c b d 0x0F false, none)
  | .and d b c => some (.s0, word 0 c b d 0x10 false, none)
  | .or d b c => some (.s0, word 0 c b d 0x12 false, none)
  | .xor d b c => some (.s0, word 0 c b d 0x14 false, none)
  | .andn d b c => some (.s0, word 0 c b d 0x16 false, none)
  | .shl d b c => some (.s0, word 0 c b d 0x18 false, none)
  | .shrl d b c => some (.s0, word 0 c b d 0x1A false, none)
  | .shra d b c => some (.s0, word 0 c b d 0x1C false, none)
  | .rotl d b c => some (.s0, word 0 c b d 0x1E false, none)
  | .fmin d b c => some (.s0, word 0 c b d 0x34 false, none)
  | .fmax d b c => some (.s0, word 0 c b d 0x35 false, none)
  | .addi d b i => some (.s0, wordImm i b d 0x03 false, none)
  | .addi64 d b q => some (.s0, word 0 0 b d 0x03 true, some q)
  | .andi d b i => some (.s0, wordImm i b d 0x11 false, none)
  | .andi64 d b q => some (.s0, word 0 0 b d 0x11 true, some q)
  | .ori d b i => some (.s0, wordImm i b d 0x13 false, none)
  | .ori64 d b q => some (.s0, word 0 0 b d 0x13 true, some q)
  | .xori d b i => some (.s0, wordImm i b d 0x15 false, none)
  | .xori64 d b q => some (.s0, word 0 0 b d 0x15 true, some q)
  | .shli d b i => some (.s0, wordImm i b d 0x19 false, none)
  | .shli64 d b q => some (.s0, word 0 0 b d 0x19 true, some q)
  | .shrli d b i => some (.s0, wordImm i b d 0x1B false, none)
  | .shrli64 d b q => some (.s0, word 0 0 b d 0x1B true, some q)
  | .shrai d b i => some (.s0, wordImm i b d 0x1D false, none)
  | .shrai64 d b q => some (.s0, word 0 0 b d 0x1D true, some q)
  | .clz d b => some (.s0, word 0 0 b d 0x20 false, none)
  | .ctz d b => some (.s0, word 0 0 b d 0x21 false, none)
  | .popc d b => some (.s0, word 0 0 b d 0x22 false, none)
  | .brev d b => some (.s0, word 0 0 b d 0x23 false, none)
  | .bswap d b => some (.s0, word 0 0 b d 0x24 false, none)
  | .mov d b => some (.s0, word 0 0 b d 0x2A false, none)
  | .fadd d b c _ => some (.s0, word 0 c b d 0x30 false, none)
  | .fsub d b c _ => some (.s0, word 0 c b d 0x31 false, none)
  | .fmul d b c _ => some (.s0, word 0 c b d 0x32 false, none)
  | .addsh d b c k => some (.s0, word (0#6 ++ k) c b d 0x04 false, none)
  | .sel d k b c => some (.s0, word (0#4 ++ k) c b d 0x17 false, none)
  | .cmp cc d b c => some (.s0, word (0#6 ++ cc) c b d 0x1F false, none)
  | .extb sx d b c => some (.s0, word (0#8 ++ b1 sx) c b d 0x25 false, none)
  | .insb d b c => some (.s0, word 0 c b d 0x26 false, none)
  | .li d i => some (.s0, wordImm i 0 d 0x28 false, none)
  | .li64 d q => some (.s0, word 0 0 0 d 0x28 true, some q)
  | .lih d i => some (.s0, wordImm i 0 d 0x29 false, none)
  | .lih64 d q => some (.s0, word 0 0 0 d 0x29 true, some q)
  | .ffma d b c e _ => some (.s0, word (0#4 ++ e) c b d 0x33 false, none)
  | .fcmp cc d b c => some (.s0, word (0#6 ++ cc) c b d 0x36 false, none)
  | .fcvt x y d b _ => some (.s0, word (x ++ y ++ 0#1) 0 b d 0x37 false, none)
  | .fclass f d b => some (.s0, word (f ++ 0#5) 0 b d 0x38 false, none)
  | .rds n d => some (.s0, word n 0 0 d 0x39 false, none)
  | .wrs n b => some (.s0, word n 0 b 0 0x3A false, none)
  | .ld m off => some (.l, encA false false m off 0x01 false, none)
  | .ld64 m q => some (.l, encA false false m 0 0x01 true, some q)
  | .ldt m off => some (.l, encB false m off 0x02 false, none)
  | .ldt64 m q => some (.l, encB false m 0 0x02 true, some q)
  | .ldb acc m off _ => some (.l, encB acc m off 0x03 false, none)
  | .ldb64 acc m off tag => some (.l, encB acc m 0 0x03 true, some (off ++ tag))
  | .ldg acq m off _ => some (.l, encA acq false m off 0x04 false, none)
  | .ldg64 acq m q _ => some (.l, encA acq false m 0 0x04 true, some q)
  | .ldx m off => some (.l, encC m 0x05 off.isSome, off)
  | .atom o off _ => some (.l, b1 o.acq ++ b1 o.rel ++ o.op ++ o.size ++ o.c ++ o.b ++ o.a ++ 0x06#6
      ++ (if off.isSome then 1#2 else 0#2), off)
  | .st m off _ => some (.w, encA false false m off 0x01 false, none)
  | .st64 m q _ => some (.w, encA false false m 0 0x01 true, some q)
  | .stt m off _ => some (.w, encB false m off 0x02 false, none)
  | .stt64 m q _ => some (.w, encB false m 0 0x02 true, some q)
  | .stb acc m off _ => some (.w, encB acc m off 0x03 false, none)
  | .stb64 acc m off tag => some (.w, encB acc m 0 0x03 true, some (off ++ tag))
  | .stg rel m off _ => some (.w, encA false rel m off 0x04 false, none)
  | .stg64 rel m q _ => some (.w, encA false rel m 0 0x04 true, some q)
  | .stx m off _ => some (.w, encC m 0x05 off.isSome, off)
  | .amac o _ => some (.m, encAmac o false, none)
  | .amac64 o _ x => some (.m, encAmac o true, some x.word)
  | .azero b c _ => some (.m, word 0 c b 0 0x02 false, none)
  | .azero64 b c x => some (.m, word 0 c b 0 0x02 true, some x.word)
  | .adrain b c _ => some (.m, word 0 c b 0 0x03 false, none)
  | .adrain64 b c x => some (.m, word 0 c b 0 0x03 true, some x.word)
  | .aswap b _ => some (.m, word 0 0 b 0 0x04 false, none)
  | .aswap64 b x => some (.m, word 0 0 b 0 0x04 true, some x.word)
  | .awrite b c _ => some (.m, word 0 c b 0 0x05 false, none)
  | .awrite64 b c x => some (.m, word 0 c b 0 0x05 true, some x.word)
  | .aop o _ => some (.m, encAop o false, none)
  | .aop64 o x => some (.m, encAop o true, some x.word)
  | .asum o _ => some (.m, encAsum o false, none)
  | .asum64 o x => some (.m, encAsum o true, some x.word)
  | .tmma o => some (.m, encTmma o false, none)
  | .tmma64 o s => some (.m, encTmma o true, some (0#16 ++ s))
  | .cresp o _ => some (.m, encCorr o 0x09 false, none)
  | .cresp64 o x => some (.m, encCorr o 0x09 true, some x.word)
  | .copa o _ => some (.m, encCorr o 0x0A false, none)
  | .copa64 o x => some (.m, encCorr o 0x0A true, some x.word)
  | .copaC o _ => some (.m, encCorr o 0x0B false, none)
  | .copaC64 o x => some (.m, encCorr o 0x0B true, some x.word)
  | .cchk o _ => some (.m, encCchk o false, none)
  | .cchk64 o x => some (.m, encCchk o true, some x.word)
  | .csnapSv a b _ => some (.m, word 0 0 b a 0x0D false, none)
  | .csnapSv64 a b x => some (.m, word 0 0 b a 0x0D true, some x.word)
  | .csnapLd a b _ => some (.m, word 1 0 b a 0x0D false, none)
  | .csnapLd64 a b x => some (.m, word 1 0 b a 0x0D true, some x.word)
  | .br off => some (.c, word24 off 0x01 false, none)
  | .br64 q => some (.c, word24 0 0x01 true, some q)
  | .bz b off => some (.c, wordImm off b 0 0x02 false, none)
  | .bz64 b q => some (.c, word 0 0 b 0 0x02 true, some q)
  | .bnz b off => some (.c, wordImm off b 0 0x03 false, none)
  | .bnz64 b q => some (.c, word 0 0 b 0 0x03 true, some q)
  | .bcc f cc b c off => some (.c, word off c b (b1 f ++ 0#1 ++ cc) 0x04 false, none)
  | .bcc64 f cc b c q => some (.c, word 0 c b (b1 f ++ 0#1 ++ cc) 0x04 true, some q)
  | .call off => some (.c, word24 off 0x05 false, none)
  | .call64 q => some (.c, word24 0 0x05 true, some q)
  | .callr b => some (.c, word 0 0 b 0 0x06 false, none)
  | .ret => some (.c, word24 0 0x07 false, none)
  | .jr b => some (.c, word 0 0 b 0 0x08 false, none)
  | .loop b off => some (.c, wordImm off b 0 0x09 false, none)
  | .loop64 b q => some (.c, word 0 0 b 0 0x09 true, some q)
  | .trap i => some (.c, word24 (i ++ 0#8) 0x0A false, none)
  | .sys i => some (.c, word24 (i ++ 0#8) 0x0B false, none)
  | .endTask => some (.c, word24 0 0x0C false, none)
  | .setf b => some (.c, word 0 0 b 0 0x10 false, none)
  | .setsz r s => some (.c, word (0#5 ++ r ++ b1 s) 0 0 0 0x11 false, none)
  | .frame k => some (.c, word k 0 0 0 0x12 false, none)
  | .beatset b => some (.c, word 0 0 b 0 0x13 false, none)
  | .beatset64 t => some (.c, word24 0 0x13 true, some (0#16 ++ t))
  | .beatnext => some (.c, word24 0 0x14 false, none)
  | .bplan b => some (.c, word 0 0 b 0 0x15 false, none)
  | .bplan64 off => some (.c, word24 0 0x15 true, some (0#12 ++ off))
  | .phase b => some (.c, word 0 0 b 0 0x16 false, none)
  | .bar sc => some (.c, word (0#6 ++ sc) 0 0 0 0x18 false, none)
  | .waitw ch b => some (.c, word 0 0 b (0#2 ++ ch) 0x19 false, none)
  | .waitl b => some (.c, word 0 0 b 0 0x1A false, none)
  | .waitcReg n => some (.c, word24 (n ++ 0#14) 0x1B false, none)
  | .waitcWord b => some (.c, word 0 0 b 1 0x1B false, none)
  | .waitcG b => some (.c, word 0 0 b 3 0x1B false, none)
  | .fence sc m => some (.c, word24 (sc ++ m ++ 0#5) 0x1C false, none)
  | .cinv b c => some (.c, word 0 c b 0 0x1D false, none)
  | .cinvLlc b c => some (.c, word 0 c b 1 0x1D false, none)
  | .cwb b c => some (.c, word 0 c b 0 0x1E false, none)
  | .eret => some (.c, word24 0 0x30 false, none)
  | .rdsys n d => some (.c, word n 0 0 d 0x31 false, none)
  | .wrsys n b => some (.c, word n 0 b 0 0x32 false, none)
  | .ctxsv b => some (.c, word 0 0 b 0 0x33 false, none)
  | .ctxld b => some (.c, word 0 0 b 0 0x34 false, none)
  | .tlbinv b c => some (.c, word 0 c b 0 0x35 false, none)
  | .frz b => some (.c, word 0 0 b 0 0x36 false, none)
  | .lease d b cls prio => some (.e, word (0#3 ++ cls ++ prio ++ 0#1) 0 b d 0x01 false, none)
  | .unlease b => some (.e, word 0 0 b 0 0x02 false, none)
  | .lstat d b => some (.e, word 0 0 b d 0x03 false, none)
  | .xcpy ch o => some (.e, btxWord o ch 0 0x08 false, none)
  | .xcpy64 ch o s => some (.e, btxWord o ch 0 0x08 true, some (0#16 ++ s))
  | .xgth ch n o => some (.e, btxWord o ch n 0x09 false, none)
  | .xgth64 ch n o s => some (.e, btxWord o ch n 0x09 true, some (0#16 ++ s))
  | .xsct ch n o => some (.e, btxWord o ch n 0x0A false, none)
  | .xsct64 ch n o s => some (.e, btxWord o ch n 0x0A true, some (0#16 ++ s))
  | .xpush ch b => some (.e, word (0#3 ++ ch ++ 0#3) 0 b 0 0x0B false, none)
  | .xred o => some (.e, eword o 0 0x10 false, none)
  | .xred64 o s => some (.e, eword o 0 0x10 true, some (0#16 ++ s))
  | .xsrt o => some (.e, eword o 0 0x11 false, none)
  | .xsrt64 o s => some (.e, eword o 0 0x11 true, some (0#16 ++ s))
  | .xmrg o => some (.e, eword o 0 0x12 false, none)
  | .xmrg64 o s => some (.e, eword o 0 0x12 true, some (0#16 ++ s))
  | .xsolv o => some (.e, eword o 0 0x13 false, none)
  | .xsolv64 o s => some (.e, eword o 0 0x13 true, some (0#16 ++ s))
  | .xcoll o => some (.e, eword o 0 0x14 false, none)
  | .xcoll64 o s => some (.e, eword o 0 0x14 true, some (0#16 ++ s))
  | .xqnt o => some (.e, eword o 0 0x15 false, none)
  | .xqnt64 o s => some (.e, eword o 0 0x15 true, some (0#16 ++ s))
  | .xcmp o => some (.e, eword o 0 0x16 false, none)
  | .xcmp64 o s => some (.e, eword o 0 0x16 true, some (0#16 ++ s))
  | .xdcmp o => some (.e, eword o 0 0x17 false, none)
  | .xdcmp64 o s => some (.e, eword o 0 0x17 true, some (0#16 ++ s))
  | .xatt o => some (.e, eword o 0 0x18 false, none)
  | .xatt64 o s => some (.e, eword o 0 0x18 true, some (0#16 ++ s))
  | .xkvt o => some (.e, eword o 0 0x19 false, none)
  | .xkvt64 o s => some (.e, eword o 0 0x19 true, some (0#16 ++ s))
  | .xsplcDone o => some (.e, eword o 1 0x1A false, none)
  | .xsplcDone64 o s => some (.e, eword o 1 0x1A true, some (0#16 ++ s))
  | .xsplc o => some (.e, eword o 0 0x1A false, none)
  | .xsplc64 o s => some (.e, eword o 0 0x1A true, some (0#16 ++ s))
  | .spawn o => some (.e, eword o 0 0x20 false, none)
  | .spawn64 o s => some (.e, eword o 0 0x20 true, some (0#16 ++ s))
  | i => match i.vec with
    | some (k, t, o, r) => some (encVF k t o r)
    | none => none

/-- The prefix words of a prefix set, in ascending class order (R201, R202). -/
def Pfx.words (p : Pfx) : List Word32 :=
  (match p.round with | some m => [0#24 ++ m ++ 0#3 ++ 2#2] | none => [])
  ++ (match p.sat with | some s => [0#26 ++ b1 s ++ 1#3 ++ 2#2] | none => [])
  ++ (match p.stream with | some (k, sc) => [0#20 ++ sc ++ k ++ 2#3 ++ 2#2] | none => [])
  ++ (match p.fmt1, p.fmt2 with
      | none, none => []
      | some f, none => [0#15 ++ 0#1 ++ 0#5 ++ 1#1 ++ f ++ 3#3 ++ 2#2]
      | none, some g => [0#15 ++ 1#1 ++ g ++ 0#1 ++ 0#5 ++ 3#3 ++ 2#2]
      | some f, some g => [0#15 ++ 1#1 ++ g ++ 1#1 ++ f ++ 3#3 ++ 2#2])
  ++ (match p.beat with | some k => [0#19 ++ k ++ 4#3 ++ 2#2] | none => [])
  ++ (match p.rand with | some q => [0#26 ++ b1 q ++ 5#3 ++ 2#2] | none => [])

/-- The slots in the order in which a word without a bundle is tried (the slot is no part of a slot word, R196). (DESIGN CHOICE, log entry 9.) -/
def tableSlots : List Slot := [.v0, .e, .m, .w, .f, .c, .s0, .l]

/-- The word w, with a payload of zeros when its kind is 0b01 (R192). -/
noncomputable def decodeBare (sl : Slot) (w : Word32) : Option Instr :=
  let k := (w.extractLsb' 0 2).toNat
  if k = 0 ∧ w ≠ 0 then (decodeSlot sl w none .empty 0).toOption
  else if k = 1 then (decodeSlot sl w (some 0) .empty 0).toOption
  else none

/-- The first slot of `tableSlots` whose map reads the word. -/
noncomputable def tableSlot (w : Word32) : Option (Slot × Instr) :=
  tableSlots.findSome? fun sl => (decodeBare sl w).map fun i => (sl, i)

/-- The instruction read from the bits w of one table row. Bits above 32 are a payload word, of which the table gives
no bits. -/
noncomputable def decodeTableWord (_nbits w : Nat) : Option Instr :=
  (tableSlot (BitVec.ofNat 32 w)).map (·.2)

end Sys2Proof
end

