-- ==== Sys2Proof/Machine/State.lean ====
section
/-!
DEFINITION. The state of the machine, as plain data: every register, memory, queue and timetable that the specification
names (spec/01 to spec/24), and the state after reset.
-/

namespace Sys2Proof.Machine

/-! ## Outcomes -/

/-- Why a step stops the machine. -/
inductive Fault where
  /-- Raised by a step that names a bay, die, partition, engine or node that does not exist (R8, R12, R387). Safe: the
  specification gives such a step no meaning. -/
  | absent
  deriving DecidableEq, Repr

/-- Why an instruction has no meaning. -/
inductive Refusal where
  /-- Raised by an arm of `exec` whose instruction is not modelled. Safe. -/
  | notModelled (mnemonic : String)
  deriving DecidableEq, Repr

/-! ## Short operations in flight (R90 to R95) -/

/-- Where a short operation's result lands. -/
inductive Dest where
  /-- A scalar register, in the bank of its issue: true names the handler's bank of s24 to s31 (R361). -/
  | scalar (r : Nat) (h : Bool)
  /-- A tile row, 32 × tile + row. -/
  | row (n : Nat)
  /-- A special register of R84, by its number, in the bank of its issue. -/
  | special (n : Nat) (h : Bool)
  /-- Flags of STAT, in the bank of its issue. -/
  | stat (h : Bool)
  deriving DecidableEq, Repr

/-- A result that has not landed: issued at `issued`, it lands on cycle `due`. Only the bits of `mask` are written. While
it waits, a reader finds its destination undefined, unless `soft`. (DEDUCED, log entry 4.) -/
structure Pend where
  dest : Dest
  issued : Nat
  due : Nat
  val : Nat
  mask : Nat
  soft : Bool := false
  /-- The .t form that will write it, 0 for none. -/
  job : Nat := 0
  deriving DecidableEq, Repr

/-- What a .t form still has to do, row by row (R93). -/
inductive JobKind where
  /-- A V or F operation: its word, row word, scalar operand, rounding mode, saturation, sequence, first draw, draws per
  row, and the bound of destination row 0 in cycles after issue. -/
  | vec (k : VKind) (o : VOp) (r : VRow) (sc : Nat) (mode : Nat) (sat common : Bool) (draw per : Nat) (bound : Nat)
  /-- STT: tile, the bay and offset of row 0, and the queue of the 32 entries that follow its own number when the bay is
  another one. -/
  | stt (tile : Nat) (bay : Nat) (addr : Nat) (stream : Nat)
  /-- LDX: data tile, index tile, element bytes, base offset. -/
  | ldx (tile index : Nat) (esz : Nat) (base : Nat)
  /-- STX: data tile, index tile, element bytes, bay, base offset and queue. -/
  | stx (tile index : Nat) (esz : Nat) (bay base : Nat) (stream : Nat)
  deriving DecidableEq, Repr

/-- A .t form in progress: row `row` is read at `next`, a later row `every` cycles after the one before it. The rows read
so far are kept for the forms that write only after reading all. -/
structure Job where
  kind : JobKind
  issued : Nat
  row : Nat
  next : Nat
  every : Nat
  /-- Rows read so far, the last one first. -/
  got : List Row
  /-- Its number, and the bank of STAT for its flags. -/
  id : Nat
  hnd : Bool
  deriving DecidableEq, Repr

/-- A hold set of one long operation (R96, R97): register numbers of R96. `ends` is the cycle on which it ends. -/
structure Hold where
  id : Nat
  dest : Bool
  regs : List Nat
  ends : Option Nat
  deriving DecidableEq, Repr

/-! ## Scratch timeline (R95, R112) -/

/-- A write due on the scratch of a bay: class 0 engine, 1 remote, 2 L slot, 3 W slot, then its order within the class. -/
structure SWrite where
  due : Nat
  cls : Nat
  order : Nat
  addr : Nat
  data : List Byte
  deriving DecidableEq, Repr

/-- What a scratch sample is for. -/
inductive SampleFor where
  /-- LD: first register, sign extension; the banks of the register and of the one after it. -/
  | scalar (r : Nat) (sx h h1 : Bool)
  /-- LDT and LDX: a tile row. -/
  | row (n : Nat)
  deriving DecidableEq, Repr

/-- A load sample due: pieces of `esz` bytes at each address. -/
structure Sample where
  due : Nat
  /-- The number of the load whose results in flight it fills. -/
  id : Nat
  addrs : List Nat
  esz : Nat
  dst : SampleFor
  deriving DecidableEq, Repr

/-! ## The bundle being issued -/

/-- A slot word taken from the instruction stream, with its payload, prefixes and byte offset (R196). -/
structure Item where
  slot : Slot
  word : Word32
  pay : Option Word32
  pfx : Pfx
  off : Nat
  /-- Its two prefixes are of one class (R203). -/
  dup : Bool := false
  deriving DecidableEq, Repr

/-- What keeps a wait bundle from issuing on a cycle (R288): the condition does not hold; a sample of a completion word, and
whether it saw a nonzero STATUS; a barrier at a scope that has not opened. -/
inductive Wait where
  | plain
  | sampled (seen : Bool)
  | bar (scope : Nat)
  deriving DecidableEq, Repr

/-- The bundle at an issue point: what was fetched, and what its slot instructions have asked for so far. -/
structure Cur where
  bay : Nat := 0
  slot : Nat := 0
  pc : Nat := 0
  len : Nat := 0
  gap : Nat := 0
  tport : Nat := 0xFFFF
  head : Word32 := 0
  ext : Option Word32 := none
  items : List Item := []
  /-- The last item lacks its payload word, which could not be fetched. -/
  half : Bool := false
  /-- A fault of the words themselves, in word order after the items (R213 steps 1 and 2). -/
  wordFault : Option Report := none
  /-- The first operand fault that a slot instruction found (R213 step 6). -/
  fault : Option Report := none
  /-- A held-register or full-queue fault found at the issue cycle (R213 step 8). -/
  late : Option Report := none
  /-- Trap taken after the bundle has issued (TRAP, SYS, illegal target). -/
  after : Option Report := none
  /-- The next bundle's address when the bundle does not fall through. -/
  next : Option Nat := none
  /-- Holds that the slot instruction being issued asks for, and those that the slots before it have asked for. -/
  holds : List Hold := []
  asked : List (List Hold) := []
  /-- The fault is one that the handler's own CTXSV, CTXLD, FRZ or TLBINV found (R364). -/
  again : Bool := false
  /-- The wait of the bundle does not end on this cycle. -/
  wait : Option Wait := none
  /-- Draws that the slots so far have claimed of the private and of the common sequence, and LATECNT as a slot has read and
  cleared it: RDS returns what governs the bundle (R107, R228). -/
  drew : Nat := 0
  drewC : Nat := 0
  lateRead : Option Nat := none
  live : Bool := false
  deriving DecidableEq, Repr

/-! ## Stream queues and L1 copies (R108, R110 to R115, R121) -/

/-- A line of global memory: false host, true expander; the line address is the byte address divided by 64. -/
abbrev Line := Bool × Nat

/-- What an entry of a stream queue does. -/
inductive StreamOp where
  /-- LDG: first register, size in bytes, sign extension, handler bank. -/
  | load (r size : Nat) (sx h : Bool)
  /-- STG: the bytes. -/
  | store (data : List Byte)
  /-- ATOM.op: destination, size, operation, operand, compare value, handler bank. -/
  | atom (r size op : Nat) (v cmp : Word) (h : Bool)
  /-- A remote-scratch write: pieces in order, each an offset and its bytes. -/
  | remote (bay : Nat) (pieces : List (Nat × List Byte))
  /-- A marker of FENCE or BAR, by its number. -/
  | marker (n : Nat)
  deriving DecidableEq, Repr

/-- Where an entry stands. (DEDUCED, log entry 135.) -/
inductive EStage where
  /-- In its queue. -/
  | queued
  /-- At its home, waiting for the host's answer on its line (R381). -/
  | owner
  /-- Parked in the replay queue on a 64 KiB page (R350). -/
  | parked (page : Nat)
  deriving DecidableEq, Repr

/-- An entry of a stream queue. -/
structure SEntry where
  id : Nat
  op : StreamOp
  va : Word
  scope : Nat
  acq : Bool
  rel : Bool
  /-- The cycle before which the machine does not deliver it. -/
  notBefore : Nat
  hold : Nat
  pc : Nat
  stage : EStage := .queued
  /-- A refusal of its page request (R351). -/
  refused : Bool := false
  /-- The words of its instruction and its scalar operands, for a context save (R373). -/
  item : Option Item := none
  ops : List Word := []
  /-- Issued in handler mode. -/
  priv : Bool := false
  deriving DecidableEq, Repr

/-- A report on its way to a task: its bay, the number of the task, whether a handler's own access caused it, and the cycle
before which it does not arrive. -/
structure Mail where
  bay : Nat
  task : Nat
  rep : Report
  own : Bool := false
  from_ : Nat := 0
  deriving DecidableEq, Repr

/-- A device write to a host line that the host port has not acknowledged (R123). -/
structure HostAck where
  line : Nat
  bay : Nat
  task : Nat
  id : Nat
  at_ : Nat
  /-- The write of an engine command. -/
  eng : Bool := false
  /-- The stream queue of a task's write (R121). -/
  q : Nat := 0
  /-- The bytes of the line before the write, for a write that is lost (R379). -/
  old : List Byte := []
  deriving DecidableEq, Repr

/-- What stands in a home intake: an entry of a stream queue (bay, queue, number), or an access of a command (bay, number). -/
inductive ArrivalOf where
  | entry (bay q id : Nat)
  | cmd (bay id : Nat)
  deriving DecidableEq, Repr

/-- An entry of a home intake (R108, R114): its slice, numbered 32 × die + slice of the die, its cycle of arrival and its
source id. -/
structure Arrival where
  slice : Nat
  at_ : Nat
  src : Nat
  what : ArrivalOf
  deriving DecidableEq, Repr

/-- A line of an LLC slice: its way, and whether it has been written since it was taken from its memory (R11). -/
structure LlcLine where
  line : Line
  way : Nat
  dirty : Bool
  deriving DecidableEq, Repr

/-- A fence or a barrier whose markers stand in queues (R121, R292). -/
structure Fence where
  n : Nat
  scope : Nat
  mask : Nat
  bar : Bool
  deriving DecidableEq, Repr

/-! ## Beat work (R48 to R76, R129 to R140) -/

/-- The tile descriptor of R130. -/
structure TileDesc where
  ncol : Nat
  nrow : Nat
  arow : Nat
  nb : Nat
  bank0 : Nat
  errlim : Nat
  divlim : Nat
  raw : Word
  deriving DecidableEq, Repr

/-- An in-array operation with the scalar operands it read at issue; tile rows are named by 32 × tile + row and are read
while it runs, under its source holds. -/
inductive ArrayOp where
  /-- AMAC (R71): first streamed row, rows and segments, bank set, weight row, accumulator row, formats, first row of the
  scales, ACCM. -/
  | amac (src n g bank0 nb wrow a0 sfmt wfmt scale : Nat) (zero : Bool)
  | azero (bank0 nb arow cnt : Nat)
  | adrain (bank0 nb arow cnt brow side : Nat) (bf16 hi zero : Bool)
  /-- AOP (R74): type, saturation, operation, bank set, side, destination and source rows, count, constant or k. -/
  | aop (ty : Nat) (sat : Bool) (op bank0 nb side d a b n c : Nat)
  /-- ASUM (R75): format, half, bank set, accumulator row, rows, side, first beat row. -/
  | asum (bf16 hi : Bool) (bank0 nb arow n side row : Nat)
  /-- CRESP (R135): descriptor, first key row, keys, first response row. -/
  | cresp (t : TileDesc) (key n dst : Nat)
  /-- COPA (R134): descriptor, first key and value rows, keys, step register, first error row. -/
  | copa (t : TileDesc) (key val n : Nat) (b : BitVec 128) (err : Option Nat)
  /-- COPA.C (R137): descriptor, first key and error rows, keys, DIVMODE. -/
  | copac (t : TileDesc) (key err n div : Nat)
  /-- CCHK (R138): descriptor, first error row, error rows checked. -/
  | cchk (t : TileDesc) (err n : Nat)
  /-- CSNAP (R140): true for LD; descriptor, side, first beat row. -/
  | csnap (ld : Bool) (t : TileDesc) (side rowb : Nat)
  deriving DecidableEq, Repr

/-- What an entry of a beat queue does. -/
inductive BeatOp where
  | load (acc : Bool) (addr : Nat) (rows : List Nat)
  | store (acc : Bool) (addr : Nat) (data : List Row)
  | awrite (src bank0 nb row nrow : Nat)
  | aswap (bank0 nb : Nat)
  | array (op : ArrayOp)
  deriving DecidableEq, Repr

/-- A beat-tagged instruction (R56). -/
structure BEntry where
  /-- Issue order within its task. -/
  id : Nat
  bay : Nat
  task : Nat
  /-- The beat it names, or the beat that applies it once it is carried; and the tag it was given. -/
  beat : Int
  tag : Nat
  op : BeatOp
  strict : Bool
  hold : Nat
  pc : Nat
  /-- Its address for a syndrome (R56, R57). -/
  where_ : Nat
  /-- The cycle on which it reaches its queue. -/
  due : Nat
  carried : Bool := false
  served : Bool := false
  /-- AWRITE: the bytes sampled so far. -/
  got : List Byte := []
  /-- The cycle before which it is not served, or the next piece not sampled. -/
  next : Nat := 0
  item : Option Item := none
  ops : List Word := []
  /-- The ASID and the page of the translation that it uses (R348). -/
  use : Option (Nat × Nat) := none
  deriving DecidableEq, Repr

/-- The in-array operation that runs on a bay: its entry, its start moved by every forced window (for a frozen one, the cycles
it has run), the commit points passed, and the rows and flags formed so far. -/
structure Running where
  entry : BEntry
  start : Nat
  done : Nat := 0
  out : List (List Nat) := []
  flags : Word := 0
  /-- Abandoned: it stops at its next commit point (R63). -/
  stop : Bool := false
  deriving DecidableEq, Repr

/-- A load served for another bay whose rows have not landed (R310). -/
structure RemoteLand where
  id : Nat
  task : Nat
  hold : Nat
  rows : List (Nat × Row)
  due : Nat
  deriving DecidableEq, Repr

/-- A TMMA in progress (R274). -/
structure Tmma where
  op : TmmaOp
  start : Nat
  hold : Nat
  src : List (List Row) := []
  /-- It has read a poisoned row, and writes nothing (R47). -/
  bad : Bool := false
  deriving DecidableEq, Repr

/-! ## Translations -/

/-- Translation of an access (R343): memory (0 host, 1 expander, 2 beat), physical address of the byte, leaf words 0 to 2,
page size, and the address of the leaf. -/
structure Leaf where
  tgt : Nat
  pa : Nat
  w0 : Nat
  w1 : Nat
  const : Nat
  size : Nat
  level : Nat
  leafMem : Bool
  leafAddr : Nat
  deriving DecidableEq, Repr

/-! ## Engines (R118, R141 to R163) -/

/-- An address in a space of R161. -/
structure SAddr where
  space : Nat
  addr : Nat
  deriving DecidableEq, Repr

/-- The commands, with the operands read at issue. -/
inductive CmdKind where
  | xcpy (src dst : SAddr) (len : Nat)
  | xgth (own tbl : SAddr) (rlen nrows n : Nat)
  | xsct (own tbl : SAddr) (rlen nrows n : Nat)
  | xred | xsrt | xmrg | xsolv | xcoll | xqnt | xcmp | xdcmp | xatt | xkvt | xsplc
  | xsplcDone (rec : Nat)
  | spawn (rcb : Word)
  deriving DecidableEq, Repr

/-- One of the accesses that a running command still makes. -/
inductive Micro where
  /-- Read bytes; they join the command's buffer. -/
  | read (a : SAddr) (n : Nat)
  /-- Write bytes; `own` is how far into the destination range they begin, when they count for the watermark (R162). -/
  | write (a : SAddr) (data : List Byte) (own : Option Nat := none)
  /-- Pop an index of the address queue (R163). -/
  | pop
  deriving DecidableEq, Repr

/-- A partial result of attention: m, l and o as FP32 patterns (R172). -/
structure Triple where
  m : Nat
  l : Nat
  o : List Nat
  deriving DecidableEq, Repr

/-- A logical block that a running XATT has looked up: its index and its entry (R167, R168). -/
structure AttEntry where
  b : Nat
  addr : Word
  rbase : Nat
  nvalid : Nat
  deriving DecidableEq, Repr

/-- What a running XATT has formed: its start, the entries sampled, the triple of each block, slice and query, whether each
query met a NaN or +∞, the slices whose triples have arrived, and whether a window masked a token (R168 to R174). -/
structure AttRun where
  entries : List AttEntry := []
  parts : List (Nat × Nat × Nat × Triple) := []
  arrived : List Nat := []
  nanq : List Nat := []
  wpend : Bool := false
  windows : List (Nat × Nat) := []
  deriving DecidableEq, Repr

/-- A page that a command has translated: the 64 KiB granule of its first use, the leaf found, and the run of frames pinned
(memory, first frame, frames), none when the page takes no pin (R353, R358). -/
structure Pin where
  page : Nat
  leaf : Leaf
  run : Option (Bool × Nat × Nat)
  deriving DecidableEq, Repr

/-- An accepted command (R153). -/
structure Cmd where
  id : Nat
  bay : Nat
  task : Nat
  kind : CmdKind
  /-- Its issue cycle and its absolute cycle (R153). -/
  issued : Nat
  abs : Nat
  acq : Bool := false
  rel : Bool := false
  wg : Bool := false
  scope : Nat := 3
  stream : Nat := 0
  /-- The offset of its parameter block, its completion word, and its lease record (R296). -/
  par : Nat := 0
  word : Word
  lease : Nat := 0
  part : Nat
  asid : Nat
  node : Nat
  priv : Bool
  /-- Order of acceptance within the partition. -/
  order : Nat
  started : Option Nat := none
  todo : List Micro := []
  /-- Writes that it leaves until its last ones, so that its word may go before them (R118). -/
  late : List Micro := []
  /-- How far the rule of the command has been worked through. -/
  stage : Nat := 0
  buf : List Byte := []
  params : List Byte := []
  regs : List Nat := []
  count : Nat := 0
  /-- Next cycle on which an access may be performed. -/
  next : Nat := 0
  /-- Cycle of the last pop (R163). -/
  popped : Nat := 0
  /-- STATUS and CAUSE once decided. -/
  result : Option (Nat × Nat) := none
  /-- Destination bytes written, as a contiguous count from the base (R162), and the other written ranges. -/
  wm : Nat := 0
  wrote : List (Nat × Nat) := []
  /-- Writes performed that a beat close has not applied (R116). -/
  pendingBeat : Nat := 0
  /-- Pages translated and still in use. -/
  pinned : List Pin := []
  /-- Bytes of its output performed (R155). -/
  put : Nat := 0
  /-- Its word has been written ahead of the writes that are left (R118). -/
  tail : Bool := false
  /-- Its lease has been given up (R150). -/
  past : Bool := false
  att : AttRun := ({ } : AttRun)
  /-- The page on which it is parked (R349). -/
  parked : Option Nat := none
  /-- The command has met a line of the host and waits for the answer (R381). -/
  owner : Bool := false
  item : Option Item := none
  /-- Scalar operands read at issue, in port order (R373). -/
  ops : List Word := []
  deriving DecidableEq, Repr

/-- One channel of a block-transfer engine (R160). -/
structure Channel where
  buf : List Cmd := []
  /-- The address queue: each index with the cycle of its push (R163). -/
  queue : List (Nat × Nat) := []
  /-- The watermark that the last command left. -/
  wm : Nat := 0
  deriving DecidableEq, Repr

/-- A write of an engine to beat memory or accumulators, to be applied at the close of an access beat (R116, R318). -/
structure EngWrite where
  beat : Nat
  bay : Nat
  /-- Channel, or 256 + lease INDEX, and the cycle on which the engine performed it (R55). -/
  unit : Nat
  order : Nat
  /-- The number of its command, and how far into the destination it lies. -/
  cmd : Nat
  own : Option Nat
  acc : Bool
  addr : Nat
  data : List Byte
  deriving DecidableEq, Repr

/-- The KV address generator of R166. -/
structure KvGen where
  rope : Bool
  dh : Nat
  nblk : Nat
  tbl : Nat
  qstr : Nat
  hstr : Nat
  freq : List Nat
  deriving DecidableEq, Repr

/-- A tack engine (R142). Power: 0 cold, 1 drowsy, 2 awake. -/
structure Eng where
  power : Nat := 0
  /-- Cycle on which it became drowsy, or is due to become drowsy when a reservation wakes it (R147). -/
  since : Nat := 0
  /-- The node whose reservation it belongs to. -/
  reserved : Option Nat := none
  /-- The nodes out of whose reservations it has been carved, the last one first (R328). -/
  lenders : List Nat := []
  lease : Option Nat := none
  cmds : List Cmd := []
  gen : Option KvGen := none
  /-- Open splice records: record, first token, window (R177). -/
  splices : List (Nat × Nat × Nat) := []
  /-- Given up by UNLEASE, still finishing (R150). -/
  closing : Bool := false
  /-- The cycles from which the engine, and the saddle that it gave up, may be granted (R148). -/
  freeAt : Nat := 0
  saddleAt : Nat := 0
  deriving DecidableEq, Repr

/-- A lease record (R145, R150). State: 0 FREE, 1 QUEUED, 2 WAKING, 3 READY, 4 EVICTED. -/
structure Lease where
  gen : Nat := 0
  state : Nat := 0
  cls : Nat := 0
  bay : Nat := 0
  task : Nat := 0
  prio : Nat := 0
  reserved : Bool := false
  deadline : Option Nat := none
  /-- The distance of the deadline from FB, while the task is saved (R144). -/
  paused : Option Int := none
  requested : Nat := 0
  granted : Nat := 0
  readyAt : Nat := 0
  unit : Nat := 0
  /-- Victim: end of the grace, and the record of the evicting lease. -/
  notice : Option (Nat × Nat) := none
  /-- Evicting lease: the record of its victim. -/
  victim : Option Nat := none
  /-- Why it waits outside the class queues with its grant assured: 1 an evicting lease for an engine, 2 a lease within a
  reservation for a saddle, 3 an evicting lease for the saddle that the commands of an earlier lease still use, 0 neither. (DESIGN
  CHOICE, log entry 146.) -/
  aside : Nat := 0
  /-- How many of those ahead of it in its queue at its deadline have been withdrawn (R149). -/
  passed : Nat := 0
  cmds : List Cmd := []
  deriving DecidableEq, Repr

/-! ## Waits and phase sets -/

/-- A range of a phase table (R103). -/
structure PhaseRange where
  base : Nat
  len : Nat
  space : Nat
  w : Bool
  deriving DecidableEq, Repr

/-- An agent of a phase table and its ranges. -/
structure PhaseAgent where
  agent : Nat
  ranges : List PhaseRange
  deriving DecidableEq, Repr

/-- A non-leaf entry of a translation cache (R348): the entry of a level under which the upper address bits are
`tag`, and the memory and address of the table that it names. -/
structure TableEntry where
  part : Nat
  asid : Nat
  level : Nat
  tag : Nat
  mem : Bool
  table : Nat
  deriving DecidableEq, Repr

/-- A translation cache entry: ASID, page number at 64 KiB, and the leaf (R348). -/
structure TlbEntry where
  part : Nat
  asid : Nat
  page : Nat
  leaf : Leaf
  deriving DecidableEq, Repr

/-! ## The bay (R9, R80 to R107, R361 to R375) -/

/-- Placement of a task on a bay. -/
structure Task where
  /-- A number of its own: 2^32 × node + TASKID. -/
  uid : Nat
  node : Nat
  gang : Nat
  taskid : Nat
  coord : Word
  asid : Nat
  seed : Nat
  d : Bool
  cls : Nat
  part : Nat
  deriving DecidableEq, Repr

/-- A context save in progress (R369): its address, the cycle f of step 2, and the window W; true when the part itself
saves; whether step 2 has been made, and whether the save stops there (R370). (DEDUCED, log entry 71.) -/
structure Save where
  addr : Word
  f : Nat
  w : Nat
  own : Bool
  froze : Bool := false
  frz : Bool := false
  /-- The part has taken over the save: the bay is given back when it ends (R336). -/
  leave : Bool := false
  deriving DecidableEq, Repr

/-- A replay record (R372): issue order, unit, kind, and the words of the instruction with its prefixes, its beat tag in task
terms, and its scalar operands in port order. -/
structure Replay where
  order : Nat
  unit : Nat
  slot : Nat
  kind : Nat
  word : Word32
  pay : Word32
  tag : Nat
  pfx : List Word32
  ops : List Word
  deriving DecidableEq, Repr

/-- Everything a bay holds. (DESIGN CHOICE, log entry 1.) -/
structure Bay where
  task : Option Task := none
  /-- s0 to s31 of the task, by number. -/
  sreg : Tbl Word := []
  /-- The handler's s24 to s31 (R361). -/
  hreg : Tbl Word := []
  /-- Tile rows, 32 × tile + row. -/
  tiles : Tbl (Option Row) := []
  /-- What a row that the task has not written reads as: 0 after reset, free after placement (R81). -/
  tileSeed : Option Nat := none
  b0 : BitVec 128 := 0x3F800000000000000000000000000000#128
  b1 : BitVec 128 := 0x3F800000000000000000000000000000#128
  b2 : BitVec 128 := 0x3F800000000000000000000000000000#128
  b3 : BitVec 128 := 0x3F800000000000000000000000000000#128
  stat : Word := 0
  fmt : Word := 0x028A
  hstat : Word := 0
  hfmt : Word := 0x028A
  dbeat : Word := 0
  beatctl : Word := 0x10000000
  latecnt : Nat := 0
  /-- Carries counted on this very cycle (R228). -/
  lateNow : Nat := 0
  rqpos : Word := 0
  rqposc : Word := 0
  /-- FB as an absolute cycle; it is set at the first bundle of the task while `fresh` (R86). -/
  fb : Int := 0
  fresh : Bool := false
  -- issue point
  pc : Nat := 0
  /-- The branching bundle, for the target check of R198. -/
  from_ : Nat := 0
  /-- The next bundle is a branch target, an entry point or an ERET target still to be checked. -/
  checkTarget : Bool := false
  nextAt : Nat := 0
  /-- The cycle before which the gap of the last bundle, or a PHASE, lets no bundle reach its issue point (R195, R287). -/
  stopTo : Nat := 0
  handler : Bool := false
  /-- END executed, and the header of its bundle (R282). -/
  ended : Option Nat := none
  /-- Stopped for good by a double trap (R364). -/
  stopped : Bool := false
  /-- A word form of WAITC saw a nonzero STATUS on this cycle. -/
  waitSeen : Option Nat := none
  /-- The bundle at the issue point has begun to wait (its word address has been checked). -/
  waiting : Bool := false
  /-- CINV.llc (true) or CWB in progress: stores with a smaller number to the range are waited for; address and length. -/
  cacheWait : Option (Nat × Nat × Nat × Bool) := none
  /-- Beat-queue entries, by bay and number, on which a TLBINV in progress waits (R348). -/
  tlbWait : List (Nat × Nat) := []
  /-- Commands, by bay and number, that hold a translation without a pin on which it waits, with the page. -/
  tlbCmds : List (Nat × Nat × Nat) := []
  save : Option Save := none
  /-- Records taken by a save, or still to be reissued by a restore (R369, R373). -/
  replay : List Replay := []
  /-- FRZ has frozen into this address (R370). -/
  frozenAt : Option Word := none
  /-- The bay holds no task context after CTXSV (R371). -/
  empty : Bool := false
  /-- Arrived at the barrier (R292); markers of it stand. -/
  arrived : Bool := false
  barFence : Option Nat := none
  /-- The barrier has opened: the bundle may issue from this cycle. -/
  barOpen : Option Nat := none
  -- short operations
  pends : List Pend := []
  jobs : List Job := []
  /-- The first cycle on which a slot, by its code, and a tile port are no longer occupied (R93). -/
  slotBusy : Tbl Nat := []
  portBusy : Tbl Nat := []
  /-- Latest cycle by which every short operation issued has landed and every .t form has left its slot (R195). -/
  drainAt : Nat := 0
  -- holds and numbering
  holds : List Hold := []
  opCount : Nat := 0
  -- scratch timeline
  swrites : List SWrite := []
  samples : List Sample := []
  -- streams
  sq : Tbl (List SEntry) := []
  sqLast : Tbl Nat := []
  fences : List Fence := []
  fenceCount : Nat := 0
  l1 : List Line := []
  /-- The instruction cache of 64 KiB: lines with their bytes, the oldest first (R9). -/
  icache : List (Line × List Byte) := []
  /-- The lines of code that the task has used, while they may be all of its code and it has taken no trap (R311). -/
  resident : Option (List Line) := none
  l1data : Memory := []
  l1ext : Memory := []
  -- beats
  bq : List BEntry := []
  /-- Beat-tagged instructions of this bay on their way to another bay. -/
  transit : List BEntry := []
  running : Option Running := none
  landing : List RemoteLand := []
  tmmas : List Tmma := []
  plan : List (Nat × Nat) := []
  /-- The issue cycle of the BPLAN in force. -/
  planAt : Nat := 0
  /-- BPLAN tables to be sampled: offset, issue cycle, BEATNO at issue, and the task. -/
  plans : List (Nat × Nat × Nat × Nat) := []
  /-- Banks whose side B is worn. -/
  wornB : List Nat := []
  forms : Tbl Nat := []
  bform : Word := 0
  frozen : List Running := []
  -- engines of the bay
  btx : Tbl Channel := []
  /-- The cycle from which the block-transfer engine may move bytes (R160). -/
  btxNext : Nat := 0
  phase : List PhaseAgent := []
  phaseOn : Bool := false
  -- traps
  cause : Word := 0
  trappc : Word := 0
  info0 : Word := 0
  info1 : Word := 0
  info2 : Word := 0
  info3 : Word := 0
  ctxbase : Word := 0
  beatoff : Int := 0
  reports : List Report := []
  lost : Bool := false
  preempt : Bool := false
  /-- A precise or after trap to take at this boundary. -/
  due : Option Report := none
  /-- Throttled until this cycle (R334). -/
  throttled : Nat := 0
  /-- FC and BEATNO at step 2 of a context save, and its cycle when FRZ made it (R369, R370). -/
  fcSaved : Int := 0
  beatSaved : Nat := 0
  frozenFrom : Nat := 0
  /-- The bay holds the saved context of a preempted task (R376). -/
  lent : Bool := false
  deriving DecidableEq, Repr

/-- A channel as it is after reset. -/
def Channel.reset : Channel := { }

/-- A bay as it is after reset. -/
def Bay.reset : Bay := { }

/-! ## Dies, partitions and the package -/

/-- A page group of the replay queue (R350): ASID, page, whether C or E caused it, whether it writes. -/
structure PageGroup where
  asid : Nat
  page : Nat
  form : Bool
  wr : Bool
  /-- The PASID that its page request carries (R351). -/
  pasid : Nat := 0
  deriving DecidableEq, Repr

/-- What waits in a replay queue: an entry of a stream queue (bay, queue, number), a command of an engine, or the scheduler. -/
inductive Parked where
  | entry (bay q id : Nat)
  | cmd (eng : Engine) (id : Nat)
  /-- An access of the scheduler for a node (R325). -/
  | sched (node : Nat)
  deriving DecidableEq, Repr

/-- An entry of a replay queue: its page group, the node of its task, and what waits. -/
structure Park where
  asid : Nat
  page : Nat
  node : Nat
  what : Parked
  deriving DecidableEq, Repr

/-- A die. -/
structure Die where
  /-- The next refresh window, the end of the window that runs, and the owed windows (R64 to R67). -/
  rfnext : Nat := 0x2000
  rfend : Nat := 0
  rfdebt : Nat := 0
  /-- Windows forced into the open beat, and the end of the owed windows that opened it (R310). -/
  forced : Nat := 0
  owedEnd : Nat := 0
  /-- Temperature in 1/16 °C, thermal state, and how many periods running have been cool (R397, R398). -/
  temp : Nat := 0
  thermal : Nat := 0
  coolPeriods : Nat := 0
  drowsyhold : Word := 0x10000
  engines : Tbl Eng := []
  leases : Tbl Lease := []
  groups : List PageGroup := []
  /-- Entries parked, in the order in which they were parked. -/
  parked : List Park := []
  raserr : Word := 0
  /-- The cycle of the recorded error (R400). -/
  rasAt : Nat := 0
  rasaddr : Word := 0
  pinq : Word := 0
  /-- Ready queues by class, and the deficits of leaves (R332). -/
  ready : Tbl (List Nat) := []
  deficit : Tbl Int := []
  /-- The waiting head: its class and leaf. -/
  head : Option (Nat × Nat) := none
  /-- Bays have become free, or gangs have been queued, since the scheduler last looked (R332). -/
  sched : Bool := false
  /-- The cycle from which grants resume after thermal state T2 (R398). -/
  grantAt : Nat := 0
  /-- The cycles from which saddles that no engine held may be granted (R148). -/
  spare : List Nat := []
  /-- The last period of TIME whose boundary the die has acted on (R398). -/
  periodSeen : Nat := 0
  deriving DecidableEq, Repr

/-- A die as it is after reset. -/
def Die.reset : Die := { }

/-- A tack engine as it is after reset: cold. -/
def Eng.reset : Eng := { }

/-- A lease record as it is after reset: FREE. -/
def Lease.reset : Lease := { }

/-- A partition (R387). -/
structure Part where
  beatno : Nat := 0
  /-- Cycle on which the open beat opened, and its planned length (R60). -/
  opened : Nat := 0
  planned : Nat := 0x400
  /-- Cycle on which the partition was formed: CYCLE counts from it. -/
  formed : Nat := 0
  plandef : Word := 0x400
  trapvec : Word := 0
  rgnanch : Word := 0
  asidtb : Word := 0
  hwtab : Word := 0
  fpool : Word := 0
  preempt : Word := 0
  rgnkill : Word := 0
  /-- Beat memory and accumulators as at the close of the last compute beat (R116). -/
  snapBeat : Memory := []
  snapAcc : Memory := []
  /-- The rows that were poisoned at that close (R79). -/
  snapPoisonBeat : List Nat := []
  snapPoisonAcc : List Nat := []
  engWrites : List EngWrite := []
  /-- Host requests to beat memory, with the beat that serves them: writes as address and data, and reads (R117). -/
  hostWrites : List (Nat × Nat × List Byte) := []
  hostReads : List (Nat × HostReq) := []
  /-- Bays that have acted at the overrun limit of the open beat. -/
  overrun : List Nat := []
  stopped : Bool := false
  /-- The cause with which the partition stops once its nodes have been killed (R389). -/
  stopping : Option Nat := none
  engCount : Nat := 0
  /-- Frame runs replaced by an engine's swap: first frame and length (R357). -/
  freeing : List (Nat × Nat) := []
  deriving DecidableEq, Repr

def Part.reset : Part := { }

/-- A gang of a leaf that has been placed. State: 0 not placed, 1 placed, 2 being saved, 3 saved, 4 to be restored. -/
structure Gang where
  state : Nat := 0
  die : Nat := 0
  bays : List Nat := []
  placed : Nat := 0
  /-- The amount prepaid for it, and its bay-cycles up to its last save (R332). -/
  paid : Nat := 0
  used : Nat := 0
  /-- TASKIDs that have ended, and those that have been saved after their END (R292). -/
  ended : List Nat := []
  quit : List Nat := []
  deriving DecidableEq, Repr

/-- A gang that has not been placed. -/
def Gang.reset : Gang := { }

/-- A node of the tree of regions, with the values read at admission and its effective fields (R319, R320, R326). -/
structure Node where
  addr : Nat
  part : Nat
  parent : Option Nat := none
  slot : Nat := 0
  depth : Nat := 0
  state : Nat := 0
  cause : Nat := 0
  leaf : Bool := false
  d : Bool := false
  prio : Nat := 0
  fpol : Nat := 0
  weight : Nat := 1
  diem : Nat := 0
  bays : Nat := 0
  rqs : Nat := 0
  llcw : Nat := 0
  sadl : Nat := 0
  beatq : Nat := 0
  asid : Nat := 0
  entry : Nat := 0
  gang : Nat := 0
  gx : Nat := 0
  gy : Nat := 0
  gz : Nat := 0
  seed : Nat := 0
  ctab : Nat := 0
  ctabn : Nat := 0
  save : Nat := 0
  sigs : List Nat := []
  args : List Nat := []
  /-- Live gangs by number; the next gang to be placed for each position in DIEM; gangs that are over (R331). -/
  gangs : Tbl Gang := []
  nextG : Tbl Nat := []
  gone : Nat := 0
  dying : Bool := false
  /-- DEP has been at or below zero since the node is WAITING (R327). -/
  met : Bool := false
  /-- The word of POSTED as the scheduler last saw it, and the slots whose RCB could not be read (R323, R325). -/
  seen : Option Nat := none
  stuck : List Nat := []
  /-- Pages that the scheduler has asked for. -/
  asked : List Nat := []
  /-- Dies on which the reservation has been made, with the launch cycle (R331, R147). -/
  launched : List (Nat × Nat) := []
  deriving DecidableEq, Repr

/-- What a write of the scheduler does to an 8-byte word: it stores it, adds to it, or sets the state bits of a slot. -/
inductive SchedOp where
  | put (v : Nat)
  | add (d : Int)
  | slot (st : Nat)
  deriving DecidableEq, Repr

/-- A write of the scheduler for a node, that waits for its page or its line (R326, R329). -/
structure SchedWrite where
  node : Nat
  part : Nat
  asid : Nat
  va : Nat
  op : SchedOp
  deriving DecidableEq, Repr

/-- What the part keeps for an opaque freeze section (R372): the in-array operations of a task, whether it had not issued its
first bundle (R86), and whether a report for it has been dropped (R366). -/
structure Frozen where
  runs : List Running := []
  fresh : Bool := false
  lost : Bool := false
  deriving DecidableEq, Repr

/-- A collective round at the switch (R386). State: 0 open, 1 committed, 2 abandoned. -/
structure Round where
  group : Nat
  round : Nat
  first : Nat
  state : Nat := 0
  cons : List Contribution := []
  /-- Ranks that have taken the outcome. -/
  took : List Nat := []
  deriving DecidableEq, Repr

/-- A Jexvik link (R384). -/
structure Link where
  up : Bool := true
  /-- Next flit of each virtual channel, and the types and payloads of its flits that make up no contribution yet. -/
  expect : Tbl Nat := []
  parts : Tbl (List (Nat × BitVec 1920)) := []
  /-- The cycle on which each virtual channel asked for a replay that is still out. -/
  replay : Tbl (Option Nat) := []
  /-- The next flit that is sent on each virtual channel, and the replay buffer of those sent. -/
  next : Tbl Nat := []
  sent : List Flit := []
  deriving DecidableEq, Repr

def Link.reset : Link := { }

/-- Bytes of a .data that the loader writes (R190): the partition and RCB of the region, whether they stand in the beat column or in
scratch, and where. -/
structure Image where
  part : Nat
  rcb : Nat
  beat : Bool
  off : Nat
  data : List Byte
  deriving DecidableEq, Repr

/-- The package: management registers, host port, links and security (R378 to R400). -/
structure Pkg where
  partcfg : Nat := 0
  /-- The PID fields in force: those of the last forming (R387). -/
  pids : Nat := 0
  partstat : Nat := 0
  grptab : Word := 0
  keyctl : Word := 0
  keydata : Tbl Byte := []
  /-- Loaded key slots: the data key and tweak key. -/
  keys : Tbl Nat := []
  ready : Nat := 0
  fwctl : Word := 0
  /-- The flash holds an image, its bytes and whether it is whole. -/
  flash : List Byte := Config.factoryImage
  flashWhole : Bool := true
  recovery : Bool := false
  /-- The recovery ROM has still to run (R395). -/
  poweron : Bool := true
  measureRom : BitVec 512 := 0
  measureFw : BitVec 512 := 0
  fwDue : Option Nat := none
  pkgpwr : Word := 0
  frzver : Nat := 1
  /-- Upstream ports up. -/
  ports : List Nat := []
  /-- Downstream ports: populated, and down. -/
  expanders : Nat := 0
  expDown : List Nat := []
  links : Tbl Link := []
  acks : List HostAck := []
  /-- The home intakes of the slices: what has arrived and has not been performed (R108). -/
  intake : List Arrival := []
  /-- The cycle after the last one on which homes performed requests of the host (R114, R117). -/
  hostServed : Nat := 0
  /-- The lines that the LLC slices hold, by slice (R11). -/
  llc : Tbl (List LlcLine) := []
  /-- Host lines that a home slice owns, those of which it holds a shared copy (R381), and expander lines that the host holds
  (R125). -/
  sliceOwns : List Nat := []
  sliceShares : List Nat := []
  hostOwns : List Nat := []
  /-- What the host's HDM decoders open: the beat range, and extents of expander memory (R380). -/
  beatOpen : Bool := false
  expOpen : List (Nat × Nat) := []
  /-- The .data that the loader writes (R190). -/
  images : List Image := []
  /-- MSI-X vectors raised. -/
  msix : List Nat := []
  /-- Responses given to the host: a kind (0 data, 1 poison, 2 a register, 256 + code of an SPDM answer) and bytes. -/
  hostData : List (Nat × List Byte) := []
  spdmState : Nat := 0
  /-- Page requests sent (R351). -/
  pageReqs : List PageGroup := []
  /-- Pins held: runs of frames of host (false) and expander memory (R353). -/
  pins : List (Bool × Nat × Nat) := []
  poisonBeat : List Nat := []
  poisonAcc : List Nat := []
  poisonScratch : List Nat := []
  poisonLlc : List Line := []
  poisonTile : List Nat := []
  nodes : Tbl (Option Node) := []
  nodeCount : Nat := 0
  /-- Writes of the scheduler that have still to be made, in their order. -/
  schedWrites : List SchedWrite := []
  /-- The reports on their way. -/
  outbox : List Mail := []
  rounds : List Round := []
  /-- What the opaque freeze sections of images name (R372), and how many have been written. -/
  freezes : Tbl Frozen := []
  freezeCount : Nat := 0
  /-- The write key of each encrypted expander line (R390). -/
  lineKey : Tbl Nat := []
  deriving DecidableEq, Repr

/-! ## The whole state -/

/-- The state of the machine. -/
structure State where
  /-- The current cycle. -/
  now : Nat
  bays : Tbl Bay
  dies : Tbl Die
  parts : Tbl Part
  pkg : Pkg
  /-- Scratch: key 2^20 × bay + offset. -/
  scratch : Memory
  /-- Beat memory by the physical beat address of R48. -/
  beat : Memory
  /-- Bank accumulators by the accumulator address of R261. -/
  acc : Memory
  host : Memory
  expander : Memory
  tlb : List TlbEntry
  /-- Non-leaf entries of the translation caches (R348). -/
  tables : List TableEntry
  cur : Cur
  /-- What the outside world will do: a cycle and a step of the machine. -/
  inputs : List (Nat × Instr)
  deriving DecidableEq, Repr

/-- The machine right after reset: no task is placed, every memory lists nothing, every register has its reset value, and
the recovery ROM is about to run. -/
def State.reset : State where
  now := 0
  bays := []
  dies := []
  parts := []
  pkg := ({ } : Pkg)
  scratch := []
  beat := []
  acc := []
  host := []
  expander := []
  tlb := []
  tables := []
  cur := ({ } : Cur)
  inputs := []

/-- The bay of an id. -/
def State.bay (s : State) (b : Nat) : Bay := Tbl.get Bay.reset s.bays b

/-- The state with one bay changed. -/
def State.setBay (s : State) (b : Nat) (x : Bay) : State := { s with bays := Tbl.set Bay.reset s.bays b x }

/-- The die of a number. -/
def State.die (s : State) (d : Nat) : Die := Tbl.get Die.reset s.dies d

/-- The state with one die changed. -/
def State.setDie (s : State) (d : Nat) (x : Die) : State := { s with dies := Tbl.set Die.reset s.dies d x }

/-- The partition of a number. -/
def State.part (s : State) (p : Nat) : Part := Tbl.get Part.reset s.parts p

/-- The state with one partition changed. -/
def State.setPart (s : State) (p : Nat) (x : Part) : State := { s with parts := Tbl.set Part.reset s.parts p x }

end Sys2Proof.Machine
end

