-- ==== Sys2Proof/Machine/Ops.lean ====
section
/-!
DEFINITION. The named operations over registers, short results, holds and traps that every instruction's meaning uses
(spec/04_tile_core.md R80 to R107, spec/22_traps_context.md R361 to R368).
-/

namespace Sys2Proof.Machine

/-- Every outcome of a meaning that goes on. -/
abbrev Out := Host.Outcome State Fault Refusal

/-! ## The bay of the bundle being issued -/

/-- The bay whose bundle is being issued. -/
def State.here (s : State) : Bay := s.bay s.cur.bay

/-- The state with the issuing bay changed. -/
def State.upd (s : State) (f : Bay → Bay) : State := s.setBay s.cur.bay (f s.here)

/-- The state with the bundle record changed. -/
def State.updCur (s : State) (f : Cur → Cur) : State := { s with cur := f s.cur }

/-- A bay changed. -/
def State.onBay (s : State) (b : Nat) (f : Bay → Bay) : State := s.setBay b (f (s.bay b))

/-- A die changed. -/
def State.onDie (s : State) (d : Nat) (f : Die → Die) : State := s.setDie d (f (s.die d))

/-- A partition changed. -/
def State.onPart (s : State) (p : Nat) (f : Part → Part) : State := s.setPart p (f (s.part p))

/-- The package record changed. -/
def State.onPkg (s : State) (f : Pkg → Pkg) : State := { s with pkg := f s.pkg }

/-- Every listed bay changed. -/
def State.mapBays (s : State) (f : Nat → Bay → Bay) : State := { s with bays := s.bays.map fun x => (x.1, f x.1 x.2) }

/-- Every listed die changed. -/
def State.mapDies (s : State) (f : Nat → Die → Die) : State := { s with dies := s.dies.map fun x => (x.1, f x.1 x.2) }

/-- The die of a bay (R8). -/
def dieOf (b : Nat) : Nat := b / 64

/-- The partition of a die: the PID field in force (R387). -/
def State.partOfDie (s : State) (d : Nat) : Nat := bits s.pkg.pids (2 * d + 1) (2 * d)

/-- The partition of a bay. -/
def State.partOf (s : State) (b : Nat) : Nat := s.partOfDie (dieOf b)

/-- Whether a bay lies in a partition (R387). -/
def State.inPart (s : State) (p b : Nat) : Bool := decide (b < 256) && s.partOf b == p

/-- The dies of a partition, ascending. -/
def State.diesOf (s : State) (p : Nat) : List Nat := (List.range 4).filter fun d => s.partOfDie d == p

/-- The bays of a partition, ascending. -/
def State.baysOf (s : State) (p : Nat) : List Nat := (List.range 256).filter fun b => s.partOf b == p

/-- A list sorted stably by a key, smaller first. -/
def insertBy {α : Type} (key : α → Nat) (x : α) : List α → List α
  | [] => [x]
  | y :: ys => if key x < key y then x :: y :: ys else y :: insertBy key x ys

/-- Stable insertion sort. -/
def sortBy {α : Type} (key : α → Nat) : List α → List α
  | l => l.foldl (fun acc x => insertBy key x acc) []

/-- CYCLE of a partition (R86). -/
def State.cycle (s : State) (p : Nat) : Nat := s.now - (s.part p).formed

/-- A number of its own for a free value: the cycle, the bay, the slot and a position. (DESIGN CHOICE, log entry 5.) -/
def State.freeKey (s : State) (b slot i : Nat) : Nat := ((s.now * 256 + b) * 16 + slot) * 4096 + i

/-- Whether the task of a bay is of a deterministic region (R19). -/
def Bay.det (b : Bay) : Bool := match b.task with
  | some t => t.d
  | none => false

/-- The task number of a bay, 0 when it has none. -/
def Bay.uid (b : Bay) : Nat := match b.task with
  | some t => t.uid
  | none => 0

/-- The ASID of a bay's task. -/
def Bay.asid (b : Bay) : Nat := match b.task with
  | some t => t.asid
  | none => 0

/-- The node of a bay's task. -/
def Bay.node (b : Bay) : Nat := match b.task with
  | some t => t.node
  | none => 0

/-! ## Scalar registers (R80, R90, R361) -/

/-- A scalar register as it stands, in the bank of the mode. -/
def Bay.scalar (b : Bay) (h : Bool) (r : Nat) : Word :=
  if r = 0 then 0 else if h ∧ 24 ≤ r then Tbl.get 0 b.hreg r else Tbl.get 0 b.sreg r

/-- A scalar register written in the bank of the mode; s0 discards. -/
def Bay.setScalar (b : Bay) (h : Bool) (r : Nat) (v : Word) : Bay :=
  if r = 0 then b else if h ∧ 24 ≤ r then { b with hreg := Tbl.set 0 b.hreg r v } else { b with sreg := Tbl.set 0 b.sreg r v }

/-- The bank flag that a scalar register has in the present mode. -/
def Bay.bank (b : Bay) (r : Nat) : Bool := b.handler && decide (24 ≤ r)

/-- Whether a read at cycle `now` by the .t form `own` (0 for none) falls into the window of a result for the destination
(R90). -/
def Bay.inWindow (b : Bay) (now : Nat) (d : Dest) (own : Nat := 0) : Bool :=
  b.pends.any fun p => decide (p.dest = d) && !p.soft && decide (p.issued < now) && (p.job == 0 || p.job != own)

/-- A scalar source read at issue; `i` tells the operand. -/
def State.readS (s : State) (r : Reg) (i : Nat) : Word :=
  let b := s.here
  if r.toNat = 0 then 0
  else if b.inWindow s.now (.scalar r.toNat (b.bank r.toNat)) then Config.freeWord (s.freeKey s.cur.bay s.cur.slot i)
  else b.scalar b.handler r.toNat

/-- A result added to those in flight. An older result for the same place no longer writes the bits that this one writes,
and its window stays (R90, R91). -/
def Bay.addPend (b : Bay) (p : Pend) : Bay :=
  let older (q : Pend) : Pend :=
    match p.dest with
    | .stat _ => q
    | _ => if q.dest = p.dest ∧ !q.soft ∧ !p.soft then { q with mask := q.mask ^^^ (q.mask &&& p.mask) } else q
  { b with pends := b.pends.map older ++ [p], drainAt := if p.soft then b.drainAt else max b.drainAt p.due }

/-- A short operation of latency L is issued: a drain waits for it, also when its result is discarded (R195). -/
def Bay.outlast (b : Bay) (until_ : Nat) : Bay := { b with drainAt := max b.drainAt until_ }

/-- A scalar result that lands L cycles after issue (R215); s0 discards it (R80). -/
def State.writeS (s : State) (r : Reg) (L : Nat) (v : Word) : State :=
  if r.toNat = 0 then s.upd fun b => b.outlast (s.now + L)
  else s.upd fun b => b.addPend ⟨.scalar r.toNat (b.bank r.toNat), s.now, s.now + L, v.toNat, 2 ^ 64 - 1, false, 0⟩

/-- Flags of a short operation that land within L cycles (R85). -/
def State.raiseFlags (s : State) (L : Nat) (f : Flags) : State :=
  if f = 0 then s else s.upd fun b => b.addPend ⟨.stat b.handler, s.now, s.now + L, f.toNat, 0x7F, false, 0⟩

/-- Flags that a long operation sets at once on the task's STAT (R85). -/
def Bay.setFlags (b : Bay) (f : Flags) : Bay := { b with stat := b.stat ||| f }

/-! ## Tile rows (R81, R90) -/

/-- A tile row as it stands: a row that nothing has written since placement is free. (DEDUCED, log entry 3.) -/
def Bay.row (b : Bay) (n : Nat) : Row :=
  match Tbl.get none b.tiles n with
  | some r => r
  | none => match b.tileSeed with
    | some k => Config.freeRow (k * 512 + n)
    | none => 0

/-- A tile row written. -/
def Bay.setRow (b : Bay) (n : Nat) (r : Row) : Bay := { b with tiles := Tbl.set none b.tiles n (some r) }

/-- A tile row read at the present cycle (R90). -/
def State.readRow (s : State) (bay : Nat) (n i : Nat) (own : Nat := 0) : Row :=
  let b := s.bay bay
  if b.inWindow s.now (.row n) own then Config.freeRow (s.freeKey bay 15 i) else b.row n

/-- The first poisoned sector of a tile row (R399): sectors of 64 bytes are numbered 1,024 × bay + 2 × row + half. -/
def State.tilePoison (s : State) (bay n : Nat) : Option Nat :=
  [bay * 1024 + 2 * n, bay * 1024 + 2 * n + 1].find? fun k => s.pkg.poisonTile.contains k

/-- The poison report of a tile sector that an access of a kind of R352 reads: its address is 65,536 × bay plus the byte of
the tile file. (DESIGN CHOICE, log entry 37.) -/
def tileReport (kind sector : Nat) : Report := ⟨0x14, BitVec.ofNat 64 kind, BitVec.ofNat 64 (64 * sector), 0, 0⟩

/-- The poison report of the first poisoned row of a list (R47). -/
def State.rowsPoisoned (s : State) (kind bay : Nat) (rows : List Nat) : Option Report :=
  (rows.findSome? fun n => s.tilePoison bay n).map (tileReport kind)

/-- Tile rows that have been written whole hold no poison any more (R79). -/
def State.cleanRows (s : State) (bay : Nat) (rows : List Nat) : State :=
  s.onPkg fun p => { p with poisonTile := p.poisonTile.filter fun k => !(rows.any fun n => k / 2 == bay * 512 + n) }

/-- The number of a tile row (R96 without its base). -/
def rowNum (t r : Nat) : Nat := 32 * t + r

/-! ## Special registers (R84, R228) -/

/-- The step register n. -/
def Bay.step (b : Bay) (n : Nat) : BitVec 128 :=
  match n with
  | 0 => b.b0
  | 1 => b.b1
  | 2 => b.b2
  | _ => b.b3

/-- The step register n replaced. -/
def Bay.setStep (b : Bay) (n : Nat) (v : BitVec 128) : Bay :=
  match n with
  | 0 => { b with b0 := v }
  | 1 => { b with b1 := v }
  | 2 => { b with b2 := v }
  | _ => { b with b3 := v }

/-- The fmt register that governs the mode. -/
def Bay.fmtReg (b : Bay) (h : Bool) : Word := if h then b.hfmt else b.fmt

/-- BEATCTL as it reads: LATEPOL is 1 in a D region (R59); a bay that CTXSV has emptied belongs to none (R371). -/
def Bay.beatctlReg (b : Bay) : Word := if b.det ∧ !b.empty then b.beatctl ||| 1 else b.beatctl

/-- A write of a special register that takes effect, in the bank of its issue. Read-only numbers and fields keep their
value; the W1C fields of STAT clear (R84, R228). -/
def Bay.writeSpecial (b : Bay) (h : Bool) (n : Nat) (v : Word) : Bay :=
  match n with
  | 0x000 => if h then { b with hstat := b.hstat &&& ~~~(v &&& 0x7F) } else { b with stat := b.stat &&& ~~~(v &&& 0x7F) }
  | 0x001 => if h then { b with hfmt := v &&& 0xFFFF } else { b with fmt := v &&& 0xFFFF }
  | 0x002 => { b with dbeat := v &&& 0xFFFF }
  | 0x003 => { b with beatctl := v &&& 0xFFFF0001 }
  | 0x005 => { b with rqpos := v }
  | 0x006 => { b with rqposc := v }
  | _ =>
    if 0x020 ≤ n ∧ n ≤ 0x027 then
      let k := (n - 0x020) / 2
      let old := b.step k
      if n % 2 = 0 then b.setStep k (old.extractLsb' 64 64 ++ (v &&& 0x1FFF)) else b.setStep k (v ++ old.extractLsb' 0 64)
    else b

/-- A special register as it stands for a bay's task (R84 to R87, R59, R68, R228, R374), as it governs the bundle: what the slots
of the bundle have claimed of the draws does not count yet; h names the bank of STAT and fmt. -/
def State.readSpecial (s : State) (bay : Nat) (h : Bool) (n : Nat) : Word :=
  let b := s.bay bay
  let p := s.partOf bay
  let d := s.die (dieOf bay)
  match n with
  | 0x000 => (if h then b.hstat else b.stat) ||| (if b.phaseOn then 0x100 else 0)
  | 0x001 => b.fmtReg h
  | 0x002 => b.dbeat
  | 0x003 => b.beatctlReg
  | 0x004 => BitVec.ofNat 64 (s.cur.lateRead.getD b.latecnt)
  | 0x005 => b.rqpos - BitVec.ofNat 64 s.cur.drew
  | 0x006 => b.rqposc - BitVec.ofNat 64 s.cur.drewC
  | 0x007 => if b.det then 0 else BitVec.ofInt 64 (b.fb - (s.part p).formed)
  | 0x008 => if b.det then 0 else BitVec.ofInt 64 (s.now - b.fb)
  | 0x010 => BitVec.ofInt 64 ((s.part p).beatno - b.beatoff)
  | 0x011 => BitVec.ofNat 64 (s.cycle p / 1024)
  | 0x012 => BitVec.ofNat 64 (bay % 256)
  | 0x013 => BitVec.ofNat 64 (dieOf bay % 4)
  | 0x014 => match b.task with
    | some t => t.coord
    | none => 0
  | 0x015 => match b.task with
    | some t => BitVec.ofNat 64 t.taskid
    | none => 0
  | 0x016 => BitVec.ofNat 64 ((d.rfnext - s.now) % 65536)
  | 0x017 => BitVec.ofNat 64 d.rfdebt
  | 0x018 => if b.det then BitVec.ofNat 64 (s.cycle p / 1024 * 1024) else BitVec.ofNat 64 (s.cycle p)
  | _ =>
    if 0x020 ≤ n ∧ n ≤ 0x027 then
      let v := b.step ((n - 0x020) / 2)
      if n % 2 = 0 then v.extractLsb' 0 64 else v.extractLsb' 64 64
    else 0

/-- A write of a special register issued now, governing from the cycle `due`. -/
def Bay.pendSpecial (b : Bay) (now due : Nat) (h : Bool) (n : Nat) (v : Word) : Bay :=
  b.addPend ⟨.special n h, now, due, v.toNat, 2 ^ 64 - 1, true, 0⟩

/-! ## Landing (R90, R91, R229) -/

/-- Bits of `old` outside the mask with bits of `v` inside it. -/
def blend (old v mask : Nat) : Nat := (old ^^^ (old &&& mask)) ||| (v &&& mask)

/-- One result lands. -/
def Bay.landOne (b : Bay) (p : Pend) : Bay :=
  match p.dest with
  | .scalar r h => b.setScalar h r (BitVec.ofNat 64 (blend (b.scalar h r).toNat p.val p.mask))
  | .row n => if p.mask = 0 then b else b.setRow n (BitVec.ofNat 1024 (blend (b.row n).toNat p.val p.mask))
  | .special 0x001 h =>
    b.writeSpecial h 1 (BitVec.ofNat 64 (blend (b.fmtReg h).toNat p.val p.mask))
  | .special n h => b.writeSpecial h n (BitVec.ofNat 64 p.val)
  | .stat h => if h then { b with hstat := b.hstat ||| BitVec.ofNat 64 p.val } else { b with stat := b.stat ||| BitVec.ofNat 64 p.val }

/-- Whether a result is a flag. -/
def Pend.isFlag (p : Pend) : Bool := match p.dest with
  | .stat _ => true
  | _ => false

/-- Every result due by cycle `now` lands; a clear of STAT takes effect before a flag that lands on the same cycle
(R229). -/
def Bay.land (b : Bay) (now : Nat) : Bay :=
  let due := b.pends.filter fun p => decide (p.due ≤ now)
  let b1 := { b with pends := b.pends.filter fun p => decide (now < p.due) }
  let b2 := (due.filter fun p => !p.isFlag).foldl Bay.landOne b1
  (due.filter fun p => p.isFlag).foldl Bay.landOne b2

/-! ## Faults of a slot instruction (R213, R365) -/

/-- The syndrome of an operand fault found by the slot instruction being issued; the first one of the bundle stands. -/
def State.raise (s : State) (r : Report) : State :=
  s.updCur fun c => match c.fault with
    | some _ => c
    | none => { c with fault := some r }

/-- A protection fault whose rule names no syndrome field (R362). (DESIGN CHOICE, log entry 35.) -/
def State.protect (s : State) : State := s.raise ⟨0x11, 0, 0, 0, 0⟩

/-- The byte offset of the slot word being issued from its header. -/
def State.slotOff (s : State) : Nat :=
  match s.cur.items.find? fun i => i.slot.code == s.cur.slot with
  | some i => i.off
  | none => 0

/-- An illegal operand value (reason 0x0010): its source by R212. -/
def State.illegal (s : State) (source : Nat) : State :=
  s.raise ⟨0x01, 0x10, BitVec.ofNat 64 s.slotOff, BitVec.ofNat 64 source, BitVec.ofNat 64 s.cur.slot⟩

/-- An alignment or protection fault with its address and the slot code (R255). -/
def State.addrFault (s : State) (cause : Nat) (a : Word) : State :=
  s.raise ⟨cause, 0, a, 0, BitVec.ofNat 64 s.cur.slot⟩

/-- A fault of step 8 of R213, found on the issue cycle. -/
def State.raiseLate (s : State) (r : Report) : State :=
  s.updCur fun c => match c.late with
    | some _ => c
    | none => { c with late := some r }

/-- No fault: the access waits for a line that the host holds, and its bundle is tried again on the next cycle (R381). No trap
has cause 0 (R365). -/
def tryAgain : Report := ⟨0, 0, 0, 0, 0⟩

/-! ## Reports and traps (R362 to R366) -/

/-- A report joins the pending list of a bay's task in order of arrival; when the list is full it is dropped (R366). -/
def Bay.report (b : Bay) (r : Report) : Bay :=
  if 64 ≤ b.reports.length then { b with lost := true } else { b with reports := b.reports ++ [r] }

/-- A report of a task sets out; REPORT_ARRIVE delivers it (R366). (DEDUCED, log entry 101.) -/
def State.report (s : State) (bay uid : Nat) (r : Report) (own : Bool := false) (from_ : Nat := 0) : State :=
  s.onPkg fun p => { p with outbox := p.outbox ++ [⟨bay, uid, r, own, from_⟩] }

/-- TRAPCAUSE of a trap (R368). -/
def causeWord (cause : Nat) (hnd lost ended : Bool) : Word :=
  BitVec.ofNat 64 (cause % 256 + (if hnd then 0x100 else 0) + (if lost then 0x200 else 0) + (if ended then 0x400 else 0))

/-- The last cycle on which a .t form of the W slot stores to own scratch (R95). -/
def Job.storedBy (j : Job) (bay : Nat) : Nat := match j.kind with
  | .stt _ dst _ _ => if dst = bay then j.issued + 34 else 0
  | .stx _ _ _ dst _ _ => if dst = bay then j.issued + 34 else 0
  | _ => 0

/-- The latest cycle by which every issued short operation has completed and landed, local stores included (R94, R95,
R362). -/
def Bay.landedBy (b : Bay) (bay now : Nat) : Nat :=
  max (max (max now b.drainAt) (b.pends.foldl (fun m p => max m p.due) 0))
    (max ((b.swrites.filter fun w => 2 ≤ w.cls).foldl (fun m w => max m w.due) 0)
      (b.jobs.foldl (fun m j => max m (j.storedBy bay)) 0))

/-- The markers of a fence leave their queues. -/
def Bay.pullMarkers (b : Bay) (n : Nat) : Bay :=
  { b with
    sq := ((List.range 16).map fun k => (k, (Tbl.get [] b.sq k).filter fun e => e.op != .marker n)).filter fun e => e.2 != []
    fences := b.fences.filter fun f => f.n != n }

/-- An arrival at a barrier that has not opened is withdrawn (R292). -/
def Bay.withdraw (b : Bay) : Bay :=
  let b1 := match b.barFence with
    | some n => b.pullMarkers n
    | none => b
  { b1 with barFence := none, arrived := b.arrived && b.barOpen.isSome }

/-- TAKING A TRAP (R362): the trap registers are written, the bay enters handler mode, and the bundle at TRAPVEC follows
once every issued short operation has landed, after the gap of the last bundle or the stop of a PHASE. (DEDUCED, log entry 99.) -/
def State.takeTrap (s : State) (bay : Nat) (r : Report) (pc : Nat) : State :=
  s.onBay bay fun b =>
    { b.withdraw with
      cause := causeWord r.cause b.handler b.lost b.ended.isSome
      trappc := BitVec.ofNat 64 (pc % 2 ^ 57)
      info0 := r.i0, info1 := r.i1, info2 := r.i2, info3 := r.i3
      lost := false
      handler := true
      pc := (s.part (s.partOf bay)).trapvec.toNat
      from_ := 0
      checkTarget := true
      waiting := false
      waitSeen := none
      due := none
      frozenAt := if b.handler then b.frozenAt else none
      resident := none
      nextAt := max (b.landedBy bay s.now + 1) b.stopTo }

/-- RETURN FROM A TRAP (R363): the bay is in task mode from the next cycle and the bundle at TRAPPC follows. (DEDUCED, log entry 44.) -/
def State.returnTrap (s : State) (bay : Nat) : State :=
  s.onBay bay fun b =>
    { b with
      handler := false
      frozenAt := none
      pc := b.trappc.toNat
      from_ := 0
      checkTarget := true
      nextAt := max (s.now + 1) b.stopTo }

/-! ## Holds (R96 to R98) -/

/-- The next operation number of the issuing bay. -/
def State.newOp (s : State) : Nat × State := (s.here.opCount + 1, s.upd fun b => { b with opCount := b.opCount + 1 })

/-- The number under which holds keep a register of R96: 1,024 more for s24 to s31 of the handler's bank (R361). -/
def Bay.holdNum (b : Bay) (r : Nat) : Nat := if b.handler ∧ 24 ≤ r ∧ r < 32 then r + 1024 else r

/-- The slot instruction being issued asks for a hold; `ends` is the cycle of its end when that is known. -/
def State.wantHold (s : State) (id : Nat) (dest : Bool) (regs : List Nat) (ends : Option Nat := none) : State :=
  let own := (regs.filter (· ≠ 0)).map s.here.holdNum
  s.updCur fun c => { c with holds := c.holds ++ [⟨id, dest, own, ends⟩] }

/-- A range added to written ranges, joined to the first one that it meets. -/
def addRange (a b : Nat) : List (Nat × Nat) → List (Nat × Nat)
  | [] => [(a, b)]
  | (x, y) :: t => if a ≤ y ∧ x ≤ b then (min a x, max b y) :: t else (x, y) :: addRange a b t

/-- The watermark of a command after bytes of its destination were written (R162). -/
def Cmd.wroteTo (c : Cmd) (own : Option Nat) (n : Nat) : Cmd :=
  match own with
  | none => c
  | some a =>
    let l := addRange a (a + n) c.wrote
    let wm := l.foldl (fun m _ => l.foldl (fun m r => if r.1 ≤ m then max m r.2 else m) m) c.wm
    { c with wm := wm, wrote := l.filter fun r => decide (wm < r.1) }

/-- The commands of a bay and of the tack engines and lease records of its die, with one of them changed (R153, R160). -/
def State.mapCmd (s : State) (bay id : Nat) (f : Cmd → Cmd) : State :=
  let g (l : List Cmd) : List Cmd := l.map fun c => if c.bay = bay ∧ c.id = id then f c else c
  (s.onBay bay fun b => { b with btx := b.btx.map fun (k, c) => (k, { c with buf := g c.buf }) }).onDie (dieOf bay) fun d =>
    { d with engines := d.engines.map fun (k, e) => (k, { e with cmds := g e.cmds })
             leases := d.leases.map fun (k, l) => (k, { l with cmds := g l.cmds }) }

/-- A bay changed, if the task that a number names is still its task. -/
def State.onTask (s : State) (bay uid : Nat) (f : Bay → Bay) : State :=
  if (s.bay bay).uid = uid then s.onBay bay f else s

/-- Whether a register of R96 is held on cycle `now`, by a hold of the kind asked for. -/
def Bay.held (b : Bay) (now : Nat) (reg : Nat) (destOnly : Bool) : Bool :=
  b.holds.any fun h => (!destOnly || h.dest) && h.regs.contains (b.holdNum reg) && (match h.ends with
    | none => true
    | some e => decide (now ≤ e))

/-- How many source holds lie on a register. -/
def Bay.sourceHolds (b : Bay) (now : Nat) (reg : Nat) : Nat :=
  (b.holds.filter fun h => !h.dest && h.regs.contains (b.holdNum reg) && (match h.ends with
    | none => true
    | some e => decide (now ≤ e))).length

/-- The holds of an operation end on cycle `now` (R97). -/
def Bay.endHold (b : Bay) (now id : Nat) : Bay :=
  { b with holds := b.holds.map fun h => if h.id = id ∧ h.ends = none then { h with ends := some now } else h }

/-- Some of the registers of an operation's holds are released on cycle `now`. -/
def Bay.endHoldOn (b : Bay) (now id : Nat) (regs : List Nat) : Bay :=
  { b with holds := b.holds.flatMap fun h =>
      if h.id = id ∧ h.ends = none then
        [{ h with regs := h.regs.filter fun r => !regs.contains r },
         { h with regs := h.regs.filter fun r => regs.contains r, ends := some now }]
      else [h] }

/-! ## Results that a later event fills -/

/-- The value of a result in flight that was issued without one: the bits still its own take it. -/
def Bay.fillDest (b : Bay) (id : Nat) (d : Dest) (val mask : Nat) : Bay :=
  { b with pends := b.pends.map fun p =>
      if p.job = id ∧ p.dest = d then { p with val := val, mask := p.mask &&& mask } else p }

/-! ## Stream queues and phase sets at issue (R103, R110) -/

/-- The words of the slot instruction being issued. -/
def State.item (s : State) : Option Item := s.cur.items.find? fun i => i.slot.code == s.cur.slot

/-- An entry at the tail of a stream queue of the issuing bay. -/
def State.enqueue (s : State) (q : Nat) (e : SEntry) : State :=
  s.upd fun b => { b with sq := Tbl.set [] b.sq q (Tbl.get [] b.sq q ++ [e]) }

/-- Stream and scope of an instruction: SQ0 and pkg without pfx.stream (R110). -/
def pfxStream (p : Pfx) : Nat × Nat := match p.stream with
  | some (k, sc) => (k.toNat, sc.toNat)
  | none => (0, 3)

/-- The cycle before which an entry issued now is not delivered: the delay is not promised, and the bundles of a cycle issue
after its deliveries (R113). (DEDUCED, log entry 6.) (DEDUCED, log entry 7.) -/
def State.notBefore (s : State) : Nat := s.now + 1 + Config.freeDelay (s.freeKey s.cur.bay s.cur.slot 70)

/-- Whether a range lies inside a range of an agent, writable if need be (R104). -/
def coveredBy (rs : List PhaseRange) (space a n : Nat) (w : Bool) : Bool :=
  rs.any fun r => r.space == space && decide (r.base ≤ a) && decide (a + n ≤ r.base + r.len) && (!w || r.w)

/-- The out-of-phase report of an access of an agent, or none (R104). -/
def Bay.phaseFault (b : Bay) (agent space a n : Nat) (w : Bool) : Option Report :=
  if !b.phaseOn then none
  else
    let rs := match b.phase.find? fun x => x.agent == agent with
      | some x => x.ranges
      | none => []
    if coveredBy rs space a n w then none
    else some ⟨0x0B, BitVec.ofNat 64 agent, BitVec.ofNat 64 a, BitVec.ofNat 64 (2 * n + if w then 1 else 0), 0⟩

/-- Whether the task of a bay may use a scratch offset, when the bay holds a saved context (R376). -/
def Bay.scratchOpen (b : Bay) (off : Nat) : Bool := !b.lent || decide (0xE0000 ≤ off)

/-! ## The gangs of a leaf (R331) -/

/-- Tasks of a leaf. -/
def Node.tasks (n : Node) : Nat := n.gx * n.gy * n.gz

/-- Members of a full gang (R331). (DEDUCED, log entry 63.) -/
def Node.gangSize (n : Node) : Nat := if n.gang = 0 then n.tasks else n.gang

/-! ## Random draws (R106, R107) -/

/-- A block of n draws claimed at issue: the position of the first, and the state after. -/
def State.claim (s : State) (common : Bool) (n : Nat) : Nat × State :=
  let b := s.here
  if common then (b.rqposc.toNat, (s.upd fun b => { b with rqposc := b.rqposc + BitVec.ofNat 64 n }).updCur fun c =>
    { c with drewC := c.drewC + n })
  else (b.rqpos.toNat, (s.upd fun b => { b with rqpos := b.rqpos + BitVec.ofNat 64 n }).updCur fun c =>
    { c with drew := c.drew + n })

/-- Draw p of the sequence of a bay's task. -/
def Bay.drawAt (b : Bay) (common : Bool) (p : Nat) : Nat :=
  match b.task with
  | some t => draw t.seed t.taskid common p
  | none => draw 0 0 common p

end Sys2Proof.Machine
end

