-- ==== Sys2Proof/Machine/Special.lean ====
section
/-!
DEFINITION. The special functions of the F slot (spec/12_ref_tile.md R250 to R252). A transcendental value is formed in
fixed point with 512 fraction bits, cut, and rounded once; a cut value counts as inexact.
-/

namespace Sys2Proof.Machine

/-- 1 in fixed point. -/
def fixOne : Int := 2 ^ 512

/-- π in fixed point. -/
def fixPi : Int :=
  0x3243f6a8885a308d313198a2e03707344a4093822299f31d0082efa98ec4e6c89452821e638d01377be5466cf34e90c6cc0ac29b7c97c50dd3f84d5b5b5470917

/-- ln 2 in fixed point. -/
def fixLn2 : Int :=
  0xb17217f7d1cf79abc9e3b39803f2f6af40f343267298b62d8a0d175b8baafa2be7b876206debac98559552fb4afa1b10ed2eae35c138214427573b291169b825

/-- ±m × 2^e in fixed point. -/
def toFix (neg : Bool) (m : Nat) (e : Int) : Int := scaled neg m e (-512)

/-- A fixed-point value rounded to format f; it counts as inexact. -/
def fromFix (f : Nat) (r : Rnd) (u : Nat) (x : Int) : Nat × Flags :=
  roundF f r.mode r.sat u (decide (x < 0)) x.natAbs (-512) true

/-- The series of e^x, from its k-th term down. (DESIGN CHOICE, log entry 14.) -/
def expSeries (x : Int) : Nat → Int → Int
  | 0, acc => acc
  | k + 1, acc => expSeries x k (fixOne + x * acc / ((k + 1 : Nat) * fixOne))

/-- The series of sin x ÷ x (from factor 2k × (2k + 1)) or of cos x (from (2k − 1) × 2k), in x². -/
def trigSeries (cos : Bool) (x2 : Int) : Nat → Int → Int
  | 0, acc => acc
  | k + 1, acc =>
    let d : Nat := if cos then (2 * k + 1) * (2 * k + 2) else (2 * k + 2) * (2 * k + 3)
    trigSeries cos x2 k (fixOne - x2 * acc / (d * fixOne))

/-- The series of atanh: p is z^(2i + 1). -/
def atanhSeries (z2 : Int) : Nat → Nat → Int → Int → Int
  | 0, _, _, acc => acc
  | n + 1, i, p, acc => atanhSeries z2 n (i + 1) (p * z2 / fixOne) (acc + p / (2 * i + 1 : Nat))

/-- 2^x for a fixed-point x as F × 2^(n − 512), with F from 2^512 to 2^513. -/
def exp2Parts (x : Int) : Int × Int :=
  (x / fixOne, expSeries (x % fixOne * fixLn2 / fixOne) 110 fixOne)

/-- e^−y for a fixed-point y ≥ 0. -/
def expNegParts (y : Int) : Int × Int := exp2Parts (-(y * fixOne / fixLn2))

/-- A value just below 1. -/
def belowOne (f : Nat) (r : Rnd) (u : Nat) (neg : Bool) : Nat × Flags :=
  roundF f r.mode r.sat u neg (2 ^ 512 - 1) (-512) true

/-- A positive value below every subnormal. -/
def tinyUp (f : Nat) (r : Rnd) (u : Nat) : Nat × Flags := roundF f r.mode r.sat u false 1 (-1024) true

/-- 2^(x + k) rounded to format f. -/
def exp2F (f : Nat) (r : Rnd) (u : Nat) (k : Int) (neg : Bool) (m : Nat) (e : Int) : Nat × Flags :=
  if m = 0 then roundF f r.mode r.sat u false 1 k false
  else if !magLt m e 1 10 then
    if neg then tinyUp f r u else roundF f r.mode r.sat u false 1 1024 false
  else
    let x := toFix neg m e
    if x % fixOne = 0 then roundF f r.mode r.sat u false 1 (x / fixOne + k) false
    else
      let (n, y) := exp2Parts x
      roundF f r.mode r.sat u false y.toNat (n + k - 512) true

/-- log2 of m × 2^e with m ≠ 0. -/
def log2F (f : Nat) (r : Rnd) (u : Nat) (m : Nat) (e : Int) : Nat × Flags :=
  let l := Nat.log2 m
  let k : Int := e + l
  if m = 2 ^ l then roundFV f r u (FV.ofInt k 0 false)
  else
    let z : Int := ((m : Int) - 2 ^ l) * fixOne / (m + 2 ^ l)
    let a := atanhSeries (z * z / fixOne) 170 0 z 0
    fromFix f r u (k * fixOne + 2 * a * fixOne / fixLn2)

/-- tanh. -/
def tanhF (f : Nat) (r : Rnd) (u : Nat) (neg : Bool) (m : Nat) (e : Int) : Nat × Flags :=
  if m = 0 then roundF f r.mode r.sat u neg 0 0 false
  else if !magLt m e 1 7 then belowOne f r u neg
  else
    let (n, y) := expNegParts (2 * toFix false m e)
    let t := y / 2 ^ (-n).toNat
    let v := (fixOne - t) * fixOne / (fixOne + t)
    fromFix f r u (if neg then -v else v)

/-- 1 ÷ (1 + e^−x). -/
def sigmF (f : Nat) (r : Rnd) (u : Nat) (neg : Bool) (m : Nat) (e : Int) : Nat × Flags :=
  if m = 0 then roundF f r.mode r.sat u false 1 (-1) false
  else if !magLt m e 1 7 then (if neg then tinyUp f r u else belowOne f r u false)
  else
    let (n, y) := expNegParts (toFix false m e)
    let w := 512 + (-n).toNat
    let one : Int := 2 ^ w
    if neg then roundF f r.mode r.sat u false (y * one / (one + y)).toNat (-(w : Int)) true
    else fromFix f r u (one * fixOne / (one + y))

/-- sin and cos of a value in radians. -/
def trigF (cos : Bool) (f : Nat) (r : Rnd) (u : Nat) (neg : Bool) (m : Nat) (e : Int) : Nat × Flags :=
  if m = 0 then
    if cos then roundF f r.mode r.sat u false 1 0 false else roundF f r.mode r.sat u neg 0 0 false
  else
    let x := toFix neg m e
    let q := (2 * x + fixPi / 2) / fixPi
    let y := x - q * fixPi / 2
    let y2 := y * y / fixOne
    let c := trigSeries true y2 60 fixOne
    let s := y * trigSeries false y2 60 fixOne / fixOne
    let v := match ((q + if cos then 1 else 0) % 4).toNat with
      | 0 => s
      | 1 => c
      | 2 => -s
      | _ => -c
    fromFix f r u v

/-- 1 ÷ √x. -/
def rsqF (f : Nat) (r : Rnd) (u : Nat) (m : Nat) (e : Int) : Nat × Flags :=
  let m' := if e % 2 = 0 then m else 2 * m
  let h := if e % 2 = 0 then e / 2 else (e - 1) / 2
  let q := Nat.sqrt (2 ^ 512 / m')
  roundF f r.mode r.sat u false q (-256 - h) (q * q * m' != 2 ^ 512)

/-- Infinity with a sign and DIVZERO. -/
def infZ (f : Nat) (r : Rnd) (neg : Bool) : Nat × Flags := ((roundFV f r 0 (.inf neg)).1, fDivzero)

/-- The functions of R250 and R251 at one element of type f. -/
def specialF (k : VKind) (f : Nat) (r : Rnd) (u : Nat) (x : FV) : Nat × Flags :=
  let bad : Nat × Flags := (canonNaN f, fInvalid)
  let put (v : FV) := roundFV f r u v
  match k, x with
  | .frcp, x => divF f r u (.fin false 1 0) x
  | .fsqrt, x => sqrtF f r u x
  | _, .nan s => (canonNaN f, if s then fInvalid else 0)
  | .fexp2, .inf n => put (if n then .fin false 0 0 else .inf false)
  | .fexp2, .fin n m e => exp2F f r u 0 n m e
  | .flog2, .inf n => if n then bad else put (.inf false)
  | .flog2, .fin n m e => if m = 0 then infZ f r true else if n then bad else log2F f r u m e
  | .frsq, .inf n => if n then bad else put (.fin false 0 0)
  | .frsq, .fin n m e => if m = 0 then infZ f r n else if n then bad else rsqF f r u m e
  | .ftanh, .inf n => put (.fin n 1 0)
  | .ftanh, .fin n m e => tanhF f r u n m e
  | .fsigm, .inf n => put (if n then .fin false 0 0 else .fin false 1 0)
  | .fsigm, .fin n m e => sigmF f r u n m e
  | .fsin, .fin n m e => trigF false f r u n m e
  | .fcos, .fin n m e => trigF true f r u n m e
  | _, _ => bad

/-- One code of FEXPQ: RoundNE(2^x × 256, E4M3) (R252). -/
def expqF (sat : Bool) (x : FV) : Nat × Flags :=
  match x with
  | .fin n m e => exp2F 11 ⟨0, sat⟩ 0 8 n m e
  | .inf true => (0, 0)
  | v => roundFV 11 ⟨0, sat⟩ 0 v

end Sys2Proof.Machine
end

