-- ==== Sys2Proof/Machine/Vec.lean ====
section
/-!
DEFINITION. What a V-slot or F-slot instruction computes on one row (spec/12_ref_tile.md R230 to R253, block formats of
spec/02_numbers.md R37 to R41, the tree of R45). Rows are numbers of 1,024 bits; a draw is taken by its place among the
row's draws.
-/

namespace Sys2Proof.Machine

/-- What governs one instruction: its word, second format, scalar operand, rounding, and integer saturation. -/
structure VEnv where
  k : VKind
  ty : Nat
  var : Nat
  c : Nat
  f2 : Nat
  sc : Nat
  r : Rnd
  isat : Bool
  deriving DecidableEq, Repr

/-- What is written: a row value inside a mask, a second row for TQNT, and flags. -/
structure VRes where
  val : Nat
  mask : Nat
  val2 : Nat := 0
  mask2 : Nat := 0
  flags : Flags := 0
  deriving DecidableEq, Repr

/-- Every bit of a row. -/
def fullMask : Nat := 2 ^ 1024 - 1

/-- A mask of n bytes from byte b. -/
def byteMask (b n : Nat) : Nat := (2 ^ (8 * n) - 1) * 2 ^ (8 * b)

/-- The elements of a row of format t. -/
def rowElts (t row : Nat) : List Nat := elems (fmtWidth t) (rowElems t) row

/-- An operand of arithmetic: any FP8 NaN counts as signalling, because it sets INVALID (R36). -/
def arithF (t w : Nat) : FV :=
  match decodeF t w with
  | .nan s => .nan (s || t == 11 || t == 12)
  | v => v

/-- Results of elements with the flags of all of them. -/
def gather (l : List (Nat × Flags)) : List Nat × Flags := (l.map (·.1), l.foldl (fun a x => a ||| x.2) 0)

/-- A full row of elements of format t. -/
def packRow (t : Nat) (l : List (Nat × Flags)) : VRes :=
  { val := packElems (fmtWidth t) (l.map (·.1)), mask := fullMask, flags := (gather l).2 }

/-- An exact value rounded once to format f, with the flags of forming it. -/
def roundOp (f : Nat) (r : Rnd) (u : Nat) (x : FV × Flags) : Nat × Flags :=
  let (v, g) := roundFV f r u x.1
  (v, g ||| x.2)

/-! ## Arithmetic, minimum and maximum, logic, shifts, compare, select (R235 to R239) -/

/-- One element of R235. -/
def arithElem (e : VEnv) (u b c d : Nat) : Nat × Flags :=
  if isFE e.ty then
    let x := arithF e.ty b
    let y := arithF e.ty c
    let z := arithF e.ty d
    let m := e.r.mode
    roundOp e.ty e.r u (match e.k with
      | .tadd => addFV m x y
      | .tsub => addFV m x y.neg
      | .tmul => mulFV x y
      | .tfma => fmaFV m x y z
      | _ => fmaFV m x y z.neg)
  else
    let x := decodeI e.ty b
    let y := decodeI e.ty c
    (encodeI e.ty e.isat (match e.k with
      | .tadd => x + y
      | .tsub => x - y
      | _ => x * y), 0)

/-- One element of TMIN or TMAX (R236). -/
def minMaxElem (t : Nat) (isMax : Bool) (b c : Nat) : Nat × Flags :=
  if isFE t then minMaxF t isMax b c
  else
    let less := decodeI t b ≤ decodeI t c
    (if less then (if isMax then c else b) else (if isMax then b else c), 0)

/-- One element of TABS or TNEG (R237). -/
def absNegElem (t : Nat) (neg sat : Bool) (b : Nat) : Nat :=
  if isFE t then
    let s := signBit t
    if neg then Nat.xor b s else b % s
  else
    let x := decodeI t b
    encodeI t sat (if neg then -x else if x < 0 then -x else x)

/-- One element of TSHL, TSHR or TSHRA (R238). -/
def shiftElem (e : VEnv) (b c : Nat) : Nat :=
  let w := fmtWidth e.ty
  let n := min c w
  match e.k with
  | .tshl => encodeI e.ty e.isat (decodeI e.ty b * (2 ^ n : Nat))
  | .tshr => b % 2 ^ w / 2 ^ n
  | _ => wrap w (signed w b / (2 ^ n : Nat))

/-- One element of TCMP (R239). -/
def cmpElem (t cc b c : Nat) : Nat × Flags :=
  let ones := 2 ^ fmtWidth t - 1
  if isFE t then
    let x := decodeF t b
    let y := decodeF t c
    (if condF cc x y then ones else 0, if x.isSig || y.isSig then fInvalid else 0)
  else (if condI cc (fmtWidth t) b c then ones else 0, 0)

/-! ## Conversion (R240) -/

/-- TCVT: elements converted per row. -/
def cvtCount (s d : Nat) : Nat := 1024 / max (fmtWidth s) (fmtWidth d)

/-- TCVT of one row. (DEDUCED, log entry 17.) -/
def cvtRow (e : VEnv) (u : Nat → Nat) (b : Nat) : VRes :=
  let s := e.ty
  let d := e.f2
  let k := cvtCount s d
  let src := rowElts s b
  let r : Rnd := if s < 8 ∧ d < 8 then { e.r with sat := true } else e.r
  let out := (List.range k).map fun i =>
    convert s d r (u i) (src.getD (if fmtWidth s < fmtWidth d then e.var * k + i else i) 0)
  let v := packElems (fmtWidth d) (out.map (·.1))
  let base := if fmtWidth d < fmtWidth s then e.var * k * fmtWidth d else 0
  { val := v * 2 ^ base, mask := (2 ^ (k * fmtWidth d) - 1) * 2 ^ base, flags := (gather out).2 }

/-! ## Block formats (R37 to R41, R241, R242) -/

/-- The element format and the binade offset of an MX format (R38). -/
def mxElem (f : Nat) : Nat × Int := if f = 14 then (11, 8) else if f = 15 then (12, 15) else (13, 2)

/-- floor(log2) of the largest finite nonzero magnitude of values, or none. -/
def topBinade (vs : List FV) : Option Int :=
  vs.foldl (fun a v => match v with
    | .fin _ m e => if m = 0 then a else
        let b : Int := e + Nat.log2 m
        match a with
        | none => some b
        | some x => some (max x b)
    | _ => a) none

/-- Whether a value is a number. -/
def FV.isFin : FV → Bool
  | .fin _ _ _ => true
  | _ => false

/-- The flags of an element of an MX block: into E2M1, UNDERFLOW is set when a nonzero value rounds to zero (R38). -/
def mxFlags (ef : Nat) (x : Nat × Flags) : Nat × Flags :=
  if ef = 13 ∧ x.1 % 8 ≠ 0 then (x.1, x.2 &&& ~~~fUnderflow) else x

/-- The conversion of 32 values to an MX block (R38): the scale byte, and the elements. -/
def mxEncode (f : Nat) (r : Rnd) (u : Nat → Nat) (vs : List FV) : Nat × List (Nat × Flags) :=
  let (ef, off) := mxElem f
  if vs.any (fun v => !v.isFin) then (0xFF, vs.map fun _ => (0, fInvalid))
  else match topBinade vs with
    | none => (0, vs.map fun v => match v with
        | .fin true _ _ => (signBit ef, 0)
        | _ => (0, 0))
    | some t =>
      let x := satInt (t - off) (-127) 127
      ((x + 127).toNat, vs.zipIdx.map fun (v, i) => match v with
        | .fin n m e => mxFlags ef (roundF ef r.mode true (u i) n m (e - x) false)
        | _ => (0, 0))

/-- A finite value divided by 2^q and rounded to an integer. -/
def roundInt (mode u : Nat) (n : Bool) (m : Nat) (e q : Int) : Int × Bool :=
  let (x, ix) := roundMag mode u n m (e - q) false 0
  (if n then -(x : Int) else x, ix)

/-- One mantissa of an NBF block at scale 2^q (R41): its pattern and flags. -/
def nbfMant (w mode u : Nat) (q : Int) (v : FV) : Nat × Flags :=
  match v with
  | .fin n m e =>
    let (x, ix) := roundInt mode u n m e q
    let lim : Int := 2 ^ (w - 1) - 1
    let y := satInt x (-lim) lim
    let changed := ix || y != x
    (wrap w y, (if changed then fInexact else 0) ||| (if changed && y == 0 && m != 0 then fUnderflow else 0))
  | _ => (2 ^ (w - 1), fInvalid)

/-- Whether a value fits the mantissa range at scale 2^q; a NaN fits. -/
def nbfFits (w mode u : Nat) (q : Int) (v : FV) : Bool :=
  match v with
  | .fin n m e =>
    let (x, _) := roundInt mode u n m e q
    decide (x.natAbs ≤ 2 ^ (w - 1) - 1)
  | _ => true

/-- The pairs of a block from element i on: mantissas with flags, and micro-exponents. -/
def nbfPairs (w mode : Nat) (u : Nat → Nat) (E : Int) : Nat → List FV → List (Nat × Flags) × List Nat
  | i, a :: b :: rest =>
    let coarse : Int := E - 127 - ((w : Int) - 2)
    let fine := coarse - 1
    let mu := nbfFits w mode (u i) fine a && nbfFits w mode (u (i + 1)) fine b
    let q := if mu then fine else coarse
    let (ms, us) := nbfPairs w mode u E (i + 2) rest
    (nbfMant w mode (u i) q a :: nbfMant w mode (u (i + 1)) q b :: ms, (if mu then 1 else 0) :: us)
  | _, _ => ([], [])

/-- NbfEncode (R41) of 16 values: exponent, micro-exponent byte, mantissas with flags. (DEDUCED, log entry 18.) -/
def nbfEncode (w mode : Nat) (u : Nat → Nat) (vs : List FV) : Nat × Nat × List (Nat × Flags) :=
  let bad := vs.any fun v => !v.isFin
  if vs.all fun v => !v.isFin then (255, 0, vs.map fun _ => (0, fInvalid))
  else match topBinade vs with
    | none => (if bad then 1 else 0, 0xFF, vs.map fun v => if v.isFin then (0, 0) else (2 ^ (w - 1), fInvalid))
    | some t =>
      let E := satInt (t + 127) 1 254
      let (ms, us) := nbfPairs w mode u E 0 vs
      (E.toNat, packElems 1 us, ms)

/-- TQNT of one row (R241). -/
def qntRow (e : VEnv) (u : Nat → Nat) (b : Nat) : VRes :=
  let vs := (elems 32 32 b).map (decodeF 8)
  let eb := blkBytes e.f2
  let sb := if isMX e.f2 then 1 else 4
  let (plane, scale, fl) :=
    if isMX e.f2 then
      let (xb, es) := mxEncode e.f2 e.r u vs
      let (l, f) := gather es
      (packElems (fmtWidth (mxElem e.f2).1) l, xb, f)
    else
      let w := e.f2 - 16
      let (e0, m0, a) := nbfEncode w e.r.mode u (vs.take 16)
      let (e1, m1, c) := nbfEncode w e.r.mode (fun i => u (16 + i)) (vs.drop 16)
      let (l, f) := gather (a ++ c)
      (packElems w l, packElems 8 [e0, m0, e1, m1], f)
  { val := plane * 2 ^ (8 * e.var * eb), mask := byteMask (e.var * eb) eb
    val2 := scale * 2 ^ (8 * e.var * sb), mask2 := byteMask (e.var * sb) sb, flags := fl }

/-- An MX element with its scale byte (R37). -/
def mxDecode (f xb w : Nat) : FV :=
  if xb = 0xFF then .nan false
  else match decodeF (mxElem f).1 w with
    | .fin n m e => .fin n m (e + xb - 127)
    | .nan _ => .nan false
    | v => v

/-- NbfDecode (R40) of a mantissa pattern of width w under exponent E and micro-exponent mu. (DEDUCED, log entry 19.) -/
def nbfDecode (w E mu mant : Nat) : FV :=
  if E = 0 then .fin false 0 0
  else if E = 255 ∨ mant % 2 ^ w = 2 ^ (w - 1) then .nan false
  else
    let x := signed w mant
    .fin (decide (x < 0)) x.natAbs ((E : Int) - 127 - mu - ((w : Int) - 2))

/-- The 32 values that a part of an element plane and of a scale plane holds (R242). -/
def blockValues (f p plane scales : Nat) : List FV :=
  let eb := blkBytes f
  let es := plane / 2 ^ (8 * p * eb)
  if isMX f then
    let xb := scales / 2 ^ (8 * p) % 256
    (elems (fmtWidth (mxElem f).1) 32 es).map (mxDecode f xb)
  else
    let w := f - 16
    let sc := elems 8 4 (scales / 2 ^ (32 * p))
    (elems w 32 es).zipIdx.map fun (m, i) =>
      let blk := i / 16
      nbfDecode w (sc.getD (2 * blk) 0) (if bit (sc.getD (2 * blk + 1) 0) (i % 16 / 2) then 1 else 0) m

/-- TDQ of one row (R242). -/
def dqRow (e : VEnv) (u : Nat → Nat) (b c : Nat) : VRes :=
  packRow 8 ((blockValues e.ty e.var b c).zipIdx.map fun (v, i) => roundFV 8 e.r (u i) v)

/-! ## Reductions and scans (R243 to R245) -/

/-- One level of the tree of R45 with its draws from number i on: the new values, flags, and the next draw. -/
def treeLevel (f : Nat → Nat → Nat → Nat × Flags) : Nat → List Nat → List Nat × Flags × Nat
  | i, a :: b :: rest =>
    let (v, g) := f i a b
    let (vs, h, n) := treeLevel f (i + 1) rest
    (v :: vs, g ||| h, n)
  | i, _ => ([], 0, i)

/-- The tree of R45: its fuel is the number of levels. -/
def treeSum (f : Nat → Nat → Nat → Nat × Flags) : Nat → Nat → List Nat → Nat × Flags
  | 0, _, l => (l.headD 0, 0)
  | n + 1, i, l =>
    let (vs, g, j) := treeLevel f i l
    let (v, h) := treeSum f n j vs
    (v, g ||| h)

/-- An FP32 sum with one rounding. -/
def sumStep (r : Rnd) (u a b : Nat) : Nat × Flags := roundOp 8 r u (addFV r.mode (decodeF 8 a) (decodeF 8 b))

/-- TRED of one row: the 32-bit result (R243). -/
def redRow (e : VEnv) (u : Nat → Nat) (b : Nat) : Nat × Flags :=
  let l := rowElts e.ty b
  let levels := Nat.log2 (rowElems e.ty)
  if isFE e.ty then
    let (vs, g) := gather (l.map (widen32 e.ty))
    let (v, h) := treeSum (fun i a c => sumStep e.r (u i) a c) levels 0 vs
    (v, g ||| h)
  else
    let t := if e.ty < 4 then 2 else 6
    let vs := l.map fun x => encodeI t false (decodeI e.ty x)
    treeSum (fun _ a c => (encodeI t e.isat (decodeI t a + decodeI t c), 0)) levels 0 vs

/-- The steps of TSCAN after element 0, from element j on (R244). -/
def scanFrom (e : VEnv) (u : Nat → Nat) : Nat → Nat → List Nat → List (Nat × Flags)
  | _, _, [] => []
  | j, v, x :: xs =>
    if isFE e.ty then
      let (w, f) := widen32 e.ty x
      let (v', g) := sumStep e.r (u (2 * j - 1)) v w
      let (o, h) := roundFV e.ty e.r (u (2 * j)) (decodeF 8 v')
      (o, f ||| g ||| h) :: scanFrom e u (j + 1) v' xs
    else
      let v' := encodeI e.ty e.isat (decodeI e.ty v + decodeI e.ty x)
      (v', 0) :: scanFrom e u (j + 1) v' xs

/-- TSCAN of one row. -/
def scanRow (e : VEnv) (u : Nat → Nat) (b : Nat) : VRes :=
  match rowElts e.ty b with
  | [] => { val := 0, mask := fullMask }
  | x :: xs =>
    if isFE e.ty then
      let (v, f) := widen32 e.ty x
      let (o, g) := roundFV e.ty e.r (u 0) (decodeF 8 v)
      packRow e.ty ((o, f ||| g) :: scanFrom e u 1 v xs)
    else packRow e.ty ((x, 0) :: scanFrom e u 1 x xs)

/-! ## Moving elements (R245 to R249) -/

/-- A row whose element i is element (src i) of b, or zero. -/
def moveRow (t b : Nat) (src : Nat → Option Nat) : VRes :=
  let l := rowElts t b
  packRow t ((List.range (rowElems t)).map fun i => match src i with
    | some j => (l.getD j 0, 0)
    | none => (0, 0))

/-- TSHF (R246): the source of element i. -/
def shfSrc (var k n i : Nat) : Option Nat :=
  let j : Int := if bit var 1 then (i : Int) - k else i + k
  if bit var 0 then (if 0 ≤ j ∧ j < n then some j.toNat else none) else some (j % n).toNat

/-- TTRN.t (R248): row i of the transposed tile. -/
def trnRow (t i : Nat) (rows : List Nat) : Nat :=
  let ls := rows.map (rowElts t)
  packElems (fmtWidth t) ((List.range (rowElems t)).map fun x => (ls.getD (x % 32) []).getD (x / 32 * 32 + i) 0)

/-! ## FRAND (R253) -/

/-- The elements of a filled row. -/
def frandRow (t : Nat) (u : Nat → Nat) : VRes :=
  let pair i := u (2 * i) + 65536 * u (2 * i + 1)
  let put (m : Nat) (e : Int) := (roundF t 0 false 0 false m e false).1
  packRow t ((List.range (rowElems t)).map fun i => (match t with
    | 5 => u i
    | 6 => pair i
    | 8 => put (pair i / 256) (-24)
    | _ => put (u i / 256) (-8), 0))

/-! ## One row -/

/-- The mask that an instruction writes in its destination row, and in the second row of TQNT. -/
def VEnv.masks (e : VEnv) : Nat × Nat :=
  let w := fmtWidth e.ty
  match e.k with
  | .tcvt =>
    let k := cvtCount e.ty e.f2
    let wd := fmtWidth e.f2
    ((2 ^ (k * wd) - 1) * 2 ^ (if wd < w then e.var * k * wd else 0), 0)
  | .tqnt =>
    let eb := blkBytes e.f2
    let sb := if isMX e.f2 then 1 else 4
    (byteMask (e.var * eb) eb, byteMask (e.var * sb) sb)
  | .fexpq => (byteMask (32 * (e.var % 4)) 32, 0)
  | .tred => (byteMask (4 * e.c) 4, 0)
  | .tins => ((2 ^ w - 1) * 2 ^ (w * (bits e.sc 38 32 % rowElems e.ty)), 0)
  | _ => (fullMask, 0)

/-- What a row form writes, from its operand rows b, c and d. -/
def vecRow (e : VEnv) (u : Nat → Nat) (b c d : Nat) : VRes :=
  let n := rowElems e.ty
  let w := fmtWidth e.ty
  let bs := rowElts e.ty b
  let cs := match e.k.cRole e.var with
    | .scalar => List.replicate n (e.sc % 2 ^ w)
    | .imm => List.replicate n e.c
    | _ => rowElts e.ty c
  let zip (f : Nat → Nat → Nat × Flags) := packRow e.ty (List.zipWith f bs cs)
  let map (f : Nat → Nat → Nat × Flags) := packRow e.ty (bs.zipIdx.map fun (x, i) => f i x)
  match e.k with
  | .tadd | .tsub | .tmul | .tfma | .tfms =>
    packRow e.ty ((List.zipWith Prod.mk bs (List.zipWith Prod.mk cs (rowElts e.ty d))).zipIdx.map fun (x, i) =>
      arithElem e (u i) x.1 x.2.1 x.2.2)
  | .tmin => zip (minMaxElem e.ty false)
  | .tmax => zip (minMaxElem e.ty true)
  | .tabs => map fun _ x => (absNegElem e.ty false e.isat x, 0)
  | .tneg => map fun _ x => (absNegElem e.ty true e.isat x, 0)
  | .tand => zip fun x y => (x &&& y, 0)
  | .tor => zip fun x y => (x ||| y, 0)
  | .txor => zip fun x y => (x ^^^ y, 0)
  | .tshl | .tshr | .tshra => zip fun x y => (shiftElem e x y, 0)
  | .tcmp => zip (cmpElem e.ty e.var)
  | .tsel => packRow e.ty (List.zipWith (fun s (x : Nat × Nat) => (if s ≠ 0 then x.1 else x.2, 0)) (rowElts e.ty d)
      (List.zipWith Prod.mk bs cs))
  | .tcvt => cvtRow e u b
  | .tqnt => qntRow e u b
  | .tdq => dqRow e u b c
  | .tred =>
    let (v, f) := redRow e u b
    { val := v * 2 ^ (32 * e.c), mask := byteMask (4 * e.c) 4, flags := f }
  | .tscan => scanRow e u b
  | .tbcst =>
    let v := if bit e.var 0 then e.sc % 2 ^ w else bs.getD (e.c + 32 * (e.var / 2)) 0
    packRow e.ty (List.replicate n (v, 0))
  | .tins =>
    let i := bits e.sc 38 32 % n
    { val := e.sc % 2 ^ w * 2 ^ (w * i), mask := (2 ^ w - 1) * 2 ^ (w * i) }
  | .text => { val := bs.getD (e.c + 32 * (e.var / 2)) 0, mask := fullMask }
  | .tperm =>
    let xs := elems 8 n c
    moveRow e.ty b fun i => let x := xs.getD i 0; if bit x 7 then none else some (x % n)
  | .ttrn => moveRow e.ty b fun i => some (i % 4 * (n / 4) + i / 4)
  | .tzero => { val := 0, mask := fullMask }
  | .tmov => { val := b, mask := fullMask }
  | .tshf => moveRow e.ty b (shfSrc e.var (if bit e.var 2 then bits e.sc 6 0 else e.c) n)
  | .fdivt => packRow e.ty ((List.zipWith Prod.mk bs cs).zipIdx.map fun (x, i) =>
      divF e.ty e.r (u i) (decodeF e.ty x.1) (decodeF e.ty x.2))
  | .fexpq =>
    let (l, f) := gather (bs.map fun x => expqF e.r.sat (decodeF 8 x))
    let q := e.var % 4
    { val := packElems 8 l * 2 ^ (256 * q), mask := byteMask (32 * q) 32, flags := f }
  | .frand => frandRow e.ty u
  | k => map fun i x => specialF k e.ty e.r (u i) (decodeF e.ty x)

/-- Draws per row under RS (R234, R250); FRAND always draws. -/
def vecDraws (k : VKind) (ty f2 : Nat) : Nat :=
  let n := rowElems ty
  match k with
  | .tadd | .tsub | .tmul | .tred => if isFE ty then n else 0
  | .tfma | .tfms => n
  | .tcvt => if ty < 8 ∧ f2 < 8 then 0 else cvtCount ty f2
  | .tqnt | .tdq => 32
  | .tscan => if isFE ty then 2 * n - 1 else 0
  | .frand => 64
  | .fexp2 | .flog2 | .frcp | .frsq | .fsqrt | .fdivt | .ftanh | .fsigm | .fsin | .fcos => n
  | _ => 0

/-- Whether the instruction rounds by the governing mode (R232). -/
def vecRounds (k : VKind) (ty f2 : Nat) : Bool := k != .frand && vecDraws k ty f2 != 0

/-- Latency bounds of R92: of the .r form and of the .t form. -/
def vecLat : VKind → Nat × Nat
  | .tmul | .tfma | .tfms | .tcvt | .tqnt | .tdq => (4, 35)
  | .tred => (8, 39)
  | .tscan => (9, 40)
  | .ttrn => (4, 40)
  | .tperm => (8, 132)
  | .fexp2 | .flog2 | .frcp | .frsq | .fsqrt | .fexpq => (6, 37)
  | .fdivt => (12, 43)
  | .ftanh | .fsigm | .fsin | .fcos => (10, 41)
  | _ => (2, 33)

/-- Cycles for which the .t form keeps its slot (R92). -/
def vecOcc : VKind → Nat
  | .tperm => 128
  | _ => 32

end Sys2Proof.Machine
end

