-- ==== Sys2Proof/Machine/Array.lean ====
section
/-!
DEFINITION. The arrays: addresses of beat memory and accumulators (spec/03_beat_memory.md R48), the arithmetic of the
in-array operations (R71 to R76; spec/06_correcting.md R129 to R140), and what each commit point does (R63, R79).
-/

namespace Sys2Proof.Machine

/-! ## Addresses (R48, R261) -/

/-- The physical beat address of a byte. -/
def beatKey (bay bank side row byte : Nat) : Nat := bay * 2 ^ 30 + bank * 2 ^ 22 + side * 2 ^ 21 + row * 2 ^ 10 + byte

/-- The accumulator address of a byte. -/
def accKey (bay bank row byte : Nat) : Nat := bay * 2 ^ 30 + bank * 2 ^ 22 + row * 2 ^ 10 + byte

/-- The rows of 1 KiB that n bytes from a cover wholly are no longer poisoned (R79). -/
def unpoison (ps : List Nat) (a n : Nat) : List Nat :=
  ps.filter fun x => !(decide (a ≤ 1024 * x) && decide (1024 * x + 1024 ≤ a + n))

/-- Bytes written to beat memory. -/
def State.putBeat (s : State) (a : Nat) (bs : List Byte) : State := { s with beat := s.beat.store a bs }

/-- Bytes written to accumulators. -/
def State.putAcc (s : State) (a : Nat) (bs : List Byte) : State := { s with acc := s.acc.store a bs }

/-- A write applied at the close of an access beat: rows that it rewrites whole are no longer poisoned (R79). -/
def State.storeRows (s : State) (acc : Bool) (a : Nat) (bs : List Byte) : State :=
  if acc then (s.putAcc a bs).onPkg fun p => { p with poisonAcc := unpoison p.poisonAcc a bs.length }
  else (s.putBeat a bs).onPkg fun p => { p with poisonBeat := unpoison p.poisonBeat a bs.length }

/-- The first row of a list of poisoned rows that n bytes from a touch. -/
def firstRow (ps : List Nat) (a n : Nat) : Option Nat :=
  ((List.range ((a + n + 1023) / 1024 - a / 1024)).map fun i => a / 1024 + i).find? fun x => ps.contains x

/-- The first poisoned row that n bytes of beat memory or accumulators touch. -/
def State.rowPoison (s : State) (acc : Bool) (a n : Nat) : Option Nat :=
  firstRow (if acc then s.pkg.poisonAcc else s.pkg.poisonBeat) a n

/-- The same for a reader of the close of the last compute beat: rows poisoned then, or since (R54, R79). -/
def State.snapPoison (s : State) (p : Nat) (acc : Bool) (a n : Nat) : Option Nat :=
  let x := s.part p
  firstRow (if acc then x.snapPoisonAcc ++ s.pkg.poisonAcc else x.snapPoisonBeat ++ s.pkg.poisonBeat) a n

/-- The FP32 elements of an accumulator row. -/
def State.accRow (s : State) (bay bank row : Nat) : List Nat := elems 32 256 (s.acc.num (accKey bay bank row 0) 1024)

/-- An accumulator row replaced. -/
def State.setAccRow (s : State) (bay bank row : Nat) (l : List Nat) : State :=
  s.putAcc (accKey bay bank row 0) (leBytes 1024 (packElems 32 l))

/-- The poison report of an access of a kind of R352 (R365). -/
def poisonReport (kind row : Nat) : Report := ⟨0x14, BitVec.ofNat 64 kind, BitVec.ofNat 64 (1024 * row), 0, 0⟩

/-- Flags of many results. -/
def orFlags (l : List (Nat × Flags)) : List Nat × Flags := (l.map (·.1), l.foldl (fun a x => a ||| x.2) 0)

/-! ## AMAC (R72, R73) -/

/-- The streamed elements of a block step, aligned: whether one is no number, the base exponent, the signed magnitudes, and
whether one was rounded. -/
structure Lanes where
  nan : Bool
  base : Int
  q : List Int
  inexact : Bool
  deriving DecidableEq, Repr

/-- The alignment of R73. -/
def lanes (es : List FV) : Lanes :=
  if es.any fun v => !v.isFin then ⟨true, 0, [], false⟩
  else
    let exps := es.filterMap fun v => match v with
      | .fin _ m e => if m = 0 then none else some e
      | _ => none
    let base := exps.foldl max (exps.headD 0) - 15
    let qs := es.map fun v => match v with
      | .fin n m e => if m = 0 then ((0 : Int), false) else roundInt 0 0 n m (e - base) 0
      | _ => (0, false)
    ⟨false, base, qs.map (·.1), qs.any (·.2)⟩

/-- One output column of a block step: weight width, mantissa field, block exponent, micro-exponents, accumulator. No addition of
AMAC, ASUM or TMMA saturates, whatever fmt.SATD holds: none of them can carry .sat. (DEDUCED, log entry 157.) -/
def amacColumn (L : Lanes) (w mant E mu acc : Nat) : Nat × Flags :=
  let ms := elems w 16 mant
  if L.nan || E == 255 || (E != 0 && ms.any (· == 2 ^ (w - 1))) then (canonNaN 8, fInvalid)
  else
    let ws := ms.zipIdx.map fun (m, i) => signed w m * (if bit mu (i / 2) then 1 else 2)
    let P : Int := if E = 0 then 0 else (List.zipWith (· * ·) L.q ws).foldl (· + ·) 0
    let q : Int := L.base + E - 128 - ((w : Int) - 2)
    let small := P ≠ 0 && magLt P.natAbs q 1 (-126)
    let part : FV := if P = 0 then .fin false 0 0 else if small then .fin (decide (P < 0)) 0 0 else .fin (decide (P < 0)) P.natAbs q
    let (x, f) := addFV 0 (decodeF 8 acc) part
    let (v, g) := roundFV 8 ⟨0, false⟩ 0 x
    (v, f ||| g ||| (if small then fUnderflow ||| fInexact else 0) ||| (if L.inexact then fInexact else 0))

/-- Blocks of 16 elements in one streamed row (R73). -/
def blocksPerRow (f : Nat) : Nat := if isNBF f then 64 / (f - 16) else if isMX f then rowElems (mxElem f).1 / 16 else rowElems f / 16

/-- The magnitude bits m of a streamed format (R72). -/
def magBits (f : Nat) : Nat :=
  if isNBF f then f - 17
  else match (if isMX f then (mxElem f).1 else f) with
    | 10 => 8
    | 11 => 4
    | 12 => 3
    | _ => 2

/-- The 16 elements of block `blk` of a streamed row, with its two scale bytes. -/
def streamBlock (f blk : Nat) (row : Row) (sc0 sc1 : Nat) : List FV :=
  if isNBF f then
    let w := f - 16
    (elems w 16 (row.toNat >>> (16 * w * blk))).zipIdx.map fun (m, i) => nbfDecode w sc0 (if bit sc1 (i / 2) then 1 else 0) m
  else if isMX f then
    let w := fmtWidth (mxElem f).1
    (elems w 16 (row.toNat >>> (16 * w * blk))).map (mxDecode f sc0)
  else (elems (fmtWidth f) 16 (row.toNat >>> (16 * fmtWidth f * blk))).map (decodeF f)

/-- The side of a bank that is worn (R69): 0 A, 1 B. -/
def Bay.worn (b : Bay) (bank : Nat) : Nat := if b.wornB.contains bank then 1 else 0

/-- One byte of the scale rows that begin at a tile row. -/
def State.scaleByte (s : State) (bay row i : Nat) : Nat :=
  bits (s.readRow bay (row + i / 128) (3000 + i / 128)).toNat (8 * (i % 128) + 7) (8 * (i % 128))

/-! ## AOP and ASUM (R74, R75) -/

/-- The width of an AOP type of R209. -/
def aopWidth (ty : Nat) : Nat := match ty with
  | 0 => 8
  | 2 => 32
  | _ => 16

/-- One element of AOP: type, saturation, operation, constant (or k), a and b. -/
def aopElem (ty : Nat) (sat : Bool) (op c a b : Nat) : Nat × Flags :=
  let w := aopWidth ty
  if op = 5 then (a, 0) else if op = 6 then (c % 2 ^ w, 0)
  else if ty = 3 then
    if op = 4 then minMaxF 10 true a b
    else
      let x := decodeF 10 a
      let (v, f) := match op with
        | 0 => addFV 0 x (decodeF 10 b)
        | 1 => addFV 0 x (decodeF 10 b).neg
        | 2 => mulFV x (.fin false 1 c)
        | _ => mulFV x (decodeF 10 (c % 2 ^ 16))
      let (r, g) := roundFV 10 ⟨0, sat⟩ 0 v
      (r, f ||| g)
  else
    let x := signed w a
    let y := signed w b
    let v : Int := match op with
      | 0 => x + y
      | 1 => x - y
      | 2 => x * (2 ^ c : Nat)
      | 3 => x * signed w c
      | _ => if x < y then y else x
    (encodeI ty sat v, 0)

/-! ## Correcting mode (R129 to R139) -/

/-- Accumulator rows of a bank that a tile uses (R129). -/
def TileDesc.h (t : TileDesc) : Nat := ceilDiv t.nrow t.nb

/-- The bank and the accumulator row of tile row i. -/
def TileDesc.place (t : TileDesc) (i : Nat) : Nat × Nat := (t.bank0 + i % t.nb, t.arow + i / t.nb)

/-- Tile rows of a key and of a value (R131). -/
def TileDesc.gk (t : TileDesc) : Nat := ceilDiv t.ncol 32
def TileDesc.gv (t : TileDesc) : Nat := ceilDiv t.nrow 32

/-- FP32 elements that run through consecutive tile rows of a bay. -/
def State.tileElems (s : State) (bay row rows n : Nat) : List Nat :=
  (((List.range rows).map fun i => elems 32 32 (s.readRow bay (row + i) (3100 + i)).toNat).flatten).take n

/-- The response of one row of S to a key (R134). -/
def respond (srow key : List Nat) : Nat × Flags :=
  (srow.zip key).foldl (fun (y, f) (x, k) => let (v, g) := fma32 x k y; (v, f ||| g)) (0, 0)

/-- RoundNE(a − b, FP32). -/
def sub32 (a b : Nat) : Nat × Flags :=
  let (v, f) := addFV 0 (decodeF 8 a) (decodeF 8 b).neg
  let (x, g) := roundFV 8 ⟨0, false⟩ 0 v
  (x, f ||| g)

/-- One row of S plus e·kᵀ. -/
def applyKey (e : Nat) (srow key : List Nat) : List Nat × Flags :=
  orFlags (List.zipWith (fun x k => fma32 e k x) srow key)

/-- COPA on one row of S (R134): the new row, its error, and flags. -/
def copaRow (beta : Nat) (alpha : Option Nat) (key : List Nat) (v : Nat) (srow : List Nat) : List Nat × Nat × Flags :=
  let (s1, f1) := match alpha with
    | some a => orFlags (srow.map fun x => mul32 a x)
    | none => (srow, 0)
  let (y, f2) := respond s1 key
  let (d, f3) := sub32 v y
  let (e, f4) := mul32 beta d
  let (s2, f5) := applyKey e s1 key
  (s2, e, f1 ||| f2 ||| f3 ||| f4 ||| f5)

/-- How an element fails a limit (R138): 1 not finite, 2 above it. -/
def failsLimit (limit x : Nat) : Option Nat :=
  if bits x 30 23 = 255 then some 1
  else if limit % 2 ^ 31 < x % 2 ^ 31 then some 2 else none

/-- The first failing element of a list: its index, how, and its bits. -/
def firstFail (limit : Nat) (l : List Nat) : Option (Nat × Nat × Nat) :=
  l.zipIdx.findSome? fun (x, i) => (failsLimit limit x).map fun r => (i, r, x)

/-- The tile's row i as it stands. -/
def State.tileRow (s : State) (bay : Nat) (t : TileDesc) (i : Nat) : List Nat :=
  (s.accRow bay (t.place i).1 (t.place i).2).take t.ncol

/-- The tile's row i replaced; elements from NCOL on are kept. -/
def State.setTileRow (s : State) (bay : Nat) (t : TileDesc) (i : Nat) (l : List Nat) : State :=
  s.setAccRow bay (t.place i).1 (t.place i).2 (l ++ (s.accRow bay (t.place i).1 (t.place i).2).drop t.ncol)

/-- The check of the state (R138): row, column, how, and the element. -/
def State.checkTile (s : State) (bay : Nat) (t : TileDesc) : Option (Nat × Nat × Nat × Nat) :=
  (List.range t.nrow).findSome? fun i => (firstFail t.divlim (s.tileRow bay t i)).map fun (j, r, x) => (i, j, r, x)

/-- The syndrome of a divergence (R139). -/
def divergence (ins reason col row key x : Nat) (t : TileDesc) (pc : Nat) : Report :=
  ⟨0x0D, BitVec.ofNat 64 (ins * 2 ^ 29 + reason * 2 ^ 26 + col * 2 ^ 18 + row * 2 ^ 10 + key), BitVec.ofNat 64 x, t.raw,
    BitVec.ofNat 64 pc⟩

/-- DIVMODE of a step register. -/
def divMode (b : BitVec 128) : Nat := bits b.toNat 12 11

/-! ## Commit points (R63) -/

/-- How many commit steps an operation has. -/
def ArrayOp.steps : ArrayOp → Nat
  | .amac _ n _ _ _ _ _ f _ _ _ => n * blocksPerRow f
  | .azero _ _ _ c => c
  | .adrain _ _ _ c _ _ _ _ _ => c
  | .aop _ _ _ _ _ _ _ _ _ n _ => n
  | .asum _ _ _ _ _ n _ _ => n
  | .cresp _ _ n _ => n
  | .copa _ _ _ n b _ => n + if divMode b = 2 then 1 else 0
  | .copac _ _ _ n div => n + if div = 2 then 1 else 0
  | .cchk _ _ n => n + 1
  | .csnap _ t _ _ => t.h

/-- The cycle of commit step k, counted from the start. (DEDUCED, log entry 40.) Under DIVMODE 1 a key of COPA whose error check
fails ends the instruction after the cycles of the state check too. (DESIGN CHOICE, log entry 166.) -/
def ArrayOp.commitAt (o : ArrayOp) (k : Nat) : Nat :=
  match o with
  | .amac _ _ _ _ _ _ _ f _ _ _ => 16 + magBits f * (k + 1)
  | .asum _ _ _ _ _ _ _ _ => 8 + 4 * (k + 1)
  | .azero _ _ _ _ | .adrain _ _ _ _ _ _ _ _ _ | .aop _ _ _ _ _ _ _ _ _ _ _ | .csnap _ _ _ _ => 8 + 2 * (k + 1)
  | .cresp t _ _ _ => 16 + (k + 1) * t.h * (t.ncol + 4)
  | .copa t _ _ n b _ =>
    16 + min (k + 1) n * (t.h * (t.ncol + 8 + if bit b.toNat 10 then 4 else 0) + if divMode b = 1 then 4 * t.h else 0)
      + if n ≤ k then 4 * t.h else 0
  | .copac t _ _ n div => 16 + min (k + 1) n * (4 * t.h + if div = 1 then 4 * t.h else 0) + if n ≤ k then 4 * t.h else 0
  | .cchk t _ n => 8 + 4 * min (k + 1) n + if n ≤ k then 4 * t.h else 0

/-- How a commit step comes out: it goes on, or the operation fails with a report. -/
structure Commit where
  s : State
  r : Running
  fail : Option Report := none

/-- The first poison that an operation's reads of rows meet: tile rows of its bay, then beat rows and accumulator rows by their
addresses. -/
def State.arrayPoison (s : State) (bay : Nat) (tiles beat acc : List Nat) : Option Report :=
  ((s.rowsPoisoned 6 bay tiles).or ((beat.findSome? fun a => s.rowPoison false a 1).map (poisonReport 6))).or
    ((acc.findSome? fun a => s.rowPoison true a 1).map (poisonReport 6))

/-- The tile rows from one on. -/
def rowsFrom (row n : Nat) : List Nat := (List.range n).map (row + ·)

/-- The accumulator rows that hold rows of a tile. -/
def TileDesc.accRows (t : TileDesc) (bay : Nat) : List Nat :=
  (List.range t.nrow).map fun i => accKey bay (t.place i).1 (t.place i).2 0

/-- A commit that goes on unless the rows that it reads are poisoned. -/
def State.unlessPoison (s : State) (r : Running) (bay : Nat) (tiles beat acc : List Nat) (go : Commit) : Commit :=
  match s.arrayPoison bay tiles beat acc with
  | some x => { s, r, fail := some x }
  | none => go

/-- A commit that reads the rows given, and then acts on every bank. -/
def State.overBanks (s : State) (r : Running) (bay : Nat) (banks tiles beat acc : List Nat) (act : State → Nat → State × Flags) :
    Commit :=
  s.unlessPoison r bay tiles beat acc <|
    let (s1, f) := banks.foldl (fun (s, f) k => let (s', g) := act s k; (s', f ||| g)) (s, (0 : Flags))
    { s := s1, r := { r with flags := r.flags ||| f } }

/-- The rows of 1 KiB that n bytes from a cover. -/
def rowsOver (a n : Nat) : List Nat := (List.range ((a + n - 1) / 1024 - a / 1024 + 1)).map fun i => (a / 1024 + i) * 1024

/-- Commit step k of an in-array operation of a bay (R73 to R76, R134 to R140). -/
def State.arrayStep (s : State) (bay : Nat) (r : Running) (o : ArrayOp) : Commit :=
  let k := r.done
  let b := s.bay bay
  let banksOf (b0 n : Nat) : List Nat := (List.range n).map (b0 + ·)
  let diverge (s : State) (r : Running) (x : Report) : Commit := { s, r := { r with flags := r.flags ||| fTaint }, fail := some x }
  match o with
  | .amac src _ g bank0 nb wrow a0 sfmt wfmt scale zero =>
    let bpr := blocksPerRow sfmt
    let B := g * bpr
    let v := k / B
    let kb := k % B
    let w := wfmt - 16
    let row := s.readRow bay (src + v * g + kb / bpr) 3001
    let sb (i : Nat) := if isBLK sfmt then s.scaleByte bay scale i else 0
    let n := B * v + kb
    let L := lanes (streamBlock sfmt (kb % bpr) row (sb (if isNBF sfmt then 2 * n else n / 2)) (sb (2 * n + 1)))
    let mant (bank : Nat) := beatKey bay bank (b.worn bank) wrow 0 + 512 * w * kb
    let scal (bank : Nat) := beatKey bay bank (b.worn bank) (wrow + ceilDiv (B * w) 2) 0 + 512 * kb
    let banks := banksOf bank0 nb
    let fresh := zero && kb == 0
    let scales := if isNBF sfmt then [scale + 2 * n / 128, scale + (2 * n + 1) / 128]
      else if isMX sfmt then [scale + n / 2 / 128] else []
    s.overBanks r bay banks ((src + v * g + kb / bpr) :: scales) (banks.flatMap fun x => rowsOver (mant x) (512 * w) ++ rowsOver (scal x) 512)
      (if fresh then [] else banks.map fun x => accKey bay x (a0 + v) 0) fun s x =>
        let old := if fresh then List.replicate 256 0 else s.accRow bay x (a0 + v)
        let ms := elems (16 * w) 256 (s.beat.num (mant x) (512 * w))
        let es := elems 16 256 (s.beat.num (scal x) 512)
        let (l, f) := orFlags (List.zipWith (fun (m, e) a => amacColumn L w m (e % 256) (e / 256) a) (ms.zip es) old)
        (s.setAccRow bay x (a0 + v) l, f)
  | .azero bank0 nb arow _ =>
    s.overBanks r bay (banksOf bank0 nb) [] [] [] fun s x => (s.setAccRow bay x (arow + k) [], 0)
  | .adrain bank0 nb arow _ brow side bf16 hi zero =>
    let banks := banksOf bank0 nb
    s.overBanks r bay banks [] [] (banks.map fun x => accKey bay x (arow + k) 0) fun s x =>
      let l := s.accRow bay x (arow + k)
      let (bs, f) := if bf16 then
          let (h, f) := orFlags (l.map fun e => roundFV 10 ⟨0, false⟩ 0 (decodeF 8 e))
          (leBytes 512 (packElems 16 h), f)
        else (leBytes 1024 (packElems 32 l), 0)
      let s1 := s.putBeat (beatKey bay x side (brow + k) (if bf16 && hi then 512 else 0)) bs
      (if zero then s1.setAccRow bay x (arow + k) [] else s1, f)
  | .aop ty sat op bank0 nb side d a b2 _ c =>
    let banks := banksOf bank0 nb
    let w := aopWidth ty
    let key (x row : Nat) := beatKey bay x side (row + k) 0
    let two := op == 0 || op == 1 || op == 4
    s.overBanks r bay banks [] (banks.flatMap fun x => (if op = 6 then [] else [key x a]) ++ if two then [key x b2] else []) [] fun s x =>
      let get (row : Nat) := elems w (8192 / w) (s.beat.num (key x row) 1024)
      let (l, f) := orFlags (List.zipWith (aopElem ty sat op c) (get a) (get b2))
      (s.putBeat (key x d) (leBytes 1024 (packElems w l)), f)
  | .asum bf16 hi bank0 nb arow _ side row =>
    let banks := banksOf bank0 nb
    let key (x : Nat) := beatKey bay x side (row + k) 0
    s.overBanks r bay banks [] (banks.map key) (banks.map fun x => accKey bay x arow 0) fun s x =>
      let src := if bf16 then (elems 16 256 (s.beat.num (key x + if hi then 512 else 0) 512)).map (widen32 10)
        else (elems 32 256 (s.beat.num (key x) 1024)).map (widen32 8)
      let (l, f) := orFlags (List.zipWith (fun (y, g) a => let (v, h) := add32 a y; (v, g ||| h)) src (s.accRow bay x arow))
      (s.setAccRow bay x arow l, f)
  | .cresp t key _ _ =>
    let rows := List.range t.nrow
    s.unlessPoison r bay (rowsFrom (key + k * t.gk) t.gk) [] (t.accRows bay) <|
      let kv := s.tileElems bay (key + k * t.gk) t.gk t.ncol
      let (l, f) := orFlags (rows.map fun i => respond (s.tileRow bay t i) kv)
      { s, r := { r with out := r.out ++ [l], flags := r.flags ||| f } }
  | .copa t key val n b2 _ =>
    let rows := List.range t.nrow
    let stateFail (s : State) (r : Running) (t' : Nat) : Commit :=
      match s.checkTile bay t with
      | some (i, j, how, x) => diverge s r (divergence 0 how j i t' x t r.entry.pc)
      | none => { s, r }
    if n ≤ k then s.unlessPoison r bay [] [] (t.accRows bay) (stateFail s r (n - 1))
    else
      let w := b2.toNat
      let betaRow := if bit w 9 then [rowNum (bits w 3 0) (bits w 8 4)] else []
      s.unlessPoison r bay (betaRow ++ rowsFrom (key + k * t.gk) t.gk ++ rowsFrom (val + k * t.gv) t.gv) [] (t.accRows bay) <|
      let kv := s.tileElems bay (key + k * t.gk) t.gk t.ncol
      let vv := s.tileElems bay (val + k * t.gv) t.gv t.nrow
      let beta := if bit w 9 then (s.tileElems bay (rowNum (bits w 3 0) (bits w 8 4)) 1 32).getD k 0 else bits w 95 64
      let alpha := if bit w 10 then some (bits w 127 96) else none
      let out := rows.map fun i => copaRow beta alpha kv (vv.getD i 0) (s.tileRow bay t i)
      let s1 := (out.zipIdx).foldl (fun s (x, i) => s.setTileRow bay t i x.1) s
      let e := out.map fun x => x.2.1
      let r1 := { r with out := r.out ++ [e], flags := out.foldl (fun f x => f ||| x.2.2) r.flags }
      if divMode b2 = 0 then { s := s1, r := r1 }
      else match firstFail t.errlim e with
        | some (i, how, x) => diverge s1 r1 (divergence 0 (how + 2) 0 i k x t r.entry.pc)
        | none => if divMode b2 = 1 then stateFail s1 r1 k else { s := s1, r := r1 }
  | .copac t key err n div =>
    let rows := List.range t.nrow
    let stateFail (s : State) (r : Running) (t' : Nat) : Commit :=
      match s.checkTile bay t with
      | some (i, j, how, x) => diverge s r (divergence 1 how j i t' x t r.entry.pc)
      | none => { s, r }
    if n ≤ k then s.unlessPoison r bay [] [] (t.accRows bay) (stateFail s r (n - 1))
    else s.unlessPoison r bay (rowsFrom (err + k * t.gv) t.gv) [] [] <|
      let e := s.tileElems bay (err + k * t.gv) t.gv t.nrow
      match (if div = 0 then none else firstFail t.errlim e) with
      | some (i, how, x) => diverge s r (divergence 1 (how + 2) 0 i k x t r.entry.pc)
      | none =>
        s.unlessPoison r bay (rowsFrom (key + k * t.gk) t.gk) [] (t.accRows bay) <|
          let kv := s.tileElems bay (key + k * t.gk) t.gk t.ncol
          let out := rows.map fun i => applyKey (e.getD i 0) (s.tileRow bay t i) kv
          let s1 := (out.zipIdx).foldl (fun s (x, i) => s.setTileRow bay t i x.1) s
          let r1 := { r with flags := out.foldl (fun f x => f ||| x.2) r.flags }
          if div = 1 then stateFail s1 r1 k else { s := s1, r := r1 }
  | .cchk t err n =>
    if k < n then s.unlessPoison r bay (rowsFrom (err + k * t.gv) t.gv) [] [] <|
      match firstFail t.errlim (s.tileElems bay (err + k * t.gv) t.gv t.nrow) with
      | some (i, how, x) => diverge s r (divergence 2 (how + 2) 0 i k x t r.entry.pc)
      | none => { s, r }
    else s.unlessPoison r bay [] [] (t.accRows bay) <|
      match s.checkTile bay t with
        | some (i, j, how, x) => diverge s r (divergence 2 how j i 0 x t r.entry.pc)
        | none => { s, r }
  | .csnap ld t side rowb =>
    let banks := banksOf t.bank0 (min t.nb t.nrow)
    let bk (x : Nat) := beatKey bay x side (rowb + k) 0
    let ak (x : Nat) := accKey bay x (t.arow + k) 0
    s.overBanks r bay banks [] (if ld then banks.map bk else []) (if ld then [] else banks.map ak) fun s x =>
      (if ld then s.putAcc (ak x) (s.beat.bytes (bk x) 1024) else s.putBeat (bk x) (s.acc.bytes (ak x) 1024), 0)

/-! ## TMMA (R274) -/

/-- The product of two tiles added to a third: the elements of each row, with flags. -/
def tmmaRows (a b c : List (List Nat)) : List (List Nat) × Flags :=
  let cols := (List.range 32).map fun j => b.map fun row => row.getD j 0
  let rows := (a.zip c).map fun (ar, cr) =>
    orFlags ((cols.zip cr).map fun (col, c0) =>
      (ar.zip col).foldl (fun (y, f) (x, k) => let (v, g) := fma32 x k y; (v, f ||| g)) (c0, 0))
  (rows.map (·.1), rows.foldl (fun f x => f ||| x.2) 0)

end Sys2Proof.Machine
end

