-- ==== Sys2Proof/Machine/Crypto.lean ====
section
/-!
DEFINITION. The two published algorithms that the specification names and does not restate: SHA-512 (R392, R395), as FIPS
180-4 defines it, and AES-256-XTS (R390), as FIPS 197 and IEEE 1619 define it. (PRESUMED, log entries 117 and 118.)
-/

namespace Sys2Proof.Machine

/-! ## SHA-512 -/

/-- Constants 0 to 15 of SHA-512. -/
def shaK0 : List Word :=
  [0x428a2f98d728ae22, 0x7137449123ef65cd, 0xb5c0fbcfec4d3b2f, 0xe9b5dba58189dbbc,
   0x3956c25bf348b538, 0x59f111f1b605d019, 0x923f82a4af194f9b, 0xab1c5ed5da6d8118,
   0xd807aa98a3030242, 0x12835b0145706fbe, 0x243185be4ee4b28c, 0x550c7dc3d5ffb4e2,
   0x72be5d74f27b896f, 0x80deb1fe3b1696b1, 0x9bdc06a725c71235, 0xc19bf174cf692694]

/-- Constants 16 to 31 of SHA-512. -/
def shaK1 : List Word :=
  [0xe49b69c19ef14ad2, 0xefbe4786384f25e3, 0x0fc19dc68b8cd5b5, 0x240ca1cc77ac9c65,
   0x2de92c6f592b0275, 0x4a7484aa6ea6e483, 0x5cb0a9dcbd41fbd4, 0x76f988da831153b5,
   0x983e5152ee66dfab, 0xa831c66d2db43210, 0xb00327c898fb213f, 0xbf597fc7beef0ee4,
   0xc6e00bf33da88fc2, 0xd5a79147930aa725, 0x06ca6351e003826f, 0x142929670a0e6e70]

/-- Constants 32 to 47 of SHA-512. -/
def shaK2 : List Word :=
  [0x27b70a8546d22ffc, 0x2e1b21385c26c926, 0x4d2c6dfc5ac42aed, 0x53380d139d95b3df,
   0x650a73548baf63de, 0x766a0abb3c77b2a8, 0x81c2c92e47edaee6, 0x92722c851482353b,
   0xa2bfe8a14cf10364, 0xa81a664bbc423001, 0xc24b8b70d0f89791, 0xc76c51a30654be30,
   0xd192e819d6ef5218, 0xd69906245565a910, 0xf40e35855771202a, 0x106aa07032bbd1b8]

/-- Constants 48 to 63 of SHA-512. -/
def shaK3 : List Word :=
  [0x19a4c116b8d2d0c8, 0x1e376c085141ab53, 0x2748774cdf8eeb99, 0x34b0bcb5e19b48a8,
   0x391c0cb3c5c95a63, 0x4ed8aa4ae3418acb, 0x5b9cca4f7763e373, 0x682e6ff3d6b2b8a3,
   0x748f82ee5defb2fc, 0x78a5636f43172f60, 0x84c87814a1f0ab72, 0x8cc702081a6439ec,
   0x90befffa23631e28, 0xa4506cebde82bde9, 0xbef9a3f7b2c67915, 0xc67178f2e372532b]

/-- Constants 64 to 79 of SHA-512. -/
def shaK4 : List Word :=
  [0xca273eceea26619c, 0xd186b8c721c0c207, 0xeada7dd6cde0eb1e, 0xf57d4f7fee6ed178,
   0x06f067aa72176fba, 0x0a637dc5a2c898a6, 0x113f9804bef90dae, 0x1b710b35131c471b,
   0x28db77f523047d84, 0x32caab7b40c72493, 0x3c9ebe0a15c9bebc, 0x431d67c49c100d4c,
   0x4cc5d4becb3e42b6, 0x597f299cfc657e2a, 0x5fcb6fab3ad6faec, 0x6c44198c4a475817]

/-- The initial hash value of SHA-512. -/
def shaInit : List Word :=
  [0x6a09e667f3bcc908, 0xbb67ae8584caa73b, 0x3c6ef372fe94f82b, 0xa54ff53a5f1d36f1,
   0x510e527fade682d1, 0x9b05688c2b3e6c1f, 0x1f83d9abfb41bd6b, 0x5be0cd19137e2179]

/-- The round constants of SHA-512. -/
def shaK : List Word := shaK0 ++ shaK1 ++ shaK2 ++ shaK3 ++ shaK4

/-- The schedule words w of SHA-512, the latest first, with n more words. -/
def shaSchedule : Nat → List Word → List Word
  | 0, w => w
  | n + 1, w =>
    let x := w.getD 14 0
    let y := w.getD 1 0
    let s0 := x.rotateRight 1 ^^^ x.rotateRight 8 ^^^ (x >>> 7)
    let s1 := y.rotateRight 19 ^^^ y.rotateRight 61 ^^^ (y >>> 6)
    shaSchedule n ((s1 + w.getD 6 0 + s0 + w.getD 15 0) :: w)

/-- One round of SHA-512 on the eight working variables, with a constant and a schedule word. -/
def shaRound (h : List Word) (k w : Word) : List Word :=
  match h with
  | [a, b, c, d, e, f, g, x] =>
    let t1 := x + (e.rotateRight 14 ^^^ e.rotateRight 18 ^^^ e.rotateRight 41) + ((e &&& f) ^^^ (~~~e &&& g)) + k + w
    let t2 := (a.rotateRight 28 ^^^ a.rotateRight 34 ^^^ a.rotateRight 39) + ((a &&& b) ^^^ (a &&& c) ^^^ (b &&& c))
    [t1 + t2, a, b, c, d + t1, e, f, g]
  | _ => h

/-- The big-endian 64-bit words of a list of bytes, n of them. -/
def beWords : Nat → List Byte → List Word
  | 0, _ => []
  | n + 1, bs => BitVec.ofNat 64 (leNat (bs.take 8).reverse) :: beWords n (bs.drop 8)

/-- The hash value after one block of 128 bytes. -/
def shaBlock (h : List Word) (bs : List Byte) : List Word :=
  let w := (shaSchedule 64 (beWords 16 bs).reverse).reverse
  List.zipWith (· + ·) h ((shaK.zip w).foldl (fun v kw => shaRound v kw.1 kw.2) h)

/-- The hash value after n blocks. -/
def shaBlocks : Nat → List Word → List Byte → List Word
  | 0, h, _ => h
  | n + 1, h, bs => shaBlocks n (shaBlock h (bs.take 128)) (bs.drop 128)

/-- The padding of a message of n bytes: a one bit, zeros, and the length in bits as 128 big-endian bits. -/
def shaPad (n : Nat) : List Byte :=
  (0x80 : Byte) :: (List.replicate ((239 - n % 128) % 128) 0 ++ (leBytes 16 (8 * n)).reverse)

/-- SHA-512 of a list of bytes: the digest's first byte is the most significant one. (PRESUMED, log entry 118.) -/
@[irreducible] def sha512 (bs : List Byte) : BitVec 512 :=
  let m := bs ++ shaPad bs.length
  BitVec.ofNat 512 ((shaBlocks (m.length / 128) shaInit m).foldl (fun v w => v * 2 ^ 64 + w.toNat) 0)

/-! ## AES-256-XTS -/

/-- Multiplication by x in GF(2^8) of AES. -/
def gfDouble (a : Byte) : Byte := (a <<< 1) ^^^ (if a.msb then 0x1B else 0)

/-- n low bits of b times a in GF(2^8). -/
def gfMulBits : Nat → Byte → Byte → Byte
  | 0, _, _ => 0
  | n + 1, a, b => (if b.getLsbD 0 then a else 0) ^^^ gfMulBits n (gfDouble a) (b >>> 1)

/-- The product in GF(2^8). -/
def gfMul (a b : Byte) : Byte := gfMulBits 8 a b

/-- The power of a whose exponent is 2^(n+1) - 2. -/
def gfPow : Nat → Byte → Byte
  | 0, _ => 1
  | n + 1, a => let r := gfMul a (gfPow n a); gfMul r r

/-- The inverse in GF(2^8), 0 for 0: the power 254. -/
def gfInv (a : Byte) : Byte := gfPow 7 a

/-- The S-box of AES. -/
def aesSub (a : Byte) : Byte :=
  let b := gfInv a
  b ^^^ b.rotateLeft 1 ^^^ b.rotateLeft 2 ^^^ b.rotateLeft 3 ^^^ b.rotateLeft 4 ^^^ 0x63

/-- The inverse S-box. -/
def aesUnsub (a : Byte) : Byte := gfInv (a.rotateLeft 1 ^^^ a.rotateLeft 3 ^^^ a.rotateLeft 6 ^^^ 0x05)

/-- The exclusive or of two lists of bytes. -/
def xorBytes (a b : List Byte) : List Byte := List.zipWith (· ^^^ ·) a b

/-- The key schedule words w of AES-256, the latest first, with n more words; i is the number of the next word and r its round constant. -/
def aesExpand : Nat → Nat → Byte → List (List Byte) → List (List Byte)
  | 0, _, _, w => w
  | n + 1, i, r, w =>
    let p := w.getD 0 []
    let t :=
      if i % 8 = 0 then xorBytes ((p.rotate 1).map aesSub) [r, 0, 0, 0]
      else if i % 8 = 4 then p.map aesSub
      else p
    aesExpand n (i + 1) (if i % 8 = 0 then gfDouble r else r) (xorBytes (w.getD 7 []) t :: w)

/-- n pieces of m bytes each. -/
def pieces (m : Nat) : Nat → List Byte → List (List Byte)
  | 0, _ => []
  | n + 1, bs => bs.take m :: pieces m n (bs.drop m)

/-- The 15 round keys of a 32-byte key. -/
def aesKeys (key : List Byte) : List (List Byte) :=
  pieces 16 15 (aesExpand 52 8 1 (pieces 4 8 key).reverse).reverse.flatten

/-- Row r of the state moves k × r columns to the left. -/
def aesShift (k : Nat) (b : List Byte) : List Byte :=
  (List.range 16).map fun i => b.getD ((i + 4 * k * (i % 4)) % 16) 0

/-- One column times a circulant matrix whose first row is m. -/
def aesColumn (m c : List Byte) : List Byte :=
  (List.range 4).map fun r => (List.range 4).foldl (fun v j => v ^^^ gfMul (m.getD ((j + 4 - r) % 4) 0) (c.getD j 0)) 0

/-- Every column times that matrix. -/
def aesMix (m b : List Byte) : List Byte := ((pieces 4 4 b).map (aesColumn m)).flatten

/-- AES encryption of a block under its round keys. -/
def aesEncrypt (ks : List (List Byte)) (b : List Byte) : List Byte :=
  let mid := ((ks.drop 1).take 13).foldl (fun v k => xorBytes (aesMix [2, 3, 1, 1] (aesShift 1 (v.map aesSub))) k) (xorBytes b (ks.getD 0 []))
  xorBytes (aesShift 1 (mid.map aesSub)) (ks.getD 14 [])

/-- AES decryption of a block under its round keys. -/
def aesDecrypt (ks : List (List Byte)) (b : List Byte) : List Byte :=
  let mid := ((ks.drop 1).take 13).reverse.foldl (fun v k => aesMix [14, 11, 13, 9] (xorBytes ((aesShift 3 v).map aesUnsub) k)) (xorBytes b (ks.getD 14 []))
  xorBytes ((aesShift 3 mid).map aesUnsub) (ks.getD 0 [])

/-- The tweak of the next block of a data unit: the product with x in GF(2^128). -/
def xtsNext (t : Nat) : Nat := (2 * t) % 2 ^ 128 ^^^ (if 2 ^ 127 ≤ t then 0x87 else 0)

/-- Each 16-byte block between two exclusive ors with its tweak. -/
def xtsBlocks (f : List Byte → List Byte) : Nat → Nat → List Byte → List Byte
  | 0, _, _ => []
  | n + 1, t, bs =>
    xorBytes (f (xorBytes (bs.take 16) (leBytes 16 t))) (leBytes 16 t) ++ xtsBlocks f n (xtsNext t) (bs.drop 16)

/-- The first tweak of a line under a key of 64 bytes: its address encrypted under the tweak key, bytes 32 to 63 (R390, R391). -/
def xtsTweak (key line : Nat) : Nat := leNat (aesEncrypt (aesKeys ((leBytes 64 key).drop 32)) (leBytes 16 (64 * line % 2 ^ 57)))

/-- The 64 bytes of a line as expander memory holds them under a key; key 0 is the plaintext slot (R390). -/
@[irreducible] def xtsEncrypt (key line : Nat) (bs : List Byte) : List Byte :=
  if key = 0 then bs else xtsBlocks (aesEncrypt (aesKeys ((leBytes 64 key).take 32))) 4 (xtsTweak key line) bs

/-- The 64 bytes that a line of expander memory reads as under a key (R390, R391). -/
@[irreducible] def xtsDecrypt (key line : Nat) (bs : List Byte) : List Byte :=
  if key = 0 then bs else xtsBlocks (aesDecrypt (aesKeys ((leBytes 64 key).take 32))) 4 (xtsTweak key line) bs

/-! ## CRC-32 (R384) -/

/-- One bit of the reflected CRC-32. -/
def crcBit (c : Nat) : Nat := if c % 2 = 1 then c / 2 ^^^ 0xEDB88320 else c / 2

/-- One byte of it. -/
def crcByte (c : Nat) (b : Byte) : Nat := (List.range 8).foldl (fun c _ => crcBit c) (c ^^^ b.toNat)

/-- The CRC-32 of bytes: that of IEEE 802.3. (PRESUMED, log entry 172.) -/
def crc32 (bs : List Byte) : Nat := bs.foldl crcByte 0xFFFFFFFF ^^^ 0xFFFFFFFF

end Sys2Proof.Machine
end

