-- ==== Sys2Proof/Machine/Global.lean ====
section
/-!
DEFINITION. Global memory: physical access with the keys of expander memory (spec/23_host_links_security.md R380, R390,
R391), the page-table walk, the checks and syndromes of a translation (spec/21_translation.md R341 to R356), home slices
(spec/08_attention.md R164) and L1 copies (spec/05_ordering.md R115).
-/

namespace Sys2Proof.Machine

/-! ## Physical memory -/

/-- The data key and tweak key in a slot, as one number; 0 for slot 0 and for an empty slot (R390, R391). -/
def State.keyMat (s : State) (slot : Nat) : Nat := if slot = 0 then 0 else Tbl.get 0 s.pkg.keys slot

/-- The 64 bytes that a line of expander memory holds, encrypted under the key that wrote it (R390). -/
def State.cipherLine (s : State) (l : Nat) : List Byte := xtsEncrypt (Tbl.get 0 s.pkg.lineKey l) l (s.expander.bytes (64 * l) 64)

/-- A byte of expander memory read under a key: a line that was written under another key returns its decryption under the key
of the read (R390, R391). (PRESUMED, log entry 118.) -/
def State.expByte (s : State) (key a : Nat) : Byte :=
  if Tbl.get 0 s.pkg.lineKey (a / 64) = key then s.expander.byte a
  else (xtsDecrypt key (a / 64) (s.cipherLine (a / 64))).getD (a % 64) 0

/-- Bytes of host memory (false) or of expander memory under a key (true). -/
def State.readPhys (s : State) (exp : Bool) (key a n : Nat) : List Byte :=
  if exp then (List.range n).map fun i => s.expByte key (a + i) else s.host.bytes a n

/-- A little-endian number of host or expander memory. -/
def State.numPhys (s : State) (exp : Bool) (key a n : Nat) : Nat := leNat (s.readPhys exp key a n)

/-- A line of expander memory comes under a key: its bytes become what the key decrypts them to. -/
def State.rekey (s : State) (key l : Nat) : State :=
  if Tbl.get 0 s.pkg.lineKey l = key then s
  else
    { s with
      expander := s.expander.store (l * 64) (s.readPhys true key (l * 64) 64)
      pkg := { s.pkg with lineKey := Tbl.set 0 s.pkg.lineKey l key } }

/-- The lines that n bytes from a touch. -/
def linesOf (a n : Nat) : List Nat := (List.range ((a + n - 1) / 64 - a / 64 + 1)).map fun i => a / 64 + i

/-- The bytes of expander memory (R13, R383): 8 TiB. -/
def expanderSize : Nat := 2 ^ 43

/-- The marks of poisoned lines after n bytes have been written: lines that are written whole hold no poison any more (R79, R399). -/
def cleanLines (ls : List Line) (exp : Bool) (a n : Nat) : List Line :=
  ls.filter fun l => !(l.1 == exp && decide (a ≤ 64 * l.2) && decide (64 * l.2 + 64 ≤ a + n))

/-- Bytes written to host memory or to expander memory under a key; beyond the expanders nothing is written. (DEDUCED, log
entry 25.) (DESIGN CHOICE, log entry 140.) -/
def State.writePhys (s : State) (exp : Bool) (key a : Nat) (bs : List Byte) : State :=
  if exp && decide (expanderSize < a + bs.length) then s
  else
    let s1 := s.onPkg fun p => { p with poisonLlc := cleanLines p.poisonLlc exp a bs.length }
    if exp then
      let s2 := if bs.isEmpty then s1 else (linesOf a bs.length).foldl (fun s l => s.rekey key l) s1
      { s2 with expander := s2.expander.store a bs }
    else { s1 with host := s1.host.store a bs }

/-- Whether no expander answers for an address: its port is down, or it lies beyond them; every access fails as poisoned (R383).
(DESIGN CHOICE, log entry 140.) -/
def State.unanswered (s : State) (exp : Bool) (a : Nat) : Bool :=
  exp && (decide (expanderSize ≤ a) || (s.pkg.expanders != 0 && s.pkg.expDown.contains (a / 4096 % s.pkg.expanders)))

/-- Whether a read of a line returns poison: the line is marked, or no expander answers for it (R383, R399). -/
def State.poisoned (s : State) (exp : Bool) (a : Nat) : Bool :=
  s.pkg.poisonLlc.contains (exp, a / 64) || s.unanswered exp a

/-- Whether one of the lines of an access must first be taken from the host: an expander line that the host holds; a host line
that its slice does not own, of which a shared copy suffices unless the access writes (R381). -/
def State.hostHolds (s : State) (ls : List Line) (wr : Bool := false) : Bool :=
  ls.any fun l =>
    if l.1 then s.pkg.hostOwns.contains l.2
    else !(s.pkg.sliceOwns.contains l.2 || (!wr && s.pkg.sliceShares.contains l.2))

/-- The first line of a read that returns poison, as the address of the line. -/
def State.poisonedOf (s : State) (ls : List Line) : Option Nat :=
  (ls.find? fun l => s.poisoned l.1 (64 * l.2)).map fun l => 64 * l.2

/-! ## The page-table walk (R342 to R345) -/

/-- What an access does (R346, R352). -/
inductive Acc where
  | fetch | load | store | atomic | beatLoad | beatStore | array | engRead | engWrite
  deriving DecidableEq, Repr

/-- The access code of R352. -/
def Acc.code : Acc → Nat
  | .fetch => 0 | .load => 1 | .store => 2 | .atomic => 3 | .beatLoad => 4 | .beatStore => 5 | .array => 6
  | .engRead | .engWrite => 7

/-- Whether an access writes. -/
def Acc.writes : Acc → Bool
  | .store | .atomic | .beatStore | .engWrite => true
  | _ => false

/-- How a walk ends: a leaf, no valid entry, or an illegal entry, with the level. -/
inductive Walk where
  | leaf (l : Leaf)
  | absent (level : Nat)
  | bad (level : Nat)
  deriving DecidableEq, Repr

/-- The bytes that a leaf of a level maps (R343). -/
def pageSize (level : Nat) : Nat := if level = 2 then 2 ^ 30 else if level = 1 then 2 ^ 21 else 2 ^ 16

/-- The index of an address at a level. -/
def vaIndex (level va : Nat) : Nat :=
  match level with
  | 0 => bits va 20 16
  | 1 => bits va 29 21
  | 2 => bits va 38 30
  | 3 => bits va 47 39
  | _ => bits va 56 48

/-- Whether the leaf words at a level are an illegal entry (R345). -/
def leafBad (level w0 w1 : Nat) : Bool :=
  let tgt := bits w0 63 61
  let frame := bits w0 56 14 * 2 ^ 14
  2 < level || 2 < tgt || bits w0 60 57 != 0 || bits w0 13 10 != 0 || bits w1 16 0 != 0
    || frame % pageSize level != 0 || (bit w0 2 && bit w0 3) || (bit w1 17 && !fmtListed (bits w1 22 18))
    || (tgt == 2 && (level != 0 || !bit w0 5 || bits frame 39 38 != 0 || 1536 ≤ bits frame 20 10))

/-- The walk from a table on, level by level. -/
def State.walkFrom (s : State) (va : Nat) : Nat → Bool → Nat → Walk
  | level, mem, table =>
    let a := table + 32 * vaIndex level va
    let w0 := s.numPhys mem 0 a 8
    let w1 := s.numPhys mem 0 (a + 8) 8
    if !bit w0 0 then .absent level
    else if bit w0 1 then
      if leafBad level w0 w1 then .bad level
      else .leaf
        { tgt := bits w0 63 61, pa := bits w0 56 14 * 2 ^ 14, w0, w1
          const := if bit w0 3 then s.numPhys mem 0 (a + 16) 8 else 0
          size := pageSize level, level, leafMem := mem, leafAddr := a }
    else match level with
      | 0 => .bad 0
      | l + 1 => if 1 < bits w0 63 61 then .bad (l + 1)
          else s.walkFrom va l (bits w0 63 61 == 1) (bits w0 56 14 * 2 ^ 14)

/-- The memory and address of the entry of an ASID (R342). -/
def State.asidEntry (s : State) (p asid : Nat) : Bool × Nat :=
  let r := (s.part p).asidtb.toNat
  (bit r 0, bits r 56 16 * 2 ^ 16 + 16 * asid)

/-- The PASID of an ASID. -/
def State.pasid (s : State) (p asid : Nat) : Nat :=
  let (m, a) := s.asidEntry p asid
  s.numPhys m 0 (a + 8) 8 % 2 ^ 20

/-- A walk under an ASID; level 7 names a fault of the ASID entry. -/
def State.walk (s : State) (p asid va : Nat) : Walk :=
  let (m, a) := s.asidEntry p asid
  let w0 := s.numPhys m 0 a 8
  let w1 := s.numPhys m 0 (a + 8) 8
  if !bit w0 0 || bits w0 63 57 != 0 || bits w0 13 2 != 0 || bits w1 63 20 != 0 then .bad 7
  else s.walkFrom va 4 (bit w0 1) (bits w0 56 14 * 2 ^ 14)

/-- The non-leaf entries that a walk passes, from a table on: the level of each, and the memory and address of the entry and
of the table that it names. -/
def State.walkPath (s : State) (va : Nat) : Nat → Bool → Nat → List (Nat × (Bool × Nat) × Bool × Nat)
  | level, mem, table =>
    let a := table + 32 * vaIndex level va
    let w0 := s.numPhys mem 0 a 8
    let next := (bits w0 63 61 == 1, bits w0 56 14 * 2 ^ 14)
    if !bit w0 0 || bit w0 1 then [(level, (mem, a), next)]
    else match level with
      | 0 => [(0, (mem, a), next)]
      | l + 1 => (l + 1, (mem, a), next) :: s.walkPath va l next.1 next.2

/-- The path of a walk under an ASID. -/
def State.pathOf (s : State) (p asid va : Nat) : List (Nat × (Bool × Nat) × Bool × Nat) :=
  let (m, a) := s.asidEntry p asid
  let w0 := s.numPhys m 0 a 8
  if !bit w0 0 then [] else s.walkPath va 4 (bit w0 1) (bits w0 56 14 * 2 ^ 14)

/-- The lines that a walk reads at their homes, in their order: that of the ASID entry and those of the entries of its path. -/
def State.walkLines (s : State) (p asid va : Nat) : List Line :=
  let (m, a) := s.asidEntry p asid
  (m, a / 64) :: (s.pathOf p asid va).map fun x => (x.2.1.1, x.2.1.2 / 64)

/-- Whether a walk reads a line that its home must first take from the host (R343, R381). -/
def State.walkWaits (s : State) (p asid va : Nat) : Bool := s.hostHolds (s.walkLines p asid va)

/-- The lowest bit of the addresses that an entry of a level maps. -/
def levelLow (level : Nat) : Nat := match level with
  | 0 => 16
  | 1 => 21
  | 2 => 30
  | 3 => 39
  | _ => 48

/-- What the cached entries of an address may give in place of the walk, while they differ from it (R348): cached leaves, and
walks that go on from the table of a cached non-leaf entry. -/
def State.staleWalks (s : State) (p asid va : Nat) (fresh : Walk) : List Walk :=
  let leaves := (s.tlb.filter fun e => e.part == p && e.asid == asid && e.page == va / 2 ^ 16).map fun e => Walk.leaf e.leaf
  let tables := (s.tables.filter fun e => e.part == p && e.asid == asid && decide (0 < e.level)
    && e.tag == va / 2 ^ levelLow e.level).map fun e => s.walkFrom va (e.level - 1) e.mem e.table
  (leaves ++ tables).filter fun w => w != fresh

/-- What a walk leaves in the translation caches: its leaf and the non-leaf entries of its path. -/
def State.cacheWalk (s : State) (p asid va : Nat) (w : Walk) : State :=
  match w with
  | .leaf l =>
    let e : TlbEntry := ⟨p, asid, va / 2 ^ 16, l⟩
    let path := ((s.pathOf p asid va).filter fun x => decide (l.level < x.1)).map fun x =>
      ({ part := p, asid, level := x.1, tag := va / 2 ^ levelLow x.1, mem := x.2.2.1, table := x.2.2.2 } : TableEntry)
    { s with tlb := if s.tlb.contains e then s.tlb else s.tlb ++ [e]
             tables := s.tables ++ path.filter fun t => !s.tables.contains t }
  | _ => s

/-- A translation that may come from a cache: while a cached entry differs from the one in memory, either form may be used
(R348). (DEDUCED, log entry 24.) -/
def State.lookup (s : State) (p asid va key : Nat) : Walk × State :=
  let fresh := s.walk p asid va
  match s.staleWalks p asid va fresh with
  | [] => (fresh, s.cacheWalk p asid va fresh)
  | old => match old[Config.freeChoice key % (old.length + 1)]? with
    | some w => (w, s)
    | none => (fresh, s.cacheWalk p asid va fresh)

/-- The syndrome of a translation fault (R352). -/
def transReport (cause : Nat) (acc : Acc) (reason level va asid : Nat) : Report :=
  ⟨cause, BitVec.ofNat 64 (acc.code + 16 * reason + 256 * level), BitVec.ofNat 64 va, BitVec.ofNat 64 asid, 0⟩

/-- How an access comes out of translation. -/
inductive Trans where
  /-- The leaf and the physical address of the byte. -/
  | ok (l : Leaf) (pa : Nat)
  /-- A page fault: no valid entry (reason 0). -/
  | absent (r : Report)
  /-- The operand-form case: C or E on a page that the access may not use so (R347, R355). -/
  | form (r : Report)
  /-- A protection fault. -/
  | prot (r : Report)
  /-- The walk waits for a line that the host holds (R381). -/
  | wait
  deriving DecidableEq, Repr

/-- The checks of R346, R355 and R390 on a leaf. -/
def State.checkLeaf (s : State) (acc : Acc) (priv : Bool) (asid va : Nat) (l : Leaf) : Trans :=
  let off := va % l.size
  let rep (cause reason : Nat) := transReport cause acc reason l.level va asid
  let beat := acc == .beatLoad || acc == .beatStore
  let r := bit l.w0 6
  let w := bit l.w0 7
  let perm := match acc with
    | .fetch => bit l.w0 8
    | .load | .engRead | .beatLoad => r
    | .store | .engWrite | .beatStore => w
    | .atomic => r && w
    | .array => true
  let formed := bit l.w0 2 || bit l.w0 3
  if (if beat then l.tgt != 2 else l.tgt == 2) then .prot (rep 0x11 4)
  else if (bit l.w0 9 && !priv) || !perm then .prot (rep 0x11 3)
  else if l.tgt == 1 && bits l.w1 31 23 != 0 && s.keyMat (bits l.w1 31 23) == 0 then .prot (rep 0x11 2)
  else if formed && (beat || acc.writes) then .form (rep 0x13 0)
  else .ok l (l.pa + off)

/-- What an access makes of the end of its walk (R345, R346). -/
def State.walked (s : State) (acc : Acc) (priv : Bool) (asid va : Nat) (w : Walk) : Trans :=
  match w with
  | .absent level => .absent (transReport 0x10 acc 0 level va asid)
  | .bad level => .prot (transReport 0x11 acc 2 level va asid)
  | .leaf l => s.checkLeaf acc priv asid va l

/-- The translation of an access under an ASID (R341, R345, R346). A walk that reads a poisoned line fails as the access of
poisoned data (R383, R399), unless a cached entry spares it. (DEDUCED, log entry 24.) -/
def State.translate (s : State) (acc : Acc) (p asid : Nat) (priv : Bool) (va key : Nat) : Trans × State :=
  if 2 ^ 57 ≤ va then (.prot (transReport 0x11 acc 5 7 va asid), s)
  else if s.walkWaits p asid va then (.wait, s)
  else match s.poisonedOf (s.walkLines p asid va) with
    | some a =>
      let old := (s.staleWalks p asid va (.bad 8)).filter fun w => match w with
        | .leaf _ => true
        | _ => false
      (match old[Config.freeChoice key % (old.length + 1)]? with
        | some w => s.walked acc priv asid va w
        | none => .prot ⟨0x14, BitVec.ofNat 64 acc.code, BitVec.ofNat 64 a, 0, 0⟩, s)
    | none =>
      let (w, s1) := s.lookup p asid va key
      (s.walked acc priv asid va w, s1)

/-! ## Data of a page (R355, R356, R390) -/

/-- The key of a leaf: used only in expander memory. -/
def State.leafKey (s : State) (l : Leaf) : Nat := if l.tgt = 1 then s.keyMat (bits l.w1 31 23) else 0

/-- A byte of a compressed page (R356). A chunk of the reserved kind holds free bytes. (DEDUCED, log entry 31.) -/
def State.unpackByte (s : State) (exp : Bool) (key frame off : Nat) : Byte :=
  let d := s.numPhys exp key (frame + 4 * (off / 256)) 4
  let data := frame + d % 2 ^ 30
  let at1 (a : Nat) : Byte := ((s.readPhys exp key a 1).headD 0)
  match d / 2 ^ 30 with
  | 0 => at1 (data + off % 256)
  | 1 => 0
  | 2 => at1 (data + off % 8)
  | _ => Config.freeByte (frame * 2 ^ 40 + off)

/-- n bytes of a page from an offset: plain, compressed or elided. -/
def State.readLeaf (s : State) (l : Leaf) (off n : Nat) : List Byte :=
  let exp := l.tgt == 1
  let key := s.leafKey l
  if bit l.w0 3 then (List.range n).map fun i => BitVec.ofNat 8 (l.const / 2 ^ (8 * ((off + i) % 8)))
  else if bit l.w0 2 then (List.range n).map fun i => s.unpackByte exp key l.pa (off + i)
  else s.readPhys exp key (l.pa + off) n

/-- The lines of memory that a read of n bytes of a page from an offset touches: those of the bytes, of a compressed frame the
descriptor's and the data's, and none for an elided page. -/
def State.leafLines (s : State) (l : Leaf) (off n : Nat) : List Line :=
  let exp := l.tgt == 1
  if bit l.w0 3 then []
  else if bit l.w0 2 then
    let d := s.numPhys exp (s.leafKey l) (l.pa + 4 * (off / 256)) 4
    let at_ : Nat := l.pa + d % 2 ^ 30
    let data := match d / 2 ^ 30 with
      | 0 => linesOf (at_ + off % 256) n
      | 2 => linesOf at_ 8
      | _ => []
    ((l.pa + 4 * (off / 256)) / 64 :: data).map fun k => (exp, k)
  else (linesOf (l.pa + off) n).map fun k => (exp, k)

/-- The bytes of a compressed frame as its directory gives them. -/
def State.packedSize (s : State) (l : Leaf) : Nat :=
  let n := l.size / 256
  4 * n + ((List.range n).map fun i =>
    match s.numPhys (l.tgt == 1) (s.leafKey l) (l.pa + 4 * i) 4 / 2 ^ 30 with
    | 0 => 256
    | 2 => 8
    | _ => 0).sum

/-- The frames that a page occupies: none when it is elided. -/
def State.framesOf (s : State) (l : Leaf) : Nat :=
  if bit l.w0 3 then 0 else if bit l.w0 2 then ceilDiv (s.packedSize l) 65536 else l.size / 65536

/-- Whether the bytes of a page stand in its frame as they are. -/
def Leaf.plain (l : Leaf) : Bool := !bit l.w0 2 && !bit l.w0 3

/-- Bytes written to an ordinary page. -/
def State.writeLeaf (s : State) (l : Leaf) (off : Nat) (bs : List Byte) : State :=
  s.writePhys (l.tgt == 1) (s.leafKey l) (l.pa + off) bs

/-- What an atomic leaves in memory (R264): size in bytes, operation, old value, operand, compare value. -/
def atomNew (n op old v cmp : Nat) : Nat :=
  let w := 8 * n
  let a := old % 2 ^ w
  let b := v % 2 ^ w
  match op with
  | 0 => (a + b) % 2 ^ w
  | 1 => (add32 a b).1
  | 2 => if signed w a ≤ signed w b then a else b
  | 3 => if signed w a ≤ signed w b then b else a
  | 4 => min a b
  | 5 => max a b
  | 6 => a &&& b
  | 7 => a ||| b
  | 8 => a ^^^ b
  | 9 => b
  | _ => if a = cmp % 2 ^ w then b else a

/-! ## Homes and L1 copies (R115, R164) -/

/-- The home slice of a physical address, numbered in its partition. -/
def State.homeSlice (s : State) (p pa : Nat) : Nat := pa / 65536 % (32 * (s.diesOf p).length)

/-- The die of a home slice. -/
def State.sliceDie (s : State) (p slice : Nat) : Nat := (s.diesOf p).getD (slice / 32) 0

/-- The bytes of an L1 copy. -/
def Bay.copy (b : Bay) (exp : Bool) : Memory := if exp then b.l1ext else b.l1data

/-- The copies of a bay with bytes replaced. -/
def Bay.setCopy (b : Bay) (exp : Bool) (a : Nat) (bs : List Byte) : Bay :=
  if exp then { b with l1ext := b.l1ext.store a bs } else { b with l1data := b.l1data.store a bs }

/-- A copy of a line is dropped. -/
def Bay.dropCopy (b : Bay) (l : Line) : Bay :=
  if b.l1.contains l then { b.setCopy l.1 (64 * l.2) (List.replicate 64 0) with l1 := b.l1.filter (· != l) } else b

/-- Lines of 64 bytes that the L1 data cache of 32 KiB holds (R9). -/
def l1Lines : Nat := 512

/-- A copy of a line is taken; a full cache drops one, chosen by `key`. (DESIGN CHOICE, log entry 141.) -/
def Bay.takeCopy (b : Bay) (l : Line) (data : List Byte) (key : Nat) : Bay :=
  let room := if b.l1.contains l ∨ b.l1.length < l1Lines then b
    else match b.l1[Config.freeChoice key % b.l1.length]? with
      | some x => b.dropCopy x
      | none => b
  { room.setCopy l.1 (64 * l.2) data with l1 := if room.l1.contains l then room.l1 else room.l1 ++ [l] }

/-! ## The LLC (R11) -/

/-- Lines that one way of a slice of 12 MiB and 16 ways holds. -/
def llcWayLines : Nat := 12288

/-- The number of a line's home slice in the package: 32 × die + slice of the die. -/
def State.sliceOf (s : State) (p : Nat) (l : Line) : Nat :=
  let k := s.homeSlice p (64 * l.2)
  32 * s.sliceDie p k + k % 32

/-- The ways that a node's tasks and commands may fill (R319). -/
def State.waysOf (s : State) (node : Nat) : List Nat :=
  let mask := match Tbl.get none s.pkg.nodes node with
    | some n => n.llcw
    | none => 0xFFFF
  (List.range 16).filter fun w => bit mask w

/-- A line comes into its slice, in the first of the ways given that has room, and is written there if `dirty`; when they are
full one of them gives up its oldest line, which goes back to its memory. The bytes of a line are kept with its memory. (DEDUCED, log entry 25.) (DESIGN CHOICE, log entry 141.) -/
def State.llcTouch (s : State) (p : Nat) (ways : List Nat) (l : Line) (dirty : Bool) : State :=
  let k := s.sliceOf p l
  let held := Tbl.get [] s.pkg.llc k
  let held' :=
    if held.any fun x => x.line == l then held.map fun x => if x.line = l then { x with dirty := x.dirty || dirty } else x
    else match ways.find? fun w => decide ((held.filter fun x => x.way == w).length < llcWayLines) with
      | some w => held ++ [⟨l, w, dirty⟩]
      | none => match ways[Config.freeChoice (s.freeKey k 11 l.2) % ways.length]? with
        | none => held
        | some w => (held.eraseP fun x => x.way == w) ++ [⟨l, w, dirty⟩]
  s.onPkg fun q => { q with llc := Tbl.set [] q.llc k held' }

/-- Lines come into their slices. -/
def State.llcTouchAll (s : State) (p : Nat) (ways : List Nat) (ls : List Line) (dirty : Bool) : State :=
  ls.foldl (fun s l => s.llcTouch p ways l dirty) s

/-- The dirty lines that a test picks are written back; with `drop` every line that it picks leaves the LLC (R294). -/
def State.llcClean (s : State) (picks : Line → Bool) (drop : Bool) : State :=
  s.onPkg fun q => { q with llc := (q.llc.map fun x =>
    (x.1, if drop then x.2.filter fun y => !picks y.line
          else x.2.map fun y => if picks y.line then { y with dirty := false } else y)).filter fun x => x.2 != [] }

/-! ## Home intakes (R108, R114) -/

/-- An access arrives at the intake of its line's slice, unless it stands there already. -/
def State.arrive (s : State) (p src : Nat) (l : Line) (w : ArrivalOf) : State :=
  if s.pkg.intake.any fun a => a.what == w then s
  else s.onPkg fun q => { q with intake := q.intake ++ [⟨s.sliceOf p l, s.now, src, w⟩] }

/-- The order in which a home performs what has arrived: by cycle, by source id, the task's own accesses before those of its
commands, and each in the order of its issue (R114). -/
def Arrival.rank (a : Arrival) : Nat :=
  let (k, id) := match a.what with
    | .entry _ _ id => (0, id)
    | .cmd _ id => (1, id)
  ((a.at_ * 512 + a.src) * 2 + k) * 2 ^ 64 + id

/-- An access has been performed, or is withdrawn: it leaves its intake. -/
def State.leaveIntake (s : State) (w : ArrivalOf) : State :=
  s.onPkg fun q => { q with intake := q.intake.filter fun a => a.what != w }

/-- Every L1 copy of a line is dropped. -/
def State.dropCopies (s : State) (l : Line) : State :=
  (s.bays.map (·.1)).foldl (fun s b => s.onBay b fun x => x.dropCopy l) s

/-- Bytes that the part itself stores at their home under a key: page-table words, the bitmap of free frames and new frames
(R357, R358). -/
def State.homeStore (s : State) (p : Nat) (exp : Bool) (key a : Nat) (bs : List Byte) : State :=
  let ls : List Line := if bs.isEmpty then [] else (linesOf a bs.length).map fun k => (exp, k)
  (ls.foldl State.dropCopies (s.writePhys exp key a bs)).llcTouchAll p (List.range 16) ls true

/-- Whether the host holds a line of n bytes of expander memory: their home must first take it back (R381). -/
def State.rangeHeld (s : State) (a n : Nat) : Bool :=
  s.pkg.hostOwns.any fun l => decide (a < 64 * l + 64) && decide (64 * l < a + n)

end Sys2Proof.Machine
end

