-- ==== Sys2Proof/Machine/Flags.lean ====
section
/-!
DEFINITION. The rounding environment of an instruction (R33 to R35, R88, R222, R232) and how results with flags are
written.
-/

namespace Sys2Proof.Machine

/-- The rounding mode and saturation of an instruction with prefixes p: the prefix, else the fmt that governs the bundle;
none when fmt.RND is reserved. -/
def State.rnd (s : State) (p : Pfx) : Option Rnd :=
  let f := (s.here.fmtReg s.here.handler).toNat
  let sat := match p.sat with
    | some x => x
    | none => bit f 15
  match p.round with
  | some m => some ⟨m.toNat, sat⟩
  | none => if 4 < bits f 14 12 then none else some ⟨bits f 14 12, sat⟩

/-- Whether the draws come from the common sequence. -/
def pfxCommon (p : Pfx) : Bool := match p.rand with
  | some q => q
  | none => false

/-- A scalar floating-point result: the value, its flags, and the draw that an instruction under RS claims (R222). -/
def State.floatS (s : State) (d : Reg) (L : Nat) (p : Pfx) (draws : Bool) (f : Rnd → Nat → Nat × Flags) : State :=
  match s.rnd p with
  | none => s.illegal 0x401
  | some r =>
    if r.mode = 4 ∧ draws then
      let (pos, s1) := s.claim (pfxCommon p) 1
      let (v, fl) := f r (s.here.drawAt (pfxCommon p) pos)
      (s1.writeS d (L + 1) (BitVec.ofNat 64 v)).raiseFlags (L + 1) fl
    else
      let (v, fl) := f r 0
      (s.writeS d L (BitVec.ofNat 64 v)).raiseFlags L fl

end Sys2Proof.Machine
end

