-- ==== Sys2Proof/Machine/Tile.lean ====
section
/-!
DEFINITION. The V and F slots (spec/12_ref_tile.md): how an instruction issues, how a .t form works through its rows
(spec/04_tile_core.md R92, R93), and one meaning for each form.
-/

namespace Sys2Proof.Machine

/-- What governs an instruction of the V or F slot. -/
def vecEnv (k : VKind) (o : VOp) (r : VRow) (sc mode : Nat) (sat : Bool) : VEnv :=
  { k, ty := o.ty.toNat, var := o.var.toNat, c := o.c.toNat, f2 := r.f2.toNat, sc, r := ⟨mode, sat⟩, isat := o.p.sat == some true }

/-- The row numbers of a whole tile, or of one row of it. -/
def rowsOf (t : Bool) (tile r : Nat) : List Nat :=
  if t then (List.range 32).map (rowNum tile) else [rowNum tile r]

/-- The destination rows of an instruction. -/
def vecDests (k : VKind) (t : Bool) (o : VOp) (r : VRow) : List Nat :=
  let d := rowsOf t o.a.toNat r.ra.toNat
  if k = .tqnt then d ++ rowsOf t (o.a.toNat + 1) r.ra.toNat else d

/-- The source tiles in operand order, each with its row. -/
def vecSources (k : VKind) (o : VOp) (r : VRow) : List (Nat × Nat) :=
  (if k.hasB o.var.toNat then [(o.b.toNat, r.rb.toNat)] else [])
    ++ (if k.cRole o.var.toNat = .tile then [(o.c.toNat, r.rc.toNat)] else [])
    ++ (if k.hasTd then [(r.td.toNat, r.rd.toNat)] else [])

/-- The scalar source of an instruction, if it has one. -/
def vecScalar (k : VKind) (o : VOp) : Option Reg := if k.cRole o.var.toNat = .scalar then some o.c else none

/-- The three operand rows at row j of a form: its own number tells a .t form from the others. -/
def State.vecRead (s : State) (bay own key : Nat) (k : VKind) (o : VOp) (r : VRow) (rb rc rd : Nat) : Nat × Nat × Nat :=
  let get (used : Bool) (tile row i : Nat) := if used then (s.readRow bay (rowNum tile row) (key + i) own).toNat else 0
  (get (k.hasB o.var.toNat) o.b.toNat rb 0, get (k.cRole o.var.toNat = .tile) o.c.toNat rc 1, get k.hasTd r.td.toNat rd 2)

/-- Whether the .t form writes only after it has read every row (R93). -/
def vecAfterAll (k : VKind) : Bool := k == .ttrn || k == .tred

/-- A row result in flight. -/
def rowPend (n now due val mask job : Nat) : Pend := ⟨.row n, now, due, val, mask, false, job⟩

/-- Issue of a V or F instruction: its draws are claimed; the .r form reads its rows now and its result is in flight; the
.t form leaves its destination rows undefined until their bounds and begins to read (R90 to R93, R232). -/
def State.vec (s : State) (k : VKind) (t : Bool) (o : VOp) (r : VRow) : State :=
  let ty := o.ty.toNat
  let f2 := r.f2.toNat
  let rnd := if vecRounds k ty f2 then s.rnd o.p else some ⟨0, match o.p.sat with
    | some x => x
    | none => bit (s.here.fmtReg s.here.handler).toNat 15⟩
  match rnd with
  | none => s.illegal 0x401
  | some ⟨mode, sat⟩ =>
    let sc := match vecScalar k o with
      | some c => (s.readS c 0).toNat
      | none => 0
    let per := if k = .frand ∨ mode = 4 then vecDraws k ty f2 else 0
    let total := if t then 32 * per else per
    let (pos, s1) := if per = 0 then (0, s) else s.claim (pfxCommon o.p) total
    let extra := if k = .frand then 0 else ceilDiv total 64
    let e := vecEnv k o r sc mode sat
    let now := s.now
    let common := pfxCommon o.p
    if !t then
      let L := (vecLat k).1 + extra
      let (b, c, d) := s.vecRead s.cur.bay 0 (2048 + 8 * s.cur.slot) k o r r.rb.toNat r.rc.toNat r.rd.toNat
      let src := vecSources k o r
      let bad := s.rowsPoisoned 1 s.cur.bay (src.map fun x => rowNum x.1 x.2)
      let x := if bad.isSome then { val := 0, mask := 0 } else vecRow e (fun i => s.here.drawAt common (pos + i)) b c d
      let s1 := match bad with
        | some q => s1.report s.cur.bay s.here.uid q s.here.handler
        | none => s1
      let s2 := s1.upd fun y => y.addPend (rowPend (rowNum o.a.toNat r.ra.toNat) now (now + L) x.val x.mask 0)
      let s3 := if x.mask2 = 0 then s2
        else s2.upd fun y => y.addPend (rowPend (rowNum (o.a.toNat + 1) r.ra.toNat) now (now + L) x.val2 x.mask2 0)
      s3.raiseFlags L x.flags
    else
      let Lt := (vecLat k).2 + extra
      let (id, s2) := s1.newOp
      let (m1, m2) := e.masks
      let bound := if vecAfterAll k then Lt else Lt - 31
      let due (j : Nat) := now + bound + (if vecAfterAll k then 0 else j)
      let rows := if k = .tred then [(o.c.toNat, fullMask)] else (List.range 32).map fun j => (j, m1)
      s2.upd fun y =>
        let y1 := rows.foldl (fun y (jm : Nat × Nat) => y.addPend (rowPend (rowNum o.a.toNat jm.1) now (due jm.1) 0 jm.2 id)) y
        let y2 := if m2 = 0 then y1
          else rows.foldl (fun y (jm : Nat × Nat) => y.addPend (rowPend (rowNum (o.a.toNat + 1) jm.1) now (due jm.1) 0 m2 id)) y1
        { y2 with
          drainAt := max y2.drainAt (now + Lt)
          jobs := y2.jobs ++ [⟨.vec k o r sc mode sat common pos per Lt, now, 0, now, if k = .tperm then 4 else 1, [], id,
            s.here.handler⟩] }

/-- A .t form moves on to its next row, or is over after row 31. -/
def Bay.nextRow (b : Bay) (id : Nat) (got : List Row) : Bay :=
  let go (q : Job) : Option Job :=
    if q.id ≠ id then some q
    else if q.row = 31 then none
    else some { q with row := q.row + 1, next := q.next + q.every, got := got }
  { b with jobs := b.jobs.filterMap go }

/-- One row of a .t form of the V or F slot, on the cycle on which it is read. -/
def State.vecStep (s : State) (bay : Nat) (j : Job) (k : VKind) (o : VOp) (r : VRow) (sc mode : Nat) (sat common : Bool)
    (draw per bound : Nat) : State :=
  let e := vecEnv k o r sc mode sat
  let (b, c, d) := s.vecRead bay j.id (j.id % 256 * 8) k o r j.row j.row j.row
  let b0 := s.bay bay
  let rows := BitVec.ofNat 1024 b :: j.got
  let last := j.row = 31
  let dst := rowNum o.a.toNat
  let u (row i : Nat) := b0.drawAt common (draw + row * per + i)
  let flagsOf (x : Bay) (f : Flags) : Bay :=
    if f = 0 then x else x.addPend ⟨.stat j.hnd, j.issued, j.issued + bound, f.toNat, 0x7F, false, 0⟩
  let bad := s.rowsPoisoned 1 bay ((vecSources k o r).map fun x => rowNum x.1 j.row)
  let s := match bad with
    | some q => s.report bay b0.uid q j.hnd
    | none => s
  let lost := bad.isSome || (vecAfterAll k && last && ((List.range 32).any fun i =>
    (s.rowsPoisoned 1 bay ((vecSources k o r).map fun x => rowNum x.1 i)).isSome))
  if lost then
    s.onBay bay fun y =>
      let out := if vecAfterAll k then (if last then (List.range 32).map dst else []) else [dst j.row, rowNum (o.a.toNat + 1) j.row]
      out.foldl (fun y n => y.fillDest j.id (.row n) 0 0) (y.nextRow j.id (if vecAfterAll k then rows else []))
  else s.onBay bay fun y =>
    let y1 := y.nextRow j.id (if vecAfterAll k then rows else [])
    if k = .ttrn then
      if last then
        let src := rows.reverse.map BitVec.toNat
        (List.range 32).foldl (fun y i => y.fillDest j.id (.row (dst i)) (trnRow e.ty i src) fullMask) y1
      else y1
    else if k = .tred then
      if last then
        let out := rows.reverse.zipIdx.map fun (x, i) => redRow e (u i) x.toNat
        let (l, f) := gather out
        flagsOf (y1.fillDest j.id (.row (dst e.c)) (packElems 32 l) fullMask) f
      else y1
    else
      let x := vecRow e (u j.row) b c d
      let y2 := y1.fillDest j.id (.row (dst j.row)) x.val x.mask
      let y3 := if x.mask2 = 0 then y2 else y2.fillDest j.id (.row (rowNum (o.a.toNat + 1) j.row)) x.val2 x.mask2
      flagsOf y3 x.flags

def execTaddT (o : VOp) (s : State) : Out := .next (s.vec .tadd true o .zero)
def execTaddR (o : VOp) (r : VRow) (s : State) : Out := .next (s.vec .tadd false o r)
def execTsubT (o : VOp) (s : State) : Out := .next (s.vec .tsub true o .zero)
def execTsubR (o : VOp) (r : VRow) (s : State) : Out := .next (s.vec .tsub false o r)
def execTmulT (o : VOp) (s : State) : Out := .next (s.vec .tmul true o .zero)
def execTmulR (o : VOp) (r : VRow) (s : State) : Out := .next (s.vec .tmul false o r)
def execTfmaT (o : VOp) (r : VRow) (s : State) : Out := .next (s.vec .tfma true o r)
def execTfmaR (o : VOp) (r : VRow) (s : State) : Out := .next (s.vec .tfma false o r)
def execTfmsT (o : VOp) (r : VRow) (s : State) : Out := .next (s.vec .tfms true o r)
def execTfmsR (o : VOp) (r : VRow) (s : State) : Out := .next (s.vec .tfms false o r)
def execTminT (o : VOp) (s : State) : Out := .next (s.vec .tmin true o .zero)
def execTminR (o : VOp) (r : VRow) (s : State) : Out := .next (s.vec .tmin false o r)
def execTmaxT (o : VOp) (s : State) : Out := .next (s.vec .tmax true o .zero)
def execTmaxR (o : VOp) (r : VRow) (s : State) : Out := .next (s.vec .tmax false o r)
def execTabsT (o : VOp) (s : State) : Out := .next (s.vec .tabs true o .zero)
def execTabsR (o : VOp) (r : VRow) (s : State) : Out := .next (s.vec .tabs false o r)
def execTnegT (o : VOp) (s : State) : Out := .next (s.vec .tneg true o .zero)
def execTnegR (o : VOp) (r : VRow) (s : State) : Out := .next (s.vec .tneg false o r)
def execTandT (o : VOp) (s : State) : Out := .next (s.vec .tand true o .zero)
def execTandR (o : VOp) (r : VRow) (s : State) : Out := .next (s.vec .tand false o r)
def execTorT (o : VOp) (s : State) : Out := .next (s.vec .tor true o .zero)
def execTorR (o : VOp) (r : VRow) (s : State) : Out := .next (s.vec .tor false o r)
def execTxorT (o : VOp) (s : State) : Out := .next (s.vec .txor true o .zero)
def execTxorR (o : VOp) (r : VRow) (s : State) : Out := .next (s.vec .txor false o r)
def execTshlT (o : VOp) (s : State) : Out := .next (s.vec .tshl true o .zero)
def execTshlR (o : VOp) (r : VRow) (s : State) : Out := .next (s.vec .tshl false o r)
def execTshrT (o : VOp) (s : State) : Out := .next (s.vec .tshr true o .zero)
def execTshrR (o : VOp) (r : VRow) (s : State) : Out := .next (s.vec .tshr false o r)
def execTshraT (o : VOp) (s : State) : Out := .next (s.vec .tshra true o .zero)
def execTshraR (o : VOp) (r : VRow) (s : State) : Out := .next (s.vec .tshra false o r)
def execTcmpT (o : VOp) (s : State) : Out := .next (s.vec .tcmp true o .zero)
def execTcmpR (o : VOp) (r : VRow) (s : State) : Out := .next (s.vec .tcmp false o r)
def execTselT (o : VOp) (r : VRow) (s : State) : Out := .next (s.vec .tsel true o r)
def execTselR (o : VOp) (r : VRow) (s : State) : Out := .next (s.vec .tsel false o r)
def execTcvtT (o : VOp) (r : VRow) (s : State) : Out := .next (s.vec .tcvt true o r)
def execTcvtR (o : VOp) (r : VRow) (s : State) : Out := .next (s.vec .tcvt false o r)
def execTqntT (o : VOp) (r : VRow) (s : State) : Out := .next (s.vec .tqnt true o r)
def execTqntR (o : VOp) (r : VRow) (s : State) : Out := .next (s.vec .tqnt false o r)
def execTdqT (o : VOp) (r : VRow) (s : State) : Out := .next (s.vec .tdq true o r)
def execTdqR (o : VOp) (r : VRow) (s : State) : Out := .next (s.vec .tdq false o r)
def execTredT (o : VOp) (s : State) : Out := .next (s.vec .tred true o .zero)
def execTredR (o : VOp) (r : VRow) (s : State) : Out := .next (s.vec .tred false o r)
def execTscanT (o : VOp) (s : State) : Out := .next (s.vec .tscan true o .zero)
def execTscanR (o : VOp) (r : VRow) (s : State) : Out := .next (s.vec .tscan false o r)
def execTbcstT (o : VOp) (s : State) : Out := .next (s.vec .tbcst true o .zero)
def execTbcstR (o : VOp) (r : VRow) (s : State) : Out := .next (s.vec .tbcst false o r)
def execTinsR (o : VOp) (r : VRow) (s : State) : Out := .next (s.vec .tins false o r)
def execTextT (o : VOp) (s : State) : Out := .next (s.vec .text true o .zero)
def execTextR (o : VOp) (r : VRow) (s : State) : Out := .next (s.vec .text false o r)
def execTpermT (o : VOp) (s : State) : Out := .next (s.vec .tperm true o .zero)
def execTpermR (o : VOp) (r : VRow) (s : State) : Out := .next (s.vec .tperm false o r)
def execTtrnT (o : VOp) (s : State) : Out := .next (s.vec .ttrn true o .zero)
def execTtrnR (o : VOp) (r : VRow) (s : State) : Out := .next (s.vec .ttrn false o r)
def execTzeroT (o : VOp) (s : State) : Out := .next (s.vec .tzero true o .zero)
def execTzeroR (o : VOp) (r : VRow) (s : State) : Out := .next (s.vec .tzero false o r)
def execTmovT (o : VOp) (s : State) : Out := .next (s.vec .tmov true o .zero)
def execTmovR (o : VOp) (r : VRow) (s : State) : Out := .next (s.vec .tmov false o r)
def execTshfT (o : VOp) (s : State) : Out := .next (s.vec .tshf true o .zero)
def execTshfR (o : VOp) (r : VRow) (s : State) : Out := .next (s.vec .tshf false o r)
def execFexp2T (o : VOp) (s : State) : Out := .next (s.vec .fexp2 true o .zero)
def execFexp2R (o : VOp) (r : VRow) (s : State) : Out := .next (s.vec .fexp2 false o r)
def execFlog2T (o : VOp) (s : State) : Out := .next (s.vec .flog2 true o .zero)
def execFlog2R (o : VOp) (r : VRow) (s : State) : Out := .next (s.vec .flog2 false o r)
def execFrcpT (o : VOp) (s : State) : Out := .next (s.vec .frcp true o .zero)
def execFrcpR (o : VOp) (r : VRow) (s : State) : Out := .next (s.vec .frcp false o r)
def execFrsqT (o : VOp) (s : State) : Out := .next (s.vec .frsq true o .zero)
def execFrsqR (o : VOp) (r : VRow) (s : State) : Out := .next (s.vec .frsq false o r)
def execFsqrtT (o : VOp) (s : State) : Out := .next (s.vec .fsqrt true o .zero)
def execFsqrtR (o : VOp) (r : VRow) (s : State) : Out := .next (s.vec .fsqrt false o r)
def execFdivtT (o : VOp) (s : State) : Out := .next (s.vec .fdivt true o .zero)
def execFdivtR (o : VOp) (r : VRow) (s : State) : Out := .next (s.vec .fdivt false o r)
def execFtanhT (o : VOp) (s : State) : Out := .next (s.vec .ftanh true o .zero)
def execFtanhR (o : VOp) (r : VRow) (s : State) : Out := .next (s.vec .ftanh false o r)
def execFsigmT (o : VOp) (s : State) : Out := .next (s.vec .fsigm true o .zero)
def execFsigmR (o : VOp) (r : VRow) (s : State) : Out := .next (s.vec .fsigm false o r)
def execFsinT (o : VOp) (s : State) : Out := .next (s.vec .fsin true o .zero)
def execFsinR (o : VOp) (r : VRow) (s : State) : Out := .next (s.vec .fsin false o r)
def execFcosT (o : VOp) (s : State) : Out := .next (s.vec .fcos true o .zero)
def execFcosR (o : VOp) (r : VRow) (s : State) : Out := .next (s.vec .fcos false o r)
def execFexpqT (o : VOp) (s : State) : Out := .next (s.vec .fexpq true o .zero)
def execFexpqR (o : VOp) (r : VRow) (s : State) : Out := .next (s.vec .fexpq false o r)
def execFrandT (o : VOp) (s : State) : Out := .next (s.vec .frand true o .zero)
def execFrandR (o : VOp) (r : VRow) (s : State) : Out := .next (s.vec .frand false o r)

end Sys2Proof.Machine
end

