-- ==== Sys2Proof/Machine/Scratch.lean ====
section
/-!
DEFINITION. Scratch: addresses and their checks (spec/13_ref_memory_array.md R254, R255), the timeline of a bay
(spec/04_tile_core.md R95, spec/05_ordering.md R112), unfilled reads (spec/07_tack_room.md R162), and LD, LDT, LDX, ST,
STT and STX (R257 to R259).
-/

namespace Sys2Proof.Machine

/-- The key of a byte of a bay's scratch. -/
def scratchKey (bay off : Nat) : Nat := bay * 2 ^ 20 + off

/-- Bytes of a bay's scratch. -/
def State.scratchBytes (s : State) (bay off n : Nat) : List Byte := s.scratch.bytes (scratchKey bay off) n

/-- A little-endian number of a bay's scratch. -/
def State.scratchNum (s : State) (bay off n : Nat) : Nat := leNat (s.scratchBytes bay off n)

/-- Bytes written to a bay's scratch; a whole sector clears its poison. -/
def State.putScratch (s : State) (bay off : Nat) (bs : List Byte) : State :=
  let k := scratchKey bay off
  { s with
    scratch := s.scratch.store k bs
    pkg := { s.pkg with poisonScratch :=
      s.pkg.poisonScratch.filter fun x => !(decide (k ≤ 64 * x) && decide (64 * x + 64 ≤ k + bs.length)) } }

/-- Whether n bytes of scratch touch a poisoned 64-byte sector (R399). -/
def State.scratchPoison (s : State) (bay off n : Nat) : Bool :=
  s.pkg.poisonScratch.any fun k => decide (scratchKey bay off < 64 * k + 64) && decide (64 * k < scratchKey bay off + n)

/-- The report of the first poisoned sector among n bytes of scratch; `kind` is the access kind of R352. -/
def State.sectorReport (s : State) (kind bay off n : Nat) : Option Report :=
  (((List.range n).map (off + ·)).find? fun a => s.pkg.poisonScratch.contains (scratchKey bay a / 64)).map fun a =>
    ⟨0x14, BitVec.ofNat 64 kind, BitVec.ofNat 64 (2 ^ 28 + bay * 2 ^ 20 + a / 64 * 64), 0, 0⟩

/-! ## Effective addresses (R254, R255) -/

/-- A checked scratch address: the bay and the offset of an access of n bytes, or the cause of its fault (R255, R376). -/
def State.scratchEA (s : State) (load : Bool) (align n : Nat) (ea : Word) : Except Nat (Nat × Nat) :=
  let b := s.cur.bay
  let a := ea.toNat
  let named := bits a 27 20
  let off := bits a 19 0
  let bay := if bit a 28 then named else b
  if a % align ≠ 0 then .error 0x12
  else if bits a 63 29 ≠ 0 ∨ (!bit a 28 ∧ named ≠ 0) ∨ !s.inPart (s.partOf b) bay ∨ 2 ^ 20 < off + n ∨ (load ∧ bay ≠ b)
      ∨ !s.here.scratchOpen off ∨ (s.here.lent ∧ bay ≠ b) then .error 0x11
  else .ok (bay, off)

/-- The phase-set check of a scratch access of the L and W slots (R104, R260). -/
def State.scratchPhase (s : State) (bay off n : Nat) (w : Bool) : Option Report :=
  if bay = s.cur.bay then s.here.phaseFault 0 1 off n w else s.here.phaseFault 0 2 (bay * 2 ^ 20 + off) n w

/-- An access that passes the checks of its address and of the phase set goes on. -/
def State.scratchAccess (s : State) (load : Bool) (align n : Nat) (ea : Word) (go : Nat → Nat → State) : State :=
  match s.scratchEA load align n ea with
  | .error cause => s.addrFault cause ea
  | .ok (bay, off) => match s.scratchPhase bay off n (!load) with
    | some r => s.raise r
    | none => go bay off

/-- An address from a base and an offset. -/
def State.ea (s : State) (b : Reg) (off : Word) : Word := s.readS b 0 + off

/-- A short offset scaled by a size. -/
def scaleOff {n : Nat} (off : BitVec n) (size : Nat) : Word := off.signExtend 64 * BitVec.ofNat 64 size

/-! ## Loads -/

/-- A sample due on a bay. -/
def State.addSample (s : State) (x : Sample) : State := s.upd fun b => { b with samples := b.samples ++ [x] }

/-- A destination whose value a sample brings. -/
def State.expect (s : State) (d : Dest) (due id : Nat) : State :=
  s.upd fun b => b.addPend ⟨d, s.now, due, 0, fullDest, false, id⟩
where
  /-- Every bit of a row or of a register. -/
  fullDest : Nat := 2 ^ 1024 - 1

/-- LD (R257). -/
def State.ld (s : State) (m : MemA) (off : Word) : State :=
  let n := 2 ^ m.size.toNat
  s.scratchAccess true n n (s.ea m.b off) fun _ o =>
    let b := s.here
    let (id, s1) := s.newOp
    let r := m.a.toNat
    let s2 := if r = 0 then s1.upd fun b => b.outlast (s.now + 4) else s1.expect (.scalar r (b.bank r)) (s.now + 4) id
    let s3 := if n = 16 then s2.expect (.scalar (r + 1) (b.bank (r + 1))) (s.now + 4) id else s2
    s3.addSample ⟨s.now + 2, id, [o], n, .scalar r m.sx (b.bank r) (b.bank (r + 1))⟩

/-- LDT (R258). -/
def State.ldt (s : State) (m : MemB) (off : Word) : State :=
  let n := if m.t then 4096 else 128
  s.scratchAccess true 128 n (s.ea m.b off) fun _ o =>
    let (id, s1) := s.newOp
    let rows := if m.t then List.range 32 else [0]
    let s2 := rows.foldl (fun s j => (s.expect (.row (rowNum m.a.toNat (m.row.toNat + j))) (s.now + 4 + j) id).addSample
      ⟨s.now + 2 + j, id, [o + 128 * j], 128, .row (rowNum m.a.toNat (m.row.toNat + j))⟩) s1
    if m.t then s2.upd fun b => b.outlast (s.now + 35) else s2

/-- The offsets that an index row names (R259). -/
def indexOffs (esz base : Nat) (row : Row) : List Nat :=
  (elems (8 * esz) (128 / esz) row.toNat).map fun x => base + x * esz

/-- The first offset of a list whose element does not lie in scratch that the task may use. -/
def Bay.badOff (b : Bay) (esz : Nat) (offs : List Nat) : Option Nat :=
  offs.find? fun o => decide (2 ^ 20 < o + esz) || !b.scratchOpen o

/-- The fault of the addresses that one index row names: the first beyond scratch, or the first outside the phase set. -/
def State.offsFault (s : State) (esz bay : Nat) (load : Bool) (slot : Nat) (offs : List Nat) : Option Report :=
  match s.here.badOff esz offs with
  | some o => some ⟨0x11, 0, BitVec.ofNat 64 (if bay = s.cur.bay then o else 2 ^ 28 + bay * 2 ^ 20 + o), 0, BitVec.ofNat 64 slot⟩
  | none => offs.findSome? fun o => s.scratchPhase bay o esz (!load)

/-- The issuing task's short instruction has read a poisoned tile row: it is reported, and nothing derived from the row is
written (R47, R79); `kind` is the access kind of R352. -/
def State.readPoison (s : State) (kind : Nat) (rows : List Nat) : State :=
  match s.rowsPoisoned kind s.cur.bay rows with
  | some r => s.report s.cur.bay s.here.uid r s.here.handler
  | none => s

/-- A .t form of the L or W slot begins (R93); `rows` are the index rows that it has checked. -/
def State.addJob (s : State) (k : JobKind) (id : Nat) (rows : List Row := []) : State :=
  s.upd fun b => { b with jobs := b.jobs ++ [⟨k, s.now, 0, s.now, 1, rows, id, b.handler⟩] }

/-! ## Stores -/

/-- A write due on the timeline of a bay. -/
def State.addWrite (s : State) (bay : Nat) (w : SWrite) : State := s.onBay bay fun b => { b with swrites := b.swrites ++ [w] }

/-- A remote-scratch write joins a stream queue (R110). -/
def State.sendRemote (s : State) (st sc id bay : Nat) (pieces : List (Nat × List Byte)) (wait : Nat) : State :=
  s.enqueue st { id, op := .remote bay pieces, va := 0, scope := sc, acq := false, rel := false
                 notBefore := s.notBefore + wait, hold := id, pc := s.cur.pc, item := s.item }

/-- ST (R257). -/
def State.st (s : State) (m : MemA) (off : Word) (p : Pfx) : State :=
  let n := 2 ^ m.size.toNat
  s.scratchAccess false n n (s.ea m.b off) fun bay o =>
    let lo := leBytes (min n 8) (s.readS m.a 1).toNat
    let data := if n = 16 then lo ++ leBytes 8 (s.readS (m.a + 1) 2).toNat else lo
    if bay = s.cur.bay then s.addWrite bay ⟨s.now + 3, 3, 0, o, data⟩
    else
      let (id, s1) := s.newOp
      s1.sendRemote (pfxStream p).1 (pfxStream p).2 id bay [(o, data)] 0

/-- STT (R258). -/
def State.stt (s : State) (m : MemB) (off : Word) (p : Pfx) : State :=
  let (st, sc) := pfxStream p
  s.scratchAccess false 128 (if m.t then 4096 else 128) (s.ea m.b off) fun bay o =>
    let own := bay = s.cur.bay
    let (id, s1) := s.newOp
    if m.t then
      let s2 := s1.addJob (.stt m.a.toNat bay o st) id
      if own then s2
      else (List.range 32).foldl (fun s j => let (e, s') := s.newOp; s'.sendRemote st sc e bay [(o + 128 * j, [])] (j + 1)) s2
    else
      let data := rowBytes (s.readRow s.cur.bay (rowNum m.a.toNat m.row.toNat) (2048 + 8 * s.cur.slot))
      if (s.tilePoison s.cur.bay (rowNum m.a.toNat m.row.toNat)).isSome then s1.readPoison 1 [rowNum m.a.toNat m.row.toNat]
      else if own then s1.addWrite bay ⟨s.now + 3, 3, 0, o, data⟩ else s1.sendRemote st sc id bay [(o, data)] 0

/-- The pieces that a data row writes at offsets, in ascending lane. -/
def scatterPieces (esz : Nat) (offs : List Nat) (row : Row) : List (Nat × List Byte) :=
  List.zipWith (fun o x => (o, leBytes esz x)) offs (elems (8 * esz) (128 / esz) row.toNat)

/-! ## Rows of the .t forms -/

/-- The pieces of an entry that waits in a stream queue. -/
def Bay.fillEntry (b : Bay) (st id : Nat) (pieces : List (Nat × List Byte)) : Bay :=
  { b with sq := Tbl.set [] b.sq st ((Tbl.get [] b.sq st).map fun e =>
      if e.id = id then
        { e with op := match e.op with
            | .remote bay _ => .remote bay pieces
            | x => x }
      else e) }

/-- A .t form moves on to its next row, or is over after row 31. -/
def Bay.nextJobRow (b : Bay) (id : Nat) : Bay :=
  let go (q : Job) : Option Job :=
    if q.id ≠ id then some q else if q.row = 31 then none else some { q with row := q.row + 1, next := q.next + q.every }
  { b with jobs := b.jobs.filterMap go }

/-- The fault that row j of a .t form of the L or W slot meets on its own cycle: poison in the rows that it reads, or, where its
index row is not the row that was checked at issue, an address that it names. -/
def State.stepFault (s : State) (bay : Nat) (j : Job) : Option Report :=
  let at_ : State := { s with cur := { bay } }
  let index (t esz dst base : Nat) (load : Bool) : Option Report :=
    let row := s.readRow bay (rowNum t j.row) (j.id % 256 * 8 + 1) j.id
    if j.got[j.row]? = some row then none
    else at_.offsFault esz dst load (if load then Slot.l.code else Slot.w.code) (indexOffs esz base row)
  match j.kind with
  | .stt tile _ _ _ => s.rowsPoisoned 1 bay [rowNum tile j.row]
  | .ldx _ x esz base => (s.rowsPoisoned 1 bay [rowNum x j.row]).or (index x esz bay base true)
  | .stx tile x esz dst base _ => (s.rowsPoisoned 1 bay [rowNum tile j.row, rowNum x j.row]).or (index x esz dst base false)
  | .vec _ _ _ _ _ _ _ _ _ _ => none

/-- Row j of STT.t, LDX.t or STX.t. A row that meets a fault sends a report and does nothing. (DEDUCED, log entry 139.) -/
def State.scratchStep (s : State) (bay : Nat) (j : Job) : State :=
  let key := j.id % 256 * 8
  let s1 := s.onBay bay fun b => b.nextJobRow j.id
  let row (t i : Nat) := s.readRow bay (rowNum t j.row) (key + i) j.id
  let bad := s.stepFault bay j
  let s1 := match bad with
    | some r => s1.report bay (s.bay bay).uid r j.hnd
    | none => s1
  let put (target : Nat) (st : Nat) (ps : List (Nat × List Byte)) : State :=
    if target = bay then ps.foldl (fun s x => s.addWrite bay ⟨s.now + 3, 3, 0, x.1, x.2⟩) s1
    else s1.onBay bay fun b => b.fillEntry st (j.id + 1 + j.row) ps
  match j.kind with
  | .stt tile target addr st => put target st (if bad.isSome then [] else [(addr + 128 * j.row, rowBytes (row tile 0))])
  | .ldx tile index esz base =>
    if bad.isSome then s1.onBay bay fun b => b.fillDest j.id (.row (rowNum tile j.row)) 0 0
    else s1.onBay bay fun b =>
        { b with samples := b.samples ++ [⟨s.now + 2, j.id, indexOffs esz base (row index 1), esz, .row (rowNum tile j.row)⟩] }
  | .stx tile index esz target base st =>
    put target st (if bad.isSome then [] else scatterPieces esz (indexOffs esz base (row index 1)) (row tile 0))
  | .vec _ _ _ _ _ _ _ _ _ _ => s1

/-! ## The timeline (R95, R112) -/

/-- The scratch range that a command of a channel arms: its destination in own scratch (R162). (DEDUCED, log entry 51.) -/
def Cmd.armed (c : Cmd) : Option (Nat × Nat) :=
  match c.kind with
  | .xcpy _ d len => if d.space = 1 then some (d.addr, len) else none
  | .xgth own _ rlen _ n => if own.space = 1 then some (own.addr, rlen * n) else none
  | .xsct _ tbl rlen nrows _ => if tbl.space = 1 then some (tbl.addr, rlen * nrows) else none
  | _ => none

/-- The first byte of n from an offset that a command arms and has not filled, with the channel. -/
def Bay.unfilled (b : Bay) (off n : Nat) : Option (Nat × Nat) :=
  (List.range n).findSome? fun i =>
    (List.range 8).findSome? fun ch =>
      let c := Tbl.get Channel.reset b.btx ch
      if c.buf.any (fun x => match x.armed with
          | some (a, len) => decide (a + x.wm ≤ off + i) && decide (off + i < a + len)
          | none => false) then some (ch, off + i) else none

/-- A load that takes a fault at a sample writes nothing more: its later rows are neither sampled nor written. -/
def Bay.stopLoad (b : Bay) (x : Sample) : Bay :=
  { b with
    pends := b.pends.map fun p => if p.job = x.id ∧ x.due + 2 ≤ p.due then { p with mask := 0 } else p
    samples := b.samples.filter fun y => y.id != x.id
    jobs := b.jobs.filter fun j => j.id != x.id }

/-- One load sample is taken. -/
def State.sampleOne (s : State) (bay : Nat) (x : Sample) : State :=
  let b := s.bay bay
  match x.addrs.findSome? (fun a => b.unfilled a x.esz) with
  | some (ch, a) =>
    (s.onBay bay fun b => b.stopLoad x).report bay b.uid ⟨0x0C, BitVec.ofNat 64 ch, BitVec.ofNat 64 a, 0, 0⟩
  | none =>
    match x.addrs.findSome? (fun a => s.sectorReport 1 bay a x.esz) with
    | some r => (s.onBay bay fun b => b.stopLoad x).report bay b.uid r
    | none =>
      let bs := x.addrs.flatMap fun a => s.scratchBytes bay a x.esz
      let v := leNat bs
      s.onBay bay fun b => match x.dst with
        | .scalar r sx h h1 =>
          if x.esz = 16 then
            (b.fillDest x.id (.scalar r h) (v % 2 ^ 64) (2 ^ 64 - 1)).fillDest x.id (.scalar (r + 1) h1) (v / 2 ^ 64) (2 ^ 64 - 1)
          else b.fillDest x.id (.scalar r h) (if sx then wrap 64 (signed (8 * x.esz) v) else v) (2 ^ 64 - 1)
        | .row n => b.fillDest x.id (.row n) v (2 ^ 1024 - 1)

/-- The samples due of a bay are taken, in the order of issue. -/
def State.takeSamples (s : State) (bay : Nat) : State :=
  let due := (s.bay bay).samples.filter fun x => decide (x.due ≤ s.now)
  due.foldl (fun s x =>
    if (s.bay bay).samples.contains x then
      (s.onBay bay fun b => { b with samples := b.samples.filter fun y => y != x }).sampleOne bay x
    else s) s

/-- SCRATCH_LOAD_SAMPLE (R95). -/
def execScratchLoadSample (bay : Nat) (s : State) : Out :=
  if 256 ≤ bay then .fault .absent else .next (s.takeSamples bay)

/-- The writes due on the scratch of a bay are applied: engine writes, remote writes by source bay, the L slot, the W slot. -/
def State.applyWrites (s : State) (bay : Nat) : State :=
  let b := s.bay bay
  let due := sortBy (fun w => w.cls * 1024 + if w.cls = 1 then w.order else 0) (b.swrites.filter fun w => decide (w.due ≤ s.now))
  let s1 := s.onBay bay fun b => { b with swrites := b.swrites.filter fun w => decide (s.now < w.due) }
  due.foldl (fun s w => s.putScratch bay w.addr w.data) s1

/-- SCRATCH_WRITE_APPLY (R112). -/
def execScratchWriteApply (bay : Nat) (s : State) : Out :=
  if 256 ≤ bay then .fault .absent else .next (s.applyWrites bay)

/-! ## The short operations of a bay without a further bundle -/

/-- A .t form that is due reads its next row. -/
def State.jobRow (s : State) (bay : Nat) (j : Job) : State :=
  match j.kind with
  | .vec k o r sc mode sat common draw per bound => s.vecStep bay j k o r sc mode sat common draw per bound
  | _ => s.scratchStep bay j

/-- The results due of a bay land, and its .t forms read the rows due. -/
def State.landShort (s : State) (bay : Nat) : State :=
  let whole := (s.bay bay).pends.filterMap fun p => match p.dest with
    | .row n => if p.due ≤ s.now ∧ p.mask % 2 ^ 1024 = fullMask then some n else none
    | _ => none
  let s1 := (s.onBay bay fun b => b.land s.now).cleanRows bay whole
  let due := (s1.bay bay).jobs.filter fun j => decide (j.next ≤ s.now)
  due.foldl (fun s j => if (s.bay bay).jobs.contains j then s.jobRow bay j else s) s1

/-- The machine n cycles on, as far as what the bay has issued determines its registers, rows and scratch. -/
def State.coast (s : State) (bay : Nat) : Nat → State
  | 0 => s
  | n + 1 =>
    let t : State := { s with now := s.now + 1 }
    (((t.landShort bay).applyWrites bay).takeSamples bay).coast bay n

/-- The bits of STAT that results in flight may already have set (R85): of what the bay has issued before this cycle, the flags
that its results and the rows still to be read will set, and no others. (DEDUCED, log entry 138.) -/
def State.statFlight (s : State) (bay : Nat) (h : Bool) (i : Nat) : Word :=
  let free := Config.freeWord (s.freeKey s.cur.bay s.cur.slot i)
  let s1 := s.onBay bay fun b => { b with
    jobs := b.jobs.filter fun j => decide (j.issued < s.now)
    pends := b.pends.filter fun p => decide (p.issued < s.now) && p.dest != .special 0 h
    stat := 0
    hstat := 0 }
  let b := (if (s1.bay bay).jobs.isEmpty then s1 else s1.coast bay 32).bay bay
  let flags := b.pends.foldl (fun a p => match p.dest with
    | .stat h' => if h' = h then a ||| BitVec.ofNat 64 p.val else a
    | _ => a) (if h then b.hstat else b.stat)
  flags &&& free

/-- A special register as an instruction reads it (R85, R228). -/
def State.readSpecialNow (s : State) (bay : Nat) (h : Bool) (n : Nat) : Word :=
  if n = 0 then s.readSpecial bay h n ||| s.statFlight bay h 64 else s.readSpecial bay h n

/-! ## LDX and STX (R259) -/

/-- Rows j and on of the index tile of a .t form with number `id`, n of them, each as it will be read on its own cycle. -/
def State.indexRows (s : State) (id tile : Nat) : Nat → Nat → List Row
  | 0, _ => []
  | n + 1, j => s.readRow s.cur.bay (rowNum tile j) (id % 256 * 8 + 1) id :: (s.coast s.cur.bay 1).indexRows id tile n (j + 1)

/-- The index rows that LDX and STX check at issue, before anything is sampled or written (R259): a row form its row, a tile form
each row as what has been issued will have formed it. (DEDUCED, log entry 139.) -/
def State.indexAhead (s : State) (m : MemC) : List Row :=
  let id := s.here.opCount + 1
  if m.t then s.indexRows id m.x.toNat 32 0 else [s.readRow s.cur.bay (rowNum m.x.toNat m.row.toNat) (id % 256 * 8 + 1)]

/-- The first fault of the addresses that the index rows name. -/
def State.indexFault (s : State) (rows : List Row) (esz bay base : Nat) (load : Bool) : Option Report :=
  rows.findSome? fun row => s.offsFault esz bay load s.cur.slot (indexOffs esz base row)

/-- LDX (R259). -/
def State.ldx (s : State) (m : MemC) (off : Word) : State :=
  let esz := if m.sz then 2 else 4
  let ea := s.ea m.b off
  match s.scratchEA true esz 0 ea with
  | .error cause => s.addrFault cause ea
  | .ok (_, base) =>
    let rows := s.indexAhead m
    match s.indexFault rows esz s.cur.bay base true with
    | some r => s.raise r
    | none =>
      let (id, s1) := s.newOp
      if m.t then
        let s2 := (List.range 32).foldl (fun s j => s.expect (.row (rowNum m.a.toNat j)) (s.now + 4 + j) id) s1
        (s2.addJob (.ldx m.a.toNat m.x.toNat esz base) id rows).upd fun b => b.outlast (s.now + 35)
      else
        let n := rowNum m.x.toNat m.row.toNat
        if (s.tilePoison s.cur.bay n).isSome then s1.readPoison 1 [n] else
        (s1.expect (.row (rowNum m.a.toNat m.row.toNat)) (s.now + 4) id).addSample
          ⟨s.now + 2, id, indexOffs esz base (rows.headD 0), esz, .row (rowNum m.a.toNat m.row.toNat)⟩

/-- STX (R259). -/
def State.stx (s : State) (m : MemC) (off : Word) (p : Pfx) : State :=
  let esz := if m.sz then 2 else 4
  let (st, sc) := pfxStream p
  let ea := s.ea m.b off
  match s.scratchEA false esz 0 ea with
  | .error cause => s.addrFault cause ea
  | .ok (bay, base) =>
    let rows := s.indexAhead m
    match s.indexFault rows esz bay base false with
    | some r => s.raise r
    | none =>
      let own := bay = s.cur.bay
      let (id, s1) := s.newOp
      if m.t then
        let s2 := s1.addJob (.stx m.a.toNat m.x.toNat esz bay base st) id rows
        if own then s2
        else (List.range 32).foldl (fun s j => let (e, s') := s.newOp; s'.sendRemote st sc e bay [] (j + 1)) s2
      else
        let ps := scatterPieces esz (indexOffs esz base (rows.headD 0)) (s.readRow s.cur.bay (rowNum m.a.toNat m.row.toNat) (2048 + 8 * s.cur.slot))
        let src := [rowNum m.a.toNat m.row.toNat, rowNum m.x.toNat m.row.toNat]
        if (s.rowsPoisoned 1 s.cur.bay src).isSome then s1.readPoison 1 src
        else if own then ps.foldl (fun s x => s.addWrite bay ⟨s.now + 3, 3, 0, x.1, x.2⟩) s1 else s1.sendRemote st sc id bay ps 0

/-! ## Meanings -/

def execLd (m : MemA) (off : BitVec 8) (s : State) : Out := .next (s.ld m (scaleOff off (2 ^ m.size.toNat)))
def execLd64 (m : MemA) (off : BitVec 32) (s : State) : Out := .next (s.ld m (off.signExtend 64))
def execLdt (m : MemB) (off : BitVec 5) (s : State) : Out := .next (s.ldt m (scaleOff off 128))
def execLdt64 (m : MemB) (off : BitVec 32) (s : State) : Out := .next (s.ldt m (off.signExtend 64))
/-- The offset of a form that may carry one. -/
def optOff (off : Option (BitVec 32)) : Word := match off with
  | some o => o.signExtend 64
  | none => 0
def execLdx (m : MemC) (off : Option (BitVec 32)) (s : State) : Out := .next (s.ldx m (optOff off))
def execSt (m : MemA) (off : BitVec 8) (p : Pfx) (s : State) : Out := .next (s.st m (scaleOff off (2 ^ m.size.toNat)) p)
def execSt64 (m : MemA) (off : BitVec 32) (p : Pfx) (s : State) : Out := .next (s.st m (off.signExtend 64) p)
def execStt (m : MemB) (off : BitVec 5) (p : Pfx) (s : State) : Out := .next (s.stt m (scaleOff off 128) p)
def execStt64 (m : MemB) (off : BitVec 32) (p : Pfx) (s : State) : Out := .next (s.stt m (off.signExtend 64) p)
def execStx (m : MemC) (off : Option (BitVec 32)) (p : Pfx) (s : State) : Out := .next (s.stx m (optOff off) p)

end Sys2Proof.Machine
end

