-- ==== Sys2Proof/Machine/Beat.lean ====
section
/-!
DEFINITION. Beats: tags, beat queues, late arrivals and carries, service, the close of a beat, overrun, refresh and glove
pairs (spec/03_beat_memory.md R50 to R70, spec/15_prog_beats.md R310, spec/16_prog_refresh.md R312 to R314), and LDB and STB
(spec/13_ref_memory_array.md R261, R262).
-/

namespace Sys2Proof.Machine

/-! ## Tags (R51, R52, R374) -/

/-- The tag of the beat-tagged instruction being issued, of compute kind when `odd`; none when its parity is wrong. -/
def State.tagOf (s : State) (odd : Bool) (p : Pfx) (tag : Option (BitVec 16)) : Option Nat :=
  let d := s.here.dbeat.toNat % 65536
  match tag with
  | some t => if bit t.toNat 0 = odd then some t.toNat else none
  | none => match p.beat with
    | some k => let t := (d + k.toNat) % 65536; if bit t 0 = odd then some t else none
    | none => some (if bit d 0 = odd then d else (d + 1) % 65536)

/-- The beat that a tag of a bay's task names now. -/
def State.beatOf (s : State) (bay tag : Nat) : Int :=
  let n : Int := (s.part (s.partOf bay)).beatno
  n + signed 16 (wrap 16 (tag + (s.bay bay).beatoff - n))

/-! ## Queues (R56 to R58) -/

/-- Whether an entry writes at a close. -/
def BeatOp.isWrite : BeatOp → Bool
  | .store _ _ _ | .awrite _ _ _ _ _ | .aswap _ _ => true
  | _ => false

/-- Whether an entry is an in-array operation. -/
def BeatOp.isArray : BeatOp → Bool
  | .array _ => true
  | _ => false

/-- Entries of a beat queue that are not served: these fill the 512 places of the queue. (DEDUCED, log entry 155.) -/
def Bay.unserved (b : Bay) : List BEntry := b.bq.filter fun e => !e.served

/-- The syndrome of a late arrival (R56, R57). (DEDUCED, log entry 32.) -/
def lateReport (code : Nat) (e : BEntry) (beatno : Nat) : Report :=
  ⟨0x09, BitVec.ofNat 64 code, BitVec.ofNat 64 (e.tag + beatno % 2 ^ 48 * 2 ^ 16), BitVec.ofNat 64 e.where_, 0⟩

/-- A carry is counted in the issuing task (R58). -/
def Bay.countCarry (b : Bay) : Bay :=
  { b.setFlags fLate with lateNow := b.lateNow + 1 }

/-- An entry reaches a bay's queue after its beat has closed (R57, R58). -/
def State.lateEntry (s : State) (bay : Nat) (e : BEntry) : State :=
  let n := (s.part (s.partOf bay)).beatno
  if !e.op.isWrite || e.strict then
    let code := if e.op.isWrite then 0 else if e.op.isArray then 2 else 1
    (s.onTask e.bay e.task fun b => b.endHold s.now e.hold).report e.bay e.task (lateReport code e n)
  else
    let aw := match e.op with
      | .awrite _ _ _ _ _ => true
      | _ => false
    let e' := { e with beat := max (e.beat + 2) (n + n % 2), carried := true, served := !aw, next := s.now + 2 }
    (s.onTask e.bay e.task fun b => (b.endHold s.now e.hold).countCarry).onBay bay fun b => { b with bq := b.bq ++ [e'] }

/-- The end of the refresh window that runs on a bay's die, or the present cycle. -/
def State.calm (s : State) (bay : Nat) : Nat := max s.now (s.die (dieOf bay)).rfend

/-- A number for a delay of an entry. -/
def State.entryKey (s : State) (bay id i : Nat) : Nat := s.freeKey bay i (id % 4096)

/-- The cycle on which an access entry of the open beat is served: within 512 cycles of now and of the end of the owed windows,
and ahead of the next window when that would carry it past the bound (R65, R310). -/
def State.serveAt (s : State) (bay id : Nat) : Nat :=
  let d := s.die (dieOf bay)
  let first := s.calm bay
  let last := max s.now d.owedEnd + 512
  let t := first + Config.freeDelay (s.entryKey bay id 9) % (last - first + 1)
  if d.rfnext ≤ t ∧ last < d.rfnext + 64 then max first (d.rfnext - 1) else t

/-- An entry enters a queue (R56). -/
def State.enterQueue (s : State) (bay : Nat) (e : BEntry) : State :=
  let next := match e.op with
    | .awrite _ _ _ _ _ => s.now + 2
    | .array _ => 0
    | _ => s.serveAt bay e.id
  s.onBay bay fun b => { b with bq := b.bq ++ [{ e with next := next }] }

/-- The greatest cycles of travel to another bay (R310). -/
def travel (a b : Nat) : Nat := if dieOf a = dieOf b then 256 else 1024

/-- The bay that holds the target of an entry on its way. -/
def BeatOp.target : BeatOp → Nat
  | .load _ a _ | .store _ a _ => a / 2 ^ 30 % 256
  | _ => 0

/-- A beat-tagged instruction is issued (R51 to R58): its kind, prefixes and tag, the bay of its target, its address for a
syndrome, what it does, and the registers of R96 that it holds as destinations or as sources. A register that it both reads and
writes takes the destination hold alone. (DEDUCED, log entry 39.) (DESIGN CHOICE, log entry 142.) -/
def State.sendBeat (s : State) (odd : Bool) (p : Pfx) (tag : Option (BitVec 16)) (target addr : Nat) (op : BeatOp)
    (dest src : List Nat) (use : Option (Nat × Nat) := none) : State :=
  match s.tagOf odd p tag with
  | none => s.raise ⟨0x01, 5, BitVec.ofNat 64 s.slotOff, (match s.item with
      | some i => i.word.zeroExtend 64
      | none => 0), BitVec.ofNat 64 s.cur.slot⟩
  | some t =>
    let here := s.cur.bay
    let b := s.here
    let (id, s1) := s.newOp
    let n := (s.part (s.partOf here)).beatno
    let e : BEntry :=
      { id, bay := here, task := b.uid, beat := s.beatOf here t, tag := t, op, strict := bit b.beatctlReg.toNat 0
        hold := id, pc := s.cur.pc, where_ := addr, due := s.now, item := s.item, use }
    let srcs := src.filter fun r => !dest.contains r
    let held (x : State) (ends : Option Nat) : State := (x.wantHold id true dest ends).wantHold id false srcs ends
    if target ≠ here then
      let last := b.transit.foldl (fun m x =>
        if x.op.isWrite && op.isWrite && x.op.target == op.target then max m x.due else m) 0
      let due := max last (s.now + 1 + Config.freeDelay (s.entryKey here id 8) % travel here target)
      (held s1 none).upd fun b => { b with transit := b.transit ++ [{ e with due := due }] }
    else if e.beat < n then (held s1 (some s.now)).lateEntry here e
    else if 512 ≤ b.unserved.length then s.raiseLate (lateReport 3 e n)
    else (held s1 none).enterQueue here e

/-- BEAT_QUEUE_ARRIVAL (R56 to R58): a beat-tagged instruction of a bay reaches the queue of another bay. (DEDUCED, log entry 33.) -/
def execBeatQueueArrival (bay id : Nat) (s : State) : Out :=
  if 256 ≤ bay then .fault .absent
  else match (s.bay bay).transit.find? fun e => e.id == id with
  | none => .next s
  | some e =>
    let s1 := s.onBay bay fun b => { b with transit := b.transit.filter fun x => x.id != id }
    let t := e.op.target
    let n := (s.part (s.partOf t)).beatno
    .next (if e.beat < n then s1.lateEntry t e
      else if 512 ≤ (s1.bay t).unserved.length then
        (s1.onTask bay e.task fun b => b.endHold s.now e.hold).report bay e.task (lateReport 3 e n)
      else s1.enterQueue t e)

/-! ## LDB and STB (R261, R262) -/

/-- The checked address of LDB or STB: the state after its translation, and the physical address or a fault. (DEDUCED, log entry 48.) -/
def State.beatEA (s : State) (load acc t : Bool) (ea : Word) : State × Except Report Nat :=
  let a := ea.toNat
  let p := s.partOf s.cur.bay
  let slot := BitVec.ofNat 64 s.cur.slot
  let bay := bits a 37 30
  if a % (if t then 4096 else 128) ≠ 0 then (s, .error ⟨0x12, 0, ea, 0, slot⟩)
  else if acc then
    if bits a 63 38 ≠ 0 ∨ bits a 21 14 ≠ 0 ∨ !s.inPart p bay ∨ (t ∧ 12 < bits a 13 10)
        ∨ (s.here.lent ∧ (bay ≠ s.cur.bay ∨ bits a 13 10 ≠ 15 ∨ t)) then (s, .error ⟨0x11, 0, ea, 0, slot⟩)
    else (s, .ok a)
  else
    let kind : Acc := if load then .beatLoad else .beatStore
    let (tr, s1) := s.translate kind p s.here.asid s.here.handler a (s.freeKey s.cur.bay s.cur.slot 100)
    (s1, match tr with
      | .absent r | .form r | .prot r => .error r
      | .wait => .error tryAgain
      | .ok l pa => if s.inPart p (pa / 2 ^ 30) then .ok pa else .error (transReport 0x11 kind 4 l.level a s.here.asid))

/-- The phase-set check of an access to beat memory or accumulators by the L and W slots (R260). -/
def State.beatPhase (s : State) (acc load : Bool) (pa n : Nat) : Option Report :=
  if pa / 2 ^ 30 = s.cur.bay then
    s.here.phaseFault 0 (if acc then 3 else 5) (if acc then bits pa 29 22 * 2 ^ 14 + pa % 2 ^ 14 else pa) n (!load)
  else if s.here.phaseOn then some ⟨0x0B, 0, BitVec.ofNat 64 pa, BitVec.ofNat 64 (2 * n + if load then 0 else 1), 0⟩
  else none

/-- LDB and STB. -/
def State.beatMove (s : State) (load acc : Bool) (m : MemB) (ea : Word) (p : Pfx) (tag : Option (BitVec 16)) : State :=
  let rows := if m.t then (List.range 32).map fun j => rowNum m.a.toNat j else [rowNum m.a.toNat m.row.toNat]
  match s.beatEA load acc m.t ea with
  | (s1, .error r) => s1.raise r
  | (s1, .ok pa) => match s1.beatPhase acc load pa (128 * rows.length) with
    | some r => s1.raise r
    | none =>
      let regs := rows.map (32 + ·)
      let use := if acc then none else some (s.here.asid, ea.toNat / 65536)
      if load then s1.sendBeat false p tag (pa / 2 ^ 30) pa (.load acc pa rows) regs [] use
      else if (s1.rowsPoisoned 5 s.cur.bay rows).isSome then s1.readPoison 5 rows
      else
        let data := rows.map fun n => s1.readRow s.cur.bay n (2048 + 8 * s.cur.slot + n % 512)
        s1.sendBeat false p tag (pa / 2 ^ 30) pa (.store acc pa data) [] regs use

def execLdb (acc : Bool) (m : MemB) (off : BitVec 5) (p : Pfx) (s : State) : Out :=
  .next (s.beatMove true acc m (s.ea m.b (scaleOff off 128)) p none)
def execLdb64 (acc : Bool) (m : MemB) (off tag : BitVec 16) (s : State) : Out :=
  .next (s.beatMove true acc m (s.ea m.b (scaleOff off 128)) .empty (some tag))
def execStb (acc : Bool) (m : MemB) (off : BitVec 5) (p : Pfx) (s : State) : Out :=
  .next (s.beatMove false acc m (s.ea m.b (scaleOff off 128)) p none)
def execStb64 (acc : Bool) (m : MemB) (off tag : BitVec 16) (s : State) : Out :=
  .next (s.beatMove false acc m (s.ea m.b (scaleOff off 128)) .empty (some tag))

/-! ## Service (R54, R65, R97, R310) -/

/-- An entry changed in a queue. -/
def Bay.onBeat (b : Bay) (e : BEntry) (f : BEntry → Option BEntry) : Bay :=
  { b with bq := b.bq.filterMap fun x => if x.id = e.id ∧ x.bay = e.bay then f x else some x }

/-- Whether an access entry of the open beat may be served now. -/
def State.servable (s : State) (bay : Nat) (e : BEntry) : Bool :=
  let p := s.part (s.partOf bay)
  let access := match e.op with
    | .load _ _ _ | .store _ _ _ | .aswap _ _ => true
    | _ => false
  access && !e.served && e.beat == (p.beatno : Int) && decide (e.next ≤ s.now) && decide (s.calm bay = s.now)

/-- Whole rows land in a task, and its hold ends. -/
def State.landRows (s : State) (bay task hold : Nat) (rows : List (Nat × Row)) : State :=
  let s1 := s.onTask bay task fun b => (rows.foldl (fun b (x : Nat × Row) => b.setRow x.1 x.2) b).endHold s.now hold
  if rows.isEmpty || (s.bay bay).uid != task then s1 else s1.cleanRows bay (rows.map (·.1))

/-- An access entry is served: a load returns what stood at the close of the last compute beat (R54). -/
def State.serveEntry (s : State) (bay : Nat) (e : BEntry) : State :=
  match e.op with
  | .load acc pa rows =>
    let s1 := s.onBay bay fun b => b.onBeat e fun _ => none
    let p := s.partOf bay
    match s.snapPoison p acc pa (128 * rows.length) with
    | some x => (s1.onTask e.bay e.task fun b => b.endHold s.now e.hold).report e.bay e.task (poisonReport 4 x)
    | none =>
      let m := if acc then (s.part p).snapAcc else (s.part p).snapBeat
      let data := rows.zipIdx.map fun (n, j) => (n, rowOf (m.bytes (pa + 128 * j) 128))
      if e.bay = bay then s1.landRows bay e.task e.hold data
      else
        let due := s.now + 1 + Config.freeDelay (s.entryKey bay e.id 7) % travel bay e.bay
        s1.onBay e.bay fun b => { b with landing := b.landing ++ [⟨e.id, e.task, e.hold, data, due⟩] }
  | _ => (s.onBay bay fun b => b.onBeat e fun x => some { x with served := true }).onTask e.bay e.task fun b => b.endHold s.now e.hold

/-- BEAT_LOAD_SERVE (R54): an access entry of the open beat is served. (DEDUCED, log entry 38.) -/
def execBeatLoadServe (bay id : Nat) (s : State) : Out :=
  if 256 ≤ bay then .fault .absent
  else match (s.bay bay).bq.find? fun e => e.id == id && s.servable bay e with
  | none => .next s
  | some e => .next (s.serveEntry bay e)

/-- REMOTE_LOAD_LAND (R310). -/
def execRemoteLoadLand (bay id : Nat) (s : State) : Out :=
  if 256 ≤ bay then .fault .absent
  else match (s.bay bay).landing.find? fun x => x.id == id with
  | none => .next s
  | some x => .next ((s.onBay bay fun b => { b with landing := b.landing.filter fun y => y.id != id }).landRows bay x.task x.hold x.rows)

/-! ## In-array operations (R54, R63, R73, R312) -/

/-- The operation of a running entry. -/
def Running.op (r : Running) : Option ArrayOp := match r.entry.op with
  | .array o => some o
  | _ => none

/-- The first in-array entry of the open beat that waits on a bay. -/
def State.nextArray (s : State) (bay : Nat) : Option BEntry :=
  let p := s.part (s.partOf bay)
  (s.bay bay).bq.find? fun e => e.op.isArray && !e.served && e.beat == (p.beatno : Int)

/-- Whether the frozen operations of a bay may resume: not while a save or a FRZ has stopped them (R369, R370). -/
def Bay.thawed (b : Bay) : Bool := b.save.isNone && b.frozenAt.isNone && !b.empty

/-- Whether an in-array operation may start. -/
def State.arrayMayStart (s : State) (bay : Nat) : Bool :=
  let b := s.bay bay
  b.running.isNone && s.calm bay == s.now
    && ((s.nextArray bay).isSome || (b.thawed && b.frozen.any fun r => r.entry.beat == ((s.part (s.partOf bay)).beatno : Int)))

/-- ARRAY_OP_START (R312): a frozen operation resumes ahead of the bay's other work (R373). -/
def execArrayOpStart (bay : Nat) (s : State) : Out :=
  if 256 ≤ bay then .fault .absent
  else if !s.arrayMayStart bay then .next s
  else
    let n : Int := (s.part (s.partOf bay)).beatno
    match (s.bay bay).frozen.find? fun r => (s.bay bay).thawed && r.entry.beat == n with
    | some r => .next (s.onBay bay fun b => { b with
        frozen := b.frozen.erase r
        bq := b.bq ++ [r.entry]
        running := some { r with start := s.now - r.start } })
    | none => match s.nextArray bay with
      | none => .next s
      | some e => .next (s.onBay bay fun b => { b with running := some { entry := e, start := s.now } })

/-- Whether the running operation has a commit point due. -/
def State.commitDue (s : State) (bay : Nat) : Bool :=
  match (s.bay bay).running with
  | some r => match r.op with
    | some o => decide (r.done < o.steps) && decide (r.start + o.commitAt r.done ≤ s.now) && s.calm bay == s.now
    | none => false
  | none => false

/-- ARRAY_COMMIT_POINT (R63): the next row, block step or key stands; an operation that was abandoned stops there, and one
that fails ends there. -/
def execArrayCommitPoint (bay : Nat) (s : State) : Out :=
  if 256 ≤ bay then .fault .absent
  else if !s.commitDue bay then .next s
  else match (s.bay bay).running with
  | none => .next s
  | some r => match r.op with
    | none => .next s
    | some o =>
      let c := s.arrayStep bay r o
      match c.fail with
      | some x =>
        let s1 := c.s.onBay bay fun b => { b with running := some { c.r with done := o.steps, out := [], stop := true } }
        .next (s1.report r.entry.bay r.entry.task x)
      | none =>
        let r' := { c.r with done := if r.stop then o.steps else r.done + 1, out := if r.stop then [] else c.r.out }
        .next (c.s.onBay bay fun b => { b with running := some r' })

/-- The rows that an operation writes on completion, with the lists that fill them (R133 to R135). -/
def ArrayOp.results (o : ArrayOp) (out : List (List Nat)) : List (Nat × Row) :=
  let rowsOf (first gv : Nat) : List (Nat × Row) :=
    out.zipIdx.flatMap fun (l, t) => (List.range gv).map fun j =>
      (first + t * gv + j, BitVec.ofNat 1024 (packElems 32 ((l.drop (32 * j)).take 32)))
  match o with
  | .cresp t _ _ dst => rowsOf dst t.gv
  | .copa t _ _ _ _ (some err) => rowsOf err t.gv
  | _ => []

/-- Whether an operation that was stopped has committed nothing (R135, R314). -/
def ArrayOp.allOrNothing : ArrayOp → Bool
  | .cresp _ _ _ _ => true
  | _ => false

/-- ARRAY_OP_COMPLETE (R54): the operation has passed its last commit point; its rows land, its flags are set and its holds
end. -/
def execArrayOpComplete (bay : Nat) (s : State) : Out :=
  if 256 ≤ bay then .fault .absent
  else match (s.bay bay).running with
  | none => .next s
  | some r => match r.op with
    | none => .next s
    | some o =>
      if r.done < o.steps then .next s
      else
        let e := r.entry
        let s1 := s.onBay bay fun b => { (b.onBeat e (fun _ => none)) with running := none }
        .next ((s1.onTask bay e.task fun b => b.setFlags (if r.stop && o.allOrNothing then 0 else r.flags)).landRows bay e.task e.hold
          (if r.stop then [] else o.results r.out))

/-! ## AWRITE (R70, R271) -/

/-- Pieces that an AWRITE samples. -/
def awritePieces (nb nrow : Nat) : Nat := nb * nrow * 8

/-- The first AWRITE of a bay whose next piece is due. (DEDUCED, log entry 36.) -/
def State.awriteDue (s : State) (bay : Nat) : Option BEntry :=
  let p := s.part (s.partOf bay)
  if s.calm bay ≠ s.now then none
  else (s.bay bay).bq.find? fun e => match e.op with
    | .awrite _ _ _ _ _ => !e.served && decide (e.next ≤ s.now) && decide (e.beat ≤ (p.beatno : Int) + 1)
    | _ => false

/-- AWRITE_PIECE_SAMPLE (R271): every AWRITE of the bay whose next piece is due samples it. -/
def execAwritePieceSample (bay : Nat) (s : State) : Out :=
  if 256 ≤ bay then .fault .absent
  else match s.awriteDue bay with
  | none => .next s
  | some e => match e.op with
    | .awrite src _ nb _ nrow =>
      let a := src + e.got.length
      match s.sectorReport 6 bay a 128 with
      | some r => .next (((s.onBay bay fun b => b.onBeat e fun _ => none).onTask e.bay e.task fun b => b.endHold s.now e.hold).report
          e.bay e.task r)
      | none =>
        let got := e.got ++ s.scratchBytes bay a 128
        let last := awritePieces nb nrow ≤ got.length / 128
        let s1 := s.onBay bay fun b => b.onBeat e fun x => some { x with got := got, next := s.now + 1, served := last }
        .next (if last then s1.onTask e.bay e.task fun b => b.endHold s.now e.hold else s1)
    | _ => .next s

/-! ## Close (R54, R55, R62, R66, R69) -/

/-- Whether an entry has been abandoned while it runs: it stops at its next commit point (R63). -/
def Bay.givenUp (b : Bay) (e : BEntry) : Bool := b.running.any fun r => r.stop && r.entry.id == e.id && r.entry.bay == e.bay

/-- Whether every entry of a beat is served or abandoned on every bay of a partition (R62 condition 2). -/
def State.beatServed (s : State) (p : Nat) : Bool :=
  let n : Int := (s.part p).beatno
  (s.bays.map (·.1)).all fun bay =>
    s.partOf bay != p || (s.bay bay).unserved.all fun e => e.beat != n || (s.bay bay).givenUp e

/-- Whether the open beat of a partition closes now (R62). -/
def State.closable (s : State) (p : Nat) : Bool :=
  let x := s.part p
  let ds := s.diesOf p
  let f := ds.foldl (fun m d => max m (s.die d).forced) 0
  !x.stopped && !ds.isEmpty && decide (x.opened + x.planned + 64 * f ≤ s.now) && decide (x.opened < s.now)
    && ds.all (fun d => decide ((s.die d).rfend ≤ s.now)) && s.beatServed p

/-- One write is applied. -/
def State.applyEntry (s : State) (bay : Nat) (e : BEntry) : State :=
  match e.op with
  | .store acc pa data =>
    s.storeRows acc pa (data.flatMap rowBytes)
  | .awrite _ bank0 nb row nrow =>
    (List.range nb).foldl (fun s i =>
      let bank := bank0 + i
      s.storeRows false (beatKey bay bank (1 - (s.bay bay).worn bank) row 0) ((e.got.drop (1024 * nrow * i)).take (1024 * nrow))) s
  | _ => s

/-- The banks that the ASWAPs of a beat exchange on a bay: each once (R69), a carried ASWAP and one tagged to the beat making one
exchange together. (DESIGN CHOICE, log entry 143.) -/
def swapBanks (es : List BEntry) : List Nat :=
  (es.flatMap fun e => match e.op with
    | .aswap bank0 nb => (List.range nb).map (bank0 + ·)
    | _ => []).eraseDups

/-- An engine write is applied at its close (R116, R318). -/
def State.applyEngine (s : State) (w : EngWrite) : State :=
  (s.storeRows w.acc w.addr w.data).mapCmd w.bay w.cmd fun c =>
    { c.wroteTo w.own w.data.length with pendingBeat := c.pendingBeat - 1 }

/-- The writes of access beat n are applied in the order of R55, and then the exchanges are made. -/
def State.applyBeat (s : State) (p : Nat) : State :=
  let x := s.part p
  let n : Int := x.beatno
  let all := ((s.bays.map (·.1)).filter fun b => s.partOf b == p).flatMap fun bay =>
    ((s.bay bay).bq.filter fun e => e.served && e.beat == n && e.op.isWrite).map fun e => (bay, e)
  let sources := sortBy id ((all.map fun y => y.2.bay) ++ x.engWrites.map fun w => w.bay).eraseDups
  let s1 := sources.foldl (fun s src =>
    let mine := all.filter fun y => y.2.bay == src
    let ordered := sortBy (fun (y : Nat × BEntry) => y.2.id) (mine.filter fun y => y.2.carried)
      ++ sortBy (fun (y : Nat × BEntry) => y.2.id) (mine.filter fun y => !y.2.carried)
    let s' := ordered.foldl (fun s (y : Nat × BEntry) => s.applyEntry y.1 y.2) s
    (sortBy (fun w => w.order * 65536 + w.unit) (x.engWrites.filter fun w => w.bay == src && w.beat == x.beatno)).foldl
      State.applyEngine s') s
  let s2 := (x.hostWrites.filter fun w => decide (w.1 ≤ x.beatno)).foldl (fun s w => s.storeRows false w.2.1 w.2.2) s1
  let s3 := s2.mapBays fun bay b =>
    let es := all.filterMap fun y => if y.1 = bay then some y.2 else none
    if es.isEmpty then b
    else
      { b with
        wornB := (swapBanks es).foldl (fun l k => if l.contains k then l.filter (· != k) else l ++ [k]) b.wornB
        bq := b.bq.filter fun e => !(e.served && e.beat == n) }
  s3.onPart p fun y => { y with
    engWrites := y.engWrites.filter fun w => w.beat != x.beatno
    hostWrites := y.hostWrites.filter fun w => decide (x.beatno < w.1) }

/-- The planned length of a beat that opens now (R60, R61). -/
def State.plannedLength (s : State) (p n : Nat) : Nat :=
  let lens := (s.bays.map (·.1)).filterMap fun bay =>
    let b := s.bay bay
    if s.partOf bay != p || decide (s.now ≤ b.planAt + 64) then none
    else (b.plan.find? fun x => x.1 == n).map (·.2)
  match lens with
  | [] => max 32 ((s.part p).plandef.toNat % 65536)
  | _ => lens.foldl max 0

/-- A beat opens: an access beat first runs the owed windows of each die, and then serves its entries (R66, R310). -/
def State.openBeat (s : State) (p n : Nat) : State :=
  let len := s.plannedLength p n
  let s1 := s.onPart p fun x => { x with beatno := n, opened := s.now, planned := len, overrun := [] }
  let s2 := (s.diesOf p).foldl (fun s d => s.onDie d fun x =>
    { x with forced := 0
             owedEnd := if n % 2 = 0 then s.now + 64 * x.rfdebt else 0
             rfend := if n % 2 = 0 ∧ 0 < x.rfdebt then s.now + 64 * x.rfdebt else x.rfend
             rfdebt := if n % 2 = 0 then 0 else x.rfdebt }) s1
  (s.bays.map (·.1)).foldl (fun s bay =>
    if s.partOf bay != p || (s.bay bay).bq.isEmpty then s
    else s.onBay bay fun b => { b with bq := b.bq.map fun e =>
      if e.beat = (n : Int) ∧ !e.served then match e.op with
        | .load _ _ _ | .store _ _ _ | .aswap _ _ =>
          { e with next := s.serveAt bay e.id }
        | _ => e
      else e }) s2

/-- The bytes that a host read of beat memory returns: the snapshot, or poison (R117, R399). (DESIGN CHOICE, log entry 111.) -/
def State.hostRead (s : State) (p : Nat) (r : HostReq) : Nat × List Byte :=
  match s.snapPoison p false r.addr r.len with
  | some _ => (1, [])
  | none => (0, (s.part p).snapBeat.bytes r.addr r.len)

/-- An access beat that is open serves the host's reads, outside the refresh windows of their dies (R64, R117); an atomic is a
read and then a write of the host, which writes nothing when the read returns poison (R47). -/
def State.serveHost (s : State) (p n : Nat) : State :=
  let x := s.part p
  let now (r : Nat × HostReq) : Bool := decide (r.1 ≤ n) && s.calm (r.2.addr / 2 ^ 30) == s.now
  let due := x.hostReads.filter now
  let after := due.filterMap fun (r : Nat × HostReq) => match (s.snapPoison p false r.2.addr r.2.len), r.2.act with
    | none, .atomic op v cmp =>
      let old := leNat (x.snapBeat.bytes r.2.addr r.2.len)
      some (n + 2, r.2.addr, leBytes r.2.len (atomNew r.2.len op.toNat old v.toNat cmp.toNat))
    | _, _ => none
  (s.onPkg fun k => { k with hostData := k.hostData ++ due.map fun r => s.hostRead p r.2 }).onPart p fun y =>
    { y with hostReads := y.hostReads.filter fun r => !now r, hostWrites := y.hostWrites ++ after }

/-- Beat memory, accumulators and their poison as they stand now become what the next access beat sees (R54, R79). -/
def State.snapshot (s : State) (p : Nat) : State :=
  s.onPart p fun x =>
    { x with snapBeat := s.beat, snapAcc := s.acc, snapPoisonBeat := s.pkg.poisonBeat, snapPoisonAcc := s.pkg.poisonAcc }

/-- The close of the open beat and the opening of the next (R50, R54, R116, R117). -/
def State.closeBeat (s : State) (p : Nat) : State :=
  let n := (s.part p).beatno
  let s1 := if n % 2 = 0 then s.applyBeat p else s.snapshot p
  let s2 := s1.openBeat p (n + 1)
  if n % 2 = 0 then s2 else s2.serveHost p (n + 1)

/-- BEAT_CLOSE (R62). -/
def execBeatClose (part : Nat) (s : State) : Out :=
  if 4 ≤ part then .fault .absent else if s.closable part then .next (s.closeBeat part) else .next s

/-! ## Overrun (R63, R314) -/

/-- BEATOVL that governs a bay: between CTXSV and the ERET that gives the bay back its task still stands there, with registers
that read zero (R63, R371). (DEDUCED, log entry 156.) -/
def Bay.overrunLimit (b : Bay) : Nat := if b.task.isSome then bits b.beatctl.toNat 31 16 else 0x1000

/-- Whether a bay acts on the overrun of its beat now: once in a beat, on the cycle of its limit. -/
def State.overrunDue (s : State) (bay : Nat) : Bool :=
  let p := s.part (s.partOf bay)
  let b := s.bay bay
  decide (p.opened + p.planned + b.overrunLimit = s.now) && !p.overrun.contains bay
    && b.unserved.any fun e => e.beat == (p.beatno : Int) && !b.givenUp e

/-- BEAT_OVERRUN (R63, R314). -/
def execBeatOverrun (bay : Nat) (s : State) : Out :=
  if 256 ≤ bay then .fault .absent
  else if !s.overrunDue bay then .next s
  else
    let p := s.part (s.partOf bay)
    let b := s.bay bay
    let n : Int := p.beatno
    let runs (e : BEntry) : Bool := b.running.any fun r => r.entry.id == e.id && r.entry.bay == e.bay
    let gone := b.unserved.filter fun e => e.beat == n && !b.givenUp e
    let isChk : Bool := b.running.any fun r => match r.op with
      | some (.cchk _ _ _) => true
      | _ => false
    let s1 := s.onBay bay fun b => { b with
      bq := b.bq.filter fun e => !(gone.contains e) || runs e
      running := b.running.map fun r =>
        { r with stop := true, done := if isChk then (r.op.map ArrayOp.steps).getD 0 else r.done } }
    let s2 := gone.foldl (fun s e => if runs e then s else s.onTask e.bay e.task fun b => b.endHold s.now e.hold) s1
    let rep (k : Nat) : Report := ⟨0x08, BitVec.ofNat 64 (p.beatno % 65536), BitVec.ofNat 64 k, 0, 0⟩
    let s3 := s2.onPart (s.partOf bay) fun x => { x with overrun := x.overrun ++ [bay] }
    .next (if b.task.isSome then s3.report bay b.uid (rep gone.length)
      else ((gone.map fun e => (e.bay, e.task)).eraseDups).foldl (fun s (x : Nat × Nat) =>
        s.report x.1 x.2 (rep (gone.filter fun e => e.bay == x.1 && e.task == x.2).length)) s3)

/-! ## Refresh (R64 to R68) -/

/-- Cycles between refresh windows at a die's temperature in 1/16 °C (R64). -/
def Die.interval (d : Die) : Nat := if 85 * 16 < d.temp then 4096 else 8192

/-- REFRESH_DUE (R64 to R67): a window falls due and runs at once, is deferred, or is forced. -/
def execRefreshDue (die : Nat) (s : State) : Out :=
  if 4 ≤ die then .fault .absent
  else
    let d := s.die die
    if s.now < d.rfnext then .next s
    else
      let odd := (s.part (s.partOfDie die)).beatno % 2 == 1
      let d1 := { d with rfnext := d.rfnext + d.interval }
      if odd && decide (d.rfdebt < 4) then .next (s.setDie die { d1 with rfdebt := d.rfdebt + 1 })
      else
        let s1 := s.setDie die { d1 with rfend := max d.rfend s.now + 64, forced := if odd then d.forced + 1 else d.forced }
        .next (if odd then s1.mapBays fun b x =>
            if dieOf b = die then { x with running := x.running.map fun r => { r with start := r.start + 64 } } else x
          else s1)

/-- REFRESH_WINDOW_END (R64): the host's reads that waited for it are served. -/
def execRefreshWindowEnd (die : Nat) (s : State) : Out :=
  if 4 ≤ die then .fault .absent
  else if s.now < (s.die die).rfend then .next s
  else
    let p := s.partOfDie die
    let s1 := s.onDie die fun d => { d with rfend := 0 }
    .next (if (s.part p).beatno % 2 = 0 then s1.serveHost p (s.part p).beatno else s1)

end Sys2Proof.Machine
end

