-- ==== Sys2Proof/Machine/Stream.lean ====
section
/-!
DEFINITION. Streams: LDG, STG and ATOM at issue, delivery and performance of the entries of the stream queues
(spec/05_ordering.md R110 to R115, R119 to R125), FENCE (R121, R293), and the replay queue of their page faults
(spec/21_translation.md R349 to R351).
-/

namespace Sys2Proof.Machine

/-! ## Issue (R263, R264) -/

/-- An aligned global access, or its alignment fault (R255). -/
def State.globalAccess (s : State) (align : Nat) (ea : Word) (go : State) : State :=
  if ea.toNat % align ≠ 0 then s.addrFault 0x12 ea else go

/-- A global access joins its stream queue. -/
def State.sendGlobal (s : State) (p : Pfx) (op : StreamOp) (ea : Word) (acq rel : Bool) (id : Nat) : State :=
  let (st, sc) := pfxStream p
  s.enqueue st { id, op, va := ea, scope := sc, acq, rel, notBefore := s.notBefore, hold := id, pc := s.cur.pc
                 item := s.item, priv := s.here.handler }

/-- LDG: a destination hold until it is performed. -/
def State.ldg (s : State) (acq : Bool) (m : MemA) (off : Word) (p : Pfx) : State :=
  let n := 2 ^ m.size.toNat
  let ea := s.ea m.b off
  let r := m.a.toNat
  s.globalAccess n ea
    (let (id, s1) := s.newOp
     let regs := if n = 16 then [r, r + 1] else [r]
     (s1.wantHold id true regs).sendGlobal p (.load r n m.sx (s.here.bank r)) ea acq false id)

/-- The issuing core's own copy of a line takes a store at issue (R115), one that faults has no effect (R341). -/
def State.storeCopy (s : State) (ea : Nat) (data : List Byte) : State :=
  let b := s.here
  if 2 ^ 57 ≤ ea ∨ (s.poisonedOf (s.walkLines (s.partOf s.cur.bay) b.asid ea)).isSome then s
  else match s.walk (s.partOf s.cur.bay) b.asid ea with
  | .leaf l => match s.checkLeaf .store b.handler b.asid ea l with
    | .ok l pa =>
      let line : Line := (l.tgt == 1, pa / 64)
      if l.plain && b.l1.contains line then s.upd fun x => x.setCopy line.1 pa data else s
    | _ => s
  | _ => s

/-- STG. -/
def State.stg (s : State) (rel : Bool) (m : MemA) (off : Word) (p : Pfx) : State :=
  let n := 2 ^ m.size.toNat
  let ea := s.ea m.b off
  s.globalAccess n ea
    (let lo := leBytes (min n 8) (s.readS m.a 1).toNat
     let data := if n = 16 then lo ++ leBytes 8 (s.readS (m.a + 1) 2).toNat else lo
     let (id, s1) := s.newOp
     (s1.storeCopy ea.toNat data).sendGlobal p (.store data) ea false rel id)

/-- ATOM.op: a destination hold until it is performed. -/
def State.atom (s : State) (o : AtomOp) (off : Word) (p : Pfx) : State :=
  let n := 2 ^ o.size.toNat
  let ea := s.ea o.b off
  let r := o.a.toNat
  s.globalAccess n ea
    (let (id, s1) := s.newOp
     let cmp := if o.op.toNat = 10 then s.readS o.a 2 else 0
     (s1.wantHold id true [r]).sendGlobal p (.atom r n o.op.toNat (s.readS o.c 1) cmp (s.here.bank r)) ea o.acq o.rel id)

def execLdg (acq : Bool) (m : MemA) (off : BitVec 8) (p : Pfx) (s : State) : Out :=
  .next (s.ldg acq m (scaleOff off (2 ^ m.size.toNat)) p)
def execLdg64 (acq : Bool) (m : MemA) (off : BitVec 32) (p : Pfx) (s : State) : Out :=
  .next (s.ldg acq m (off.signExtend 64) p)
def execStg (rel : Bool) (m : MemA) (off : BitVec 8) (p : Pfx) (s : State) : Out :=
  .next (s.stg rel m (scaleOff off (2 ^ m.size.toNat)) p)
def execStg64 (rel : Bool) (m : MemA) (off : BitVec 32) (p : Pfx) (s : State) : Out :=
  .next (s.stg rel m (off.signExtend 64) p)
def execAtom (o : AtomOp) (off : Option (BitVec 32)) (p : Pfx) (s : State) : Out := .next (s.atom o (optOff off) p)

/-! ## Scopes (R119) -/

/-- Whether a scope waits for an entry: its destination lies inside the scope. -/
def State.inScope (s : State) (bay sc : Nat) (e : SEntry) : Bool :=
  match e.op with
  | .marker _ => false
  | .remote target _ => 3 ≤ sc || (sc == 2 && dieOf target == dieOf bay)
  | _ =>
    if sc ≤ 1 then false
    else if 3 ≤ sc then true
    else
      let p := s.partOf bay
      match s.walk p (s.bay bay).asid e.va.toNat with
      | .leaf l => s.sliceDie p (s.homeSlice p (l.pa + e.va.toNat % l.size)) == dieOf bay
      | _ => true

/-- Every entry of a bay's queues. -/
def Bay.entries (b : Bay) : List SEntry := b.sq.flatMap (·.2)

/-- Whether a device write of a task, older than a number and from one of the queues of a mask, still awaits its
acknowledgement. -/
def State.unacked (s : State) (bay id : Nat) (mask : Nat := 0xFFFF) : Bool :=
  s.pkg.acks.any fun a => !a.eng && a.bay == bay && a.task == (s.bay bay).uid && decide (a.id < id) && bit mask a.q

/-- Whether every earlier access of the task has been performed within a scope (R113 condition 4, R118). -/
def State.performedBefore (s : State) (bay sc id : Nat) : Bool :=
  ((s.bay bay).entries.all fun e => !(decide (e.id < id) && s.inScope bay sc e)) && !(sc == 4 && s.unacked bay id)

/-! ## Delivery (R113) -/

/-- The bytes of an entry that stores: address and length. An ATOM.op counts as a store for condition 5 of R113, which names
stores only. (DEDUCED, log entry 30.) -/
def SEntry.storeRange (e : SEntry) : Option (Nat × Nat) :=
  match e.op with
  | .store d => some (e.va.toNat, d.length)
  | .atom _ n _ _ _ _ => some (e.va.toNat, n)
  | _ => none

/-- Whether an entry goes to a home, and not to the timeline of another bay. -/
def SEntry.toHome (e : SEntry) : Bool := match e.op with
  | .remote _ _ | .marker _ => false
  | _ => true

/-- Whether the head of a queue may be delivered (R113): the queue has performed the entry before it on an earlier cycle. Once
homes have performed requests of the host on a cycle, no lower source id arrives on it (R114). -/
def State.deliverable (s : State) (bay q : Nat) : Option SEntry :=
  let b := s.bay bay
  match Tbl.get [] b.sq q with
  | [] => none
  | e :: _ =>
    let earlier := b.entries.filter fun x => decide (x.id < e.id)
    let blocked := match e.op with
      | .marker _ => true
      | .load _ n _ _ => earlier.any fun x => match x.storeRange with
          | some (a, k) => decide (a < e.va.toNat + n) && decide (e.va.toNat < a + k)
          | none => false
      | _ => false
    if e.stage ≠ .queued || decide (s.now < e.notBefore) || blocked || (earlier.any fun x => x.acq)
      || (e.rel && !s.performedBefore bay e.scope e.id)
      || decide (s.now < Tbl.get 0 b.sqLast q) || (e.toHome && decide (s.now < s.pkg.hostServed)) then none
    else some e

/-! ## The replay queue (R349 to R351) -/

/-- Page groups that a die keeps outstanding (R351). -/
def groupLimit : Nat := 512

/-- Whether the replay queue of a die has room for one more entry, on a page of an ASID (R350, R351). -/
def State.queueRoom (s : State) (die asid page : Nat) : Bool :=
  let d := s.die die
  (decide (d.groups.length < groupLimit) || d.groups.any fun g => g.asid == asid && g.page == page) && decide (d.parked.length < 4096)

/-- Whether a task of a node may park one more entry on a die, on a page of an ASID (R350, R351). (DEDUCED, log entry 136.) -/
def State.mayPark (s : State) (die node asid page : Nat) : Bool :=
  let cap := match Tbl.get none s.pkg.nodes node with
    | some n => n.rqs
    | none => 4096
  s.queueRoom die asid page && decide (((s.die die).parked.filter fun p => p.node == node).length < cap)

/-- An entry is parked; the first one of a page group sends the page request. -/
def State.park (s : State) (die node asid page : Nat) (form wr : Bool) (what : Parked) : State :=
  let d := s.die die
  let known := d.groups.any fun g => g.asid == asid && g.page == page
  let g : PageGroup := ⟨asid, page, form, wr, s.pasid (s.partOfDie die) asid⟩
  let s1 := s.onDie die fun d =>
    { d with parked := d.parked ++ [⟨asid, page, node, what⟩], groups := if known then d.groups else d.groups ++ [g] }
  if known then s1 else s1.onPkg fun p => { p with pageReqs := p.pageReqs ++ [g] }

/-! ## Performance at home (R114, R115, R264) -/

/-- An entry changed in its queue. -/
def State.onEntry (s : State) (bay q id : Nat) (f : SEntry → SEntry) : State :=
  s.onBay bay fun b => { b with sq := Tbl.set [] b.sq q ((Tbl.get [] b.sq q).map fun e => if e.id = id then f e else e) }

/-- An entry leaves its queue: it has been performed, or has faulted, on this cycle. -/
def State.entryDone (s : State) (bay q : Nat) (e : SEntry) : State :=
  (s.leaveIntake (.entry bay q e.id)).onBay bay fun b =>
    ({ b with sq := Tbl.set [] b.sq q ((Tbl.get [] b.sq q).filter fun x => x.id != e.id)
              sqLast := Tbl.set 0 b.sqLast q (s.now + 1) } : Bay).endHold s.now e.hold

/-- A store reaches its home: every L1 copy of the line goes, and a write to a host line awaits its acknowledgement. -/
def State.storeHome (s : State) (bay q id : Nat) (l : Leaf) (pa off : Nat) (data : List Byte) : State :=
  let line : Line := (l.tgt == 1, pa / 64)
  let s1 := ((s.writeLeaf l off data).dropCopies line).llcTouch (s.partOf bay) (s.waysOf (s.bay bay).node) line true
  if l.tgt = 0 then
    s1.onPkg fun p => { p with acks := p.acks ++
      [⟨pa / 64, bay, (s.bay bay).uid, id, s.now + 1 + Config.freeDelay (s.freeKey bay 14 (id % 4096)), false, q,
        s.host.bytes (pa / 64 * 64) 64⟩] }
  else s1

/-- A loaded value joins the registers. -/
def Bay.loadRegs (b : Bay) (r n : Nat) (sx h : Bool) (v : Nat) : Bay :=
  if n = 16 then (b.setScalar h r (BitVec.ofNat 64 v)).setScalar h (r + 1) (BitVec.ofNat 64 (v / 2 ^ 64))
  else b.setScalar h r (BitVec.ofNat 64 (if sx then wrap 64 (signed (8 * n) v) else v))

/-- The first line on which a write of n bytes of a command fails: none answers for it, or it is poisoned and not written whole
(R79, R154, R383). (DEDUCED, log entry 154.) -/
def State.unwritable (s : State) (exp : Bool) (a n : Nat) : Option Nat :=
  ((linesOf a n).find? fun k => s.unanswered exp (64 * k) || (cleanLines s.pkg.poisonLlc exp a n).contains (exp, k)).map (64 * ·)

/-- The access that an entry makes. -/
def SEntry.acc (e : SEntry) : Acc :=
  match e.op with
  | .store _ => .store
  | .atom _ _ _ _ _ _ => .atomic
  | _ => .load

/-- A global entry at its home: translated, then parked, refused, held for the host, or performed. It arrives in the intake of
its line's slice, and stands there while the line is taken from the host. A walk that reads a line of the host waits.
(DEDUCED, log entry 23.) -/
def State.performGlobal (s : State) (bay q : Nat) (e : SEntry) : State :=
  let b := s.bay bay
  let p := s.partOf bay
  let va := e.va.toNat
  let (t, s1) := s.translate e.acc p b.asid e.priv va (s.freeKey bay 13 (e.id % 4096))
  let page := va / 65536
  let wr := e.acc.writes
  let later (s : State) : State :=
    (s.onEntry bay q e.id fun x => { x with stage := .queued, notBefore := s.now + 1 }).leaveIntake (.entry bay q e.id)
  let parkIt (form : Bool) : State :=
    if s1.mayPark (dieOf bay) b.node b.asid page then
      ((s1.park (dieOf bay) b.node b.asid page form wr (.entry bay q e.id)).onEntry bay q e.id fun x =>
        { x with stage := .parked page }).leaveIntake (.entry bay q e.id)
    else later s1
  match t with
  | .wait => later s1
  | .absent _ => parkIt false
  | .form _ => parkIt true
  | .prot r => (s1.entryDone bay q e).report bay b.uid r e.priv
  | .ok l pa =>
    let exp := l.tgt == 1
    let line : Line := (exp, pa / 64)
    let off := va % l.size
    let s2 := s1.arrive p bay line (.entry bay q e.id)
    let keep : State := s2.onEntry bay q e.id fun x => { x with stage := .owner }
    let bad (a kind : Nat) : State :=
      (s2.entryDone bay q e).report bay b.uid ⟨0x14, BitVec.ofNat 64 kind, BitVec.ofNat 64 a, 0, 0⟩ e.priv
    match e.op with
    | .load r n sx h =>
      let lines := s2.leafLines l off n
      if l.plain && b.l1.contains line && Config.freeBool (s.freeKey bay 12 (e.id % 4096)) then
        (s2.entryDone bay q e).onBay bay fun x => x.loadRegs r n sx h ((b.copy exp).num pa n)
      else if s2.hostHolds lines then keep
      else match s2.poisonedOf lines with
        | some a => bad a 1
        | none =>
          let s3 := (s2.entryDone bay q e).llcTouchAll p (s.waysOf b.node) lines false
          s3.onBay bay fun x =>
            (if l.plain then x.takeCopy line (s2.readLeaf l (off / 64 * 64) 64) (s.freeKey bay 9 (e.id % 4096)) else x).loadRegs
              r n sx h (leNat (s2.readLeaf l off n))
    | .store data =>
      if s2.hostHolds [line] true then keep
      else if s2.unanswered exp pa then bad (pa / 64 * 64) 2
      else (s2.storeHome bay q e.id l pa off data).entryDone bay q e
    | .atom r n op v cmp h =>
      if s2.hostHolds [line] true then keep
      else match s2.poisonedOf [line] with
        | some a => bad a 3
        | none =>
          let old := leNat (s2.readLeaf l off n)
          let s3 := s2.storeHome bay q e.id l pa off (leBytes n (atomNew n op old v.toNat cmp.toNat))
          (s3.entryDone bay q e).onBay bay fun x => x.loadRegs r n false h old
    | _ => s1

/-- STREAM_DELIVER (R113, R114, R112): the head of a queue, when it may be delivered, is performed at its destination. -/
def execStreamDeliver (bay q : Nat) (s : State) : Out :=
  if 256 ≤ bay ∨ 16 ≤ q then .fault .absent
  else match s.deliverable bay q with
    | none => .next s
    | some e => match e.op with
      | .remote target pieces =>
        .next ((pieces.foldl (fun s x => s.addWrite target ⟨s.now, 1, bay, x.1, x.2⟩) s).entryDone bay q e)
      | _ => .next (s.performGlobal bay q e)

/-- HOST_ACK (R123): the oldest device write to a line that is not acknowledged becomes visible to the host. -/
def execHostAck (line : Nat) (s : State) : Out :=
  .next (s.onPkg fun p => match p.acks.find? fun a => a.line == line with
    | some a => { p with acks := p.acks.erase a }
    | none => p)

/-! ## FENCE (R121, R293) -/

/-- Markers at the tails of the masked queues. -/
def State.placeMarkers (s : State) (mask sc : Nat) (bar : Bool) : State :=
  let (n, s1) := s.newOp
  let s2 := (List.range 16).foldl (fun s k =>
    if bit mask k then s.enqueue k { id := n, op := .marker n, va := 0, scope := sc, acq := false, rel := false
                                     notBefore := 0, hold := 0, pc := s.cur.pc, item := if bar then none else s.item }
    else s) s1
  s2.upd fun b => { b with fences := b.fences ++ [⟨n, sc, mask, bar⟩], barFence := if bar then some n else b.barFence }

def execFence (sc : BitVec 3) (mask : BitVec 16) (s : State) : Out :=
  .next (if mask = 0 then s else s.placeMarkers mask.toNat sc.toNat false)

/-- Whether the markers of a fence may leave: in every masked queue nothing that the fence waits for stands ahead of its
marker. -/
def State.fenceReady (s : State) (bay : Nat) (f : Fence) : Bool :=
  let b := s.bay bay
  ((List.range 16).all fun k => !bit f.mask k ||
    ((Tbl.get [] b.sq k).filter fun e => decide (e.id < f.n)).all fun e => match e.op with
      | .marker _ => false
      | _ => !s.inScope bay f.scope e)
    && !(f.scope == 4 && s.unacked bay f.n f.mask)

/-- The bays of the gang of a bay's task. -/
def State.gangBays (s : State) (bay : Nat) : List Nat :=
  match (s.bay bay).task with
  | none => []
  | some t => (s.bays.map (·.1)).filter fun x => match (s.bay x).task with
    | some u => u.node == t.node && u.gang == t.gang
    | none => false

/-- The members of a gang that are live, have not executed END, and stand on no bay, because they have been saved (R292, R371). -/
def State.gangAway (s : State) (bay : Nat) : List Nat :=
  match (s.bay bay).task with
  | none => []
  | some t => match Tbl.get none s.pkg.nodes t.node with
    | none => []
    | some n =>
      let g := Tbl.get Gang.reset n.gangs t.gang
      let on := (s.gangBays bay).filterMap fun x => (s.bay x).task.map (·.taskid)
      let mine := (List.range n.gangSize).map (t.gang * n.gangSize + ·)
      mine.filter fun k => decide (k < n.tasks) && !g.ended.contains k && !g.quit.contains k && !on.contains k

/-- The barrier of a gang opens when every live member has arrived; their bundles issue on the next cycle (R292). (DEDUCED, log entry 43.) -/
def State.checkBarrier (s : State) (bay : Nat) : State :=
  let g := s.gangBays bay
  if (s.gangAway bay).isEmpty && g.all (fun x => ((s.bay x).arrived && !(s.bay x).empty) || (s.bay x).ended.isSome) then
    g.foldl (fun s x => s.onBay x fun b => if b.arrived && b.barOpen.isNone then { b with barOpen := some (s.now + 1) } else b) s
  else s

/-- The markers of a fence leave; the entries behind them follow from the next cycle on, and those of a barrier make the bay
arrive. -/
def Bay.dropMarkers (b : Bay) (f : Fence) (now : Nat) : Bay :=
  let n := f.n
  let last := ((List.range 16).filter fun k => bit f.mask k).foldl (fun t k => Tbl.set 0 t k (now + 1)) b.sqLast
  let b1 : Bay := { b.pullMarkers n with sqLast := last }
  if b.barFence = some n then { b1 with barFence := none, arrived := true } else b1

/-- FENCE_MARKER_LEAVE (R121, R292). -/
def execFenceMarkerLeave (bay : Nat) (s : State) : Out :=
  if 256 ≤ bay then .fault .absent
  else .next ((s.bay bay).fences.foldl (fun s f =>
    if s.fenceReady bay f then (s.onBay bay fun b => b.dropMarkers f s.now).checkBarrier bay else s) s)

end Sys2Proof.Machine
end

