-- ==== Sys2Proof/Machine/Engine.lean ====
section
/-!
DEFINITION. Engine commands: where they stand, how they start, what one read or write of a command does in each space, how
a command fails and how it finishes (spec/05_ordering.md R116, R118; spec/07_tack_room.md R153 to R156, R160 to R163;
spec/21_translation.md R349, R353, R357, R402).
-/

namespace Sys2Proof.Machine

/-! ## Timetables (R153, R160) -/

/-- The channel of SPAWN commands, and that of the words that aborted, dropped and refused commands still write. (DESIGN CHOICE, log entry 58.) -/
def spawnCh : Nat := 8
/-- See `spawnCh`. -/
def wordCh : Nat := 9

/-- The timetable of an engine. -/
def State.cmds (s : State) : Engine → List Cmd
  | .btx bay ch => (Tbl.get Channel.reset (s.bay bay).btx ch).buf
  | .tack die unit => (Tbl.get Eng.reset (s.die die).engines unit).cmds

/-- The timetable of an engine replaced. -/
def State.setCmds (s : State) (e : Engine) (l : List Cmd) : State :=
  match e with
  | .btx bay ch => s.onBay bay fun b =>
      { b with btx := Tbl.set Channel.reset b.btx ch { Tbl.get Channel.reset b.btx ch with buf := l } }
  | .tack die unit => s.onDie die fun d =>
      { d with engines := Tbl.set Eng.reset d.engines unit { Tbl.get Eng.reset d.engines unit with cmds := l } }

/-- The commands of a partition in the timetables. -/
def State.cmdsOfPart (s : State) (p : Nat) : List Cmd :=
  ((s.bays.flatMap fun x => x.2.btx.flatMap fun y => y.2.buf) ++ (s.dies.flatMap fun x => x.2.engines.flatMap fun y => y.2.cmds)).filter
    fun c => c.part == p

/-- The engines that hold commands: channels of listed bays, then tack engines of listed dies. -/
def State.engines (s : State) : List Engine :=
  (s.bays.flatMap fun (x : Nat × Bay) => x.2.btx.map fun (y : Nat × Channel) => Engine.btx x.1 y.1)
    ++ (s.dies.flatMap fun (x : Nat × Die) => x.2.engines.map fun (y : Nat × Eng) => Engine.tack x.1 y.1)

/-- The command that an engine works on; what stands in channel 9 does not wait for each other. -/
def State.headCmd (s : State) (e : Engine) : Option Cmd :=
  match e with
  | .btx _ 9 => (s.cmds e).find? fun c => c.parked.isNone && !c.owner && decide (c.next ≤ s.now)
  | _ => (s.cmds e).head?

/-- A command of an engine replaced. -/
def State.setCmd (s : State) (e : Engine) (c : Cmd) : State := s.setCmds e ((s.cmds e).map fun x => if x.id = c.id ∧ x.bay = c.bay then c else x)

/-- A command joins a timetable, behind the one that runs, sorted by its absolute cycle and then by issue (R153, R160). -/
def joinCmds (c : Cmd) (l : List Cmd) : List Cmd :=
  let run := l.takeWhile fun x => x.started.isSome || x.past
  let rest := l.dropWhile fun x => x.started.isSome || x.past
  run ++ insertBy (·.abs) c rest

/-- A delay of a command that is not promised. -/
def State.cmdDelay (s : State) (c : Cmd) (i : Nat) : Nat := Config.freeDelay (s.freeKey c.bay (i % 16) (c.id % 4096))

/-! ## Destinations and watermarks (R162) -/

/-- The destination range of a block-transfer command. -/
def Cmd.dest (c : Cmd) : Option (SAddr × Nat) :=
  match c.kind with
  | .xcpy _ d len => some (d, len)
  | .xgth own _ rlen _ n => some (own, rlen * n)
  | .xsct _ tbl rlen nrows _ => some (tbl, rlen * nrows)
  | _ => none

/-- The first byte of n of a bay's scratch that a command other than one has armed and not filled (R155, R162). -/
def State.absent (s : State) (bay off n : Nat) (c : Cmd) : Bool :=
  (List.range 8).any fun ch => (s.cmds (.btx bay ch)).any fun x =>
    !(x.id == c.id && x.bay == c.bay) && match x.armed with
      | some (a, len) => decide (max off (a + x.wm) < min (off + n) (a + len))
      | none => false

/-! ## Pins and freed frames (R353, R357, R179) -/

/-- Whether an address lies in a page that a command has translated. -/
def Pin.holds (x : Pin) (va : Nat) : Bool := va / x.leaf.size == x.page * 65536 / x.leaf.size

/-- The frames that a translation pins: those of the page, or the one that holds a KV unit in an ordinary page; none of an elided
page and of a page with PIN = 1. (DESIGN CHOICE, log entry 46.) -/
def State.pinRun (s : State) (c : Cmd) (l : Leaf) (pa : Nat) : Option (Bool × Nat × Nat) :=
  if bit l.w0 5 || bit l.w0 3 then none
  else if c.kind = .xatt ∧ !bit l.w0 2 then some (l.tgt == 1, pa / 65536, 1)
  else some (l.tgt == 1, l.pa / 65536, s.framesOf l)

/-- The pins that stand on a frame. -/
def State.pinsOn (s : State) (exp : Bool) (f : Nat) : Nat :=
  (s.pkg.pins.filter fun x => x.1 == exp && decide (x.2.1 ≤ f) && decide (f < x.2.1 + x.2.2)).length

/-- Whether a frame of a run carries every pin that it can (R179). -/
def State.pinFull (s : State) (run : Option (Bool × Nat × Nat)) : Bool :=
  match run with
  | some (exp, f, n) => decide (65535 ≤ s.pkg.pins.length) && (List.range n).any fun i => decide (65535 ≤ s.pinsOn exp (f + i))
  | none => false

/-- A pin given up. -/
def State.dropPin (s : State) (run : Option (Bool × Nat × Nat)) : State :=
  match run with
  | some r => s.onPkg fun p => { p with pins := p.pins.erase r }
  | none => s

/-- A page is translated for a command and its frames pinned; a leaf that replaces the one found before takes over its pin. -/
def State.pinPage (s : State) (c : Cmd) (va : Nat) (l : Leaf) (pa : Nat) : State × Cmd :=
  let old := c.pinned.find? fun x => x.holds va
  if old.any fun x => x.leaf == l then (s, c)
  else
    let run := s.pinRun c l pa
    let s1 := s.dropPin (old.bind (·.run))
    (match run with
      | some r => s1.onPkg fun p => { p with pins := p.pins ++ [r] }
      | none => s1,
     { c with pinned := (c.pinned.filter fun x => !x.holds va) ++ [⟨va / 65536, l, run⟩] })

/-- The byte of FPOOL's bitmap that holds a frame's bit. -/
def State.poolByte (s : State) (p f : Nat) : Nat := bits (s.part p).fpool.toNat 56 16 * 65536 + f / 8

/-- Whether the host holds a line of the bitmap that n frames from one lie in. -/
def State.poolHeld (s : State) (p f n : Nat) : Bool := s.rangeHeld (s.poolByte p f) ((f + n + 7) / 8 - f / 8)

/-- The bits of n frames from one in the bitmap of FPOOL set to a value, each by an atomic at its home (R357). -/
def State.setFrames (s : State) (p f n : Nat) (v : Bool) : State :=
  (List.range n).foldl (fun s i =>
    let a := s.poolByte p (f + i)
    let old := s.numPhys true 0 a 1
    let m := 2 ^ ((f + i) % 8)
    s.homeStore p true 0 a [BitVec.ofNat 8 (if v then old ||| m else old - (old &&& m))]) s

/-- Frame runs that an engine's swap replaced return to the pool when no pin is left on them. -/
def State.freeFrames (s : State) (p : Nat) : State :=
  let stays (r : Nat × Nat) : Bool := s.poolHeld p r.1 r.2
    || s.pkg.pins.any fun x => x.1 && decide (r.1 < x.2.1 + x.2.2) && decide (x.2.1 < r.1 + r.2)
  let s1 := ((s.part p).freeing.filter fun r => !stays r).foldl (fun s r => s.setFrames p r.1 r.2 true) s
  s1.onPart p fun x => { x with freeing := x.freeing.filter stays }

/-- The pins of a command on the pages that a test does not keep are given up (R353). -/
def State.unpin (s : State) (c : Cmd) (keep : Pin → Bool := fun _ => false) : State × Cmd :=
  let gone := c.pinned.filter fun x => !keep x
  if gone.isEmpty then (s, c)
  else ((gone.foldl (fun s x => s.dropPin x.run) s).freeFrames c.part, { c with pinned := c.pinned.filter keep })

/-! ## One access (R116, R118, R155, R161) -/

/-- How an access of a command comes out. -/
inductive Access where
  | ok (s : State) (c : Cmd) (data : List Byte)
  | wait (s : State) (c : Cmd)
  | fail (s : State) (c : Cmd) (r : Report)

/-- A failure whose rule names no syndrome. -/
def plain (cause : Nat) : Report := ⟨cause, 0, 0, 0, 0⟩

/-- Poisoned data met by an engine (R365, R352). -/
def poisonAt (a : Nat) : Report := ⟨0x14, 7, BitVec.ofNat 64 a, 0, 0⟩

/-- The leaf of a page for a command: what it first found, unless it must now ask for an ordinary form (R355, R358). -/
def State.engLeaf (s : State) (c : Cmd) (acc : Acc) (va : Nat) : Trans × State :=
  let fresh := s.translate acc c.part c.asid c.priv va (s.freeKey c.bay 11 (c.id % 4096))
  match c.pinned.find? fun x => x.holds va with
  | some x => match s.checkLeaf acc c.priv c.asid va x.leaf with
    | .form _ => fresh
    | t => (t, s)
  | none => fresh

/-- A device write of a command that awaits the host's acknowledgement (R123). -/
def State.engAck (s : State) (c : Cmd) (line : Nat) : HostAck :=
  { line, bay := c.bay, task := c.task, id := c.id, at_ := s.now + 1 + s.cmdDelay c 12, eng := true, old := s.host.bytes (64 * line) 64 }

/-- A write of a command at its home; it drops no L1 copy (R115). -/
def State.engStore (s : State) (c : Cmd) (l : Leaf) (off : Nat) (lines : List Line) (data : List Byte) : State :=
  let s1 := (s.writeLeaf l off data).llcTouchAll c.part (s.waysOf c.node) lines true
  if l.tgt = 1 then s1 else s1.onPkg fun p => { p with acks := p.acks ++ lines.map fun k => s.engAck c k.2 }

/-- A global access of a command, inside one page: a read of n bytes, or a write of `data`. It arrives in the intake of its first
line's slice, and stands there while a line is taken from the host (R114, R381). -/
def State.engGlobal (s : State) (e : Engine) (c : Cmd) (w : Bool) (va n : Nat) (data : List Byte) : Access :=
  let (t, s1) := s.engLeaf c (if w then .engWrite else .engRead) va
  let park (form : Bool) : Access :=
    let d := dieOf c.bay
    let page := va / 65536
    if s1.mayPark d c.node c.asid page then .wait (s1.park d c.node c.asid page form w (.cmd e c.id)) { c with parked := some page }
    else .wait s1 c
  match t with
  | .wait => .wait s1 c
  | .absent _ => park false
  | .form _ => park true
  | .prot r => .fail s1 c r
  | .ok l pa =>
    if !(c.pinned.any fun x => x.holds va) && s1.pinFull (s1.pinRun c l pa) then .wait s1 c
    else
      let exp := l.tgt == 1
      let off := va % l.size
      let lines := if w then (linesOf pa n).map fun k => (exp, k) else s1.leafLines l off n
      let (s2, c2) := s1.pinPage c va l pa
      let s3 := s2.arrive c.part c.bay (exp, pa / 64) (.cmd c.bay c.id)
      if s3.hostHolds lines w then .wait s3 { c2 with owner := true }
      else
        let s4 := s3.leaveIntake (.cmd c.bay c.id)
        match if w then s4.unwritable exp pa n else s4.poisonedOf lines with
        | some a => .fail s4 c2 (poisonAt a)
        | none =>
          if w then .ok (s4.engStore c2 l off lines data) c2 []
          else .ok (s4.llcTouchAll c.part (s4.waysOf c.node) lines false) c2 (s4.readLeaf l off n)

/-- The lines of the windows of an ASID, in the memory that holds them (R402). -/
def State.windowLines (s : State) (p asid : Nat) : List Line :=
  let h := (s.part p).hwtab.toNat
  (linesOf (bits h 56 19 * 2 ^ 19 + 128 * asid) 128).map fun k => (bit h 0, k)

/-- Whether every byte of a host access lies in an open window of an ASID (R402). -/
def State.hostOpen (s : State) (p asid : Nat) (w : Bool) (a n : Nat) : Bool :=
  let h := (s.part p).hwtab.toNat
  let base := bits h 56 19 * 2 ^ 19 + 128 * asid
  let wins := (List.range 8).map fun i => (s.numPhys (bit h 0) 0 (base + 16 * i) 8, s.numPhys (bit h 0) 0 (base + 16 * i + 8) 8)
  let opens (page : Nat) (x : Nat × Nat) : Bool :=
    bit x.1 0 && bits x.1 63 57 == 0 && bits x.1 11 3 == 0 && bits x.2 63 57 == 0 && bits x.2 11 0 == 0
      && bit x.1 (if w then 2 else 1) && decide (bits x.1 56 12 ≤ page) && decide (page ≤ bits x.2 56 12)
  ((List.range ((a + n - 1) / 4096 - a / 4096 + 1)).map (a / 4096 + ·)).all fun page => wins.any (opens page)

/-- An access of a command in space 4: the windows are read as they are used (R402), and the access is made at the home of its
lines, which first take them from the host (R114, R381). With no port up a read returns poison and a write is lost (R379). -/
def State.engHost (s : State) (c : Cmd) (w : Bool) (a n : Nat) (data : List Byte) : Access :=
  let lines : List Line := (linesOf a n).map fun k => (false, k)
  let table := s.windowLines c.part c.asid
  if s.hostHolds table then .wait s c
  else match s.poisonedOf table with
  | some x => .fail s c (poisonAt x)
  | none =>
  if !s.hostOpen c.part c.asid w a n then .fail s c (plain 0x11)
  else
    let s1 := s.arrive c.part c.bay (false, a / 64) (.cmd c.bay c.id)
    if s1.hostHolds lines w then
      if !s.pkg.ports.isEmpty then .wait s1 { c with owner := true }
      else if w then .ok s c []
      else .fail s c (poisonAt (a / 64 * 64))
    else
      let s2 := s1.leaveIntake (.cmd c.bay c.id)
      match if w then s2.unwritable false a n else s2.poisonedOf lines with
      | some x => .fail s2 c (poisonAt x)
      | none =>
        let s3 := s2.llcTouchAll c.part (s2.waysOf c.node) lines w
        if w then .ok ((s3.writePhys false 0 a data).onPkg fun p => { p with acks := p.acks ++ lines.map fun k => s.engAck c k.2 }) c []
        else .ok s3 c (s3.readPhys false 0 a n)

/-- The accumulator address of an address of space 3 (R161). -/
def accAddr (bay a : Nat) : Nat := bay * 2 ^ 30 + a / 2 ^ 14 * 2 ^ 22 + a % 2 ^ 14

/-- Whether a command may use n bytes of the accumulators of its bay: row 15 alone while the bay holds a saved context (R376). -/
def State.accOpen (s : State) (bay a n : Nat) : Bool :=
  !(s.bay bay).lent || (decide (15 * 1024 ≤ a % 2 ^ 14) && decide (a % 2 ^ 14 + n ≤ 2 ^ 14))

/-- Whether a command may use a scratch offset of a bay: while its own bay holds a saved context, only what that leaves open there
(R376). -/
def State.scratchMay (s : State) (c : Cmd) (bay off : Nat) : Bool :=
  if bay = c.bay then (s.bay bay).scratchOpen off else !(s.bay c.bay).lent

/-- A read of a command. Beat memory and accumulators read as at the close of the last compute beat (R116, R161). -/
def State.engRead (s : State) (e : Engine) (c : Cmd) (a : SAddr) (n : Nat) : Access :=
  let scratch (bay off : Nat) : Access :=
    if s.absent bay off n c then .fail s c (plain 0x07)
    else if !s.scratchMay c bay off then .fail s c (plain 0x11)
    else match s.sectorReport 7 bay off n with
    | some r => .fail s c r
    | none => .ok s c (s.scratchBytes bay off n)
  match a.space with
  | 0 => s.engGlobal e c false a.addr n []
  | 1 => scratch c.bay a.addr
  | 2 => scratch (bits a.addr 27 20) (bits a.addr 19 0)
  | 3 =>
    let k := accAddr c.bay a.addr
    if !s.accOpen c.bay a.addr n then .fail s c (plain 0x11)
    else match s.snapPoison c.part true k n with
    | some row => .fail s c (poisonAt (1024 * row))
    | none => .ok s c ((s.part c.part).snapAcc.bytes k n)
  | 4 => s.engHost c false a.addr n []
  | _ => match s.snapPoison c.part false a.addr n with
    | some row => .fail s c (poisonAt (1024 * row))
    | none => .ok s c ((s.part c.part).snapBeat.bytes a.addr n)

/-- A write of a command. Beat memory and accumulators take it at the close of the open access beat (R116); scratch
takes it as an engine's write on this cycle (R95, R112). -/
def State.engWrite (s : State) (e : Engine) (c : Cmd) (a : SAddr) (data : List Byte) (own : Option Nat) : Access :=
  let p := s.part c.part
  let unit := match e with
    | .btx _ ch => ch
    | .tack _ _ => 256 + c.lease
  let scratch (bay off : Nat) : Access :=
    if s.scratchMay c bay off then .ok (s.addWrite bay ⟨s.now, 0, 0, off, data⟩) (c.wroteTo own data.length) []
    else .fail s c (plain 0x11)
  let beat (acc : Bool) (k : Nat) : Access :=
    .ok (s.onPart c.part fun x => { x with engWrites := x.engWrites ++ [⟨p.beatno, c.bay, unit, s.now, c.id, own, acc, k, data⟩] })
      { c with pendingBeat := c.pendingBeat + 1 } []
  match a.space with
  | 0 => match s.engGlobal e c true a.addr data.length data with
    | .ok s' c' d => .ok s' (c'.wroteTo own data.length) d
    | x => x
  | 1 => scratch c.bay a.addr
  | 2 => scratch (bits a.addr 27 20) (bits a.addr 19 0)
  | 3 => if !s.accOpen c.bay a.addr data.length then .fail s c (plain 0x11) else beat true (accAddr c.bay a.addr)
  | 4 => match s.engHost c true a.addr data.length data with
    | .ok s' c' d => .ok s' (c'.wroteTo own data.length) d
    | x => x
  | _ => beat false a.addr

/-- The bytes of a record of XSRT and XMRG: key type and payload (R303). -/
def recBytes (kt pay : Nat) : Nat := (if kt < 3 then 4 else 8) + (if pay = 1 then 4 else if pay = 2 then 8 else 0)

/-- Records written: K of them, or all. -/
def kept (k n : Nat) : Nat := if k = 0 then n else min k n

/-- Word k of a parameter block. -/
def parWord (ps : List Byte) (k : Nat) : Nat := leNat ((ps.drop (8 * k)).take 8)

/-- The bytes of one unit of COUNT, for a command that counts what it has written. -/
def Cmd.unitBytes (c : Cmd) : Option Nat :=
  let w := parWord c.params
  match c.kind with
  | .xcpy _ _ _ => some 1
  | .xgth _ _ rlen _ _ | .xsct _ _ rlen _ _ => some rlen
  | .xsrt => some (recBytes (bits (w 2) 28 26) (bits (w 2) 30 29))
  | .xmrg => some (recBytes (bits (w 1) 28 26) (bits (w 1) 30 29))
  | .xsolv => some (4 * (bits (w 2) 37 32 + 1))
  | .xcoll => some (if bits (w 2) 39 36 = 1 then 2 else 4)
  | _ => none

/-- COUNT after so many bytes of output (R155). -/
def Cmd.countOf (c : Cmd) (bytes : Nat) : Nat := match c.unitBytes with
  | some n => bytes / n
  | none => c.count

/-- A command after n bytes of its output were written. -/
def Cmd.hasPut (c : Cmd) (n : Nat) : Cmd := { c with put := c.put + n, count := c.countOf (c.put + n) }

/-- Whether a copy runs in descending order (R300). -/
def descending (src dst : SAddr) (len : Nat) : Bool :=
  src.space == dst.space && (src.space != 2 || src.addr / 2 ^ 20 == dst.addr / 2 ^ 20) && decide (src.addr < dst.addr)
    && decide (dst.addr < src.addr + len)

/-- The address of a space-address word (R161). -/
def spaceAddr (w : Nat) : SAddr := ⟨bits w 59 57, bits w 56 0⟩

/-- The ranges of global memory that a command may still use beyond the accesses that it has listed (R353). -/
def Cmd.ahead (c : Cmd) : List (SAddr × Nat) :=
  let from_ (a : SAddr) (n k : Nat) : SAddr × Nat := ({ a with addr := a.addr + min k n }, n - k)
  let w := parWord c.params
  match c.kind with
  | .xcpy src dst len =>
    let read := (c.stage + 1) / 2
    let put := c.stage / 2
    let left (k : Nat) : Nat := min len (128 * (ceilDiv len 128 - k))
    if descending src dst len then [(src, left read), (dst, left put)]
    else [from_ src len (128 * read), from_ dst len (128 * put)]
  | .xgth own tbl rlen nrows n =>
    [from_ own (rlen * n) (rlen * (c.stage / 3)), (tbl, if (c.stage + 1) / 3 < n then rlen * nrows else 0)]
  | .xsct own tbl rlen nrows n =>
    [from_ own (rlen * n) (rlen * ((c.stage + 1) / 3)), (tbl, if c.stage / 3 < n then rlen * nrows else 0)]
  | .xred =>
    let n := bits (w 2) 15 0
    let i := c.regs.headD 0 + if 2 ≤ c.stage then 1 else 0
    [from_ (spaceAddr (w 0)) (4 * n) (4 * i),
     (spaceAddr (w 1), if i < n ∨ c.stage = 2 then 4 * bits (w 2) 24 16 * bits (w 2) 63 32 else 0)]
  | .xsrt =>
    let n := bits (w 2) 25 0
    let rb := recBytes (bits (w 2) 28 26) (bits (w 2) 30 29)
    [(spaceAddr (w 1), if c.stage = 2 then 0 else rb * kept (bits (w 2) 63 32) n)]
  | .xmrg =>
    let total := ((List.range (bits (w 1) 20 16)).map fun r => w (5 + 2 * r) % 2 ^ 32).sum
    let rb := recBytes (bits (w 1) 28 26) (bits (w 1) 30 29)
    [(spaceAddr (w 0), if c.stage = 2 then 0 else rb * kept (bits (w 1) 63 32) total)]
  | .xcoll =>
    let size := (if bits (w 2) 39 36 = 1 then 2 else 4) * bits (w 2) 31 0
    [(spaceAddr (w 1), if c.stage = 3 then 0 else size * if bits (w 2) 35 32 = 3 then bits (w 3) 31 16 else 1)]
  | _ => [(⟨0, 0⟩, 2 ^ 57)]

/-- The bytes that an access touches. -/
def Micro.range (m : Micro) : Option (SAddr × Nat) :=
  match m with
  | .read a n => some (a, n)
  | .write a d _ => some (a, d.length)
  | .pop => none

/-- Whether a command may still use a page that it has translated. -/
def Cmd.keeps (c : Cmd) (x : Pin) : Bool :=
  let lo := x.page * 65536 / x.leaf.size * x.leaf.size
  let meets (a : SAddr) (n : Nat) : Bool := a.space == 0 && decide (a.addr < lo + x.leaf.size) && decide (lo < a.addr + n)
  ((c.todo ++ c.late).any fun m => match m.range with
    | some (a, n) => meets a n
    | none => false) || (c.result.isNone && !c.tail && c.ahead.any fun r => meets r.1 r.2)

/-- A command is over but for its word, which follows from the next cycle: it gives up its pins. (DEDUCED, log entry
50.) -/
def State.settleCmd (s : State) (e : Engine) (c : Cmd) (st cause count : Nat) : State :=
  let (s1, c1) := s.unpin c
  s1.setCmd e { c1 with todo := [], result := some (st, cause), count := count, next := max c1.next (s.now + 1) }

/-- A command fails: its word will read STATUS 4 with the cause, and its task takes the report (R155). What it has left until its
last writes it first makes, and then meets the fault again. -/
def State.failCmd (s : State) (e : Engine) (c : Cmd) (r : Report) : State :=
  if c.late.isEmpty then (s.settleCmd e c 4 r.cause c.count).report c.bay c.task r
  else s.setCmd e { c with todo := c.late ++ c.todo, late := [], next := s.now + 1 }

/-- An engine gives up its saddle: drowsy, its internal state lost (R141, R142); both may be granted from the next cycle (R148),
the saddle at once when it passes on (R158). -/
def State.releaseEngine (s : State) (die u : Nat) (passes : Bool := false) : State :=
  s.onDie die fun d =>
    let x : Eng := { Tbl.get Eng.reset d.engines u with
      power := 1, since := s.now, lease := none, closing := false, gen := none, splices := [], freeAt := s.now + 1
      saddleAt := if passes then 0 else s.now + 1 }
    { d with engines := Tbl.set Eng.reset d.engines u x }

/-- An engine given up that has finished its commands gives up its saddle, unless it has been granted again (R147, R150, R156). -/
def State.releaseIdle (s : State) (e : Engine) : State :=
  match e with
  | .btx _ _ => s
  | .tack die unit =>
    let x := Tbl.get Eng.reset (s.die die).engines unit
    if !x.closing || x.cmds.any (·.past) then s
    else if x.lease.isNone then s.releaseEngine die unit
    else s.onDie die fun d =>
      { d with engines := Tbl.set Eng.reset d.engines unit { x with closing := false, gen := none, splices := [] } }

/-- WM of a channel: that of the command that runs, or what the last one left (R162). -/
def Channel.mark (x : Channel) : Nat :=
  match x.buf.head? with
  | some c => if c.started.isSome then match c.dest with
      | some (a, _) => a.addr + c.wm
      | none => x.wm
    else x.wm
  | none => x.wm

/-- A command leaves its timetable. -/
def State.detach (s : State) (e : Engine) (c : Cmd) : State :=
  let s1 := s.setCmds e ((s.cmds e).filter fun x => !(x.id == c.id && x.bay == c.bay))
  match e with
  | .btx bay ch =>
    let wm := (Tbl.get Channel.reset (s.bay bay).btx ch).mark
    (s1.onBay bay fun b => { b with btx := Tbl.set Channel.reset b.btx ch { Tbl.get Channel.reset b.btx ch with wm := wm } })
  | .tack _ _ => s1.releaseIdle e

/-- A finished command leaves its timetable: its pins go, and its channel's watermark stands at the end of its destination. -/
def State.dropCmd (s : State) (e : Engine) (c : Cmd) : State :=
  let s1 := (s.unpin c).1.detach e c
  match e, c.dest with
  | .btx bay ch, some (a, n) => s1.onBay bay fun b =>
    { b with btx := Tbl.set Channel.reset b.btx ch { Tbl.get Channel.reset b.btx ch with wm := a.addr + n } }
  | _, _ => s1

/-- The access at the head of a command's list is performed. -/
def State.runMicro (s : State) (e : Engine) (c : Cmd) : State :=
  match c.todo with
  | [] => s
  | m :: rest =>
    let next := s.now + 1 + s.cmdDelay c 5
    let finish (x : Access) (put : Option Nat) : State := match x with
      | .ok s' c' d =>
        let c1 := { c' with todo := rest, buf := c'.buf ++ d, next := next }
        let c2 := match put with
          | some n => c1.hasPut n
          | none => c1
        let (s1, c3) := s'.unpin c2 c2.keeps
        let s2 := if c.tail && rest.isEmpty then s1.dropCmd e c3 else s1.setCmd e c3
        match e, put with
        | .btx _ _, some _ => s2.onBay c.bay fun b => { b with btxNext := s.now + 1 }
        | _, _ => s2
      | .wait s' c' => s'.setCmd e { c' with next := s.now + 1 }
      | .fail s' c' r => if c.tail then (s'.dropCmd e c').report c.bay c.task r else s'.failCmd e c' r
    match m with
    | .read a n => finish (s.engRead e c a n) none
    | .write a data own => finish (s.engWrite e c a data own) (some data.length)
    | .pop => match e with
      | .btx bay ch =>
        let q := (Tbl.get Channel.reset (s.bay bay).btx ch).queue
        match q with
        | [] => s
        | x :: q' =>
          if c.popped + 256 < x.2 then s.failCmd e c (plain 0x07)
          else
            let s1 := s.onBay bay fun b =>
              { b with btx := Tbl.set Channel.reset b.btx ch { Tbl.get Channel.reset b.btx ch with queue := q' } }
            s1.setCmd e { c with todo := rest, regs := [x.1], popped := s.now, next := s.now }
      | _ => s

/-! ## Start (R118, R150, R153, R160) -/

/-- Whether the engine of a timetable may run a command: a block-transfer channel always, a tack engine under a READY lease
or, a command of a lease that has been given up, while it still finishes. -/
def State.engineRuns (s : State) (e : Engine) (c : Cmd) : Bool :=
  match e with
  | .btx _ _ => true
  | .tack die unit =>
    let x := Tbl.get Eng.reset (s.die die).engines unit
    if c.past then decide (x.since ≤ s.now)
    else match x.lease with
      | some i => (Tbl.get Lease.reset (s.die die).leases i).state == 3
      | none => false

/-- The command that may start now: R118, and for SPAWN R308. On the cycle of its issue it may start or wait for the next one. (DEDUCED, log entry 145.) -/
def State.startable (s : State) (e : Engine) : Option Cmd :=
  match (s.cmds e).head? with
  | none => none
  | some c =>
    let spawn := match c.kind with
      | .spawn _ => true
      | _ => false
    if c.started.isSome || c.result.isSome || decide (s.now < c.abs)
      || (decide (s.now ≤ c.issued) && Config.freeBool (s.freeKey c.bay 8 (c.id % 4096))) || !s.engineRuns e c
      || ((c.acq || spawn) && !s.performedBefore c.bay (if spawn then 3 else c.scope) c.id) then none
    else some c

/-- The bytes of a command's parameter block. -/
def CmdKind.blockLen : CmdKind → Nat
  | .xred | .xsrt | .xmrg | .xsolv | .xcoll | .xatt | .xkvt => 32
  | .xsplc => 24
  | .xqnt | .xcmp | .xdcmp => 16
  | _ => 0

/-- Reads of n bytes from an address, none across a page of 64 KiB or longer than 128 bytes. -/
def readPieces (a : SAddr) (n : Nat) : List Micro :=
  (List.range ((a.addr + n - 1) / 128 - a.addr / 128 + 1)).filterMap fun i =>
    let lo := max a.addr ((a.addr / 128 + i) * 128)
    let hi := min (a.addr + n) ((a.addr / 128 + i + 1) * 128)
    if lo < hi then some (.read { a with addr := lo } (hi - lo)) else none

/-- Writes of bytes to an address, in the same pieces; `own` as in `Micro.write`. -/
def writePieces (a : SAddr) (data : List Byte) (own : Option Nat) : List Micro :=
  (readPieces a data.length).filterMap fun m => match m with
    | .read x n => some (.write x ((data.drop (x.addr - a.addr)).take n) (own.map (· + (x.addr - a.addr))))
    | _ => none

/-- What a command reads at its start, part after part, each part found from the bytes before it (R297, R302, R304). -/
def CmdKind.atStart (k : CmdKind) (par : Nat) (got : List Byte) : Option (SAddr × Nat) :=
  if k.blockLen = 0 then none
  else if got.isEmpty then some (⟨1, par⟩, k.blockLen)
  else if got.length = k.blockLen then
    let w2 := parWord got 2
    let w3 := parWord got 3
    if k = .xmrg then
      let n := 16 * bits (parWord got 1) 20 16
      if n = 0 then none else some (⟨1, par + 32⟩, n)
    else if k = .xred ∧ !bit w2 25 ∧ bits w2 24 16 ≠ 0 then
      some (⟨3, bits w3 13 6 * 2 ^ 14 + bits w3 5 2 * 2 ^ 10⟩, 4 * min 256 (bits w2 24 16))
    else none
  else none

/-- The reads of a command's start. -/
def State.readStart (s : State) (e : Engine) (c : Cmd) : Nat → List Byte → State
  | 0, got => s.setCmd e { c with params := got }
  | fuel + 1, got => match c.kind.atStart c.par got with
    | none => s.setCmd e { c with params := got }
    | some (a, n) => match s.engRead e c a n with
      | .ok s' c' d => s'.readStart e c' fuel (got ++ d)
      | .wait s' c' => s'.setCmd e c'
      | .fail s' c' r => s'.failCmd e c' r

/-- ENGINE_CMD_START (R118): the command at the head of a timetable starts, and reads its parameter block. -/
def execEngineCmdStart (eng : Engine) (s : State) : Out :=
  match s.startable eng with
  | none => .next s
  | some c => .next (s.readStart eng { c with started := some s.now, next := s.now, popped := s.now } 2 [])

/-! ## Finish (R118, R122, R154) -/

/-- Whether a command writes its completion word now: every write that a beat close must apply is applied, and with .rel at
sys scope every host line is acknowledged. -/
def State.finishable (s : State) (e : Engine) : Option Cmd :=
  match s.headCmd e with
  | none => none
  | some c =>
    if c.result.isNone || c.pendingBeat != 0 || decide (s.now < c.next) || c.parked.isSome || c.owner
      || (c.wg && decide (s.now < s.pkg.hostServed))
      || (c.rel && c.scope == 4 && s.pkg.acks.any fun a => a.eng && a.bay == c.bay && a.id == c.id) then none
    else some c

/-- The first logical block of an XATT and how many it has (R168). -/
def attBlocks (c : Cmd) : Nat × Nat :=
  let p0 := parWord c.params 1 % 2 ^ 32
  let n := bits (parWord c.params 1) 63 32
  (p0 / 64, (p0 + n - 1) / 64 + 1 - p0 / 64)

/-- Whether the accesses that a command has listed are its last, for a command whose word may go before some of its writes; XSPLC,
whose word opens its record, and the page commands (R358) write theirs after all. (DESIGN CHOICE, log entry 158.) -/
def Cmd.lastListed (c : Cmd) : Bool :=
  match c.kind with
  | .xcpy _ _ len => c.stage == 2 * ceilDiv len 128
  | .xgth _ _ _ _ n | .xsct _ _ _ _ n => c.stage == 3 * n
  | .xsrt | .xmrg => c.stage == 2
  | .xsolv => c.stage == bits (parWord c.params 2) 37 32 + 3
  | .xcoll => c.stage == 3
  | .xatt => c.stage == 2 * (attBlocks c).2 + 4
  | _ => false

/-- The accesses that a copying command has just listed, of which it may leave a write until its last ones (R118); what it
leaves stays ahead of every later access to the same bytes. (DEDUCED, log entry 97.) -/
def Cmd.defer (c : Cmd) (leave : Bool) : Cmd :=
  let meets (x y : Micro) : Bool := match x.range, y.range with
    | some (a, n), some (b, k) => a.space == b.space && decide (a.addr < b.addr + k) && decide (b.addr < a.addr + n)
    | _, _ => false
  let clash := c.todo.any fun m => c.late.any (meets m)
  let free := c.todo.all fun m => match m with
    | .write a _ _ => a.space != 3 && a.space != 5
    | _ => false
  if c.rel then c
  else if c.lastListed then { c with todo := if clash then c.late ++ c.todo else c.todo ++ c.late, late := [] }
  else if free && (clash || leave) then { c with todo := [], late := c.late ++ c.todo }
  else if clash then { c with todo := c.late ++ c.todo, late := [] }
  else c

/-- The pages of a command's listed writes translated and pinned; none when one of them is no write, or cannot be made yet, or waits
for a close, which its word follows (R318). -/
def State.pinWrites (s : State) (c : Cmd) : List Micro → Option (State × Cmd)
  | [] => some (s, c)
  | .write a d _ :: rest =>
    if a.space = 1 ∨ a.space = 2 then s.pinWrites c rest
    else if a.space = 4 then
      let table := s.windowLines c.part c.asid
      if s.hostHolds table || (s.poisonedOf table).isSome || !s.hostOpen c.part c.asid true a.addr d.length then none
      else s.pinWrites c rest
    else if a.space = 0 then match s.engLeaf c .engWrite a.addr with
      | (.ok l pa, s1) =>
        let (s2, c2) := s1.pinPage c a.addr l pa
        s2.pinWrites c2 rest
      | _ => none
    else none
  | _ => none

/-- The command whose word is written ahead of writes that are still left: only without the release flag, and only where the
machine so chooses (R118, R289). (DEDUCED, log entry 97.) -/
def State.earlyWord (s : State) (e : Engine) : Option (State × Cmd) :=
  match s.headCmd e with
  | none => none
  | some c =>
    if c.started.isSome && c.result.isNone && !c.rel && !c.tail && c.lastListed && !c.todo.isEmpty && c.pendingBeat == 0
      && decide (c.next ≤ s.now) && c.parked.isNone && !c.owner && s.engineRuns e c && decide (s.pkg.hostServed ≤ s.now)
      && Config.freeBool (s.freeKey c.bay 7 (c.id % 4096)) then s.pinWrites c c.todo
    else none

/-- The completion word of a result (R154). -/
def wordOf (count status cause : Nat) : List Byte := leBytes 8 (status + cause * 2 ^ 8 + count % 2 ^ 32 * 2 ^ 32)

/-- A command writes its completion word, and `after` follows; a word whose write fails is not written, and the task takes the
fault with the word's address (R154). -/
def State.writeWord (s : State) (e : Engine) (c : Cmd) (count st cause : Nat) (after : State → Cmd → State) : State :=
  let bs := wordOf count st cause
  if !c.wg then after (s.addWrite c.bay ⟨s.now, 0, 0, c.word.toNat, bs⟩) c
  else match s.engGlobal e c true c.word.toNat 8 bs with
    | .ok s' c' _ => after s' c'
    | .wait s' c' => s'.setCmd e { c' with next := s.now + 1 }
    | .fail s' c' r => (after s' c').report c.bay c.task { r with i1 := c.word }

/-- The writes that a command whose word has been written has still to make stand in channel 9. -/
def State.leaveTail (s : State) (e : Engine) (c : Cmd) : State :=
  let w : Engine := .btx c.bay wordCh
  let s1 := s.setCmds w (s.cmds w ++ [{ c with tail := true }])
  ({ c with pinned := [] } : Cmd) |> s1.dropCmd e

/-- ENGINE_CMD_FINISH (R118, R154): the completion word is written and the command is over. -/
def execEngineCmdFinish (eng : Engine) (s : State) : Out :=
  match s.finishable eng with
  | some c =>
    let (st, cause) := c.result.getD (1, 0)
    .next (s.writeWord eng c c.count st cause fun s' c' => s'.dropCmd eng c')
  | none => match s.earlyWord eng with
    | some (s1, c) =>
      let left := c.todo.foldl (fun n m => match m with
        | .write _ d _ => n + d.length
        | _ => n) 0
      .next (s1.writeWord eng c (c.countOf (c.put + left)) 1 0 fun s' c' => s'.leaveTail eng c')
    | none => .next s

/-! ## Abort (R153, R158, R159, R339) -/

/-- The rank of an XCOLL that has checked its block withdraws from its round, unless that has committed: the round is abandoned,
and what it has sent does not arrive (R159, R386). -/
def State.withdrawRank (s : State) (g r rank : Nat) : State :=
  let drop (i : Instr) : Bool := match i with
    | .collContributionArrive x => x.group == g && x.round == r && x.rank == rank
    | _ => false
  let s1 := s.onPkg fun p => { p with
    rounds := if p.rounds.any fun x => x.group == g && x.round == r then
        p.rounds.map fun (x : Round) => if x.group = g ∧ x.round = r ∧ x.state = 0 then { x with state := 2 } else x
      else p.rounds ++ [{ group := g, round := r, first := s.now, state := 2 }] }
  { s1 with inputs := s1.inputs.filter fun x => !drop x.2 }

/-- Group, round and rank of an XCOLL that takes part in a round that has not committed. -/
def State.openRound (s : State) (c : Cmd) : Option (Nat × Nat × Nat) :=
  let w := parWord c.params
  let g := bits (w 2) 51 40
  let r := bits (w 3) 63 48
  if c.kind = .xcoll ∧ c.started.isSome ∧ c.result.isNone ∧ (c.stage = 1 ∨ c.stage = 2)
    ∧ !(s.pkg.rounds.any fun x => x.group == g && x.round == r && x.state == 1) then some (g, r, bits (w 3) 15 0) else none

/-- Whether a page command has swapped its entry: it is no longer aborted (R159). -/
def Cmd.swapped (c : Cmd) : Bool := (c.kind == .xqnt || c.kind == .xcmp || c.kind == .xdcmp) && c.stage == 2

/-- A command that is not to go on leaves its timetable with a status, and only its word is left to write (R153, R158,
R339). An evicted XCOLL abandons its round, writes STATUS 3 and reports it (R365). A failed command keeps its outcome, and one that
has swapped its page-table entry finishes. -/
def State.abortCmd (s : State) (e : Engine) (c : Cmd) (st cause count : Nat) : State :=
  let w : Engine := .btx c.bay wordCh
  let s0 := (s.onDie (dieOf c.bay) fun d => { d with parked := d.parked.filter fun p => p.what != .cmd e c.id }).leaveIntake
    (.cmd c.bay c.id)
  let (s1, c1) := s0.unpin c
  let s2 := s1.detach e c
  let gone (st cause count : Nat) (s : State) : State :=
    if c.swapped || c.result.any (fun r => r.1 != 1) then
      s.setCmds w (s.cmds w ++ [{ c1 with parked := none, owner := false, next := s.now + 1 }])
    else
      let left : Cmd := { c1 with todo := [], late := [], parked := none, owner := false, next := s.now + 1 }
      s.setCmds w (s.cmds w ++ [{ left with result := some (st, cause), count := count }])
  match s.openRound c with
  | none => gone st cause count s2
  | some (g, r, rank) =>
    let s3 := s2.withdrawRank g r rank
    if st ≠ 2 then gone st cause count s3
    else (gone 3 0 0 s3).report c.bay c.task ⟨0x15, BitVec.ofNat 64 g, BitVec.ofNat 64 r, c.word, 0⟩

/-- INDEX_POP_TIMEOUT (R163, R155): an index that is not present within 256 cycles of the previous pop fails the command. -/
def execIndexPopTimeout (bay ch : Nat) (s : State) : Out :=
  if 256 ≤ bay ∨ 8 ≤ ch then .fault .absent
  else match s.headCmd (.btx bay ch) with
  | none => .next s
  | some c =>
    if c.todo.head? = some .pop ∧ c.started.isSome ∧ c.popped + 256 < s.now
      ∧ (Tbl.get Channel.reset (s.bay bay).btx ch).queue = [] then .next (s.failCmd (.btx bay ch) c (plain 0x07))
    else .next s

end Sys2Proof.Machine
end

