-- ==== Sys2Proof/Machine/Scalar.lean ====
section
/-!
DEFINITION. The scalar slots S0 and S1 (spec/11_ref_scalar.md R214 to R229).
-/

namespace Sys2Proof.Machine

/-! ## Integer results (R216 to R221) -/

/-- A result of latency L from one source. -/
def State.op1 (s : State) (L : Nat) (d b : Reg) (f : Word → Word) : State := s.writeS d L (f (s.readS b 0))

/-- A result of latency L from two sources. -/
def State.op2 (s : State) (L : Nat) (d b c : Reg) (f : Word → Word → Word) : State :=
  s.writeS d L (f (s.readS b 0) (s.readS c 1))

/-- A 14-bit immediate, sign-extended. -/
def sx14 (i : BitVec 14) : Word := i.signExtend 64
/-- A 14-bit immediate, zero-extended. -/
def zx14 (i : BitVec 14) : Word := i.zeroExtend 64
/-- A 32-bit immediate, sign-extended. -/
def sx32 (i : BitVec 32) : Word := i.signExtend 64
/-- A 32-bit immediate, zero-extended. -/
def zx32 (i : BitVec 32) : Word := i.zeroExtend 64

/-- MULH: bits [127:64] of the signed product. -/
def mulHigh (b c : Word) : Word := BitVec.ofInt 64 ((b.toInt * c.toInt) / (2 ^ 64 : Int))
/-- MULHN: bits [127:64] of the unsigned product. -/
def mulHighN (b c : Word) : Word := BitVec.ofNat 64 (b.toNat * c.toNat / 2 ^ 64)

/-- The quotients and remainders of R218. -/
def divS (b c : Word) : Word := if c = 0 then BitVec.allOnes 64 else BitVec.ofInt 64 (b.toInt.tdiv c.toInt)
def remS (b c : Word) : Word := if c = 0 then b else BitVec.ofInt 64 (b.toInt.tmod c.toInt)
def divN (b c : Word) : Word := if c = 0 then BitVec.allOnes 64 else BitVec.ofNat 64 (b.toNat / c.toNat)
def remN (b c : Word) : Word := if c = 0 then b else BitVec.ofNat 64 (b.toNat % c.toNat)

/-- The shift count of a register: its bits [5:0]. -/
def cnt6 (c : Word) : Nat := c.toNat % 64

/-- Count of leading zeros of R219. -/
def clz64 (b : Word) : Nat := if b = 0 then 64 else 63 - Nat.log2 b.toNat
/-- Count of trailing zeros. -/
def ctz64 (b : Word) : Nat := ((List.range 64).find? fun i => b.getLsbD i).getD 64
/-- Count of set bits. -/
def popc64 (b : Word) : Nat := ((List.range 64).filter fun i => b.getLsbD i).length
/-- Bits reversed. -/
def brev64 (b : Word) : Word := b.reverse
/-- Bytes reversed. -/
def bswap64 (b : Word) : Word := BitVec.ofNat 64 (leNat (leBytes 8 b.toNat).reverse)

/-- The field of R220: its position and its length. -/
def fieldOf (c : Word) : Nat × Nat :=
  let pos := bits c.toNat 5 0
  let len := bits c.toNat 13 8 + 1
  (pos, if 64 < pos + len then 64 - pos else len)

/-- EXTB. -/
def extract (sx : Bool) (b c : Word) : Word :=
  let (pos, len) := fieldOf c
  let f := (b.toNat >>> pos) % 2 ^ len
  if sx ∧ bit f (len - 1) then BitVec.ofInt 64 ((f : Int) - (2 ^ len : Nat)) else BitVec.ofNat 64 f

/-- INSB. -/
def insert (d b c : Word) : Word :=
  let (pos, len) := fieldOf c
  BitVec.ofNat 64 (blend d.toNat (b.toNat % 2 ^ len * 2 ^ pos) ((2 ^ len - 1) * 2 ^ pos))

def execAdd (d b c : Reg) (s : State) : Out := .next (s.op2 1 d b c fun x y => x + y)
def execSub (d b c : Reg) (s : State) : Out := .next (s.op2 1 d b c fun x y => x - y)
def execAddi (d b : Reg) (i : BitVec 14) (s : State) : Out := .next (s.op1 1 d b fun x => x + sx14 i)
def execAddi64 (d b : Reg) (i : BitVec 32) (s : State) : Out := .next (s.op1 1 d b fun x => x + sx32 i)
def execAddsh (d b c : Reg) (k : BitVec 3) (s : State) : Out := .next (s.op2 1 d b c fun x y => x + y <<< k.toNat)
def execMul (d b c : Reg) (s : State) : Out := .next (s.op2 3 d b c fun x y => x * y)
def execMulh (d b c : Reg) (s : State) : Out := .next (s.op2 3 d b c mulHigh)
def execMulhn (d b c : Reg) (s : State) : Out := .next (s.op2 3 d b c mulHighN)
def execDiv (d b c : Reg) (s : State) : Out := .next (s.op2 20 d b c divS)
def execDivn (d b c : Reg) (s : State) : Out := .next (s.op2 20 d b c divN)
def execRem (d b c : Reg) (s : State) : Out := .next (s.op2 20 d b c remS)
def execRemn (d b c : Reg) (s : State) : Out := .next (s.op2 20 d b c remN)
def execMin (d b c : Reg) (s : State) : Out := .next (s.op2 1 d b c fun x y => if x.toInt ≤ y.toInt then x else y)
def execMax (d b c : Reg) (s : State) : Out := .next (s.op2 1 d b c fun x y => if x.toInt ≤ y.toInt then y else x)
def execMinn (d b c : Reg) (s : State) : Out := .next (s.op2 1 d b c fun x y => if x.toNat ≤ y.toNat then x else y)
def execMaxn (d b c : Reg) (s : State) : Out := .next (s.op2 1 d b c fun x y => if x.toNat ≤ y.toNat then y else x)
def execAnd (d b c : Reg) (s : State) : Out := .next (s.op2 1 d b c fun x y => x &&& y)
def execAndi (d b : Reg) (i : BitVec 14) (s : State) : Out := .next (s.op1 1 d b fun x => x &&& zx14 i)
def execAndi64 (d b : Reg) (i : BitVec 32) (s : State) : Out := .next (s.op1 1 d b fun x => x &&& zx32 i)
def execOr (d b c : Reg) (s : State) : Out := .next (s.op2 1 d b c fun x y => x ||| y)
def execOri (d b : Reg) (i : BitVec 14) (s : State) : Out := .next (s.op1 1 d b fun x => x ||| zx14 i)
def execOri64 (d b : Reg) (i : BitVec 32) (s : State) : Out := .next (s.op1 1 d b fun x => x ||| zx32 i)
def execXor (d b c : Reg) (s : State) : Out := .next (s.op2 1 d b c fun x y => x ^^^ y)
def execXori (d b : Reg) (i : BitVec 14) (s : State) : Out := .next (s.op1 1 d b fun x => x ^^^ zx14 i)
def execXori64 (d b : Reg) (i : BitVec 32) (s : State) : Out := .next (s.op1 1 d b fun x => x ^^^ zx32 i)
def execAndn (d b c : Reg) (s : State) : Out := .next (s.op2 1 d b c fun x y => x &&& ~~~y)
def execSel (d k b c : Reg) (s : State) : Out :=
  .next (s.writeS d 1 (if s.readS k 2 ≠ 0 then s.readS b 0 else s.readS c 1))
def execShl (d b c : Reg) (s : State) : Out := .next (s.op2 1 d b c fun x y => x <<< cnt6 y)
def execShli (d b : Reg) (i : BitVec 14) (s : State) : Out := .next (s.op1 1 d b fun x => x <<< i.toNat)
def execShli64 (d b : Reg) (i : BitVec 32) (s : State) : Out := .next (s.op1 1 d b fun x => x <<< i.toNat)
def execShrl (d b c : Reg) (s : State) : Out := .next (s.op2 1 d b c fun x y => x >>> cnt6 y)
def execShrli (d b : Reg) (i : BitVec 14) (s : State) : Out := .next (s.op1 1 d b fun x => x >>> i.toNat)
def execShrli64 (d b : Reg) (i : BitVec 32) (s : State) : Out := .next (s.op1 1 d b fun x => x >>> i.toNat)
def execShra (d b c : Reg) (s : State) : Out := .next (s.op2 1 d b c fun x y => x.sshiftRight (cnt6 y))
def execShrai (d b : Reg) (i : BitVec 14) (s : State) : Out := .next (s.op1 1 d b fun x => x.sshiftRight i.toNat)
def execShrai64 (d b : Reg) (i : BitVec 32) (s : State) : Out := .next (s.op1 1 d b fun x => x.sshiftRight i.toNat)
def execRotl (d b c : Reg) (s : State) : Out := .next (s.op2 1 d b c fun x y => x.rotateLeft (cnt6 y))
def execCmp (cc : BitVec 3) (d b c : Reg) (s : State) : Out :=
  .next (s.op2 1 d b c fun x y => if condI cc.toNat 64 x.toNat y.toNat then 1 else 0)
def execClz (d b : Reg) (s : State) : Out := .next (s.op1 1 d b fun x => BitVec.ofNat 64 (clz64 x))
def execCtz (d b : Reg) (s : State) : Out := .next (s.op1 1 d b fun x => BitVec.ofNat 64 (ctz64 x))
def execPopc (d b : Reg) (s : State) : Out := .next (s.op1 1 d b fun x => BitVec.ofNat 64 (popc64 x))
def execBrev (d b : Reg) (s : State) : Out := .next (s.op1 1 d b brev64)
def execBswap (d b : Reg) (s : State) : Out := .next (s.op1 1 d b bswap64)
def execExtb (sx : Bool) (d b c : Reg) (s : State) : Out := .next (s.op2 1 d b c (extract sx))
def execInsb (d b c : Reg) (s : State) : Out := .next (s.writeS d 1 (insert (s.readS d 2) (s.readS b 0) (s.readS c 1)))
def execLi (d : Reg) (i : BitVec 14) (s : State) : Out := .next (s.writeS d 1 (sx14 i))
def execLi64 (d : Reg) (i : BitVec 32) (s : State) : Out := .next (s.writeS d 1 (sx32 i))
/-- The destination with bits [63:32] replaced. -/
def State.lih (s : State) (d : Reg) (i : BitVec 32) : State :=
  s.writeS d 1 (i ++ (s.readS d 2).extractLsb' 0 32)
def execLih (d : Reg) (i : BitVec 14) (s : State) : Out := .next (s.lih d (i.zeroExtend 32))
def execLih64 (d : Reg) (i : BitVec 32) (s : State) : Out := .next (s.lih d i)
def execMov (d b : Reg) (s : State) : Out := .next (s.op1 1 d b fun x => x)

/-! ## Floating point (R222 to R227) -/

/-- The FP32 value in bits [31:0] of a register. -/
def State.readF (s : State) (r : Reg) (i : Nat) : FV := decodeF 8 ((s.readS r i).toNat % 2 ^ 32)

/-- An exact value rounded once to FP32, with the flags of forming it. -/
def roundOnce (r : Rnd) (u : Nat) (x : FV × Flags) : Nat × Flags :=
  let (v, f) := roundFV 8 r u x.1
  (v, f ||| x.2)

def execFadd (d b c : Reg) (p : Pfx) (s : State) : Out :=
  .next (s.floatS d 4 p true fun r u => roundOnce r u (addFV r.mode (s.readF b 0) (s.readF c 1)))
def execFsub (d b c : Reg) (p : Pfx) (s : State) : Out :=
  .next (s.floatS d 4 p true fun r u => roundOnce r u (addFV r.mode (s.readF b 0) (s.readF c 1).neg))
def execFmul (d b c : Reg) (p : Pfx) (s : State) : Out :=
  .next (s.floatS d 4 p true fun r u => roundOnce r u (mulFV (s.readF b 0) (s.readF c 1)))
def execFfma (d b c e : Reg) (p : Pfx) (s : State) : Out :=
  .next (s.floatS d 4 p true fun r u => roundOnce r u (fmaFV r.mode (s.readF b 0) (s.readF c 1) (s.readF e 2)))
/-- FMIN and FMAX (R224). -/
def State.minMaxS (s : State) (isMax : Bool) (d b c : Reg) : State :=
  let (v, f) := minMaxF 8 isMax ((s.readS b 0).toNat % 2 ^ 32) ((s.readS c 1).toNat % 2 ^ 32)
  (s.writeS d 2 (BitVec.ofNat 64 v)).raiseFlags 2 f
def execFmin (d b c : Reg) (s : State) : Out := .next (s.minMaxS false d b c)
def execFmax (d b c : Reg) (s : State) : Out := .next (s.minMaxS true d b c)
def execFcmp (cc : BitVec 3) (d b c : Reg) (s : State) : Out :=
  let x := s.readF b 0
  let y := s.readF c 1
  .next ((s.writeS d 2 (if condF cc.toNat x y then 1 else 0)).raiseFlags 2 (if x.isSig || y.isSig then fInvalid else 0))
/-- FCVT (R226): the low bits of the source, the result placed by its format. -/
def execFcvt (dst src : BitVec 4) (d b : Reg) (p : Pfx) (s : State) : Out :=
  let x := (s.readS b 0).toNat % 2 ^ fmtWidth src.toNat
  let toInt := decide (dst.toNat < 8)
  let both := toInt && decide (src.toNat < 8)
  .next (s.floatS d 3 p (!both) fun r u =>
    let (v, f) := convert src.toNat dst.toNat (if both then { r with sat := true } else r) u x
    (if dst.toNat < 4 then wrap 64 (signed (fmtWidth dst.toNat) v) else v, f))
/-- FCLASS (R227). -/
def classOf (f w : Nat) : Nat :=
  let neg := bit w (fmtWidth f - 1)
  match decodeF f w with
  | .nan true => 8
  | .nan false => 9
  | .inf n => if n then 0 else 7
  | .fin _ m e =>
    let L := floatFmt f
    let sub := m < 2 ^ L.man ∧ e = L.emin - L.man
    if m = 0 then (if neg then 3 else 4) else if sub then (if neg then 2 else 5) else (if neg then 1 else 6)
def execFclass (f : BitVec 4) (d b : Reg) (s : State) : Out :=
  .next (s.op1 2 d b fun x => BitVec.ofNat 64 (2 ^ classOf f.toNat (x.toNat % 2 ^ fmtWidth f.toNat)))

/-! ## Special registers (R228, R229) -/

/-- LATECNT is read: it clears on the issue cycle, and every slot of the bundle reads what governed it (R228). -/
def State.readLate (s : State) : State :=
  (s.updCur fun c => { c with lateRead := some (c.lateRead.getD s.here.latecnt) }).upd fun b => { b with latecnt := 0 }

/-- Whether a special register belongs to the task's context, which a bay that CTXSV has emptied reads as zero (R371). -/
def ofTask (n : Nat) : Bool := n == 0x003 || n == 0x007 || n == 0x008 || n == 0x014 || n == 0x015

/-- RDS. -/
def execRds (n : BitVec 9) (d : Reg) (s : State) : Out :=
  let v := if s.here.empty ∧ ofTask n.toNat then 0 else s.readSpecialNow s.cur.bay s.here.handler n.toNat
  let s1 := if n.toNat = 0x004 then s.readLate else s
  .next (s1.writeS d 2 v)

/-- The flags in flight after a clear issued now: a flag of an earlier instruction may already have landed, and is then
cleared (R229). -/
def State.clearFlight (s : State) (h : Bool) (v : Word) : State :=
  s.upd fun b =>
    let keep := Config.freeWord (s.freeKey s.cur.bay s.cur.slot 65)
    { b with pends := b.pends.map fun p => match p.dest with
        | .stat h' => if h' = h ∧ p.issued < s.now then
            { p with val := (BitVec.ofNat 64 p.val &&& (~~~v ||| keep)).toNat } else p
        | _ => p }

/-- A write of a special register by a slot instruction: fmt governs from c + 5 (R89), every other one from c + 1. -/
def State.writeSpecialAt (s : State) (h : Bool) (n : Nat) (v : Word) : State :=
  let s1 := if n = 0x000 then s.clearFlight h v else s
  s1.upd fun b => b.pendSpecial s.now (s.now + if n = 0x001 then 5 else 1) h n v

def execWrs (n : BitVec 9) (b : Reg) (s : State) : Out :=
  .next (s.writeSpecialAt s.here.handler n.toNat (s.readS b 0))

end Sys2Proof.Machine
end

