-- ==== Sys2Proof/Machine/Lease.lean ====
section
/-!
DEFINITION. Leases of tack engines: LEASE, UNLEASE, LSTAT, WAITL, the lease state machine, saddles, eviction and power states
(spec/07_tack_room.md R141 to R152, R157 to R159; spec/14_ref_control_engines.md R291, R298).
-/

namespace Sys2Proof.Machine

/-! ## Records, engines and saddles (R142 to R146) -/

/-- A lease record of a die. -/
def State.leaseOf (s : State) (die i : Nat) : Lease := Tbl.get Lease.reset (s.die die).leases i

/-- A lease record changed. -/
def State.onLease (s : State) (die i : Nat) (f : Lease → Lease) : State :=
  s.onDie die fun d => { d with leases := Tbl.set Lease.reset d.leases i (f (Tbl.get Lease.reset d.leases i)) }

/-- A tack engine of a die; its unit is 16 × class + index. -/
def State.engOf (s : State) (die u : Nat) : Eng := Tbl.get Eng.reset (s.die die).engines u

/-- A tack engine changed. -/
def State.onEng (s : State) (die u : Nat) (f : Eng → Eng) : State :=
  s.onDie die fun d => { d with engines := Tbl.set Eng.reset d.engines u (f (Tbl.get Eng.reset d.engines u)) }

/-- The handle of a record (R145). -/
def handleOf (die i : Nat) (l : Lease) : Word :=
  BitVec.ofNat 64 (l.gen % 65536 * 2 ^ 32 + l.cls * 2 ^ 14 + die * 2 ^ 12 + i)

/-- The die and record that a handle names. -/
def handleDie (h : Word) : Nat := bits h.toNat 13 12
/-- See `handleDie`. -/
def handleIndex (h : Word) : Nat := bits h.toNat 11 0

/-- An engine that holds a saddle: one leased, or given up and still finishing. -/
def Eng.saddled (x : Eng) : Bool := x.lease.isSome || x.closing

/-- Saddles that the engines of a die which pass a test hold on this cycle, with those set aside for evicting leases. -/
def State.saddlesOf (s : State) (die : Nat) (also : Eng → Bool) : Nat :=
  ((s.die die).engines.filter fun x => x.2.saddled || decide (s.now < x.2.saddleAt) || also x.2).length
    + ((s.die die).leases.filter fun x => x.2.aside == 1).length + ((s.die die).spare.filter fun k => decide (s.now < k)).length

/-- Saddles of a die that no engine holds and no reservation sets aside (R142). -/
def State.freeSaddles (s : State) (die : Nat) : Nat := 28 - s.saddlesOf die fun x => x.reserved.isSome

/-- The engine that a grant takes among those of a class which pass a test: drowsy before cold, then the lowest index (R143). -/
def State.chooseEngine (s : State) (die cls : Nat) (ok : Nat → Eng → Bool) : Option Nat :=
  let l := ((List.range 16).map (16 * cls + ·)).filter fun u => ok u (s.engOf die u)
  (l.find? fun u => (s.engOf die u).power == 1).or l.head?

/-- The engine of a class that a grant beyond a reservation takes: one that is free, or, for an evicting lease, the engine that
its victim leaves. -/
def State.freeEngine (s : State) (die cls : Nat) (left : Option Nat := none) : Option Nat :=
  s.chooseEngine die cls fun u x => left == some u || (!x.saddled && x.reserved.isNone && decide (x.freeAt ≤ s.now))

/-- The engine of a class that a node's reservation still holds and no live lease uses (R147); one that still finishes the commands
of a lease given up comes last. (DESIGN CHOICE, log entry 146.) -/
def State.ownEngine (s : State) (die cls node : Nat) : Option Nat :=
  let mine (x : Eng) : Bool := x.reserved == some node && x.lease.isNone
  (s.chooseEngine die cls fun _ x => mine x && !x.closing).or (s.chooseEngine die cls fun _ x => mine x)

/-- Whether a node's reserved engine can be granted now: every engine that runs keeps within 28 saddles (R142). -/
def State.ownSaddle (s : State) (die u : Nat) : Bool :=
  (s.engOf die u).closing || decide (s.saddlesOf die (fun _ => false) < 28)

/-- Whether the deadline of a queued lease has passed (R149); that of a lease whose grant is assured has no effect. -/
def Lease.late (l : Lease) (now : Nat) : Bool :=
  l.state == 1 && l.victim.isNone && l.aside == 0 && l.deadline.any fun k => decide (k < now)

/-- The records of a die that are in a class queue, in its order (R148). -/
def State.leaseQueue (s : State) (die cls : Nat) : List Nat :=
  let l := (s.die die).leases.filter fun x => x.2.state == 1 && x.2.cls == cls && x.2.victim.isNone && x.2.aside == 0
  (sortBy (fun x => x.2.prio) (sortBy (fun x => x.2.requested) (sortBy (fun x => x.2.bay) l))).map (·.1)

/-- The node of a lease's task. -/
def Lease.node (l : Lease) : Nat := l.task / 2 ^ 32

/-- A lease whose grant is assured that can be granted, with its engine. -/
def State.asideGrant (s : State) (die : Nat) : Option (Nat × Nat) :=
  (s.die die).leases.findSome? fun x =>
    let u : Option Nat := if x.2.state ≠ 1 then none
      else if x.2.aside = 1 ∨ (x.2.aside = 3 ∧ s.freeSaddles die ≠ 0) then s.freeEngine die x.2.cls
      else if x.2.aside = 2 then (s.ownEngine die x.2.cls x.2.node).filter fun u => s.ownSaddle die u
      else none
    u.map fun u => (x.1, u)

/-- The queue head that a free saddle and engine would go to, with the engine (R148); none in thermal state T2 (R398). -/
def State.nextGrant (s : State) (die : Nat) : Option (Nat × Nat) :=
  if (s.asideGrant die).isSome then s.asideGrant die
  else if s.freeSaddles die = 0 ∨ 2 ≤ (s.die die).thermal then none
  else
    let heads := ((List.range 7).filterMap fun c => (s.leaseQueue die c).head?).filter fun i => !(s.leaseOf die i).late s.now
    let key (i : Nat) := s.leaseOf die i
    let l := sortBy (fun i => (key i).prio) (sortBy (fun i => (key i).requested) (sortBy (fun i => (key i).bay) heads))
    l.findSome? fun i => (s.freeEngine die (key i).cls).map fun u => (i, u)

/-- A record becomes FREE and its GEN advances (R150). -/
def State.freeLease (s : State) (die i : Nat) : State := s.onLease die i fun l => { Lease.reset with gen := (l.gen + 1) % 65536 }

/-- A lease is granted an engine, which wakes; the commands held in the record pass to its timetable (R143, R153). -/
def State.grantLease (s : State) (die i u : Nat) (reserved : Bool) (readyAt : Nat) : State :=
  let held := (s.leaseOf die i).cmds
  (s.onLease die i fun l => { l with state := 2, granted := s.now, readyAt := readyAt, unit := u, reserved := reserved
                                     victim := none, aside := 0, cmds := [] }).onEng die u fun x =>
    { x with lease := some i, cmds := x.cmds ++ held }

/-- The cycle on which an engine that is granted a saddle now is awake (R143). (DESIGN CHOICE, log entry 55.) -/
def State.wakeAt (s : State) (die u : Nat) : Nat := s.now + if (s.engOf die u).power = 0 then 3200 else 96

/-- The commands that a queued record holds are dropped: STATUS 2 and COUNT 0 (R153). -/
def State.dropHeld (s : State) (die i : Nat) : State :=
  (s.leaseOf die i).cmds.foldl (fun s c =>
    let w : Engine := .btx c.bay wordCh
    s.setCmds w (s.cmds w ++ [{ c with result := some (2, 0), count := 0, next := s.now + 1 }]))
    (s.onLease die i fun l => { l with cmds := [] })

/-- A lease is granted from its region's reservation (R147): it is READY no sooner than 96 cycles later and 3,200 cycles after the
launch on the die. -/
def State.grantOwn (s : State) (die i u node : Nat) : State :=
  let launch := match Tbl.get none s.pkg.nodes node with
    | some n => ((n.launched.find? fun x => x.1 == die).map (·.2)).getD 0
    | none => 0
  s.grantLease die i u true (max (s.now + 96) (launch + 3200))

/-- The end of an eviction (R158): the victim's commands are aborted, it becomes EVICTED, or FREE when it gave itself up, and
its saddle passes to the evicting lease, which keeps it while no engine of its class is free. Commands of an earlier lease that the
engine still finishes go on, and keep the saddle until then. The engine stays reserved as it was. (DEDUCED, log entry 59.) (DESIGN
CHOICE, log entry 146.) -/
def State.evict (s : State) (die v : Nat) (toFree : Bool) : State :=
  let l := s.leaseOf die v
  let e : Engine := .tack die l.unit
  let busy := (s.cmds e).any (·.past)
  let s1 := ((s.cmds e).filter fun c => !c.past).foldl (fun s c => s.abortCmd e c 2 0 c.count) s
  let s2 := if busy then s1.onEng die l.unit fun x => { x with lease := none } else s1.releaseEngine die l.unit l.notice.isSome
  let s3 := if toFree then s2.freeLease die v else s2.onLease die v fun l => { l with state := 4, notice := none, cmds := [] }
  match l.notice with
  | none => s3
  | some (_, ev) =>
    let same := l.cls == (s3.leaseOf die ev).cls
    let wait (k : Nat) : State := s3.onLease die ev fun x => { x with victim := none, aside := k }
    if busy then wait 3
    else match s3.freeEngine die (s3.leaseOf die ev).cls (if same then some l.unit else none) with
    | some u => s3.grantLease die ev u false (s3.wakeAt die u)
    | none => wait 1

/-- A lease is given up (R150, R158). -/
def State.giveUp (s : State) (die i : Nat) : State :=
  let l := s.leaseOf die i
  match l.state with
  | 1 =>
    let s1 := match l.victim with
      | some v => s.onLease die v fun x => { x with notice := none }
      | none => if l.aside = 1 then s.onDie die fun d => { d with spare := d.spare.filter (fun k => decide (s.now < k)) ++ [s.now + 1] } else s
    (s1.dropHeld die i).freeLease die i
  | 2 | 3 =>
    if l.notice.isSome then s.evict die i true
    else
      let s1 := s.freeLease die i
      if (s.cmds (.tack die l.unit)).isEmpty then s1.releaseEngine die l.unit
      else s1.onEng die l.unit fun x =>
        { x with lease := none, closing := true, since := l.readyAt, cmds := x.cmds.map fun c => { c with past := true } }
  | _ => s.freeLease die i

/-! ## Use of a handle (R146, R150) -/

/-- Whether a record is a live lease that is not of the issuing bay's task; a bay without a context owns none (R371). -/
def State.foreign (s : State) (l : Lease) : Bool := l.state != 0 && (s.here.empty || l.task != s.here.uid)

/-- A handle used by the issuing task: its die and record, or the fault. (DEDUCED, log entry 52.) (DEDUCED, log entry 53.) -/
def State.useHandle (s : State) (h : Word) : Except Report (Nat × Nat) :=
  let d := handleDie h
  let i := handleIndex h
  let l := s.leaseOf d i
  if s.foreign l then .error ⟨0x11, 0x0201, 0, 0, 0⟩
  else if l.state = 0 ∨ l.gen ≠ bits h.toNat 47 32 then .error ⟨0x0E, 0, 2, 0, 0⟩
  else if l.state = 4 then .error ⟨0x0E, h, 1, 0, 0⟩
  else .ok (d, i)

/-- A lease-lost fault of an EVICTED lease makes its record FREE (R150). -/
def State.lostLease (s : State) (r : Report) : State :=
  if r.cause = 0x0E ∧ r.i1 = 1 then s.freeLease (handleDie r.i0) (handleIndex r.i0) else s

/-! ## LEASE (R144, R147, R157) -/

/-- The leases of a task that are not FREE, as die and record. -/
def State.leasesOf (s : State) (uid : Nat) : List (Nat × Nat) :=
  (s.dies.map (·.1)).flatMap fun d => ((s.die d).leases.filter fun x => x.2.state != 0 && x.2.task == uid).map fun x => (d, x.1)

/-- The victim of a class-0 lease of a class (R157). -/
def State.pickVictim (s : State) (die cls : Nat) : Option Nat :=
  let same := (s.freeEngine die cls).isNone
  let l := (s.die die).leases.filter fun x =>
    (x.2.state == 2 || x.2.state == 3) && x.2.prio != 0 && x.2.notice.isNone && (!same || x.2.cls == cls)
  let byIndex := sortBy (fun x => 4096 - x.1) l
  let byGrant := sortBy (fun x => s.now - x.2.granted) byIndex
  let byPrio := sortBy (fun x => 3 - x.2.prio) byGrant
  (sortBy (fun x => if x.2.reserved then 1 else 0) byPrio).head?.map (·.1)

/-- The lowest record of a die that is FREE. (DESIGN CHOICE, log entry 56.) -/
def State.freeRecord (s : State) (die : Nat) : Nat :=
  ((List.range 4096).find? fun i => (s.leaseOf die i).state == 0).getD 0

/-- Whether a node's reservation still has an engine of a class for one more lease, beside those that wait for a saddle. -/
def State.ownLeft (s : State) (die cls node : Nat) : Bool :=
  let spare := ((List.range 16).map (16 * cls + ·)).filter fun u =>
    let x := s.engOf die u
    x.reserved == some node && x.lease.isNone
  let waiting := (s.die die).leases.filter fun x => x.2.state == 1 && x.2.aside == 2 && x.2.cls == cls && x.2.node == node
  decide (waiting.length < spare.length)

/-- LEASE. (DEDUCED, log entry 54.) -/
def State.lease (s : State) (d b : Reg) (cls : BitVec 3) (prio : BitVec 2) : State :=
  let bay := s.cur.bay
  let die := dieOf bay
  let t := s.here
  let v := (s.readS b 0).toNat
  let c := cls.toNat
  let pr := max prio.toNat (match t.task with
    | some x => x.cls
    | none => 0)
  if t.empty then s.protect
  else if bits v 63 32 ≠ 0 then s.illegal b.toNat
  else if 16 ≤ (s.leasesOf t.uid).length then s.raise ⟨0x11, 0x0200, 0, 0, 0⟩
  else
    let i := s.freeRecord die
    let deadline := if v = 0 then none else some (t.fb + v).toNat
    let s1 := s.onLease die i fun l => { l with state := 1, cls := c, bay := bay, task := t.uid, prio := pr, requested := s.now
                                                deadline := deadline, paused := none, victim := none, aside := 0, notice := none, passed := 0, cmds := [] }
    let s2 := s1.writeS d 2 (handleOf die i (s1.leaseOf die i))
    match (if s.ownLeft die c t.node then s.ownEngine die c t.node else none) with
    | some u =>
      if s.ownSaddle die u then s2.grantOwn die i u t.node
      else s2.onLease die i fun l => { l with aside := 2 }
    | none =>
      if t.det then s.raise ⟨0x0F, 0, 2, 0, 0⟩
      else match (if s.freeSaddles die = 0 ∨ 2 ≤ (s.die die).thermal then none else s.freeEngine die c) with
      | some u => s2.grantLease die i u false (s.wakeAt die u)
      | none => match (if pr = 0 ∧ s.freeSaddles die = 0 then s.pickVictim die c else none) with
        | some w => (s2.onLease die i fun l => { l with victim := some w }).onLease die w fun l => { l with notice := some (s.now + 512, i) }
        | none => s2

def execLease (d b : Reg) (cls : BitVec 3) (prio : BitVec 2) (s : State) : Out := .next (s.lease d b cls prio)

/-- UNLEASE (R298): a record that is FREE or of another generation is left alone. -/
def execUnlease (b : Reg) (s : State) : Out :=
  let h := s.readS b 0
  let d := handleDie h
  let i := handleIndex h
  let l := s.leaseOf d i
  .next (if l.state = 0 ∨ l.gen ≠ bits h.toNat 47 32 then s
    else if s.foreign l then s.raise ⟨0x11, 0x0201, 0, 0, 0⟩
    else s.giveUp d i)

/-- The status word of a lease (R152). -/
def State.leaseStatus (s : State) (die i : Nat) : Nat :=
  let l := s.leaseOf die i
  let q := if l.state = 1 then ((s.leaseQueue die l.cls).findIdx? (· == i)).getD 0 else 0
  let out := if l.state = 1 then l.cmds.length else if l.state = 2 ∨ l.state = 3 then ((s.cmds (.tack die l.unit)).filter fun c => !c.past).length
    else 0
  l.state + (if l.reserved && l.state != 1 then 64 else 0) + (if l.notice.isSome then 128 else 0) + out * 256 + q * 2 ^ 32

/-- LSTAT (R152). -/
def execLstat (d b : Reg) (s : State) : Out :=
  .next (match s.useHandle (s.readS b 0) with
    | .error r => s.raise r
    | .ok (die, i) => s.writeS d 2 (BitVec.ofNat 64 (s.leaseStatus die i)))

/-- WAITL (R151, R291). -/
def execWaitl (b : Reg) (s : State) : Out :=
  .next (match s.useHandle (s.readS b 0) with
    | .error r => s.raise r
    | .ok (die, i) => if (s.leaseOf die i).state = 3 then s else s.updCur fun c => { c with wait := some .plain })

/-! ## Events of leases and engines -/

/-- LEASE_GRANT (R148). -/
def execLeaseGrant (die : Nat) (s : State) : Out :=
  if 4 ≤ die then .fault .absent
  else if s.now < (s.die die).grantAt then .next s
  else match s.nextGrant die with
  | some (i, u) => .next (if (s.leaseOf die i).aside = 2 then s.grantOwn die i u (s.leaseOf die i).node
      else s.grantLease die i u false (s.wakeAt die u))
  | none => .next s

/-- LEASE_WAKE_COMPLETE (R143, R150). -/
def execLeaseWakeComplete (die lease : Nat) (s : State) : Out :=
  if 4 ≤ die then .fault .absent
  else
    let l := s.leaseOf die lease
    if l.state = 2 ∧ l.readyAt ≤ s.now then
      .next ((s.onLease die lease fun l => { l with state := 3 }).onEng die l.unit fun x => { x with power := 2 })
    else .next s

/-- LEASE_DEADLINE_PASS (R149); the syndrome counts the deadline as CYCLE does. -/
def execLeaseDeadlinePass (die lease : Nat) (s : State) : Out :=
  if 4 ≤ die then .fault .absent
  else
    let l := s.leaseOf die lease
    match l.deadline with
    | some k =>
      if l.late s.now then
        let queue := s.leaseQueue die l.cls
        let pos := (queue.findIdx? (· == lease)).getD 0
        let s1 := ((queue.drop (pos + 1)).filter fun i => (s.leaseOf die i).late s.now).foldl
          (fun s i => s.onLease die i fun x => { x with passed := x.passed + 1 }) s
        .next (((s1.dropHeld die lease).freeLease die lease).report l.bay l.task
          ⟨0x0F, handleOf die lease l, 1, BitVec.ofNat 64 (k - (s.part (s.partOfDie die)).formed), BitVec.ofNat 64 (pos + l.passed)⟩)
      else .next s
    | none => .next s

/-- EVICTION_GRACE_END (R158): `lease` is the victim. -/
def execEvictionGraceEnd (die lease : Nat) (s : State) : Out :=
  if 4 ≤ die then .fault .absent
  else match (s.leaseOf die lease).notice with
  | some (k, _) => .next (if k ≤ s.now then s.evict die lease false else s)
  | none => .next s

/-- DROWSY_HOLD_EXPIRE (R142). -/
def execDrowsyHoldExpire (die unit : Nat) (s : State) : Out :=
  if 4 ≤ die ∨ 112 ≤ unit then .fault .absent
  else
    let x := s.engOf die unit
    if x.power = 1 ∧ x.reserved = none ∧ !x.saddled ∧ x.since + (s.die die).drowsyhold.toNat ≤ s.now then
      .next (s.onEng die unit fun x => { x with power := 0 })
    else .next s

/-- RESERVED_ENGINE_DROWSY (R147). -/
def execReservedEngineDrowsy (die unit : Nat) (s : State) : Out :=
  if 4 ≤ die ∨ 112 ≤ unit then .fault .absent
  else
    let x := s.engOf die unit
    if x.power = 0 ∧ x.reserved.isSome ∧ x.since ≤ s.now then .next (s.onEng die unit fun x => { x with power := 1, since := s.now })
    else .next s

end Sys2Proof.Machine
end

