-- ==== Sys2Proof/Machine/Control.lean ====
section
/-!
DEFINITION. The C slot: branches, traps and END, format, frame and beat registers, BPLAN, the barrier and the waits for
registers and completion words, cache ranges, and RDSYS and WRSYS (spec/14_ref_control_engines.md R278 to R295;
spec/22_traps_context.md R368).
-/

namespace Sys2Proof.Machine

/-! ## Branches (R280) -/

/-- The next bundle is at an address. -/
def State.goTo (s : State) (a : Word) : State := s.updCur fun c => { c with next := some a.toNat }

/-- The target of a branch by an offset in words (R198). -/
def State.target {n : Nat} (s : State) (off : BitVec n) : Word := BitVec.ofNat 64 s.cur.pc + off.signExtend 64 * 4

/-- The address of the header after the bundle. -/
def State.link (s : State) : Word := BitVec.ofNat 64 (s.cur.pc + s.cur.len)

/-- A branch taken when a condition holds. -/
def State.branchIf {n : Nat} (s : State) (c : Bool) (off : BitVec n) : State := if c then s.goTo (s.target off) else s

/-- BCC: an integer or FP32 condition of R205; a signalling NaN sets STAT.INVALID (R225). (DESIGN CHOICE, log entry 41.) -/
def State.bcc {n : Nat} (s : State) (f : Bool) (cc : BitVec 3) (b c : Reg) (off : BitVec n) : State :=
  let x := (s.readS b 0).toNat
  let y := (s.readS c 1).toNat
  if f then
    let u := decodeF 8 (x % 2 ^ 32)
    let v := decodeF 8 (y % 2 ^ 32)
    (s.raiseFlags 2 (if u.isSig || v.isSig then fInvalid else 0)).branchIf (condF cc.toNat u v) off
  else s.branchIf (condI cc.toNat 64 x y) off

/-- LOOP. -/
def State.loopBack {n : Nat} (s : State) (b : Reg) (off : BitVec n) : State :=
  let v := s.readS b 0 - 1
  (s.writeS b 1 v).branchIf (v != 0) off

def execBr (off : BitVec 24) (s : State) : Out := .next (s.branchIf true off)
def execBr64 (off : BitVec 32) (s : State) : Out := .next (s.branchIf true off)
def execBz (b : Reg) (off : BitVec 14) (s : State) : Out := .next (s.branchIf (s.readS b 0 == 0) off)
def execBz64 (b : Reg) (off : BitVec 32) (s : State) : Out := .next (s.branchIf (s.readS b 0 == 0) off)
def execBnz (b : Reg) (off : BitVec 14) (s : State) : Out := .next (s.branchIf (s.readS b 0 != 0) off)
def execBnz64 (b : Reg) (off : BitVec 32) (s : State) : Out := .next (s.branchIf (s.readS b 0 != 0) off)
def execBcc (f : Bool) (cc : BitVec 3) (b c : Reg) (off : BitVec 9) (s : State) : Out := .next (s.bcc f cc b c off)
def execBcc64 (f : Bool) (cc : BitVec 3) (b c : Reg) (off : BitVec 32) (s : State) : Out := .next (s.bcc f cc b c off)
def execCall (off : BitVec 24) (s : State) : Out := .next ((s.writeS 31 1 s.link).branchIf true off)
def execCall64 (off : BitVec 32) (s : State) : Out := .next ((s.writeS 31 1 s.link).branchIf true off)
def execCallr (b : Reg) (s : State) : Out := .next ((s.writeS 31 1 s.link).goTo (s.readS b 0))
def execRet (s : State) : Out := .next (s.goTo (s.readS 31 0))
def execJr (b : Reg) (s : State) : Out := .next (s.goTo (s.readS b 0))
def execLoop (b : Reg) (off : BitVec 14) (s : State) : Out := .next (s.loopBack b off)
def execLoop64 (b : Reg) (off : BitVec 32) (s : State) : Out := .next (s.loopBack b off)

/-! ## Traps and the end of a task (R281, R282) -/

/-- A trap taken after the bundle has issued. -/
def State.trapAfter (s : State) (cause : Nat) (imm : BitVec 16) : State :=
  s.updCur fun c => { c with after := some ⟨cause, imm.zeroExtend 64, 0, 0, 0⟩ }

def execTrap (imm : BitVec 16) (s : State) : Out := .next (s.trapAfter 0x18 imm)
def execSys (imm : BitVec 16) (s : State) : Out := .next (s.trapAfter 0x17 imm)

/-- END: the task issues nothing more; it is arrived at every later barrier of its gang, and its leases are given up
(R150). -/
def execEndTask (s : State) : Out :=
  let s1 := (s.leasesOf s.here.uid).foldl (fun s x => s.giveUp x.1 x.2) s
  .next ((s1.upd fun b => { b with ended := some s.cur.pc }).checkBarrier s.cur.bay)

/-! ## Format, frame and beat registers (R283 to R286) -/

def execSetf (b : Reg) (s : State) : Out :=
  let v := s.readS b 0
  .next (s.upd fun x => x.pendSpecial s.now (s.now + 5) x.handler 1 v)

def execSetsz (rnd : BitVec 3) (sat : Bool) (s : State) : Out :=
  .next (s.upd fun x => x.addPend
    ⟨.special 1 x.handler, s.now, s.now + 5, rnd.toNat * 2 ^ 12 + (if sat then 2 ^ 15 else 0), 0xF000, true, 0⟩)

def execFrame (k : BitVec 9) (s : State) : Out := .next (s.upd fun b => { b with fb := s.now + k.toNat })

/-- DBEAT written, governing from the next cycle (R53). -/
def State.setDbeat (s : State) (v : Nat) : State :=
  s.upd fun b => b.pendSpecial s.now (s.now + 1) b.handler 2 (BitVec.ofNat 64 (v % 65536))

def execBeatset (b : Reg) (s : State) : Out := .next (s.setDbeat (s.readS b 0).toNat)
def execBeatset64 (tag : BitVec 16) (s : State) : Out := .next (s.setDbeat tag.toNat)
def execBeatnext (s : State) : Out := .next (s.setDbeat (s.here.dbeat.toNat + 2))

/-- BPLAN at issue: the offset is checked, and the table is sampled at issue + 2. (DEDUCED, log entry 132.) -/
def State.bplan (s : State) (off : Nat) : State :=
  let a := BitVec.ofNat 64 off
  if off % 8 ≠ 0 then s.addrFault 0x12 a
  else if 2 ^ 20 < off + 8 ∨ !s.here.scratchOpen off then s.addrFault 0x11 a
  else
    let n := (s.part (s.partOf s.cur.bay)).beatno
    s.upd fun b => { b with plans := b.plans ++ [(off, s.now, n, b.uid)] }

def execBplan (b : Reg) (s : State) : Out :=
  let v := (s.readS b 0).toNat
  .next (if bits v 63 20 ≠ 0 then s.illegal b.toNat else s.bplan v)
def execBplan64 (off : BitVec 20) (s : State) : Out := .next (s.bplan off.toNat)

/-- BPLAN_TABLE_SAMPLE (R286): the table is read and installed, or a fault is reported before the first bundle that issues
after the sample and the old plan stays; a poisoned table is not used (R47). Of a task that has ended meanwhile, no plan is
installed (R61), and the fault is its region's (R282). (DEDUCED, log entry 45.) -/
def execBplanTableSample (bay : Nat) (s : State) : Out :=
  if 256 ≤ bay then .fault .absent
  else match (s.bay bay).plans with
  | [] => .next s
  | (off, at_, n, uid) :: rest =>
    if s.now < at_ + 2 then .next s
    else
      let b := s.bay bay
      let s1 := s.onBay bay fun x => { x with plans := rest }
      let w := s.scratchNum bay off 8
      let k := bits w 20 16 + 1
      let lens := (List.range k).map fun i => s.scratchNum bay (off + 8 + 2 * i) 2
      let bad (a : Nat) : State := s1.report bay uid ⟨0x01, 0x0101, BitVec.ofNat 64 a, 0, 0⟩ false (s.now + 1)
      match s.sectorReport 1 bay off (8 + 2 * k) with
      | some r => .next (s1.report bay uid r false (s.now + 1))
      | none =>
      if 2 ^ 20 < off + 8 + 2 * k then .next (s1.report bay uid ⟨0x11, 0, 0, 0, 0⟩ false (s.now + 1))
      else if bits w 63 21 ≠ 0 then .next (bad off)
      else match lens.findIdx? (fun l => decide (l < 32)) with
      | some i => .next (bad (off + 8 + 2 * i))
      | none =>
        let first : Int := n + signed 16 (wrap 16 (bits w 15 0 + b.beatoff - n))
        let now := (s.part (s.partOf bay)).beatno
        let plan := lens.zipIdx.filterMap fun (l, i) =>
          if (now : Int) < first + i then some ((first + i).toNat, l) else none
        .next (s1.onTask bay uid fun x => { x with plan := plan, planAt := at_ })

/-! ## Waits (R288, R289, R292) -/

/-- The bundle does not issue on this cycle. -/
def State.blocked (s : State) (w : Wait) : State := s.updCur fun c => { c with wait := some w }

/-- BAR: the bundle issues on the cycle after the last member of the gang has arrived. -/
def execBar (sc : BitVec 3) (s : State) : Out :=
  match s.here.barOpen with
  | some k => .next (if k ≤ s.now then s.upd fun b => { b with barOpen := none, arrived := false } else s.blocked .plain)
  | none => .next (s.blocked (.bar sc.toNat))

/-- WAITC reg: no hold of either kind lies on the register. -/
def execWaitcReg (n : BitVec 10) (s : State) : Out :=
  .next (if s.here.held s.now n.toNat false then s.blocked .plain else s)

/-- A wait for a completion word whose STATUS is the low byte of a sample of this cycle. (DEDUCED, log entry 42.) -/
def State.waitWord (s : State) (word : Nat) : State :=
  match s.here.waitSeen with
  | some k => if k < s.now then s.upd fun b => { b with waitSeen := none } else s.blocked .plain
  | none => s.blocked (.sampled (word % 256 != 0))

/-- WAITC [sA]; a word of a poisoned sector is reported and not used (R47). -/
def execWaitcWord (b : Reg) (s : State) : Out :=
  let ea := s.readS b 0
  .next (match s.scratchEA true 8 8 ea with
    | .error cause => s.addrFault cause ea
    | .ok (bay, off) => match s.sectorReport 1 bay off 8 with
      | some r => s.raise r
      | none => s.waitWord (s.scratchNum bay off 8))

/-- WAITC.g [sA]: the word is read at its home, once that holds its line (R381); a poisoned one is reported and not used (R47). -/
def execWaitcG (b : Reg) (s : State) : Out :=
  let ea := s.readS b 0
  let p := s.partOf s.cur.bay
  if ea.toNat % 8 ≠ 0 then .next (s.addrFault 0x12 ea)
  else
    let (t, s1) := s.translate .load p s.here.asid s.here.handler ea.toNat (s.freeKey s.cur.bay s.cur.slot 102)
    .next (match t with
      | .absent r | .form r | .prot r => s1.raise r
      | .wait => s1.blocked .plain
      | .ok l _ =>
        let lines := s1.leafLines l (ea.toNat % l.size) 8
        if s1.hostHolds lines then s1.blocked .plain
        else match s1.poisonedOf lines with
          | some a => s1.raise ⟨0x14, 1, BitVec.ofNat 64 a, 0, 0⟩
          | none => s1.waitWord (leNat (s1.readLeaf l (ea.toNat % l.size) 8)))

/-! ## Cache ranges (R294) -/

/-- The addresses of the 64 KiB pages that n bytes from a meet, with the part of each that they cover. -/
def pageParts (a n : Nat) : List (Nat × Nat) :=
  (List.range ((a + n - 1) / 65536 - a / 65536 + 1)).map fun i =>
    let base := (a / 65536 + i) * 65536
    (max a base, min (a + n) (base + 65536))

/-- Whether a line lies in n bytes from an address under an ASID; pages that are not mapped are skipped. -/
def State.lineIn (s : State) (p asid a n : Nat) : Line → Bool :=
  let parts : List (Bool × Nat × Nat) := (pageParts a n).filterMap fun x => match s.walk p asid x.1 with
    | .leaf l => some (l.tgt == 1, l.pa + x.1 % l.size, l.pa + x.1 % l.size + (x.2 - x.1))
    | _ => none
  fun y => parts.any fun x => y.1 == x.1 && decide (x.2.1 / 64 ≤ y.2) && decide (64 * y.2 < x.2.2)

/-- The copies of a bay in a range are dropped. -/
def State.dropRange (s : State) (bay a n : Nat) : State :=
  let picks := s.lineIn (s.partOf bay) (s.bay bay).asid a n
  s.onBay bay fun b => (b.l1.filter picks).foldl Bay.dropCopy b

/-- The lines of host memory in a range are given back by the home slices. -/
def State.releaseRange (s : State) (bay a n : Nat) : State :=
  let picks := s.lineIn (s.partOf bay) (s.bay bay).asid a n
  s.onPkg fun p => { p with sliceOwns := p.sliceOwns.filter fun y => !picks (false, y)
                            sliceShares := p.sliceShares.filter fun y => !picks (false, y) }

/-- The checks of a cache range, and what follows. (DEDUCED, log entry 49.) -/
def State.cacheRange (s : State) (b c : Reg) (go : Nat → Nat → State) : State :=
  let a := (s.readS b 0).toNat
  let n := (s.readS c 1).toNat
  let beat (x : Nat × Nat) : Bool := match s.walk (s.partOf s.cur.bay) s.here.asid x.1 with
    | .leaf l => l.tgt == 2
    | _ => false
  if n = 0 ∨ 2 ^ 32 < n then s.illegal c.toNat
  else if 2 ^ 57 < a + n then s.raise (transReport 0x11 .load 5 7 a s.here.asid)
  else match (pageParts a n).find? beat with
    | some x => s.raise (transReport 0x11 .load 4 0 x.1 s.here.asid)
    | none => go a n

def execCinv (b c : Reg) (s : State) : Out := .next (s.cacheRange b c fun a n => s.dropRange s.cur.bay a n)
def execCinvLlc (b c : Reg) (s : State) : Out :=
  .next (s.cacheRange b c fun a n => s.upd fun x => { x with cacheWait := some (x.opCount + 1, a, n, true) })
def execCwb (b c : Reg) (s : State) : Out :=
  .next (s.cacheRange b c fun a n => s.upd fun x => { x with cacheWait := some (x.opCount + 1, a, n, false) })

/-- Whether the stores that a CINV.llc or CWB of a bay waits for have been performed. -/
def Bay.cacheDone (b : Bay) : Bool :=
  match b.cacheWait with
  | none => true
  | some (id, a, n, _) => b.entries.all fun e => !(decide (e.id < id) && match e.storeRange with
      | some (x, k) => decide (x < a + n) && decide (a < x + k)
      | none => false)

/-- A CINV.llc or CWB whose stores have been performed completes. -/
def State.finishCache (s : State) (bay : Nat) : State :=
  match (s.bay bay).cacheWait with
  | none => s
  | some (_, a, n, drop) =>
    let s1 := (s.onBay bay fun b => { b with cacheWait := none }).llcClean (s.lineIn (s.partOf bay) (s.bay bay).asid a n) drop
    if drop then (s1.dropRange bay a n).releaseRange bay a n else s1

/-! ## RDSYS and WRSYS (R295, R368) -/

/-- A system register of a bay (R368). -/
def State.readSystem (s : State) (bay n : Nat) : Word :=
  let b := s.bay bay
  let p := s.part (s.partOf bay)
  let d := s.die (dieOf bay)
  if n < 0x100 then (if b.empty then 0 else s.readSpecialNow bay false n)
  else match n with
  | 0x100 => b.cause
  | 0x101 => b.trappc
  | 0x102 => b.info0
  | 0x103 => b.info1
  | 0x104 => b.info2
  | 0x105 => b.info3
  | 0x106 => p.trapvec
  | 0x107 => if b.empty then 0 else b.ctxbase
  | 0x108 => BitVec.ofNat 64 s.pkg.frzver
  | 0x10A => if b.empty then 0 else BitVec.ofInt 64 b.beatoff
  | 0x120 => p.plandef
  | 0x121 => d.drowsyhold
  | 0x130 => p.rgnanch
  | 0x140 => p.asidtb
  | 0x141 =>
    let v := b.bform.toNat
    BitVec.ofNat 64 (Tbl.get 0 (s.bay (bits v 37 30)).forms (bits v 29 16) * 2 ^ 62 + bits v 39 0)
  | 0x142 =>
    let f := bits d.pinq.toNat 56 16
    d.pinq &&& 0x01FFFFFFFFFF0000 ||| BitVec.ofNat 64 (min 65535 (s.pinsOn false f + s.pinsOn true f))
  | 0x143 => p.fpool
  | 0x144 => p.hwtab
  | _ => 0

def execRdsys (n : BitVec 9) (d : Reg) (s : State) : Out :=
  let v := s.readSystem s.cur.bay n.toNat
  let s1 := if n.toNat = 0x004 then s.upd fun b => { b with latecnt := 0 } else s
  .next (s1.writeS d 2 v)

/-- BFORM_WRITE (R347): the form of the frame that FRAME names, in whichever bay; a write with a reserved bit, FORM = 3 or an address
that is no frame has no effect. (DEDUCED, log entry 152.) -/
def execBformWrite (bay : Nat) (v : Word) (s : State) : Out :=
  if 256 ≤ bay then .fault .absent
  else
    let w := v.toNat
    if bits w 61 40 ≠ 0 ∨ bits w 63 62 = 3 ∨ bits w 15 0 ≠ 0 ∨ bits w 39 38 ≠ 0 ∨ 24 ≤ bits w 20 16 then .next s
    else .next ((s.onBay bay fun b => { b with bform := v &&& 0xFFFFFFFFFF }).onBay (bits w 37 30) fun b =>
      { b with forms := Tbl.set 0 b.forms (bits w 29 16) (bits w 63 62) })

/-- A system register of a bay's scope written, with the fields that a write reaches (R368). -/
def State.applySystem (s : State) (bay n : Nat) (v : Word) : State :=
  let p := s.partOf bay
  let m57 : Word := v &&& 0x01FFFFFFFFFFFFFF
  match n with
  | 0x100 => s.onBay bay fun b => { b with cause := v &&& 0x7FF }
  | 0x101 => s.onBay bay fun b => { b with trappc := m57 }
  | 0x102 => s.onBay bay fun b => { b with info0 := v }
  | 0x103 => s.onBay bay fun b => { b with info1 := v }
  | 0x104 => s.onBay bay fun b => { b with info2 := v }
  | 0x105 => s.onBay bay fun b => { b with info3 := v }
  | 0x106 => s.onPart p fun x => { x with trapvec := m57 }
  | 0x109 => { s with inputs := (s.now + 1, .preemptWrite p v) :: s.inputs }
  | 0x120 => s.onPart p fun x => { x with plandef := v &&& 0xFFFF }
  | 0x121 => s.onDie (dieOf bay) fun d => { d with drowsyhold := v &&& 0xFFFFFFFF }
  | 0x130 => (s.onPart p fun x => { x with rgnanch := m57 }).mapDies fun d x => if s.partOfDie d = p then { x with sched := true } else x
  | 0x131 => { s with inputs := (s.now + 1, .rgnkillWrite p v) :: s.inputs }
  | 0x140 => s.onPart p fun x => { x with asidtb := v &&& 0x01FFFFFFFFFF0001 }
  | 0x141 => { s with inputs := (s.now + 1, .bformWrite bay v) :: s.inputs }
  | 0x142 => s.onDie (dieOf bay) fun d => { d with pinq := v &&& 0x01FFFFFFFFFF0000 }
  | 0x143 => s.onPart p fun x => { x with fpool := v &&& 0x01FFFFFFFFFF0000 }
  | 0x144 => s.onPart p fun x => { x with hwtab := v &&& 0x01FFFFFFFFF80001 }
  | _ => s

/-- A write of a system register by the handler of a bay governs from the next cycle (R295): one of a register that other bays see
too is made when that cycle begins. -/
def State.writeSystem (s : State) (bay n : Nat) (v : Word) : State :=
  if n = 0x106 ∨ 0x120 ≤ n ∧ n ≠ 0x131 ∧ n ≠ 0x141 then
    { s with inputs := (s.now + 1, .registerWrite (2 ^ 16 * (1 + bay) + n) v) :: s.inputs }
  else s.applySystem bay n v

def execWrsys (n : BitVec 9) (b : Reg) (s : State) : Out :=
  let v := s.readS b 0
  .next (if n.toNat < 0x100 then (if s.here.empty then s else s.writeSpecialAt false n.toNat v)
    else s.writeSystem s.cur.bay n.toNat v)

end Sys2Proof.Machine
end

