-- ==== Sys2Proof/Machine/ArraySlot.lean ====
section
/-!
DEFINITION. The M slot at issue: AMAC, AZERO, ADRAIN, ASWAP, AWRITE, AOP, ASUM, TMMA and the correcting instructions
(spec/13_ref_memory_array.md R265 to R276; spec/06_correcting.md R130 to R140).
-/

namespace Sys2Proof.Machine

/-! ## Operands -/

/-- A bank set: first bank and number of banks, or none when it is illegal (R266). -/
def bankSet (first nb : Nat) : Option (Nat × Nat) := if nb = 0 ∨ 256 < first + nb then none else some (first, nb)

/-- The bank set of a whole register. -/
def bankReg (v : Word) : Option (Nat × Nat) :=
  if bits v.toNat 63 17 ≠ 0 then none else bankSet (bits v.toNat 7 0) (bits v.toNat 16 8)

/-- A range that an M-slot instruction names: space 3 or 5, first byte, length, and whether it writes. -/
structure MRange where
  space : Nat
  addr : Nat
  len : Nat
  w : Bool
  deriving DecidableEq, Repr

/-- Beat rows of every bank of a set, by the side of each. -/
def beatRanges (bay b0 nb : Nat) (side : Nat → Nat) (row n : Nat) (w : Bool) : List MRange :=
  (List.range nb).map fun i => ⟨5, beatKey bay (b0 + i) (side (b0 + i)) row 0, 1024 * n, w⟩

/-- Accumulator rows of every bank of a set, in the layout of R161. -/
def accRanges (b0 nb row n : Nat) (w : Bool) : List MRange :=
  (List.range nb).map fun i => ⟨3, (b0 + i) * 2 ^ 14 + row * 2 ^ 10, 1024 * n, w⟩

/-- The frame number of a byte of beat memory in its bay. -/
def frameOf (a : Nat) : Nat := bits a 29 16

/-- The first frame of ranges that holds no ordinary form (R347). -/
def Bay.badFrame (b : Bay) (rs : List MRange) : Option Nat :=
  rs.findSome? fun r =>
    if r.space ≠ 5 then none
    else ((List.range ((r.addr + r.len - 1) / 65536 - r.addr / 65536 + 1)).map fun i => (r.addr / 65536 + i) * 65536).find?
      fun a => Tbl.get 0 b.forms (frameOf a) != 0

/-- The checks of the ranges of an in-array operation at issue (R347, R376, R104), and the operation. -/
def State.checkRanges (s : State) (array : Bool) (rs : List MRange) (go : State) : State :=
  let b := s.here
  if b.lent && rs.any (fun r => r.space == 3 && bits r.addr 13 0 + r.len != 16384 || r.space == 3 && r.len != 1024) then s.protect
  else match (if array then b.badFrame rs else none) with
    | some a => s.raise (transReport 0x13 .array 0 7 a b.asid)
    | none => match rs.findSome? fun r => b.phaseFault 1 r.space r.addr r.len r.w with
      | some x => s.raise x
      | none => go

/-- An in-array operation is sent. -/
def State.sendArray (s : State) (p : Pfx) (tag : Option (BitVec 16)) (op : ArrayOp) (rs : List MRange) (dest src : List Nat) :
    State :=
  s.checkRanges true rs
    (s.sendBeat true p tag s.cur.bay (Config.freeWord (s.freeKey s.cur.bay s.cur.slot 101)).toNat (.array op) dest src)

/-- The numbers of R96 of n tile rows. -/
def heldRows (row n : Nat) : List Nat := (List.range n).map fun i => 32 + row + i

/-! ## AMAC (R267, R268) -/

/-- Whether a format streams (R267). -/
def streams (f : Nat) : Bool := f == 10 || f == 11 || f == 12 || f == 13 || isBLK f

/-- The bytes of scales that a pass of n rows consumes. -/
def scaleBytes (f n : Nat) : Nat := if isNBF f then 2 * n * blocksPerRow f else if isMX f then n * blocksPerRow f / 2 else 0

/-- AMAC. (DEDUCED, log entry 34.) -/
def State.amac (s : State) (o : AmacOp) (p : Pfx) (tag : Option (BitVec 16)) : State :=
  let ra := 2 * o.sp.toNat
  let set := s.readS (BitVec.ofNat 5 ra) 0
  let d := (s.readS (BitVec.ofNat 5 (ra + 1)) 1).toNat
  let f := (s.here.fmtReg s.here.handler).toNat
  let (sfmt, ssrc) := match p.fmt1 with
    | some x => (x.toNat, 0x800)
    | none => (bits f 4 0, 0x401)
  let (wfmt, wsrc) := match p.fmt2 with
    | some x => (x.toNat, 0x800)
    | none => (bits f 9 5, 0x401)
  let n := o.nm1.toNat + 1
  let g := 2 ^ o.g.toNat
  let a0 := bits d 14 11
  let wrow := bits d 10 0
  let scale := rowNum (bits d 23 20) (bits d 19 15)
  let nsc := ceilDiv (scaleBytes sfmt n) 128
  match bankReg set with
  | none => s.illegal ra
  | some (b0, nb) =>
    if !streams sfmt then s.illegal ssrc
    else if !isNBF wfmt then s.illegal wsrc
    else if 1 < bits f 11 10 then s.illegal 0x401
    else if bits d 63 24 ≠ 0 ∨ 16 < a0 + n / g ∨ (!isBLK sfmt ∧ scale ≠ 0) ∨ (isBLK sfmt ∧ 32 < bits d 19 15 + nsc) then
      s.illegal (ra + 1)
    else
      let B := g * blocksPerRow sfmt
      let rows := ceilDiv (B * (wfmt - 16)) 2 + ceilDiv B 2
      if 1536 < wrow + rows then s.protect
      else
        let src := rowNum o.t.toNat o.row.toNat
        s.sendArray p tag (.amac src n g b0 nb wrow a0 sfmt wfmt scale (bits f 11 10 == 1))
          (beatRanges s.cur.bay b0 nb s.here.worn wrow rows false ++ accRanges b0 nb a0 (n / g) true)
          [] (heldRows src n ++ heldRows scale nsc)

/-! ## Accumulator rows, glove pairs and weights (R269 to R271) -/

/-- AZERO. -/
def State.azero (s : State) (b c : Reg) (p : Pfx) (tag : Option (BitVec 16)) : State :=
  let v := (s.readS c 1).toNat
  let cnt := bits v 8 4
  match bankReg (s.readS b 0) with
  | none => s.illegal b.toNat
  | some (b0, nb) =>
    if bits v 63 9 ≠ 0 ∨ cnt = 0 ∨ 16 < cnt ∨ 16 < bits v 3 0 + cnt then s.illegal c.toNat
    else s.sendArray p tag (.azero b0 nb (bits v 3 0) cnt) (accRanges b0 nb (bits v 3 0) cnt true) [] []

/-- ADRAIN. -/
def State.adrain (s : State) (b c : Reg) (p : Pfx) (tag : Option (BitVec 16)) : State :=
  let v := (s.readS c 1).toNat
  let cnt := bits v 8 4
  let side := bits v 20 20
  match bankReg (s.readS b 0) with
  | none => s.illegal b.toNat
  | some (b0, nb) =>
    if bits v 63 24 ≠ 0 ∨ cnt = 0 ∨ 16 < cnt ∨ 16 < bits v 3 0 + cnt ∨ (bit v 22 ∧ !bit v 21) then s.illegal c.toNat
    else if 1536 < bits v 19 9 + cnt then s.protect
    else s.sendArray p tag (.adrain b0 nb (bits v 3 0) cnt (bits v 19 9) side (bit v 21) (bit v 22) (bit v 23))
      (accRanges b0 nb (bits v 3 0) cnt (bit v 23) ++ beatRanges s.cur.bay b0 nb (fun _ => side) (bits v 19 9) cnt true) [] []

/-- ASWAP. -/
def State.aswap (s : State) (b : Reg) (p : Pfx) (tag : Option (BitVec 16)) : State :=
  match bankReg (s.readS b 0) with
  | none => s.illegal b.toNat
  | some (b0, nb) => s.sendBeat false p tag s.cur.bay (beatKey s.cur.bay b0 0 0 0) (.aswap b0 nb) [] []

/-- AWRITE. -/
def State.awrite (s : State) (b c : Reg) (p : Pfx) (tag : Option (BitVec 16)) : State :=
  let ea := s.readS b 0
  let v := (s.readS c 1).toNat
  let nrow := bits v 37 28 + 1
  let row := bits v 27 17
  match (if bits v 63 38 ≠ 0 then none else bankSet (bits v 7 0) (bits v 16 8)) with
  | none => s.illegal c.toNat
  | some (b0, nb) =>
    match s.scratchEA true 128 (nb * nrow * 1024) ea with
    | .error cause => s.addrFault cause ea
    | .ok (_, off) =>
      if 1536 < row + nrow then s.protect
      else
        let off1 (k : Nat) : Nat := 1 - s.here.worn k
        s.checkRanges false (⟨1, off, nb * nrow * 1024, false⟩ :: beatRanges s.cur.bay b0 nb off1 row nrow true)
          (s.sendBeat false p tag s.cur.bay (beatKey s.cur.bay b0 (off1 b0) row 0) (.awrite off b0 nb row nrow) [] [])

/-! ## AOP and ASUM (R272, R273) -/

/-- A row register of AOP: bank set, rows, side and first row; none when it is illegal. -/
def aopReg (v : Nat) : Option (Nat × Nat × Nat × Nat × Nat) :=
  let n := bits v 35 29
  if bits v 63 36 ≠ 0 ∨ n = 0 ∨ 64 < n then none
  else (bankSet (bits v 7 0) (bits v 16 8)).map fun (b0, nb) => (b0, nb, n, bits v 28 28, bits v 27 17)

/-- Saturation of an AOP: its SAT bit, or fmt.SATD in its place for BF16 (R35, R88); integers clamp under .sat alone. -/
def State.aopSat (s : State) (o : AopOp) : Bool :=
  o.sat || (o.ty.toNat == 3 && bit (s.here.fmtReg s.here.handler).toNat 15)

/-- AOP.op. -/
def State.aop (s : State) (o : AopOp) (p : Pfx) (tag : Option (BitVec 16)) : State :=
  let op := o.op.toNat
  let d := aopReg (s.readS o.a 0).toNat
  let bv := (s.readS o.b 1).toNat
  let cv := (s.readS o.c 2).toNat
  let two := op = 0 ∨ op = 1 ∨ op = 4
  match d with
  | none => s.illegal o.a.toNat
  | some (b0, nb, n, side, row) =>
    let source (v : Nat) : Option Nat := match aopReg v with
      | some (b0', nb', n', side', r) => if b0' = b0 ∧ nb' = nb ∧ n' = n ∧ side' = side then some r else none
      | none => none
    match (if op = 6 then some 0 else source bv), (if two then source cv else some 0) with
    | none, _ => s.illegal o.b.toNat
    | _, none => s.illegal o.c.toNat
    | some ra, some rb =>
      if 1536 < row + n ∨ 1536 < ra + n ∨ 1536 < rb + n then s.protect
      else
        let bay := s.cur.bay
        let rng (r : Nat) (w : Bool) := beatRanges bay b0 nb (fun _ => side) r n w
        let c := if op = 2 then o.c.toNat else if op = 3 ∨ op = 6 then cv % 2 ^ aopWidth o.ty.toNat else 0
        s.sendArray p tag (.aop o.ty.toNat (s.aopSat o) op b0 nb side row ra rb n c)
          ((if op = 6 then [] else rng ra false) ++ (if two then rng rb false else []) ++ rng row true) [] []

/-- ASUM. -/
def State.asum (s : State) (o : AsumOp) (p : Pfx) (tag : Option (BitVec 16)) : State :=
  let v := (s.readS o.c 1).toNat
  let n := bits v 18 12
  let side := bits v 11 11
  match bankReg (s.readS o.b 0) with
  | none => s.illegal o.b.toNat
  | some (b0, nb) =>
    if bits v 63 23 ≠ 0 ∨ n = 0 ∨ 64 < n then s.illegal o.c.toNat
    else if 1536 < bits v 10 0 + n then s.protect
    else s.sendArray p tag (.asum (o.ty == 1) o.hi b0 nb (bits v 22 19) n side (bits v 10 0))
      (beatRanges s.cur.bay b0 nb (fun _ => side) (bits v 10 0) n false ++ accRanges b0 nb (bits v 22 19) 1 true) [] []

/-! ## TMMA (R274) -/

/-- The sources of a TMMA as they stand: A, B and C. -/
def State.tmmaSources (s : State) (bay : Nat) (o : TmmaOp) : List (List Row) :=
  [o.b, o.c, o.a].zipIdx.map fun (t, i) => (List.range 32).map fun j => s.readRow bay (rowNum t.toNat j) (3200 + 32 * i + j)

/-- The poison that the sources of a TMMA hold, if any (R47). -/
def State.tmmaPoison (s : State) (bay : Nat) (o : TmmaOp) : Option Report :=
  s.rowsPoisoned 6 bay (([o.b, o.c] ++ if o.z then [] else [o.a]).flatMap fun t => rowsFrom (rowNum t.toNat 0) 32)

/-- A TMMA of a bay starts: it reads its sources, or reports their poison. -/
def State.tmmaStart (s : State) (bay : Nat) (t : Tmma) : Tmma × State :=
  match s.tmmaPoison bay t.op with
  | some r => ({ t with bad := true }, s.report bay (s.bay bay).uid r)
  | none => ({ t with src := s.tmmaSources bay t.op }, s)

/-- TMMA: it starts at issue, or when the bay's previous one completes. -/
def State.tmma (s : State) (o : TmmaOp) : State :=
  let b := s.here
  if 4 ≤ b.tmmas.length then s.raiseLate ⟨0x05, BitVec.ofNat 64 (3 * 4096 + 32 + 32 * o.a.toNat), 0, 0, 0⟩
  else
    let (id, s1) := s.newOp
    let dest := heldRows (rowNum o.a.toNat 0) 32
    let src := (heldRows (rowNum o.b.toNat 0) 32 ++ heldRows (rowNum o.c.toNat 0) 32).filter fun r => !dest.contains r
    let start := b.tmmas.foldl (fun m t => max m (t.start + 1032)) s.now
    let queued : Tmma := { op := o, start, hold := id }
    let (t, s2) := if start = s.now then s1.tmmaStart s.cur.bay queued else (queued, s1)
    ((s2.wantHold id true dest).wantHold id false src).upd fun b => { b with tmmas := b.tmmas ++ [t] }

/-- The rows that a TMMA lands, with its flags. -/
def Tmma.result (t : Tmma) : List (Nat × Row) × Flags :=
  let wide (x : Nat) : Nat := if t.op.ty.toNat = 8 then x else (widen32 10 x).1
  let get (i : Nat) : List (List Nat) := (t.src.getD i []).map fun r =>
    ((elems (if t.op.ty.toNat = 8 then 32 else 16) 32 r.toNat).map wide)
  let sig : Flags := if t.op.ty.toNat = 8 then 0 else
    ((t.src.take 2).flatten.flatMap fun r => elems 16 32 r.toNat).foldl (fun f x => f ||| (widen32 10 x).2) 0
  let c := if t.op.z then List.replicate 32 (List.replicate 32 0)
    else (t.src.getD 2 []).map fun r => elems 32 32 r.toNat
  let (out, f) := tmmaRows (get 0) (get 1) c
  if t.bad then ([], 0)
  else (out.zipIdx.map fun (l, i) => (rowNum t.op.a.toNat i, BitVec.ofNat 1024 (packElems 32 l)), f ||| sig)

/-- TMMA_COMPLETE (R274): the rows land 1,032 cycles after the start, and the next TMMA reads its sources. -/
def execTmmaComplete (bay : Nat) (s : State) : Out :=
  if 256 ≤ bay then .fault .absent
  else match (s.bay bay).tmmas with
  | [] => .next s
  | t :: rest =>
    if s.now < t.start + 1032 then .next s
    else
      let (rows, f) := t.result
      let s1 := (s.onBay bay fun b => b.setFlags f).landRows bay (s.bay bay).uid t.hold rows
      match rest with
      | [] => .next (s1.onBay bay fun b => { b with tmmas := [] })
      | n :: more =>
        let (n', s2) := s1.tmmaStart bay n
        .next (s2.onBay bay fun b => { b with tmmas := n' :: more })

/-! ## Correcting instructions (R130 to R140, R275, R276) -/

/-- The tile descriptor in a register pair, or the register that holds an illegal field (R130): sA, when both do. (DESIGN CHOICE,
log entry 163.) -/
def State.tileDesc (s : State) (ra : Nat) (err div : Bool) : Except Nat TileDesc :=
  let raw := s.readS (BitVec.ofNat 5 ra) 0
  let v := raw.toNat
  let l := (s.readS (BitVec.ofNat 5 (ra + 1)) 1).toNat
  let t : TileDesc := { ncol := bits v 38 30, nrow := bits v 29 21, arow := bits v 20 17, nb := bits v 16 8, bank0 := bits v 7 0
                        errlim := bits l 63 32, divlim := bits l 31 0, raw }
  let bad (x : Nat) : Bool := 0x7F800000 < x % 2 ^ 31 || (bit x 31 && x % 2 ^ 31 != 0)
  if ra = 0 ∨ ra % 2 = 1 ∨ bits v 63 39 ≠ 0 ∨ t.ncol = 0 ∨ 256 < t.ncol ∨ t.nrow = 0 ∨ 256 < t.nrow ∨ t.nb = 0
      ∨ 256 < t.bank0 + t.nb ∨ 16 < t.arow + t.h then .error ra
  else if (err ∧ bad t.errlim) ∨ (div ∧ bad t.divlim) then .error (ra + 1)
  else .ok t

/-- The accumulator rows that hold rows of a tile, bank by bank. -/
def TileDesc.ranges (t : TileDesc) (w : Bool) : List MRange :=
  (List.range (min t.nb t.nrow)).flatMap fun i => accRanges (t.bank0 + i) 1 t.arow (ceilDiv (t.nrow - i) t.nb) w

/-- A tile descriptor whose instruction runs as `far` says past the first row of a tile, or the register that is illegal:
rows that run past row 31 name sA, ahead of the limits in sA + 1, and whatever the descriptor holds when `alone` says so (R131). -/
def State.tileDescOver (s : State) (ra : Nat) (err div alone : Bool) (far : TileDesc → Bool) : Except Nat TileDesc :=
  if alone then .error ra
  else match s.tileDesc ra false false with
    | .error r => .error r
    | .ok t => if far t then .error ra else s.tileDesc ra err div

/-- Whether the first rows and the keys of a correcting instruction run past row 31, whatever the descriptor holds. -/
def corrAlone (o : CorrOp) : Bool :=
  decide (32 < 8 * o.k8.toNat + (o.nm1.toNat + 1)) || decide (32 < 8 * o.q8.toNat + (o.nm1.toNat + 1))

/-- Whether its keys, values or outputs run past row 31. -/
def corrOver (o : CorrOp) (t : TileDesc) : Bool :=
  decide (32 < 8 * o.k8.toNat + (o.nm1.toNat + 1) * t.gk) || decide (32 < 8 * o.q8.toNat + (o.nm1.toNat + 1) * t.gv)

/-- CRESP. -/
def State.cresp (s : State) (o : CorrOp) (p : Pfx) (tag : Option (BitVec 16)) : State :=
  let ra := 2 * o.sp.toNat
  match s.tileDescOver ra false false (corrAlone o) (corrOver o) with
  | .error r => s.illegal r
  | .ok t =>
    let n := o.nm1.toNat + 1
    let key := rowNum o.tk.toNat (8 * o.k8.toNat)
    let dst := rowNum o.tq.toNat (8 * o.q8.toNat)
    s.sendArray p tag (.cresp t key n dst) (t.ranges false) (heldRows dst (n * t.gv)) (heldRows key (n * t.gk))

/-- COPA (c = false) and COPA.C. An illegal step register is named ahead of an illegal descriptor. (DESIGN CHOICE, log entry
144.) -/
def State.copa (s : State) (c : Bool) (o : CorrOp) (p : Pfx) (tag : Option (BitVec 16)) : State :=
  let ra := 2 * o.sp.toNat
  let bn := o.bn.toNat
  let b := s.here.step bn
  let div := divMode b
  if corrAlone o then s.illegal ra
  else if div = 3 ∨ (c ∧ bit b.toNat 10) then s.illegal (544 + bn)
  else match s.tileDescOver ra (div ≠ 0) (div ≠ 0) false (corrOver o) with
  | .error r => s.illegal r
  | .ok t =>
    let n := o.nm1.toNat + 1
    let key := rowNum o.tk.toNat (8 * o.k8.toNat)
    let val := rowNum o.tq.toNat (8 * o.q8.toNat)
    let src := heldRows key (n * t.gk) ++ heldRows val (n * t.gv) ++ [544 + bn]
    if c then s.sendArray p tag (.copac t key val n div) (t.ranges true) [] src
    else
      let err := if o.e then some (rowNum (o.tq.toNat + 1) (8 * o.q8.toNat)) else none
      let beta := if bit b.toNat 9 then [32 + rowNum (bits b.toNat 3 0) (bits b.toNat 8 4)] else []
      s.sendArray p tag (.copa t key val n b err) (t.ranges true) (match err with
        | some e => heldRows e (n * t.gv)
        | none => []) (src ++ beta)

/-- CCHK. -/
def State.cchk (s : State) (o : CchkOp) (p : Pfx) (tag : Option (BitVec 16)) : State :=
  let ra := 2 * o.sp.toNat
  let n := if o.e then o.nm1.toNat + 1 else 0
  match s.tileDescOver ra o.e true (decide (32 < o.re.toNat + n)) fun t => decide (32 < o.re.toNat + n * t.gv) with
  | .error r => s.illegal r
  | .ok t =>
    let err := rowNum o.te.toNat o.re.toNat
    s.sendArray p tag (.cchk t err n) (t.ranges false) [] (heldRows err (n * t.gv))

/-- CSNAP.SV and CSNAP.LD. An illegal descriptor is named ahead of a reserved bit of sD. (DESIGN CHOICE, log entry 164.) -/
def State.csnap (s : State) (ld : Bool) (a b : Reg) (p : Pfx) (tag : Option (BitVec 16)) : State :=
  let v := (s.readS b 2).toNat
  match s.tileDesc a.toNat false false with
  | .error r => s.illegal r
  | .ok t =>
    let side := bits v 11 11
    let rowb := bits v 10 0
    if bits v 63 12 ≠ 0 then s.illegal b.toNat
    else if 1536 < rowb + t.h then s.protect
    else
      let acc := accRanges t.bank0 (min t.nb t.nrow) t.arow t.h ld
      let beat := beatRanges s.cur.bay t.bank0 (min t.nb t.nrow) (fun _ => side) rowb t.h (!ld)
      s.sendArray p tag (.csnap ld t side rowb) (if ld then beat ++ acc else acc ++ beat) [] []

def execAmac (o : AmacOp) (p : Pfx) (s : State) : Out := .next (s.amac o p none)
def execAmac64 (o : AmacOp) (p : Pfx) (x : Stamp) (s : State) : Out := .next (s.amac o p (some x.tag))
def execAzero (b c : Reg) (p : Pfx) (s : State) : Out := .next (s.azero b c p none)
def execAzero64 (b c : Reg) (x : Stamp) (s : State) : Out := .next (s.azero b c .empty (some x.tag))
def execAdrain (b c : Reg) (p : Pfx) (s : State) : Out := .next (s.adrain b c p none)
def execAdrain64 (b c : Reg) (x : Stamp) (s : State) : Out := .next (s.adrain b c .empty (some x.tag))
def execAswap (b : Reg) (p : Pfx) (s : State) : Out := .next (s.aswap b p none)
def execAswap64 (b : Reg) (x : Stamp) (s : State) : Out := .next (s.aswap b .empty (some x.tag))
def execAwrite (b c : Reg) (p : Pfx) (s : State) : Out := .next (s.awrite b c p none)
def execAwrite64 (b c : Reg) (x : Stamp) (s : State) : Out := .next (s.awrite b c .empty (some x.tag))
def execAop (o : AopOp) (p : Pfx) (s : State) : Out := .next (s.aop o p none)
def execAop64 (o : AopOp) (x : Stamp) (s : State) : Out := .next (s.aop o .empty (some x.tag))
def execAsum (o : AsumOp) (p : Pfx) (s : State) : Out := .next (s.asum o p none)
def execAsum64 (o : AsumOp) (x : Stamp) (s : State) : Out := .next (s.asum o .empty (some x.tag))
def execTmma (o : TmmaOp) (s : State) : Out := .next (s.tmma o)
def execTmma64 (o : TmmaOp) (_stamp : BitVec 16) (s : State) : Out := .next (s.tmma o)
def execCresp (o : CorrOp) (p : Pfx) (s : State) : Out := .next (s.cresp o p none)
def execCresp64 (o : CorrOp) (x : Stamp) (s : State) : Out := .next (s.cresp o .empty (some x.tag))
def execCopa (o : CorrOp) (p : Pfx) (s : State) : Out := .next (s.copa false o p none)
def execCopa64 (o : CorrOp) (x : Stamp) (s : State) : Out := .next (s.copa false o .empty (some x.tag))
def execCopaC (o : CorrOp) (p : Pfx) (s : State) : Out := .next (s.copa true o p none)
def execCopaC64 (o : CorrOp) (x : Stamp) (s : State) : Out := .next (s.copa true o .empty (some x.tag))
def execCchk (o : CchkOp) (p : Pfx) (s : State) : Out := .next (s.cchk o p none)
def execCchk64 (o : CchkOp) (x : Stamp) (s : State) : Out := .next (s.cchk o .empty (some x.tag))
def execCsnapSv (a b : Reg) (p : Pfx) (s : State) : Out := .next (s.csnap false a b p none)
def execCsnapSv64 (a b : Reg) (x : Stamp) (s : State) : Out := .next (s.csnap false a b .empty (some x.tag))
def execCsnapLd (a b : Reg) (p : Pfx) (s : State) : Out := .next (s.csnap true a b p none)
def execCsnapLd64 (a b : Reg) (x : Stamp) (s : State) : Out := .next (s.csnap true a b .empty (some x.tag))

end Sys2Proof.Machine
end

