-- ==== Sys2Proof/Machine/Command.lean ====
section
/-!
DEFINITION. Engine commands at issue: their checks, phase sets, acceptance and refusal (spec/14_ref_control_engines.md R296 to
R308; spec/07_tack_room.md R153, R160 to R163; spec/04_tile_core.md R103 to R105), XPUSH, WAITW and PHASE.
-/

namespace Sys2Proof.Machine

/-! ## Ranges of a command (R104) -/

/-- The ranges that a command on a lease reads and writes, from its parameter block and the generator of its engine: sources
in operand order, then destinations. -/
def blockRanges (k : CmdKind) (bay : Nat) (gen : Option KvGen) (ps : List Byte) : List MRange :=
  let w := parWord ps
  let r (x : SAddr) (n : Nat) (wr : Bool) : MRange := ⟨x.space, x.addr, n, wr⟩
  let _ := bay
  match k with
  | .xred =>
    let n := bits (w 2) 15 0
    [r (spaceAddr (w 0)) (4 * n) false, r (spaceAddr (w 1)) (4 * bits (w 2) 24 16 * bits (w 2) 63 32) false,
     ⟨3, bits (w 3) 13 6 * 2 ^ 14 + bits (w 3) 5 2 * 2 ^ 10, 4 * bits (w 2) 24 16, true⟩]
  | .xsrt =>
    let rb := recBytes (bits (w 2) 28 26) (bits (w 2) 30 29)
    let n := bits (w 2) 25 0
    let kk := bits (w 2) 63 32
    [r (spaceAddr (w 0)) (rb * n) false, r (spaceAddr (w 1)) (rb * if kk = 0 then n else min kk n) true]
  | .xmrg =>
    let rb := recBytes (bits (w 1) 28 26) (bits (w 1) 30 29)
    let runs := (List.range (bits (w 1) 20 16)).map fun i => (spaceAddr (w (4 + 2 * i)), w (5 + 2 * i) % 2 ^ 32)
    let total := runs.foldl (fun t x => t + x.2) 0
    let kk := bits (w 1) 63 32
    (runs.map fun x => r x.1 (rb * x.2) false) ++ [r (spaceAddr (w 0)) (rb * if kk = 0 then total else min kk total) true]
  | .xsolv =>
    let c := bits (w 2) 37 32 + 1
    let ncol := bits (w 3) 8 0 + 1
    let ks := if bits (w 1) 47 32 = 0 then 4 * ncol else bits (w 1) 47 32
    let ts := if bits (w 1) 63 48 = 0 then 4 * c else bits (w 1) 63 48
    [⟨1, bits (w 0) 19 0, (c - 1) * ks + 4 * ncol, false⟩]
      ++ (if bit (w 2) 48 then [⟨1, bits (w 1) 19 0, 4 * c, false⟩] else [])
      ++ [⟨1, bits (w 0) 51 32, (c - 1) * ts + 4 * c, true⟩]
  | .xcoll =>
    let es := if bits (w 2) 39 36 = 1 then 2 else 4
    let cnt := bits (w 2) 31 0
    let op := bits (w 2) 35 32
    let nr := bits (w 3) 31 16
    (if op = 4 ∧ bits (w 3) 15 0 ≠ bits (w 3) 47 32 then [] else [r (spaceAddr (w 0)) (es * cnt * if op = 2 then nr else 1) false])
      ++ [r (spaceAddr (w 1)) (es * cnt * if op = 3 then nr else 1) true]
  | .xatt => match gen with
    | none => []
    | some g =>
      let nq := bits (w 0) 43 40 + 1
      let b0 := w 1 % 2 ^ 32 / 64
      let b1 := (w 1 % 2 ^ 32 + bits (w 1) 63 32 - 1) / 64
      [⟨1, bits (w 0) 19 0, 2 * g.dh * nq, false⟩, ⟨1, g.tbl + 16 * b0, 16 * (b1 + 1 - b0), false⟩,
       ⟨1, bits (w 0) 39 20, nq * (16 + 4 * g.dh), true⟩]
  | .xkvt => [⟨1, bits (w 2) 19 0, 2 * 32 * 2 ^ bits (w 0) 46 45, false⟩]
  | .xsplc => match gen with
    | none => []
    | some g => [⟨1, g.tbl + 16 * bits (w 1) 43 32, 16 * ceilDiv (bits (w 2) 16 0) 64, true⟩]
  | _ => []

/-- The ranges of a block-transfer command. (DEDUCED, log entry 47.) -/
def CmdKind.ranges : CmdKind → List MRange
  | .xcpy src dst len => [⟨src.space, src.addr, len, false⟩, ⟨dst.space, dst.addr, len, true⟩]
  | .xgth own tbl rlen nrows n => [⟨tbl.space, tbl.addr, rlen * nrows, false⟩, ⟨own.space, own.addr, rlen * n, true⟩]
  | .xsct own tbl rlen nrows n => [⟨own.space, own.addr, rlen * n, false⟩, ⟨tbl.space, tbl.addr, rlen * nrows, true⟩]
  | _ => []

/-- The bytes of the parameter block of a command; that of XMRG has an entry for each run (R304). -/
def State.blockSize (s : State) (bay : Nat) (k : CmdKind) (par : Nat) : Nat :=
  if k = .xmrg then 32 + 16 * bits (parWord (s.scratchBytes bay par k.blockLen) 1) 20 16 else k.blockLen

/-- Every range of a command whose parameter block holds `ps`, in the order of R104: parameter block, sources, destinations,
completion word. -/
def State.cmdRanges (s : State) (bay : Nat) (k : CmdKind) (par lease : Nat) (ps : List Byte) (word : Option Nat) : List MRange :=
  let l := s.leaseOf (dieOf bay) lease
  let gen := if l.state = 2 ∨ l.state = 3 then (s.engOf (dieOf bay) l.unit).gen else none
  let n := s.blockSize bay k par
  (if n = 0 then [] else [⟨1, par, n, false⟩]) ++ k.ranges ++ blockRanges k bay gen ps
    ++ (match word with
      | some off => [⟨1, off, 8, true⟩]
      | none => [])

/-- Whether a range lies in a space that phase sets check (R103). -/
def MRange.checked (r : MRange) : Bool := r.space == 1 || r.space == 2 || r.space == 3 || r.space == 5

/-- The phase agent of a command: a channel, or a lease record; none for SPAWN. -/
def agentOf (k : CmdKind) (ch lease : Nat) : Option Nat :=
  match k with
  | .xcpy _ _ _ | .xgth _ _ _ _ _ | .xsct _ _ _ _ _ => some (0x10 + ch)
  | .spawn _ => none
  | _ => some (0x1000 + lease)

/-- The out-of-phase fault of a command (R104, R105). The fault of a SPAWN, which has no agent, names 0x18. (DESIGN CHOICE, log
entry 147.) -/
def State.cmdPhase (s : State) (bay : Nat) (k : CmdKind) (ch lease : Nat) (rs : List MRange) : Option Report :=
  let b := s.bay bay
  let agent := agentOf k ch lease
  if b.phaseOn then match agent with
    | some a => (rs.filter (·.checked)).findSome? fun r => b.phaseFault a r.space r.addr r.len r.w
    | none => none
  else if b.det then (rs.find? (·.checked)).map fun r =>
    ⟨0x0B, BitVec.ofNat 64 (agent.getD 0x18), BitVec.ofNat 64 r.addr, BitVec.ofNat 64 (2 * r.len + if r.w then 1 else 0), 0⟩
  else none

/-! ## Acceptance (R297, R153, R160) -/

/-- The completion-word address: an own-scratch offset or a global address, or its fault (R154). -/
def State.wordAddr (s : State) (wg : Bool) (w : Word) : Except Report Word :=
  let slot := BitVec.ofNat 64 s.cur.slot
  if wg then (if w.toNat % 8 ≠ 0 then .error ⟨0x12, 0, w, 0, slot⟩ else .ok w)
  else match s.scratchEA true 8 8 w with
    | .error cause => .error ⟨cause, 0, w, 0, slot⟩
    | .ok (_, off) => .ok (BitVec.ofNat 64 off)

/-- A command with what it read at issue. -/
def State.newCmd (s : State) (o : EOp) (k : CmdKind) (par lease id : Nat) (word : Word) (ops : List Word) : Cmd :=
  let b := s.here
  let (st, sc) := pfxStream o.p
  let p := s.partOf s.cur.bay
  { id, bay := s.cur.bay, task := b.uid, kind := k, issued := s.now, abs := s.now, acq := o.acq, rel := o.rel, wg := o.wg
    scope := sc, stream := st, par, word, lease, part := p, asid := b.asid, node := b.node, priv := b.handler
    order := (s.part p).engCount, item := s.item, ops }

/-- A command that has passed its checks is accepted, or refused with STATUS 5 when its timetable has no room. -/
def State.acceptCmd (s : State) (e : Engine) (room : Nat) (queued : Option (Nat × Nat)) (c : Cmd) : State :=
  let s1 := s.onPart c.part fun p => { p with engCount := p.engCount + 1 }
  let refuse : State :=
    let w : Engine := .btx c.bay wordCh
    s1.setCmds w (s1.cmds w ++ [{ c with result := some (5, 0), next := s.now + 1 }])
  match queued with
  | some (die, i) =>
    if room ≤ (s.leaseOf die i).cmds.length then refuse
    else s1.onLease die i fun l => { l with cmds := insertBy (·.abs) c l.cmds }
  | none => if room ≤ (s.cmds e).length then refuse else s1.setCmds e (joinCmds c (s1.cmds e))

/-- The checks of steps 3 and 5 of R297 and the acceptance of a command; one whose ranges stand in a poisoned block is not
accepted (R47). (DEDUCED, log entry 45.) -/
def State.sendCmd (s : State) (o : EOp) (k : CmdKind) (ch par lease : Nat) (e : Engine) (room : Nat)
    (queued : Option (Nat × Nat)) (pre : Option Report) (ops : List Word) : State :=
  match s.wordAddr o.wg (s.readS o.c 3) with
  | .error r => s.raise r
  | .ok word => match pre with
    | some r => s.raise r
    | none =>
      let bay := s.cur.bay
      let n := s.blockSize bay k par
      match s.cmdPhase bay k ch lease (s.cmdRanges bay k par lease (s.scratchBytes bay par n) (if o.wg then none else some word.toNat)) with
      | some r => s.raise r
      | none => match (if s.here.phaseOn || s.here.det then s.sectorReport 7 bay par n else none) with
        | some r => s.report bay s.here.uid r s.here.handler
        | none =>
          let (id, s1) := s.newOp
          s1.acceptCmd e room queued (s1.newCmd o k par lease id word ops)

/-- Whether n bytes from an address stay in their space, for the spaces that are checked at issue (R161, R299). -/
def State.inSpace (s : State) (a : SAddr) (n : Nat) : Bool :=
  let bay := s.cur.bay
  match a.space with
  | 1 => decide (a.addr + n ≤ 2 ^ 20)
  | 2 => decide (a.addr < 2 ^ 28) && s.inPart (s.partOf bay) (a.addr / 2 ^ 20) && decide (a.addr % 2 ^ 20 + n ≤ 2 ^ 20)
  | 3 => decide (a.addr + n ≤ 2 ^ 22)
  | 5 => a.addr / 2 ^ 30 == bay && decide (a.addr % 2 ^ 21 + n ≤ 1536 * 1024)
  | _ => true

/-- XCPY, XGTH and XSCT: a command on a channel with its control word's findings (R299). -/
def State.btxCmd (s : State) (ch : BitVec 3) (o : EOp) (bad : Bool) (a0 a1 : SAddr) (n0 n1 unit : Nat) (k : CmdKind)
    (ops : List Word) : State :=
  let row (a : SAddr) : Bool := a.space == 3 || a.space == 5
  if s.here.empty then s.protect
  else if bad then s.illegal (o.b.toNat + 2)
  else if (row a0 || row a1) && (a0.addr % 128 != 0 || a1.addr % 128 != 0 || unit % 128 != 0) then
    s.addrFault 0x12 (BitVec.ofNat 64 (if a0.addr % 128 ≠ 0 then a0.addr else a1.addr))
  else if !s.inSpace a0 n0 then s.addrFault 0x11 (BitVec.ofNat 64 a0.addr)
  else if !s.inSpace a1 n1 then s.addrFault 0x11 (BitVec.ofNat 64 a1.addr)
  else s.sendCmd o k ch.toNat 0 0 (.btx s.cur.bay ch.toNat) 64 none none ops

/-- The three registers of a block-transfer command. -/
def State.triple (s : State) (o : EOp) : Word × Word × Word := (s.readS o.b 0, s.readS (o.b + 1) 1, s.readS (o.b + 2) 2)

/-- XCPY (R299, R300). -/
def State.xcpy (s : State) (ch : BitVec 3) (o : EOp) : State :=
  let (a, d, ctl) := s.triple o
  let w := ctl.toNat
  let src : SAddr := ⟨bits w 34 32, a.toNat⟩
  let dst : SAddr := ⟨bits w 37 35, d.toNat⟩
  let len := bits w 31 0
  s.btxCmd ch o (bits w 63 38 != 0 || decide (5 < src.space) || decide (5 < dst.space) || len == 0) src dst len len len
    (.xcpy src dst len) [a, d, ctl, s.readS o.c 3]

/-- XGTH and XSCT (R299, R301). -/
def State.xgather (s : State) (scatter : Bool) (ch : BitVec 3) (nm1 : BitVec 8) (o : EOp) : State :=
  let (a, t, ctl) := s.triple o
  let w := ctl.toNat
  let n := nm1.toNat + 1
  let own : SAddr := ⟨bits w 21 19, a.toNat⟩
  let tbl : SAddr := ⟨bits w 18 16, t.toNat⟩
  let rlen := bits w 15 0
  let nrows := bits w 63 32
  s.btxCmd ch o (bits w 31 22 != 0 || decide (5 < own.space) || decide (5 < tbl.space) || rlen == 0 || nrows == 0) own tbl
    (rlen * n) (rlen * nrows) rlen (if scatter then .xsct own tbl rlen nrows n else .xgth own tbl rlen nrows n)
    [a, t, ctl, s.readS o.c 3]

/-- The class that serves a command (R141). -/
def CmdKind.cls : CmdKind → Nat
  | .xsolv => 0
  | .xsrt | .xmrg => 1
  | .xred => 2
  | .xqnt => 3
  | .xcoll => 4
  | .xcmp | .xdcmp => 6
  | _ => 5

/-- A command on a leased engine (R297). -/
def State.tackCmd (s : State) (o : EOp) (k : CmdKind) : State :=
  let h := s.readS o.a 1
  let v := s.readS o.b 2
  let done : Bool := match k with
    | .xsplcDone _ => true
    | _ => false
  if s.here.empty then s.protect
  else if done ∧ bits v.toNat 63 4 ≠ 0 then s.illegal o.b.toNat
  else match s.useHandle h with
  | .error r => s.raise r
  | .ok (die, i) =>
    let l := s.leaseOf die i
    if l.cls ≠ k.cls then s.raise ⟨0x11, 0x0202, 0, 0, 0⟩
    else
      let pre : Option Report := if !done && (bits v.toNat 63 20 != 0 || v.toNat % 8 != 0)
        then some ⟨0x12, 0, v, 0, BitVec.ofNat 64 s.cur.slot⟩ else none
      s.sendCmd o (match k with
        | .xsplcDone _ => .xsplcDone (v.toNat % 16)
        | x => x) 0 (if done then 0 else v.toNat) i (.tack die l.unit) 16 (if l.state = 1 then some (die, i) else none) pre
        [h, v, s.readS o.c 3]

/-- SPAWN (R308). -/
def State.spawn (s : State) (o : EOp) : State :=
  let r := s.readS o.b 0
  if s.here.empty then s.protect
  else if r.toNat % 64 ≠ 0 then s.addrFault 0x12 r
  else s.sendCmd o (.spawn r) 8 0 0 (.btx s.cur.bay spawnCh) 64 none none [r, s.readS o.c 3]

def execXcpy (ch : BitVec 3) (o : EOp) (s : State) : Out := .next (s.xcpy ch o)
def execXcpy64 (ch : BitVec 3) (o : EOp) (_stamp : BitVec 16) (s : State) : Out := .next (s.xcpy ch o)
def execXgth (ch : BitVec 3) (n : BitVec 8) (o : EOp) (s : State) : Out := .next (s.xgather false ch n o)
def execXgth64 (ch : BitVec 3) (n : BitVec 8) (o : EOp) (_stamp : BitVec 16) (s : State) : Out := .next (s.xgather false ch n o)
def execXsct (ch : BitVec 3) (n : BitVec 8) (o : EOp) (s : State) : Out := .next (s.xgather true ch n o)
def execXsct64 (ch : BitVec 3) (n : BitVec 8) (o : EOp) (_stamp : BitVec 16) (s : State) : Out := .next (s.xgather true ch n o)
def execXred (o : EOp) (s : State) : Out := .next (s.tackCmd o .xred)
def execXred64 (o : EOp) (_stamp : BitVec 16) (s : State) : Out := .next (s.tackCmd o .xred)
def execXsrt (o : EOp) (s : State) : Out := .next (s.tackCmd o .xsrt)
def execXsrt64 (o : EOp) (_stamp : BitVec 16) (s : State) : Out := .next (s.tackCmd o .xsrt)
def execXmrg (o : EOp) (s : State) : Out := .next (s.tackCmd o .xmrg)
def execXmrg64 (o : EOp) (_stamp : BitVec 16) (s : State) : Out := .next (s.tackCmd o .xmrg)
def execXsolv (o : EOp) (s : State) : Out := .next (s.tackCmd o .xsolv)
def execXsolv64 (o : EOp) (_stamp : BitVec 16) (s : State) : Out := .next (s.tackCmd o .xsolv)
def execXcoll (o : EOp) (s : State) : Out := .next (s.tackCmd o .xcoll)
def execXcoll64 (o : EOp) (_stamp : BitVec 16) (s : State) : Out := .next (s.tackCmd o .xcoll)
def execXqnt (o : EOp) (s : State) : Out := .next (s.tackCmd o .xqnt)
def execXqnt64 (o : EOp) (_stamp : BitVec 16) (s : State) : Out := .next (s.tackCmd o .xqnt)
def execXcmp (o : EOp) (s : State) : Out := .next (s.tackCmd o .xcmp)
def execXcmp64 (o : EOp) (_stamp : BitVec 16) (s : State) : Out := .next (s.tackCmd o .xcmp)
def execXdcmp (o : EOp) (s : State) : Out := .next (s.tackCmd o .xdcmp)
def execXdcmp64 (o : EOp) (_stamp : BitVec 16) (s : State) : Out := .next (s.tackCmd o .xdcmp)
def execXatt (o : EOp) (s : State) : Out := .next (s.tackCmd o .xatt)
def execXatt64 (o : EOp) (_stamp : BitVec 16) (s : State) : Out := .next (s.tackCmd o .xatt)
def execXkvt (o : EOp) (s : State) : Out := .next (s.tackCmd o .xkvt)
def execXkvt64 (o : EOp) (_stamp : BitVec 16) (s : State) : Out := .next (s.tackCmd o .xkvt)
def execXsplc (o : EOp) (s : State) : Out := .next (s.tackCmd o .xsplc)
def execXsplc64 (o : EOp) (_stamp : BitVec 16) (s : State) : Out := .next (s.tackCmd o .xsplc)
def execXsplcDone (o : EOp) (s : State) : Out := .next (s.tackCmd o (.xsplcDone 0))
def execXsplcDone64 (o : EOp) (_stamp : BitVec 16) (s : State) : Out := .next (s.tackCmd o (.xsplcDone 0))
def execSpawn (o : EOp) (s : State) : Out := .next (s.spawn o)
def execSpawn64 (o : EOp) (_stamp : BitVec 16) (s : State) : Out := .next (s.spawn o)

/-- XPUSH (R163): a push onto a full queue is a missed-operand fault. -/
def execXpush (ch : BitVec 3) (b : Reg) (s : State) : Out :=
  let c := Tbl.get Channel.reset s.here.btx ch.toNat
  let v := (s.readS b 0).toNat % 2 ^ 32
  .next (if s.here.empty then s.protect
    else if 256 ≤ c.queue.length then s.raise ⟨0x07, BitVec.ofNat 64 (0x100 + ch.toNat), 0, 0, 0⟩
    else s.upd fun b => { b with btx := Tbl.set Channel.reset b.btx ch.toNat { c with queue := c.queue ++ [(v, s.now)] } })

/-- WAITW (R290): every accepted command of the channel whose range holds the byte before sA has filled up to sA. -/
def execWaitw (ch : BitVec 3) (b : Reg) (s : State) : Out :=
  let v := (s.readS b 0).toNat
  let a := bits v 56 0
  .next (if bits v 63 57 ≠ 0 then s.illegal b.toNat
    else if (s.cmds (.btx s.cur.bay ch.toNat)).all fun c => match c.dest with
        | some (d, n) => !(decide (d.addr < a) && decide (a ≤ d.addr + n)) || decide (a ≤ d.addr + c.wm)
        | none => true
      then s else s.updCur fun c => { c with wait := some .plain })

/-! ## PHASE (R103, R104, R287) -/

/-- The range record at an offset, or the offset of its bad field. -/
def State.phaseRange (s : State) (bay off : Nat) : Except Nat PhaseRange :=
  let w := s.scratchNum bay (off + 12) 4
  let len := s.scratchNum bay (off + 8) 4
  let sp := bits w 3 1
  if len = 0 then .error (off + 8)
  else if bits w 31 4 ≠ 0 ∨ !(sp = 1 ∨ sp = 2 ∨ sp = 3 ∨ sp = 5) then .error (off + 12)
  else .ok ⟨s.scratchNum bay off 8, len, sp, bit w 0⟩

/-- n range records from an offset. -/
def State.phaseRanges (s : State) (bay : Nat) : Nat → Nat → Except Nat (List PhaseRange)
  | 0, _ => .ok []
  | n + 1, off => match s.phaseRange bay off with
    | .error e => .error e
    | .ok r => match s.phaseRanges bay n (off + 16) with
      | .error e => .error e
      | .ok rs => .ok (r :: rs)

/-- Whether an agent number may stand in a phase table of a bay: of a tack engine, any record that is not FREE. (DEDUCED, log entry
60.) (DESIGN CHOICE, log entry 161.) -/
def State.agentOk (s : State) (bay a : Nat) : Bool :=
  a == 0 || a == 1 || (decide (0x10 ≤ a) && decide (a ≤ 0x17))
    || (decide (0x1000 ≤ a) && decide (a < 0x2000) && (s.leaseOf (dieOf bay) (a - 0x1000)).state != 0)

/-- n agent records from an offset, after those whose numbers are given, of agents that a test accepts. (DEDUCED, log entry 45.) (DEDUCED,
log entry 61.) -/
def State.phaseAgents (s : State) (bay : Nat) (ok : Nat → Bool) : Nat → Nat → List Nat → Except Nat (List PhaseAgent)
  | 0, _, _ => .ok []
  | n + 1, off, seen =>
    let w := s.scratchNum bay off 8
    let a := bits w 15 0
    let k := bits w 20 16
    if bits w 63 21 ≠ 0 ∨ 16 < k ∨ !ok a ∨ seen.contains a then .error off
    else match s.phaseRanges bay k (off + 8) with
      | .error e => .error e
      | .ok rs => match s.phaseAgents bay ok n (off + 8 + 16 * k) (a :: seen) with
        | .error e => .error e
        | .ok l => .ok (⟨a, rs⟩ :: l)

/-- The bytes that a phase table takes. -/
def phaseBytes (l : List PhaseAgent) : Nat := l.foldl (fun n a => n + 8 + 16 * a.ranges.length) 8

/-- Whether two ranges overlap, one of them written. -/
def phaseClash (x y : PhaseRange) : Bool :=
  x.space == y.space && (x.w || y.w) && (x.space != 2 || x.base / 2 ^ 20 == y.base / 2 ^ 20)
    && decide (x.base < y.base + y.len) && decide (y.base < x.base + x.len)

/-- The first pair of ranges of different agents that clash, in the order of the table: agent, range, agent, range. (DESIGN CHOICE,
log entry 162.) -/
def phaseOverlap : List PhaseAgent → Option (Nat × Nat × Nat × Nat)
  | [] => none
  | a :: rest =>
    match a.ranges.zipIdx.findSome? fun (x, i) => rest.findSome? fun b =>
        (b.ranges.findIdx? fun y => phaseClash x y).map fun j => (a.agent, i, b.agent, j) with
    | some r => some r
    | none => phaseOverlap rest

/-- The commands of a task that are accepted and not finished, with their engines. -/
def State.cmdsOf (s : State) (bay uid : Nat) : List (Engine × Cmd) :=
  let mine (e : Engine) : List (Engine × Cmd) := ((s.cmds e).filter fun c => c.bay == bay && c.task == uid).map fun c => (e, c)
  ((List.range 9).flatMap fun ch => mine (.btx bay ch))
    ++ ((s.die (dieOf bay)).engines.flatMap fun x => mine (.tack (dieOf bay) x.1))

/-- The commands of a task that the records of its queued leases hold, with die and record (R153). -/
def State.heldOf (s : State) (uid : Nat) : List (Nat × Nat × Cmd) :=
  (s.leasesOf uid).flatMap fun x => (s.leaseOf x.1 x.2).cmds.map fun c => (x.1, x.2, c)

/-- A command that a record holds fails: only its word is left to write. -/
def State.failHeld (s : State) (die i : Nat) (c : Cmd) (cause : Nat) : State :=
  let w : Engine := .btx c.bay wordCh
  (s.onLease die i fun l => { l with cmds := l.cmds.filter fun x => x.id != c.id }).setCmds w
    (s.cmds w ++ [{ c with result := some (4, cause), count := 0, next := s.now + 1 }])

/-- The out-of-phase fault of an accepted command under the table in force. -/
def State.cmdOut (s : State) (bay ch : Nat) (c : Cmd) : Option Report :=
  let n := s.blockSize bay c.kind c.par
  let ps := if c.started.isSome then c.params else s.scratchBytes bay c.par n
  s.cmdPhase bay c.kind ch c.lease (s.cmdRanges bay c.kind c.par c.lease ps (if c.wg then none else some c.word.toNat))

/-- Commands in flight, those that wait in a lease record among them, that the table in force does not cover fail with
out-of-phase faults (R104, R155). -/
def State.recheckPhase (s : State) (bay : Nat) : State :=
  let uid := (s.bay bay).uid
  let s1 := (s.cmdsOf bay uid).foldl (fun s x =>
    let c := x.2
    let ch := match x.1 with
      | .btx _ k => k
      | _ => 0
    if c.result.isSome then s
    else match s.cmdOut bay ch c with
      | some r => (s.abortCmd x.1 c 4 0x0B c.count).report bay c.task r
      | none => s) s
  (s.heldOf uid).foldl (fun s x => match s.cmdOut bay 0 x.2.2 with
    | some r => (s.failHeld x.1 x.2.1 x.2.2 0x0B).report bay uid r
    | none => s) s1

/-- The poison that the bytes of a phase table hold, as far as they are read: nothing of the table is then used (R47). -/
def State.phasePoison (s : State) (bay off : Nat) (agents : Except Nat (List PhaseAgent)) : Option Report :=
  s.sectorReport 1 bay off (match agents with
    | .ok l => phaseBytes l
    | .error o => o + 8 - off)

/-- PHASE: the table is checked, installed, and issue stops for 16 + 4m cycles. (DEDUCED, log entry 45.) -/
def execPhase (b : Reg) (s : State) : Out :=
  let off := (s.readS b 0).toNat % 2 ^ 20
  let bay := s.cur.bay
  let bad (o : Nat) : State := s.raise ⟨0x01, 0x0100, BitVec.ofNat 64 o, 0, 0⟩
  let h := s.scratchNum bay off 8
  let agents := s.phaseAgents bay (s.agentOk bay) (bits h 7 0) (off + 8) []
  .next (if off % 8 ≠ 0 then s.addrFault 0x12 (BitVec.ofNat 64 off)
    else if 2 ^ 20 < off + 8 ∨ !s.here.scratchOpen off then s.addrFault 0x11 (BitVec.ofNat 64 off)
    else match s.phasePoison bay off (if bits h 63 8 ≠ 0 ∨ 16 < bits h 7 0 then .error off else agents) with
    | some r => s.report bay s.here.uid r s.here.handler
    | none =>
    if bits h 63 8 ≠ 0 ∨ 16 < bits h 7 0 then bad off
    else match agents with
    | .error o => bad o
    | .ok l =>
      if 2 ^ 20 < off + phaseBytes l then s.addrFault 0x11 (BitVec.ofNat 64 off)
      else match phaseOverlap l with
      | some (a, i, c, j) => s.raise ⟨0x0A, BitVec.ofNat 64 (a + i * 2 ^ 16 + c * 2 ^ 32 + j * 2 ^ 48), 0, 0, 0⟩
      | none =>
        let m := l.foldl (fun n a => n + a.ranges.length) 0
        (s.upd fun x => { x with phase := l, phaseOn := !l.isEmpty, nextAt := s.now + 17 + 4 * m, stopTo := s.now + 17 + 4 * m }).recheckPhase bay)

end Sys2Proof.Machine
end

