-- ==== Sys2Proof/Machine/Region.lean ====
section
/-!
DEFINITION. The tree of regions: control blocks, admission, dependences, shares, completion, and the killing of a node
(spec/20_regions.md R319 to R331, R338 to R340; spec/23_host_links_security.md R389).
-/

namespace Sys2Proof.Machine

/-! ## Words that the scheduler reads and writes (R319, R322) -/

/-- An 8-byte word at a virtual address; none where no page of global memory is mapped, and while its line or a table of its walk
must first be taken from the host (R381) or returns poison (R383, R399). (DESIGN CHOICE, log entry 28.) -/
def State.vaWord (s : State) (p asid va : Nat) : Option Nat :=
  if s.walkWaits p asid va ∨ (s.poisonedOf (s.walkLines p asid va)).isSome then none
  else match s.walk p asid va with
  | .leaf l =>
    let ls := s.leafLines l (va % l.size) 8
    if l.tgt = 2 ∨ s.hostHolds ls ∨ (s.poisonedOf ls).isSome then none else some (leNat (s.readLeaf l (va % l.size) 8))
  | _ => none

/-- Whether no page is mapped at an address. -/
def State.unmapped (s : State) (p asid va : Nat) : Bool :=
  !s.walkWaits p asid va && match s.walk p asid va with
  | .leaf _ => false
  | _ => true

/-- An 8-byte word of global memory stored at its home. -/
def State.vaStore (s : State) (p asid va v : Nat) : State :=
  match s.walk p asid va with
  | .leaf l =>
    let line : Line := (l.tgt == 1, (l.pa + va % l.size) / 64)
    ((s.writeLeaf l (va % l.size) (leBytes 8 v)).dropCopies line).llcTouch p (List.range 16) line true
  | _ => s

/-- A write of the scheduler is made, when its word can be reached. -/
def State.makeWrite (s : State) (w : SchedWrite) : State :=
  match s.vaWord w.part w.asid w.va with
  | none => s
  | some v => s.vaStore w.part w.asid w.va (match w.op with
    | .put x => x
    | .add d => wrap 64 (v + d)
    | .slot st => v - v % 4 + st)

/-- Whether a write must wait: for one before it of the same node or to the same word, for its page, or for its line. -/
def State.writeWaits (s : State) (before : List SchedWrite) (w : SchedWrite) : Bool :=
  (before.any fun x => x.node == w.node || (x.part == w.part && x.asid == w.asid && x.va == w.va))
    || (s.vaWord w.part w.asid w.va).isNone

/-- Whether a write of the scheduler to a word has still to be made. -/
def State.pendingAt (s : State) (p asid va : Nat) : Bool :=
  s.pkg.schedWrites.any fun w => w.part == p && w.asid == asid && w.va == va

/-- Whether a page can be asked for on behalf of a node: it has not been, and the replay queue has room. -/
def State.mayAsk (s : State) (node p asid va : Nat) : Bool :=
  let d := (s.diesOf p).headD 0
  let page := va / 65536
  !(s.die d).parked.any (fun x => x.asid == asid && x.page == page && x.what == .sched node) && s.queueRoom d asid page

/-- A page that the scheduler needs for a node is asked for (R325, R351), on the first die of the partition, and the access waits in
its replay queue, in no share of a node's tasks. (DEDUCED, log entry 64.) -/
def State.askPage (s : State) (node p asid va : Nat) : State :=
  if s.mayAsk node p asid va then s.park ((s.diesOf p).headD 0) p asid (va / 65536) false false (.sched node) else s

/-- A write of the scheduler: made at once, or, when it must wait, as soon as it can be. -/
def State.schedPut (s : State) (w : SchedWrite) : State :=
  if s.writeWaits s.pkg.schedWrites w then
    (if s.unmapped w.part w.asid w.va then s.askPage w.node w.part w.asid w.va else s).onPkg fun k =>
      { k with schedWrites := k.schedWrites ++ [w] }
  else s.makeWrite w

/-- The first write of the scheduler that can be made now. -/
def State.nextWrite (s : State) : Option (Nat × SchedWrite) :=
  (s.pkg.schedWrites.zipIdx.find? fun x => !s.writeWaits (s.pkg.schedWrites.take x.2) x.1).map fun x => (x.2, x.1)

/-- A node of the tree. Nodes 0 to 3 are the anchors of the partitions. -/
def State.node (s : State) (n : Nat) : Option Node := Tbl.get none s.pkg.nodes n

/-- A node changed. -/
def State.onNode (s : State) (n : Nat) (f : Node → Node) : State :=
  s.onPkg fun p => { p with nodes := Tbl.set none p.nodes n ((Tbl.get none p.nodes n).map f) }

/-- The ASID under which a node's block is read: its parent's, and 0 for an anchor. (DEDUCED, log entry 27.) -/
def State.blockAsid (s : State) (n : Node) : Nat := ((n.parent.bind s.node).map (·.asid)).getD 0

/-- STATE and CAUSE written in a block, for a node. -/
def State.putState (s : State) (node p asid addr st cause : Nat) : State :=
  s.schedPut ⟨node, p, asid, addr + 24, .put (st + cause * 2 ^ 40)⟩

/-- A node moves to a state. -/
def State.moveNode (s : State) (n st cause : Nat) : State :=
  match s.node n with
  | none => s
  | some x => (s.putState n x.part (s.blockAsid x) x.addr st cause).onNode n fun y => { y with state := st, cause := cause }

/-- The 32 words of a block, or none while one of them cannot be read. -/
def State.readBlock (s : State) (p asid addr : Nat) : Option (List Nat) :=
  (List.range 32).mapM fun i => s.vaWord p asid (addr + 8 * i)

/-- Whether a node is live: WAITING, HELD, READY or RUNNING. -/
def Node.live (n : Node) : Bool := decide (1 ≤ n.state) && decide (n.state ≤ 4)

/-- The children of a node that have been entered in the tree, in slot order. -/
def State.children (s : State) (n : Nat) : List (Nat × Node) :=
  sortBy (fun x => x.2.slot) (s.pkg.nodes.filterMap fun x => match x.2 with
    | some y => if y.parent = some n then some (x.1, y) else none
    | none => none)

/-! ## Effective fields (R320) -/

/-- The node that a block makes under its parent. -/
def effective (ws : List Nat) (p addr slot : Nat) (parId : Option Nat) (par : Option Node) : Node :=
  let w (i : Nat) : Nat := ws.getD i 0
  let x : Node := par.getD { addr := 0, part := p }
  let own (i : Nat) : Bool := par.isNone || bit (w 0) (32 + i)
  let pick (i : Nat) (mine theirs : Nat) : Nat := if own i then mine else theirs
  let prio := pick 0 (bits (w 0) 7 6) x.prio
  { addr, part := p, parent := parId, slot, depth := if par.isSome then x.depth + 1 else 0
    leaf := bit (w 0) 10
    d := (if own 1 then bit (w 0) 9 else x.d) || x.d
    prio := max prio x.prio
    fpol := pick 2 (bits (w 0) 5 4) x.fpol
    weight := pick 3 (bits (w 0) 23 16) x.weight
    diem := pick 4 (bits (w 0) 15 12) x.diem
    bays := pick 5 (bits (w 4) 55 47) x.bays
    rqs := pick 6 (bits (w 4) 46 34) x.rqs
    llcw := pick 7 (bits (w 4) 15 0) x.llcw
    sadl := pick 8 (bits (w 5) 27 0) x.sadl
    beatq := pick 9 (bits (w 6) 21 0) x.beatq
    asid := pick 10 (bits (w 7) 11 0) x.asid
    entry := pick 11 (bits (w 8) 56 0) x.entry
    gang := bits (w 9) 55 48, gz := bits (w 9) 47 32, gy := bits (w 9) 31 16, gx := bits (w 9) 15 0
    seed := pick 12 (w 10) x.seed
    ctab := bits (w 11) 56 0, ctabn := bits (w 12) 12 0
    save := pick 13 (bits (w 13) 56 0) x.save
    sigs := [w 14, w 15, w 16]
    args := if own 14 then (List.range 15).map fun i => w (17 + i) else x.args }

/-- Gangs of a leaf. -/
def Node.gangCount (n : Node) : Nat := ceilDiv n.tasks (max 1 n.gangSize)

/-- The TASKIDs of gang g of a leaf. -/
def Node.members (n : Node) (g : Nat) : List Nat :=
  (List.range (min n.gangSize (n.tasks - n.gangSize * g))).map (n.gangSize * g + ·)

/-- A gang of a leaf. -/
def Node.gangOf (n : Node) (g : Nat) : Gang := Tbl.get Gang.reset n.gangs g

/-- The members of a gang that have not ended, with their bays. -/
def Node.standing (n : Node) (g : Nat) : List (Nat × Nat) :=
  let x := n.gangOf g
  ((n.members g).zip x.bays).filter fun y => !x.ended.contains y.1

/-- The dies of DIEM, ascending. -/
def Node.diesOf (n : Node) : List Nat := (List.range 4).filter fun d => bit n.diem d

/-- Saddles of class c in a SADL word. -/
def sadlOf (w c : Nat) : Nat := bits w (4 * c + 3) (4 * c)

/-! ## Admission (R323 to R326) -/

/-- Reserved bits and codes of a block. -/
def blockBad (ws : List Nat) (n : Node) : Bool :=
  let w (i : Nat) : Nat := ws.getD i 0
  bits (w 0) 63 47 != 0 || bits (w 0) 31 24 != 0 || bit (w 0) 11 || bit (w 0) 8 || bits (w 0) 3 0 != 0
    || bits (w 1) 62 32 != 0 || bits (w 3) 63 48 != 0 || bits (w 3) 39 3 != 0 || bits (w 4) 63 56 != 0
    || bits (w 4) 33 16 != 0 || bits (w 5) 63 28 != 0 || bits (w 6) 63 22 != 0 || bits (w 7) 63 12 != 0
    || bits (w 8) 63 57 != 0 || bits (w 9) 63 56 != 0 || bits (w 11) 63 57 != 0 || bits (w 12) 63 13 != 0
    || bits (w 13) 63 57 != 0 || bit (w 0) 5 || decide (4096 < n.ctabn) || (bit (w 0) 35 && bits (w 0) 23 16 == 0)
    || (n.leaf && (n.gx == 0 || n.gy == 0 || n.gz == 0))

/-- The cause for which a child is refused, by the first check that fails (R325). -/
def State.refusal (s : State) (ws : List Nat) (n par : Node) (closed : Bool) : Option Nat :=
  let ok : Bool :=
    decide (n.depth ≤ 8) && n.diem != 0 && (n.diesOf.all fun d => s.partOfDie d == n.part)
      && decide (n.bays ≤ par.bays) && (n.llcw &&& par.llcw) == n.llcw
      && ((List.range 7).all fun c => decide (sadlOf n.sadl c ≤ sadlOf par.sadl c))
      && decide (n.beatq ≤ par.beatq) && decide (n.rqs ≤ par.rqs)
      && (!n.leaf || (decide (n.gangSize ≤ 64) && decide (n.gangSize ≤ n.bays) && decide (n.tasks < 2 ^ 32)
        && (n.save == 0 || decide (n.save + n.tasks * 2 ^ 20 ≤ 2 ^ 57)) && (n.prio == 0 || n.save != 0)))
      && !par.dying && par.state != 6 && !(!par.leaf && closed)
  if blockBad ws n then some 0x01 else if ok then none else some 0x11

/-- The state bits of a child-table slot written, for a node. (DEDUCED, log entry 62.) -/
def State.putSlot (s : State) (node : Nat) (par : Node) (slot st : Nat) : State :=
  s.schedPut ⟨node, par.part, par.asid, par.ctab + 8 * slot, .slot st⟩

/-- The completion signals of a node (R329). -/
def State.signal (s : State) (node : Nat) (n : Node) : State :=
  n.sigs.foldl (fun s a => if a = 0 then s else s.schedPut ⟨node, n.part, n.asid, a, .add (-1)⟩) s

/-- The word of CLOSE and POSTED of a node. -/
def State.postWord (s : State) (n : Node) : Option Nat := s.vaWord n.part (s.blockAsid n) (n.addr + 8)

/-- CLOSE of a node. -/
def State.closed (s : State) (n : Node) : Bool := bit ((s.postWord n).getD 0) 63

/-- POSTED of a node, with the subtractions that have still to be made. -/
def State.posted (s : State) (n : Node) : Nat :=
  (s.postWord n).getD 0 % 2 ^ 32 - (s.pkg.schedWrites.filter fun w =>
    w.part == n.part && w.asid == s.blockAsid n && w.va == n.addr + 8).length

/-- Whether the shares of a node are free among its siblings (R328). -/
def State.sharesFree (s : State) (n : Node) (id : Nat) : Bool :=
  match n.parent with
  | none => true
  | some q => match s.node q with
    | none => true
    | some par =>
      let held := (s.children q).filter fun x => x.1 != id && (x.2.state == 3 || x.2.state == 4)
      let sum (f : Node → Nat) : Nat := held.foldl (fun t x => t + f x.2) 0
      ((List.range 7).all fun c => decide (sum (fun x => sadlOf x.sadl c) + sadlOf n.sadl c ≤ sadlOf par.sadl c))
        && decide (sum (·.beatq) + n.beatq ≤ par.beatq) && decide (sum (·.rqs) + n.rqs ≤ par.rqs)
        && !((s.children q).any fun x => x.2.state == 2 && decide (x.2.slot < n.slot) && x.1 != id)

/-- A leaf that has become READY joins the ready queue of its class on each die that has a gang of it (R331, R332). -/
def State.queueLeaf (s : State) (id : Nat) (n : Node) : State :=
  (n.diesOf.zipIdx.filter fun x => decide (x.2 < n.gangCount)).foldl (fun s x => s.onDie x.1 fun d =>
    { d with ready := Tbl.set [] d.ready n.prio (Tbl.get [] d.ready n.prio ++ [id])
             deficit := Tbl.set 0 d.deficit id 0, sched := true }) s

/-- DEP of a node. -/
def State.depOf (s : State) (n : Node) : Int := signed 64 ((s.vaWord n.part (s.blockAsid n) (n.addr + 16)).getD 1)

/-- Whether a WAITING node has not been seen at DEP ≤ 0, and stands there now. -/
def State.depNews (s : State) (n : Node) : Bool := n.state == 1 && !n.dying && !n.met && decide (s.depOf n ≤ 0)

/-- The WAITING nodes whose DEP an access has just left at or below zero are noted: they move on at the end of the cycle, unless a
kill of the cycle takes them, whatever DEP does until then (R327, R340). -/
def State.noteDeps (s : State) : State :=
  (s.pkg.nodes.filterMap fun x => x.2.bind fun n => if s.depNews n then some x.1 else none).foldl
    (fun s id => s.onNode id fun n => { n with met := true }) s

/-- A node whose DEP has been 0 or less moves on as far as it can (R326, R327). -/
def State.advance (s : State) (id : Nat) : State :=
  match s.node id with
  | none => s
  | some n =>
    if n.dying then s
    else
      let s1 := if n.state = 1 ∧ (n.met ∨ s.depOf n ≤ 0) then s.moveNode id 2 0 else s
      if ((s1.node id).map (·.state)) = some 2 ∧ s1.sharesFree n id then
        let s2 := s1.moveNode id 3 0
        if n.leaf then s2.queueLeaf id n else (s2.moveNode id 4 0).onNode id fun x => { x with seen := none }
      else s1

/-- A child is refused: STATE, its slot and its signals are written (R325). -/
def State.refuseChild (s : State) (node slot addr : Nat) (par n : Node) (cause : Nat) : State :=
  ((s.putState node par.part par.asid addr 7 cause).putSlot node par slot 0).signal node n

/-- A child read from its block is refused, or entered in the tree under its parent: WAITING when the parent is RUNNING, else left
NEW (R326); a WAITING node whose DEP is 0 or less moves on on the same cycle (R327). -/
def State.admitNode (s : State) (parId slot addr : Nat) (par : Node) (ws : List Nat) : State × Option Nat :=
  let n := effective ws par.part addr slot (some parId) (some par)
  let id := max 4 s.pkg.nodeCount
  let enter (x : Node) : State := s.onPkg fun p => { p with nodes := Tbl.set none p.nodes id (some x), nodeCount := id + 1 }
  match s.refusal ws n par (s.closed par) with
  | some cause => ((enter { n with state := 7, cause := cause }).refuseChild id slot addr par n cause, some cause)
  | none => (if par.state = 4 then (enter n).moveNode id 1 0 else enter n, none)

/-- The children of a node that are still NEW are refused, since the node is over or is being killed (R325, R339). -/
def State.refuseKids (s : State) (id : Nat) : State :=
  match s.node id with
  | none => s
  | some par => ((s.children id).filter fun x => x.2.state == 0).foldl (fun s x =>
      (s.onNode x.1 fun n => { n with state := 7, cause := 0x11 }).refuseChild x.1 x.2.slot x.2.addr par x.2 0x11) s

/-- The admission of a NEW child repeats (R326). -/
def State.readmit (s : State) (parId id : Nat) : State :=
  match s.node parId, s.node id with
  | some par, some c => match s.readBlock par.part par.asid c.addr with
    | none => s
    | some ws =>
      let n := effective ws par.part c.addr c.slot (some parId) (some par)
      match s.refusal ws n par (s.closed par) with
      | some cause => ((s.onNode id fun _ => { n with state := 7, cause := cause }).refuseChild id c.slot c.addr par n cause).refuseKids id
      | none => (s.onNode id fun _ => n).moveNode id 1 0
  | _, _ => s

/-- The first address of the blocks of a node's NEW children that no page maps and that the scheduler has not asked for (R325). -/
def State.kidMissing (s : State) (id : Nat) (par : Node) : Option Nat :=
  ((s.children id).filter fun x => x.2.state == 0).findSome? fun x =>
    ((List.range 32).map fun i => x.2.addr + 8 * i).find? fun a =>
      s.unmapped par.part par.asid a && !par.asked.contains (a / 65536) && s.queueRoom ((s.diesOf par.part).headD 0) par.asid (a / 65536)

/-- The NEW children of a node that can be read. -/
def State.newKids (s : State) (id : Nat) (par : Node) : List Nat :=
  ((s.children id).filter fun x => x.2.state == 0 && (s.readBlock par.part par.asid x.2.addr).isSome).map (·.1)

/-- One slot of a scan (R322, R323): it is cleared when ill formed; a posted one is admitted while POSTED is above zero. Behind the
first slot that could not be read, which is kept, the scan waits: admission is in slot order (R330). -/
def State.scanSlot (s : State) (parId : Nat) (x : List Nat) (slot : Nat) : State × List Nat :=
  match s.node parId with
  | none => (s, x)
  | some par => if !x.isEmpty || s.pendingAt par.part par.asid (par.ctab + 8 * slot) then (s, x) else match s.vaWord par.part par.asid (par.ctab + 8 * slot) with
    | none => (s, x ++ [slot])
    | some v =>
      let bad := v % 4 = 2 ∨ bits v 63 57 ≠ 0 ∨ bits v 5 2 ≠ 0
      let addr := bits v 56 6 * 64
      if bad then (if v % 4 = 0 then (s, x) else (s.putSlot parId par slot 0, x))
      else if v % 4 ≠ 1 ∨ s.posted par = 0 then (s, x)
      else match s.readBlock par.part par.asid addr with
        | none => (s, x ++ [slot])
        | some ws =>
          let s1 := (s.putSlot parId par slot 3).schedPut ⟨parId, par.part, s.blockAsid par, par.addr + 8, .add (-1)⟩
          ((s1.admitNode parId slot addr par ws).1, x)

/-- The anchor of a partition, read from RGNANCH when it is not in the tree or RGNANCH names another block (R321). -/
def State.loadAnchor (s : State) (p : Nat) : State :=
  let a := (s.part p).rgnanch.toNat
  match s.node p with
  | some n => if n.addr = a ∨ (s.children p).any (fun x => x.2.live) then s else fresh a
  | none => fresh a
where
  /-- The anchor of a block address. -/
  fresh (a : Nat) : State :=
    if a = 0 ∨ (s.part p).stopped then s
    else match s.readBlock p 0 a with
      | none => s
      | some ws => s.onPkg fun k => { k with nodes := Tbl.set none k.nodes p (some { effective ws p a 0 none none with state := 4 })
                                             nodeCount := max 4 k.nodeCount }

/-- Whether the scheduler still looks at POSTED of a node: it is NEW or live, or it is over, would refuse a child (R325), and its block
still shows so. (DEDUCED, log entry 65.) -/
def State.watched (s : State) (n : Node) : Bool :=
  n.state == 0 || n.live || ((n.state == 6 || (n.state == 5 && !n.leaf))
    && (s.vaWord n.part (s.blockAsid n) (n.addr + 24)).any fun v => v % 8 == n.state)

/-- The first address of a slot's block that no page maps, or of the slot itself. -/
def State.missing (s : State) (n : Node) (slot : Nat) : Option Nat :=
  let va := n.ctab + 8 * slot
  if s.unmapped n.part n.asid va then some va
  else match s.vaWord n.part n.asid va with
  | none => none
  | some v => ((List.range 32).map fun i => bits v 56 6 * 64 + 8 * i).find? fun a => s.unmapped n.part n.asid a

/-- Whether a slot that could not be read is due again: it can be read, or a page of it has still to be asked for. -/
def State.stuckDue (s : State) (n : Node) (slot : Nat) : Bool :=
  match s.missing n slot with
  | some va => !n.asked.contains (va / 65536) && s.queueRoom ((s.diesOf n.part).headD 0) n.asid (va / 65536)
  | none => match s.vaWord n.part n.asid (n.ctab + 8 * slot) with
    | some v => v % 4 != 1 || (s.readBlock n.part n.asid (bits v 56 6 * 64)).isSome
    | none => false

/-- Whether the scheduler has work on a node: a write of it can be made, its word of POSTED differs from what was last seen, a slot
that could not be read can be read now, or a NEW child of a running node waits (R323, R325, R326). Under RGNANCH = 0 nothing
of the partition is launched (R321). -/
def State.scanDue (s : State) (id : Nat) : Bool :=
  (s.nextWrite.any fun x => x.2.node == id) || match s.node id with
  | none => decide (id < 4) && (s.part id).rgnanch != 0 && !(s.part id).stopped
      && (s.readBlock id 0 (s.part id).rgnanch.toNat).isSome
  | some n =>
    (decide (id < 4) && (s.part id).rgnanch != 0 && BitVec.ofNat 64 n.addr != (s.part id).rgnanch && !(s.part id).stopped
        && !((s.children id).any fun x => x.2.live) && (s.readBlock id 0 (s.part id).rgnanch.toNat).isSome) ||
    ((s.part n.part).rgnanch != 0 &&
      ((s.watched n && (s.postWord n).isSome && n.seen != s.postWord n)
        || ((n.state == 0 || n.live) && n.stuck.any fun i => s.stuckDue n i)
        || (n.state == 4 && (!(s.newKids id n).isEmpty || (s.kidMissing id n).isSome))))

/-- The writes of the scheduler for a node that can be made are made, in their order. -/
def State.flushWrites (s : State) (node : Nat) : State :=
  let r := s.pkg.schedWrites.foldl (fun (a : State × List SchedWrite) w =>
    if w.node != node || a.1.writeWaits a.2 w then (a.1, a.2 ++ [w]) else (a.1.makeWrite w, a.2)) (s, [])
  r.1.onPkg fun k => { k with schedWrites := r.2 }

/-- The pages that the slots left by a scan need are asked for. -/
def State.askSlots (s : State) (node : Nat) (n : Node) (slots : List Nat) : State :=
  slots.foldl (fun s i => match s.missing n i with
    | none => s
    | some va =>
      if ((s.node node).any fun x => x.asked.contains (va / 65536))
        || !s.queueRoom ((s.diesOf n.part).headD 0) n.asid (va / 65536) then s
      else (s.askPage node n.part n.asid va).onNode node fun x => { x with asked := (va / 65536) :: x.asked }) s

/-- SCHED_CHILD_SCAN (R323): writes that have waited are made, NEW children are taken up again, and the slots are scanned in
ascending order. -/
def execSchedChildScan (node : Nat) (s : State) : Out :=
  let sw := if s.nextWrite.any fun x => x.2.node == node then s.flushWrites node else s
  let s0 := if node < 4 then sw.loadAnchor node else sw
  match s0.node node with
  | none => if node < 4 then .next s0 else .fault .absent
  | some n =>
    if !s0.scanDue node then .next s0
    else
      let kids := if n.state = 4 then s0.newKids node n else []
      let s1 := kids.foldl (fun s k => s.readmit node k) s0
      let r := (List.range n.ctabn).foldl (fun (a : State × List Nat) i => a.1.scanSlot node a.2 i) (s1, [])
      let s2 := r.1.askSlots node n r.2
      let asked := match if n.state = 4 then (s2.node node).bind fun x => s2.kidMissing node x else none with
        | some va => (s2.askPage node n.part n.asid va).onNode node fun x => { x with asked := (va / 65536) :: x.asked }
        | none => s2
      .next (asked.onNode node fun x => { x with
        seen := asked.postWord n, stuck := r.2
        asked := if r.2.isEmpty && (s2.children node).all (fun k => k.2.state != 0) then [] else x.asked })

/-- NODE_DEP_REACHED (R327). -/
def execNodeDepReached (node : Nat) (s : State) : Out :=
  match s.node node with
  | none => .fault .absent
  | some n => .next (if n.state = 1 ∨ n.state = 2 then s.advance node else s)

/-! ## SPAWN (R308, R324) -/

/-- How a SPAWN comes out: its STATUS and CAUSE, or a wait, for a line of the host or for the page of an address. -/
inductive Spawned where
  | done (st cause : Nat)
  | wait (va : Option Nat)
  deriving DecidableEq, Repr

/-- The lowest slot of a leaf's child table that is free or cannot be read, with what it holds; a slot that has still to be written
is not free. -/
def State.freeSlot (s : State) (n : Node) : Option (Nat × Option Nat) :=
  let word (i : Nat) : Option Nat := s.vaWord n.part n.asid (n.ctab + 8 * i)
  ((List.range n.ctabn).find? fun i => !s.pendingAt n.part n.asid (n.ctab + 8 * i) && match word i with
    | some v => v % 4 == 0
    | none => true).map fun i => (i, word i)

/-- A SPAWN is carried out, once its slot and its block can be read. -/
def State.spawnChild (s : State) (c : Cmd) (rcb : Word) : State × Spawned :=
  match s.node c.node with
  | none => (s, .done 4 0x11)
  | some par =>
    let stop (vas : List Nat) : State × Spawned := (s, .wait (vas.find? fun a => s.unmapped par.part par.asid a))
    match s.freeSlot par with
    | none => (s, .done 4 0x11)
    | some (slot, none) => stop [par.ctab + 8 * slot]
    | some (slot, some _) => match s.readBlock par.part par.asid rcb.toNat with
      | none => stop ((List.range 32).map fun i => rcb.toNat + 8 * i)
      | some ws =>
        let s1 := s.schedPut ⟨c.node, par.part, par.asid, par.ctab + 8 * slot, .put (bits rcb.toNat 56 6 * 64 + 3)⟩
        match s1.admitNode c.node slot rcb.toNat par ws with
        | (s2, none) => (s2, .done 1 0)
        | (s2, some cause) => (s2, .done 4 cause)

/-! ## Completion (R329) -/

/-- Whether a bay holds a task of a node. -/
def Bay.ofNode (b : Bay) (n : Nat) : Bool := b.task.any fun t => t.node == n

/-- Whether nothing of a leaf's tasks is left: no task, no entry in a beat queue, no unacknowledged write. -/
def State.tasksGone (s : State) (id : Nat) : Bool :=
  let mine (uid : Nat) : Bool := uid / 2 ^ 32 == id
  (s.bays.all fun x => !x.2.ofNode id && (x.2.bq.all fun e => !mine e.task) && (x.2.transit.all fun e => !mine e.task)
      && ((Tbl.get Channel.reset x.2.btx wordCh).buf.all fun c => c.tail || !mine c.task))
    && s.pkg.acks.all fun a => !mine a.task

/-- Whether no node of the same kill comes before a node depth first: below a node that is being killed, a sibling of a lower slot
completes first (R339). -/
def State.killTurn (s : State) : Nat → Nat → Bool
  | 0, _ => true
  | k + 1, id => match s.node id with
    | none => true
    | some n => match n.parent with
      | none => true
      | some q => !((s.node q).any (·.dying)) ||
        (!((s.children q).any fun x => x.2.dying && x.2.live && decide (x.2.slot < n.slot)) && s.killTurn k q)

/-- Whether a node completes now: its children are over, and have written so (R329). -/
def State.nodeDone (s : State) (id : Nat) (n : Node) : Bool :=
  let kids := s.children id
  let quiet := kids.all fun x => !x.2.live && x.2.state != 0 && s.pkg.schedWrites.all fun w => w.node != x.1
  if !n.live then false
  else if n.dying then quiet && s.tasksGone id && s.killTurn 9 id
  else
    n.state == 4 && quiet && (s.postWord n).isSome && s.posted n == 0
      && (if n.leaf then n.gone == n.gangCount && s.tasksGone id else s.closed n)

/-- An engine after a node's reservation has ended: it returns to the node out of whose reservation it was carved, or to no
reservation, and may be granted from the next cycle (R148, R328). It is drowsy from the end of its region on. (DESIGN CHOICE, log
entry 160.) -/
def Eng.unreserve (x : Eng) (id now : Nat) : Eng :=
  if x.reserved = some id then
    { x with reserved := x.lenders.head?, lenders := x.lenders.drop 1, since := if x.saddled then x.since else now
             freeAt := max x.freeAt (now + 1), saddleAt := max x.saddleAt (now + 1) }
  else { x with lenders := x.lenders.erase id }

/-- Reserved engines and saddles of a node return (R328, R339). -/
def State.unreserve (s : State) (id : Nat) : State :=
  s.mapDies fun _ d => { d with engines := d.engines.map fun e => (e.1, e.2.unreserve id s.now) }

/-- The HELD children of a node take freed shares in slot order. -/
def State.retryHeld (s : State) (q : Nat) : State :=
  (s.children q).foldl (fun s x => if x.2.state = 2 then s.advance x.1 else s) s

/-- NODE_COMPLETE (R329): DONE or KILLED is written, the slot is cleared, and the signals go out. -/
def execNodeComplete (node : Nat) (s : State) : Out :=
  match s.node node with
  | none => .fault .absent
  | some n =>
    if !s.nodeDone node n then .next s
    else
      let s1 := (s.moveNode node (if n.dying then 6 else 5) n.cause).unreserve node
      match n.parent with
      | none => .next (s1.signal node n)
      | some q => match s.node q with
        | none => .next (s1.signal node n)
        | some par => .next (((s1.putSlot node par n.slot 0).signal node n).retryHeld q)

/-! ## Killing (R338, R339) -/

/-- A node and its live descendants. -/
def State.subtree (s : State) : Nat → Nat → List Nat
  | 0, id => [id]
  | k + 1, id => id :: ((s.children id).filter fun x => x.2.live).flatMap fun x => s.subtree k x.1

/-- The task of a bay stops: its array passes and beat entries are abandoned, its commands abort with STATUS 4 and a cause, and
its leases are given up. -/
def State.stopTask (s : State) (bay cause : Nat) : State :=
  let uid := (s.bay bay).uid
  let s1 := (s.cmdsOf bay uid).foldl (fun s x => if x.2.result.isSome then s else s.abortCmd x.1 x.2 4 cause x.2.count) s
  let s2 := (s1.leasesOf uid).foldl (fun s x =>
    let held := (s.leaseOf x.1 x.2).cmds
    let w : Engine := .btx bay wordCh
    let s' := s.setCmds w (s.cmds w ++ held.map fun c => { c with result := some (4, cause), count := 0, next := s.now + 1 })
    (s'.onLease x.1 x.2 fun l => { l with cmds := [] }).giveUp x.1 x.2) s1
  let s3 := s2.mapBays fun _ b => { b with
    bq := b.bq.filter fun e => e.task != uid || (b.running.any fun r => r.entry.id == e.id && r.entry.bay == e.bay)
    running := b.running.map fun r => if r.entry.task = uid then { r with stop := true } else r
    frozen := b.frozen.filter fun r => r.entry.task != uid }
  s3.onBay bay fun b =>
    { b.withdraw with
      stopped := true, waiting := false, transit := [], landing := [], plans := [], tmmas := [], reports := [], due := none
      preempt := false, save := none, cacheWait := none, tlbWait := []
      holds := b.holds.filter fun h => h.ends.isSome || (b.entries.any fun e => e.hold == h.id)
        || (b.running.any fun r => r.entry.hold == h.id) }

/-- The leases of a node's tasks that stand on no bay are given up (R339). -/
def State.freeLeases (s : State) (id : Nat) : State :=
  ((s.dies.map (·.1)).flatMap fun d => ((s.die d).leases.filter fun x => x.2.state != 0 && x.2.node == id).map fun x => (d, x.1)).foldl
    (fun s x => s.giveUp x.1 x.2) s

/-- Step 1 to 4 of a kill (R339). -/
def State.killNode (s : State) (id cause : Nat) : State :=
  let ids := s.subtree 9 id
  let s1 := ids.foldl (fun s k => s.onNode k fun n => { n with dying := true, cause := if k = id then cause else 0 }) s
  let s2 := s1.mapDies fun _ d => { d with
    ready := d.ready.map fun q => (q.1, q.2.filter fun k => !ids.contains k)
    head := d.head.filter fun h => !ids.contains h.2
    deficit := d.deficit.filter fun q => !ids.contains q.1
    sched := true }
  let saved := ids.flatMap fun k => match s.node k with
    | some n => (n.gangs.filter fun g => decide (2 ≤ g.2.state)).flatMap fun g => (n.standing g.1).map (·.2)
    | none => []
  let s3 := saved.foldl (fun s b => s.onBay b fun x => { x with lent := false }) s2
  let bays := (s3.bays.filter fun x => ids.any fun k => x.2.ofNode k).map (·.1)
  ids.foldl (fun s k => ((s.freeLeases k).unreserve k).refuseKids k) (bays.foldl (fun s b => s.stopTask b cause) s3)

/-- Whether a node of a partition is live. -/
def State.peopled (s : State) (p : Nat) : Bool := s.pkg.nodes.any fun x => x.2.any fun n => n.part == p && n.live

/-- STOP and CAUSE of a partition are set, and MSI-X vector 0 is raised (R388, R389). -/
def State.setStop (s : State) (p cause : Nat) : State :=
  let old := bits s.pkg.partstat (16 * p + 15) (16 * p)
  let new := 2 ^ 15 + bits old 14 8 * 2 ^ 8 + cause % 256
  (s.onPart p fun x => { x with stopped := true, stopping := none }).onPkg fun k =>
    { k with partstat := k.partstat - old * 2 ^ (16 * p) + new * 2 ^ (16 * p), msix := k.msix ++ [0] }

/-- The partitions whose nodes have all been killed by a stop that is on its way. -/
def State.stopsDue (s : State) : List Nat := (List.range 4).filter fun p => (s.part p).stopping.isSome && !s.peopled p

/-- They stop (R389). -/
def State.finishStops (s : State) : State := s.stopsDue.foldl (fun s p => s.setStop p ((s.part p).stopping.getD 0)) s

/-- A partition stops: its nodes are killed, the anchor last, and then STOP is set and MSI-X vector 0 raised (R389). -/
def State.stopPart (s : State) (p cause : Nat) : State :=
  let s1 := if (s.node p).any (·.live) then s.killNode p cause else s
  let s2 := ((s1.bays.filter fun x => s1.partOf x.1 == p && x.2.task.isSome && !x.2.stopped).map (·.1)).foldl
    (fun s b => s.stopTask b cause) s1
  if s2.peopled p then s2.onPart p fun x => { x with stopping := x.stopping.or (some cause) } else s2.setStop p cause

/-- The smallest node from one upward that contains faults. -/
def State.container (s : State) : Nat → Nat → Option Nat
  | 0, _ => none
  | k + 1, id => match s.node id with
    | none => none
    | some n => if n.fpol = 1 then some id else match n.parent with
      | none => none
      | some q => s.container k q

/-- A fault is fatal to the region of a node (R338): the containing node is killed, or the partition stops. A kill of a node
that is over has no effect (R339). -/
def State.fatal (s : State) (p node cause : Nat) : State :=
  match s.container 10 node with
  | some id => if (s.node id).any (fun n => n.live && !n.dying) then s.killNode id cause else s
  | none => s.stopPart p cause

/-- The live node of a partition whose block stands at an address. -/
def State.nodeAt (s : State) (p addr : Nat) : Option Nat :=
  s.pkg.nodes.findSome? fun x => match x.2 with
    | some n => if n.part = p ∧ n.addr = addr ∧ n.live then some x.1 else none
    | none => none

/-- RGNKILL_WRITE (R339); the recovery ROM answers none (R395). -/
def execRgnkillWrite (part : Nat) (v : Word) (s : State) : Out :=
  if 4 ≤ part then .fault .absent
  else if s.pkg.recovery then .next s
  else match s.nodeAt part (bits v.toNat 56 6 * 64) with
  | some id => .next (if (s.node id).any (·.dying) then s else s.killNode id 0x1B)
  | none => .next s

/-- PREEMPT_WRITE (R367): every task of a RUNNING leaf that is placed on a bay is asked to switch; the recovery ROM answers none (R395). -/
def execPreemptWrite (part : Nat) (v : Word) (s : State) : Out :=
  if 4 ≤ part then .fault .absent
  else if s.pkg.recovery then .next s
  else match s.nodeAt part (bits v.toNat 56 6 * 64) with
  | some id =>
    if (s.node id).any fun n => n.leaf && n.state == 4 then
      .next (s.mapBays fun _ b => if b.ofNode id && b.ended.isNone then { b with preempt := true } else b)
    else .next s
  | none => .next s

end Sys2Proof.Machine
end

