-- ==== Sys2Proof/Machine/Sched.lean ====
section
/-!
DEFINITION. The region scheduler of a die: gangs, placement by deficit round-robin, preemption by class 0, and the end of a
task (spec/20_regions.md R331 to R336; spec/14_ref_control_engines.md R282; spec/04_tile_core.md R80 to R88).
-/

namespace Sys2Proof.Machine

/-! ## Gangs (R331) -/

/-- COORD of a TASKID (R87). -/
def Node.coord (n : Node) (t : Nat) : Word :=
  BitVec.ofNat 64 (t % n.gx + t / n.gx % n.gy * 2 ^ 16 + t / n.gx / n.gy * 2 ^ 32)

/-- A gang of a leaf changed. -/
def State.onGang (s : State) (id g : Nat) (f : Gang → Gang) : State :=
  s.onNode id fun n => { n with gangs := Tbl.set Gang.reset n.gangs g (f (n.gangOf g)) }

/-- The bays that hold a task of a gang. -/
def State.gangOn (s : State) (id g : Nat) : List Nat :=
  (s.bays.filter fun x => x.2.task.any fun t => t.node == id && t.gang == g).map (·.1)

/-- A gang that is to go on later returns to the head of its class queue (R336). -/
def State.requeue (s : State) (id die : Nat) (n : Node) : State :=
  s.onDie die fun d =>
    { d with ready := Tbl.set [] d.ready n.prio (id :: (Tbl.get [] d.ready n.prio).filter (· != id)), sched := true }

/-! ## The start of a task (R80, R81, R86, R331) -/

/-- The task that a member of a gang is. -/
def Node.task (n : Node) (id g t : Nat) : Task :=
  { uid := 2 ^ 32 * id + t, node := id, gang := g, taskid := t, coord := n.coord t, asid := n.asid, seed := n.seed, d := n.d
    cls := n.prio, part := n.part }

/-- A bay as a task finds it: what belongs to the bay stays, and everything of a task is at its start value. -/
def Bay.start (b : Bay) (t : Task) (entry ctx : Nat) (args : List Nat) (seed : Option Nat) (at_ : Nat) : Bay :=
  { Bay.reset with
    task := some t
    sreg := Tbl.run 0 1 (args.map (BitVec.ofNat 64))
    hreg := b.hreg, hstat := b.hstat, hfmt := b.hfmt
    tileSeed := seed
    fresh := true, pc := entry, checkTarget := true, nextAt := at_
    opCount := b.opCount, swrites := b.swrites, sqLast := b.sqLast, fenceCount := b.fenceCount
    l1 := b.l1, l1data := b.l1data, l1ext := b.l1ext, plans := b.plans
    bq := b.bq, transit := b.transit, running := b.running
    wornB := b.wornB, forms := b.forms, bform := b.bform
    btxNext := b.btxNext
    cause := b.cause, trappc := b.trappc, info0 := b.info0, info1 := b.info1, info2 := b.info2, info3 := b.info3
    ctxbase := BitVec.ofNat 64 ctx
    lent := b.lent }

/-- The loader writes the .data of a region's task on a bay that is to run it: in the bay's scratch, and in its beat column, where it
stands as at the close of a beat (R82, R190). (DESIGN CHOICE, log entry 170.) -/
def State.loadData (s : State) (bay : Nat) (n : Node) : State :=
  (s.pkg.images.filter fun x => x.part == n.part && x.rcb == n.addr).foldl (fun s x =>
    if x.beat then (s.putBeat (bay * 2 ^ 30 + x.off) x.data).onPart n.part fun y =>
      { y with snapBeat := y.snapBeat.store (bay * 2 ^ 30 + x.off) x.data }
    else s.putScratch bay x.off x.data) s

/-- A member of a gang starts on a bay; its first bundle follows when it has been fetched (R337). (DEDUCED, log entry 80.) -/
def State.startTask (s : State) (bay : Nat) (n : Node) (t : Task) : State :=
  (s.loadData bay n).onBay bay fun b => b.start t n.entry (n.save + t.taskid * 2 ^ 20) n.args (some (s.now * 256 + bay))
    (s.now + 1 + Config.freeDelay (s.freeKey bay 9 0) % 560)

/-! ## Placement (R331 to R333) -/

/-- Whether a bay is free: no task, and every short operation of the last one has landed. A bay that holds a saved context is
free for class 0 only (R337, R376). (DEDUCED, log entry 67.) (DEDUCED, log entry 68.) -/
def Bay.isFree (b : Bay) (now cls : Nat) : Bool :=
  b.task.isNone && b.pends.isEmpty && b.jobs.isEmpty && decide (b.drainAt ≤ now) && (!b.lent || cls == 0)

/-- The free bays of a die, ascending. -/
def State.freeBays (s : State) (die cls : Nat) : List Nat :=
  ((List.range 64).map (64 * die + ·)).filter fun b => (s.bay b).isFree s.now cls

/-- A node and the nodes above it. -/
def State.upward (s : State) : Nat → Nat → List Nat
  | 0, id => [id]
  | k + 1, id => id :: match (s.node id).bind (·.parent) with
    | some q => s.upward k q
    | none => []

/-- Whether m more bays stay within BAYS of a node and of every node above it (R328, R332), when some gangs are set aside. (DEDUCED,
log entry 81.) -/
def State.withinBays (s : State) (id m : Nat) (aside : List (Nat × Nat) := []) : Bool :=
  (s.upward 9 id).all fun a => match s.node a with
    | none => true
    | some n =>
      let ids := s.subtree 9 a
      let used := (s.bays.filter fun x => x.2.task.any fun t => ids.contains t.node && !aside.contains (t.node, t.gang)).length
      decide (used + m ≤ n.bays)

/-- The gang of a leaf that a die serves next: a saved one first, else the next one that is not placed; true for a saved one. -/
def Node.nextGang (n : Node) (die : Nat) : Option (Nat × Bool) :=
  match n.gangs.find? fun x => x.2.state == 3 && x.2.die == die with
  | some x => some (x.1, true)
  | none => match n.diesOf.findIdx? (· == die) with
    | none => none
    | some j =>
      let g := j + n.diesOf.length * Tbl.get 0 n.nextG j
      if g < n.gangCount then some (g, false) else none

/-- An engine that a node's reservation takes: it keeps the nodes out of whose reservations it is carved (R328), and a cold one
begins to wake (R147). -/
def Eng.reserve (x : Eng) (id now : Nat) : Eng :=
  { x with reserved := some id, lenders := x.reserved.toList ++ x.lenders
           since := if x.power = 0 ∧ x.reserved.isNone then now + 3104 else x.since }

/-- The engines of a die that a reservation takes (R147, R328): those that its descendants already hold there count as carved from it;
then come those that the nearest node above it holds there, and those that no reservation holds; each time those that hold no
saddle first, drowsy before cold. (DESIGN CHOICE, log entry 146.) -/
def State.reserve (s : State) (die id sadl : Nat) : State :=
  let up := (s.upward 9 id).drop 1
  let below := (s.subtree 9 id).drop 1
  let within (l : List Nat) (x : Eng) : Bool := x.reserved.any l.contains
  (List.range 7).foldl (fun s c =>
    let all := (List.range 16).map (16 * c + ·)
    let held := all.filter fun u => within below (s.engOf die u)
    let us := all.filter fun u => within up (s.engOf die u) || (s.engOf die u).reserved.isNone
    let key (u : Nat) : Nat :=
      let x := s.engOf die u
      4 * (match x.reserved with
        | some q => (up.findIdx? (· == q)).getD 9
        | none => 9) + (if x.saddled then 2 else 0) + if x.power = 0 then 1 else 0
    let s1 := held.foldl (fun s u => s.onEng die u fun x =>
      { x with lenders := x.lenders.takeWhile below.contains ++ id :: x.lenders.dropWhile below.contains }) s
    ((sortBy key us).take (sadlOf sadl c - held.length)).foldl (fun s u => s.onEng die u fun x => x.reserve id s.now) s1) s

/-- A gang is placed on the lowest free bays of its die, and its tasks start (R331). -/
def State.placeGang (s : State) (die id g : Nat) (n : Node) : State :=
  let ms := n.members g
  let bays := (s.freeBays die n.prio).take ms.length
  let j := (n.diesOf.findIdx? (· == die)).getD 0
  let s1 := if n.launched.any (fun x => x.1 == die) then s else s.reserve die id n.sadl
  let s2 := s1.onNode id fun x => { x with
    launched := if x.launched.any (fun y => y.1 == die) then x.launched else x.launched ++ [(die, s.now)]
    nextG := Tbl.set 0 x.nextG j (Tbl.get 0 x.nextG j + 1) }
  let s3 := (if n.state = 3 then s2.moveNode id 4 0 else s2).onGang id g fun _ =>
    { state := 1, die := die, bays := bays, placed := s.now, paid := ms.length * 65536 }
  (ms.zip bays).foldl (fun s x => s.startTask x.2 n (n.task id g x.1)) s3

/-- A saved gang whose bays are free is to be restored on them; its members are prepaid again (R332, R336). -/
def State.resumeGang (s : State) (r g : Nat) (n : Node) : State :=
  s.onGang r g fun x => { x with state := 4, paid := x.paid + (n.standing g).length * 65536 }

/-- Whether a saved gang may be restored now. -/
def State.resumable (s : State) (r g : Nat) (n : Node) : Bool :=
  s.withinBays r (n.standing g).length && (n.standing g).all fun x => (s.bay x.2).isFree s.now 0

/-- One class of a die is served until its queue is empty or its head must wait; true in the second case (R332, R333). -/
def State.serveClass (s : State) (die cls : Nat) : Nat → State × Bool
  | 0 => (s, false)
  | fuel + 1 =>
    let d := s.die die
    match Tbl.get [] d.ready cls with
    | [] => (s, false)
    | r :: rest =>
      let drop := s.onDie die fun d => { d with ready := Tbl.set [] d.ready cls rest, deficit := Tbl.set 0 d.deficit r 0 }
      match s.node r with
      | none => drop.serveClass die cls fuel
      | some n => match n.nextGang die with
        | none => drop.serveClass die cls fuel
        | some (g, saved) =>
          let m := if saved then (n.standing g).length else (n.members g).length
          let debt := Tbl.get 0 d.deficit r
          let pay (s : State) : State := s.onDie die fun d => { d with deficit := Tbl.set 0 d.deficit r (debt - m * 65536) }
          if debt ≤ 0 then
            (s.onDie die fun d => { d with ready := Tbl.set [] d.ready cls (rest ++ [r])
                                           deficit := Tbl.set 0 d.deficit r (debt + n.weight * 65536) }).serveClass die cls fuel
          else if !s.withinBays r m then (s.onDie die fun d => { d with head := some (cls, r) }, true)
          else if saved then
            if s.resumable r g n then (pay (s.resumeGang r g n)).serveClass die cls fuel
            else (s.onDie die fun d => { d with head := some (cls, r) }, true)
          else if m ≤ (s.freeBays die cls).length then (pay (s.placeGang die r g n)).serveClass die cls fuel
          else (s.onDie die fun d => { d with head := some (cls, r) }, true)

/-- Steps that the loop of R332 may take. (DESIGN CHOICE, log entry 82.) -/
def schedFuel : Nat := 2 ^ 32

/-- Whether the waiting head of a die can be placed now: bays have become free since, here or, for its BAYS, on another die. -/
def State.headFits (s : State) (die : Nat) : Bool :=
  match (s.die die).head with
  | none => false
  | some (cls, r) => match s.node r with
    | none => true
    | some n => match n.nextGang die with
      | none => true
      | some (g, saved) =>
        let m := if saved then (n.standing g).length else (n.members g).length
        s.withinBays r m && if saved then (n.standing g).all fun x => (s.bay x.2).isFree s.now 0
          else decide (m ≤ (s.freeBays die cls).length)

/-- Saved gangs of a die whose bays are all free are restored although nothing else is placed: while no anchor stands (R321), and
while a head of a lower or equal class waits for bays that saved contexts keep (R24, R333, R376). (DESIGN CHOICE, log entry 168.) -/
def State.resumeSaved (s : State) (die : Nat) : State :=
  ((List.range 4).flatMap fun c => (Tbl.get [] (s.die die).ready c).map (c, ·)).foldl (fun s x => match s.node x.2 with
    | some n => match n.nextGang die with
      | some (g, true) =>
        let m := (n.standing g).length
        if s.resumable x.2 g n then
          (s.resumeGang x.2 g n).onDie die fun d => { d with deficit := Tbl.set 0 d.deficit x.2 (Tbl.get 0 d.deficit x.2 - m * 65536) }
        else s
      | _ => s
    | none => s) s

/-- Whether the waiting head of a die would fit if saved contexts kept no bays from it. -/
def State.headLent (s : State) (die : Nat) : Bool :=
  match (s.die die).head with
  | some (cls, r) => match s.node r with
    | some n => match n.nextGang die with
      | some (g, false) =>
        let m := (n.members g).length
        decide ((s.freeBays die cls).length < m) && decide (m ≤ (s.freeBays die 0).length)
      | _ => false
    | none => false
  | none => false

/-- Whether the scheduler of a die may look at its queues now: something has changed, the die is usable and its partition runs
(R389, R394, R398). -/
def State.placeDue (s : State) (die : Nat) : Bool :=
  ((s.die die).sched || s.headFits die) && bit s.pkg.ready (4 + die) && (s.die die).thermal != 3 && !(s.part (s.partOfDie die)).stopped

/-- GANG_PLACE (R332, R333): the classes are served in order; none after one whose head must wait, and none while no anchor
stands (R321). -/
def execGangPlace (die : Nat) (s : State) : Out :=
  if 4 ≤ die then .fault .absent
  else if !s.placeDue die then .next s
  else
    let s0 := s.onDie die fun d => { d with sched := false, head := none }
    let idle := (s.part (s.partOfDie die)).rgnanch == 0
    let s1 := if idle then s0
      else ((List.range 4).foldl (fun (a : State × Bool) c => if a.2 then a else a.1.serveClass die c schedFuel) (s0, false)).1
    .next (if idle || s1.headLent die then s1.resumeSaved die else s1)

/-! ## Preemption by class 0 (R335) -/

/-- The gangs of classes 1 to 3 that are placed on a die, in the order in which they are taken as victims; one under a kill is
taken too, and killed (R340). -/
def State.victims (s : State) (die : Nat) : List (Nat × Nat × Node) :=
  let all := s.pkg.nodes.flatMap fun x => match x.2 with
    | some n => if n.live && n.prio != 0 then
        (n.gangs.filter fun g => g.2.state == 1 && g.2.die == die).map fun g => (x.1, g.1, n) else []
    | none => []
  let gang (x : Nat × Nat × Node) : Gang := x.2.2.gangOf x.2.1
  let byBay := sortBy (fun x => 256 - (gang x).bays.headD 0) all
  let byTime := sortBy (fun x => s.now - (gang x).placed) byBay
  sortBy (fun x => 3 - x.2.2.prio) byTime

/-- The bays on which gangs of a die that are being saved, or killed as victims, still stand, and those of ended tasks whose results
have still to land. -/
def State.beingSaved (s : State) (die : Nat) : Nat :=
  (s.pkg.nodes.map fun x => match x.2 with
    | some n => ((n.gangs.filter fun g => g.2.state == 2 && g.2.die == die).map fun g => (s.gangOn x.1 g.1).length).sum
    | none => 0).sum
    + (((List.range 64).map (64 * die + ·)).filter fun b => (s.bay b).task.isNone && !(s.bay b).isFree s.now 0).length

/-- The gangs that are being saved, by node and number. -/
def State.leaving (s : State) : List (Nat × Nat) :=
  s.pkg.nodes.flatMap fun x => match x.2 with
    | some n => (n.gangs.filter fun g => g.2.state == 2).map fun g => (x.1, g.1)
    | none => []

/-- The victims that the waiting class-0 gang of a die needs now, whole gangs until it fits the bays that they and those being saved
free, and the BAYS above it; none when they would not suffice (R335, R337). -/
def State.preemptNow (s : State) (die : Nat) : List (Nat × Nat × Node) :=
  match (s.die die).head with
  | some (0, r) => match s.node r with
    | none => []
    | some n => match n.nextGang die with
      | none => []
      | some (g, saved) =>
        if saved then []
        else
          let vs := s.victims die
          let m := (n.members g).length
          let fits (l : List (Nat × Nat × Node)) : Bool :=
            decide (m ≤ (s.freeBays die 0).length + s.beingSaved die + (l.map fun x => (s.gangOn x.1 x.2.1).length).sum)
              && s.withinBays r m (s.leaving ++ l.map fun x => (x.1, x.2.1))
          match (List.range (vs.length + 1)).find? fun k => fits (vs.take k) with
          | some k => vs.take k
          | none => []
  | _ => []

/-- CLASS0_PREEMPT (R335): the victims are to be saved. -/
def execClass0Preempt (die : Nat) (s : State) : Out :=
  if 4 ≤ die then .fault .absent
  else .next ((s.preemptNow die).foldl (fun s x => s.onGang x.1 x.2.1 fun g => { g with state := 2 }) s)

/-! ## The end of a task (R282, R329, R332) -/

/-- Whether a task that has executed END, or has been killed, ends now. -/
def State.taskOver (s : State) (bay : Nat) : Bool :=
  let b := s.bay bay
  let killed := b.stopped && (match s.node b.node with
    | some n => n.dying
    | none => (s.part (s.partOf bay)).stopped)
  b.task.isSome && (killed || (b.ended.isSome && !b.handler && !b.stopped)) && b.save.isNone
    && (b.holds.all fun h => match h.ends with
      | some e => decide (e < s.now)
      | none => false)
    && b.entries.isEmpty && (s.cmdsOf bay b.uid).isEmpty
    && ((s.cmds (.btx bay wordCh)).all fun c => c.tail || c.task != b.uid)
    && b.reports.isEmpty && b.due.isNone

/-- A gang leaves its bays to be restored later: the cycles on which it stood on them count (R332). (DESIGN CHOICE, log entry 169.) -/
def Gang.parkAt (g : Gang) (m now : Nat) : Gang := { g with state := 3, used := g.used + m * (now - g.placed) }

/-- A task leaves its bay for good. When the last member of its gang does, the deficit of the leaf is corrected (R332); when those
that are left stand on no bay, the gang waits for its bays (R336). -/
def State.endTask (s : State) (bay : Nat) : State :=
  match (s.bay bay).task with
  | none => s
  | some t =>
    let die := dieOf bay
    let s1 := (s.onBay bay fun b => { b with task := none, plan := [], phase := [], phaseOn := false, stopped := false, ended := none
                                             handler := false, preempt := false }).onDie die fun d => { d with sched := true }
    match s.node t.node with
    | none => s1
    | some n =>
      let g := n.gangOf t.gang
      let ended := g.ended ++ [t.taskid]
      let m := (n.members t.gang).length
      if ended.length < m then
        let s2 := s1.onGang t.node t.gang fun x => { x with ended := ended }
        if (g.state = 1 ∨ g.state = 2) ∧ (s2.gangOn t.node t.gang).isEmpty then
          (s2.onGang t.node t.gang fun x => x.parkAt m s.now).requeue t.node die n
        else s2
      else
        let s2 := s1.onNode t.node fun x => { x with gangs := Tbl.set Gang.reset x.gangs t.gang Gang.reset, gone := x.gone + 1 }
        if (Tbl.get [] (s2.die die).ready n.prio).contains t.node then
          let back : Int := g.paid - (g.used + m * (s.now - g.placed) : Nat)
          s2.onDie die fun d => { d with deficit := Tbl.set 0 d.deficit t.node (Tbl.get 0 d.deficit t.node + back) }
        else s2

/-- TASK_END (R282). -/
def execTaskEnd (bay : Nat) (s : State) : Out :=
  if 256 ≤ bay then .fault .absent else .next (if s.taskOver bay then s.endTask bay else s)

end Sys2Proof.Machine
end

