-- ==== Sys2Proof/Machine/Context.lean ====
section
/-!
DEFINITION. Context switch: FRZ, CTXSV, CTXLD, ERET and TLBINV, the save of a task, its image, and its restore
(spec/22_traps_context.md R363, R369 to R376; spec/20_regions.md R336; spec/21_translation.md R348).
-/

namespace Sys2Proof.Machine

/-! ## Global memory by virtual address -/

/-- Bytes written at a virtual address, at pkg scope; pages that are not mapped are skipped. -/
def State.putVa (s : State) (p asid va : Nat) (bs : List Byte) : State :=
  if bs.isEmpty then s
  else (pageParts va bs.length).foldl (fun s x => match s.walk p asid x.1 with
    | .leaf l =>
      let data := (bs.drop (x.1 - va)).take (x.2 - x.1)
      let pa := l.pa + x.1 % l.size
      (linesOf pa data.length).foldl (fun s k => s.dropCopies (l.tgt == 1, k)) (s.writeLeaf l (x.1 % l.size) data)
    | _ => s) s

/-- n bytes at a virtual address, or none where a page is not mapped. -/
def State.getVa (s : State) (p asid va n : Nat) : Option (List Byte) :=
  if n = 0 then some []
  else ((pageParts va n).mapM fun (x : Nat × Nat) => match s.walk p asid x.1 with
    | .leaf l => some (s.readLeaf l (x.1 % l.size) (x.2 - x.1))
    | _ => none).map List.flatten

/-- The lines of n bytes at a virtual address, in the memory that holds them; pages that are not mapped are skipped. -/
def State.vaLines (s : State) (p asid va n : Nat) : List Line :=
  if n = 0 then []
  else (pageParts va n).flatMap fun x => match s.walk p asid x.1 with
    | .leaf l => (linesOf (l.pa + x.1 % l.size) (x.2 - x.1)).map fun k => (l.tgt == 1, k)
    | _ => []

/-! ## Records (R372) -/

/-- The record of an instruction's words. -/
def recordOf (order unit kind tag : Nat) (item : Option Item) (ops : List Word) : Option Replay :=
  item.map fun i => { order, unit, slot := i.slot.code, kind, word := i.word, pay := i.pay.getD 0, tag, pfx := i.pfx.words, ops }

/-- The record of a beat-queue entry. -/
def BEntry.record (e : BEntry) : Option Replay := recordOf e.id 0 1 e.tag e.item e.ops

/-- The records of a stream queue's entries; the entries of one tile form after its first make no record of their own. -/
def queueRecords (k : Nat) : Option SEntry → List SEntry → List Replay
  | _, [] => []
  | last, e :: es =>
    let again : Bool := match last with
      | some x => x.id + 1 == e.id && x.item == e.item && e.item.any fun i => i.slot == .w && i.word.getLsbD 29
      | none => false
    (if again then [] else (recordOf e.id k 4 0 e.item e.ops).toList) ++ queueRecords k (some e) es

/-- The record of a command. -/
def Cmd.record (c : Cmd) (e : Engine) : Option Replay :=
  match e with
  | .btx _ ch => recordOf c.id ch 2 0 c.item c.ops
  | .tack _ _ => recordOf c.id c.lease 3 0 c.item c.ops

/-- The 64 bytes of a record. -/
def Replay.bytes (r : Replay) : List Byte :=
  leBytes 8 (r.order * 2 ^ 32 + r.unit * 2 ^ 16 + r.slot * 2 ^ 8 + r.kind)
    ++ leBytes 4 r.word.toNat ++ leBytes 4 r.pay.toNat ++ leBytes 8 r.tag
    ++ leBytes 4 ((r.pfx.getD 0 0).toNat) ++ leBytes 4 ((r.pfx.getD 1 0).toNat)
    ++ ((List.range 4).flatMap fun i => leBytes 8 (r.ops.getD i 0).toNat)

/-- A record read from its bytes. -/
def replayOf (bs : List Byte) : Replay :=
  let num (a n : Nat) : Nat := leNat ((bs.drop a).take n)
  let w := num 0 8
  { order := bits w 63 32, unit := bits w 31 16, slot := bits w 15 8, kind := bits w 7 0, word := BitVec.ofNat 32 (num 8 4)
    pay := BitVec.ofNat 32 (num 12 4), tag := num 16 8
    pfx := ([num 24 4, num 28 4].filter (· ≠ 0)).map (BitVec.ofNat 32)
    ops := (List.range 4).map fun i => BitVec.ofNat 64 (num (32 + 8 * i) 8) }

/-! ## Freeze (R369 steps 1 and 2) -/

/-- The in-array operation of a task that runs stops with what it has done, and its other beat entries are withdrawn into records.
(DESIGN CHOICE, log entry 70.) -/
def State.withdrawBeats (s : State) (bay : Nat) : State :=
  let uid := (s.bay bay).uid
  let mine (e : BEntry) : Bool := e.bay == bay && e.task == uid
  let b := s.bay bay
  let run := b.running.filter fun r => mine r.entry && !r.stop
  let gone (e : BEntry) : Bool := mine e && !(b.running.any fun r => r.entry.id == e.id && r.entry.bay == e.bay)
  let recs := (s.bays.flatMap fun x => (x.2.bq.filter gone).filterMap BEntry.record) ++ b.transit.filterMap BEntry.record
  let s1 := s.mapBays fun _ x => { x with bq := x.bq.filter fun e => !gone e && !(run.any fun r => r.entry.id == e.id && r.entry.bay == e.bay) }
  s1.onBay bay fun x =>
    { x with
      running := if run.isSome then none else x.running
      frozen := x.frozen ++ (run.map fun r => { r with start := s.now - r.start }).toList
      replay := x.replay ++ recs, transit := [] }

/-- FC of a bay on this cycle: a throttle step, which moves FB when it begins, stops FC for its whole length (R20, R101). -/
def Bay.fcAt (b : Bay) (now : Nat) : Int := now + (b.throttled - now : Nat) - b.fb

/-- Step 2 of a save: beat work is frozen or withdrawn, and FC and BEATNO are taken; the deadlines of the task's leases stand still
until its restore (R144). -/
def State.freeze (s : State) (bay : Nat) : State :=
  let b := s.bay bay
  let pause (l : Lease) : Lease := match l.deadline with
    | some k => { l with deadline := none, paused := some (k - b.fb) }
    | none => l
  let s1 := (s.leasesOf b.uid).foldl (fun s x => s.onLease x.1 x.2 pause) (s.withdrawBeats bay)
  s1.onBay bay fun x => { x with
    fcSaved := if x.fresh then 0 else x.fcAt s.now, beatSaved := (s.part (s.partOf bay)).beatno, frozenFrom := s.now }

/-! ## Drain and streams (R369 steps 3 and 4) -/

/-- A command that has not finished is cancelled: it performs nothing more and writes no word. (DEDUCED, log entry 78.) -/
def State.cancelCmd (s : State) (e : Engine) (c : Cmd) : State :=
  let s1 := (s.onDie (dieOf c.bay) fun d => { d with parked := d.parked.filter fun p => p.what != .cmd e c.id }).leaveIntake
    (.cmd c.bay c.id)
  ((s1.unpin c).1.detach e c).onBay c.bay fun b => { b with replay := b.replay ++ (c.record e).toList }

/-- Everything of a task that has not finished at f + W becomes a record. -/
def State.withdrawAll (s : State) (bay : Nat) : State :=
  let uid := (s.bay bay).uid
  let s1 := (s.cmdsOf bay uid).foldl (fun s x => s.cancelCmd x.1 x.2) s
  let s2 := (s1.leasesOf uid).foldl (fun s x =>
    let held := (s.leaseOf x.1 x.2).cmds
    (s.onLease x.1 x.2 fun l => { l with cmds := [] }).onBay bay fun b =>
      { b with replay := b.replay ++ held.filterMap fun c => recordOf c.id c.lease 3 0 c.item c.ops }) s1
  let b := s2.bay bay
  let recs := b.sq.flatMap fun q => queueRecords q.1 none q.2
  let seen := recs.foldl (fun (l : List Replay) r => if l.any (fun x => x.order == r.order) then l else l ++ [r]) []
  let s3 := s2.onDie (dieOf bay) fun d => { d with parked := d.parked.filter fun p => match p.what with
    | .entry x _ _ => x != bay
    | _ => true }
  let s4 := s3.onPkg fun k => { k with intake := k.intake.filter fun a => match a.what with
    | .entry x _ _ => x != bay
    | .cmd _ _ => true }
  s4.onBay bay fun x => { x with sq := [], fences := [], replay := x.replay ++ seen }

/-! ## The image (R372) -/

/-- The phase table in force, in the layout of R103. -/
def phaseTable (l : List PhaseAgent) : List Byte :=
  leBytes 8 l.length ++ l.flatMap fun a =>
    leBytes 8 (a.agent + a.ranges.length * 2 ^ 16) ++ a.ranges.flatMap fun r =>
      leBytes 8 r.base ++ leBytes 4 r.len ++ leBytes 4 (2 * r.space + if r.w then 1 else 0)

/-- The header of an image. (DEDUCED, log entry 72.) -/
def State.imageHeader (s : State) (bay : Nat) (saved hmode : Bool) : List Byte :=
  let b := s.bay bay
  let t := b.task.getD { uid := 0, node := 0, gang := 0, taskid := 0, coord := 0, asid := 0, seed := 0, d := false, cls := 0, part := 0 }
  let idx (k : Nat) : Nat := (Tbl.get Channel.reset b.btx k).queue.length
  leBytes 8 (0x434B594E + s.pkg.frzver * 2 ^ 32)
    ++ leBytes 8 (t.taskid + t.asid * 2 ^ 32 + (if hmode then 2 ^ 48 else 0) + 2 ^ 49 + if saved then 2 ^ 50 else 0)
    ++ leBytes 8 (((s.node t.node).map (·.addr)).getD 0)
    ++ leBytes 8 b.beatSaved ++ leBytes 8 (wrap 64 b.beatoff)
    ++ leBytes 8 (if saved then b.replay.length else 0) ++ ((List.range 8).flatMap fun k => leBytes 2 (idx k))

/-- The sections of an image with their offsets, but for the freeze section. -/
def State.imageSections (s : State) (bay : Nat) (own : Bool) : List (Nat × List Byte) :=
  let b := s.bay bay
  let words (l : List Word) : List Byte := l.flatMap fun w => leBytes 8 w.toNat
  let hmode := own && b.handler
  let cause := if own && !b.handler then b.cause &&& ~~~0x400 ||| (if b.ended.isSome then 0x400 else 0) else b.cause
  let resume : Word := if own && !b.handler then BitVec.ofNat 64 (b.ended.getD b.pc) else b.trappc
  let handles := (s.leasesOf b.uid).map fun x => handleOf x.1 x.2 (s.leaseOf x.1 x.2)
  [(0, s.imageHeader bay true hmode),
   (0x40, words ((List.range 32).map fun r => if r = 0 then 0 else Tbl.get 0 b.sreg r)),
   (0x140, [b.b0, b.b1, b.b2, b.b3].flatMap fun v => leBytes 16 v.toNat),
   (0x180, words [b.fmt, b.stat ||| (if b.phaseOn then 0x100 else 0), b.dbeat, b.beatctl, BitVec.ofNat 64 b.latecnt, b.rqpos, b.rqposc, BitVec.ofInt 64 b.fcSaved,
      cause, resume, b.info0, b.info1, b.info2, b.info3, BitVec.ofNat 64 b.pc, 0]),
   (0x200, words (((List.range 8).map fun i => Tbl.get 0 b.hreg (24 + i)) ++ [b.hstat, b.hfmt])),
   (0x280, words ((List.range 16).map fun i => handles.getD i 0)),
   (0x300, (List.range 32).flatMap fun i => match b.plan[i]? with
      | some x => leBytes 8 (x.2 % 2 ^ 16 + wrap 48 (x.1 - b.beatoff) * 2 ^ 16)
      | none => leBytes 8 0),
   (0x1000, phaseTable b.phase)]
  ++ ((List.range 8).map fun k => (0x3000 + 1024 * k, (Tbl.get Channel.reset b.btx k).queue.flatMap fun x => leBytes 4 x.1))
  ++ [(0x8000, (sortBy (fun r => r.order) b.replay).flatMap Replay.bytes),
      (0x30000, (List.range 512).flatMap fun n => rowBytes (b.row n)),
      (0x80000, s.scratchBytes bay 0xE0000 0x20000),
      (0xA0000, (List.range 256).flatMap fun k => s.acc.bytes (accKey bay k 15 0) 1024)]

/-- The parts of a bay that an image holds, with the places of their 64-byte sectors in it and the marks of poison that name them: the
tile file, the scratch window, and accumulator row 15. -/
def imageSectors (bay : Nat) : List (Nat × Nat × Nat) :=
  ((List.range 1024).map fun i => (0x30000 + 64 * i, 0, bay * 1024 + i))
    ++ ((List.range 2048).map fun i => (0x80000 + 64 * i, 1, scratchKey bay 0xE0000 / 64 + i))
    ++ ((List.range 4096).map fun i => (0xA0000 + 64 * i, 2, accKey bay (i / 16) 15 0 / 1024))

/-- The marks of poison of the tile file, of scratch and of accumulators (R399). -/
def State.sectorMarks (s : State) (kind : Nat) : List Nat :=
  if kind = 0 then s.pkg.poisonTile else if kind = 1 then s.pkg.poisonScratch else s.pkg.poisonAcc

/-- Poisoned sectors of a bay are poisoned in its image (R47, R399). -/
def State.savePoison (s : State) (bay p asid addr : Nat) : State :=
  let bad := (imageSectors bay).filter fun x => (s.sectorMarks x.2.1).contains x.2.2
  s.onPkg fun k => { k with poisonLlc := k.poisonLlc ++ bad.flatMap fun x => s.vaLines p asid (addr + x.1) 64 }

/-- Poisoned sectors of an image are poisoned in the bay that it is restored on. -/
def State.loadPoison (s : State) (bay p asid addr : Nat) : State :=
  if s.pkg.poisonLlc.isEmpty && s.pkg.expDown.isEmpty then s
  else
    let bad := (imageSectors bay).filter fun x => (s.poisonedOf (s.vaLines p asid (addr + x.1) 64)).isSome
    let marks (k : Nat) : List Nat := ((bad.filter fun x => x.2.1 == k).map fun x => x.2.2).eraseDups
    (s.onPkg fun k => { k with
      poisonTile := k.poisonTile ++ marks 0, poisonScratch := k.poisonScratch ++ marks 1, poisonAcc := k.poisonAcc ++ marks 2 }).onPart p fun x =>
      { x with snapPoisonAcc := x.snapPoisonAcc ++ marks 2 }

/-- The freeze section is opaque: it names what the part keeps for it. (DESIGN CHOICE, log entry 70.) -/
def State.writeFreeze (s : State) (bay addr : Nat) : State :=
  let b := s.bay bay
  let key := s.pkg.freezeCount + 1
  let s1 := s.onPkg fun p => { p with freezes := Tbl.set { } p.freezes key { runs := b.frozen, fresh := b.fresh, lost := b.lost }, freezeCount := key }
  s1.putVa (s.partOf bay) b.asid (addr + 0x40000) (leBytes 8 key)

/-- The deadlines that stand still since step 2 of a save go on at the distance from FC that they had (R144). -/
def State.resumeLeases (s : State) (uid : Nat) (fb : Int) : State :=
  let resume (l : Lease) : Lease := match l.paused with
    | some d => { l with deadline := some (fb + d).toNat, paused := none }
    | none => l
  (s.leasesOf uid).foldl (fun s x => s.onLease x.1 x.2 resume) s

/-- A bay is given back to the scheduler with its context saved; the gang waits for its bays once all its members have left
them (R336, R367, R371). -/
def State.leaveBay (s : State) (bay : Nat) : State :=
  match (s.bay bay).task with
  | none => s
  | some t =>
    let s1 := (s.onBay bay fun b => { b with task := none, empty := false, handler := false, lent := true, preempt := false }).onDie (dieOf bay)
      fun d => { d with sched := true }
    match s1.node t.node with
    | none => s1
    | some n =>
      let g := n.gangOf t.gang
      if (g.state = 1 ∨ g.state = 2) ∧ (s1.gangOn t.node t.gang).isEmpty then
        (s1.onGang t.node t.gang fun x => x.parkAt (n.members t.gang).length s.now).requeue t.node (dieOf bay) n
      else s1

/-- Steps 3 to 5 of a save end: the image is written, and the bay holds nothing of the task. Reports that the task has not taken
wait for its restore. -/
def State.finishSave (s : State) (bay : Nat) (sv : Save) : State :=
  let s1 := (s.withdrawBeats bay).withdrawAll bay
  let b := s1.bay bay
  let p := s1.partOf bay
  let s2 := ((s1.imageSections bay sv.own).foldl (fun s x => s.putVa p b.asid (sv.addr.toNat + x.1) x.2) s1).savePoison
    bay p b.asid sv.addr.toNat
  let s3 := (s2.writeFreeze bay sv.addr.toNat).onPkg fun k => { k with
    outbox := k.outbox ++ b.reports.map fun r => ⟨bay, b.uid, r, false, 0⟩ }
  let s4 := s3.onBay bay fun x =>
    { x with
      sreg := [], tiles := [], tileSeed := none, b0 := 0, b1 := 0, b2 := 0, b3 := 0, stat := 0, fmt := 0, dbeat := 0, beatctl := 0
      latecnt := 0, rqpos := 0, rqposc := 0, beatoff := 0, holds := [], frozen := [], replay := [], landing := [], tmmas := []
      btx := x.btx.filter fun c => c.1 == wordCh, phase := [], phaseOn := false, plan := [], reports := [], save := none
      frozenAt := none, empty := true, ended := none, lost := false }
  let s5 := match b.task with
    | some t => if b.ended.isSome then s4.onGang t.node t.gang fun x => { x with quit := x.quit ++ [t.taskid] } else s4
    | none => s4
  if sv.own || sv.leave then s5.leaveBay bay else s5.onBay bay fun x => { x with nextAt := max x.nextAt (s.now + 1) }

/-- Whether a line of the image at an address, or of a walk to it, must first be taken from the host, to be written or read (R381). -/
def State.imageHeld (s : State) (p asid addr : Nat) (wr : Bool) : Bool :=
  (pageParts addr 0x100000).any fun x => s.walkWaits p asid x.1 || s.hostHolds (s.vaLines p asid x.1 (x.2 - x.1)) wr

/-- The addresses in the image at an address whose pages are not mapped. -/
def State.imageGaps (s : State) (p asid addr : Nat) : List Nat :=
  (pageParts addr 0x100000).filterMap fun x => if s.walkWaits p asid x.1 then none else match s.walk p asid x.1 with
    | .absent _ => some x.1
    | _ => none

/-- Whether the part can go on with the image at an address for a node: a page of it can be asked for, or all its pages are mapped and its
lines can be written or read. -/
def State.imageDue (s : State) (node p asid addr : Nat) (wr : Bool) : Bool :=
  match s.imageGaps p asid addr with
  | [] => !s.imageHeld p asid addr wr
  | l => l.any fun va => s.mayAsk node p asid va

/-- The pages of an image that are not mapped are asked for. -/
def State.askImage (s : State) (node p asid addr : Nat) : State :=
  (s.imageGaps p asid addr).foldl (fun s va => s.askPage node p asid va) s

/-- Whether a save of a bay goes on on this cycle: once it writes, it waits for the pages and the lines of its image, and asks for the
pages that are not mapped (R336, R381). (DEDUCED, log entry 64.) -/
def State.saveDue (s : State) (bay : Nat) : Bool :=
  let b := s.bay bay
  let p := s.partOf bay
  b.save.any fun v => (if v.froze then decide (v.f + v.w ≤ s.now) else decide (v.f ≤ s.now))
    && (!(v.froze || v.frz) || s.imageDue b.node p b.asid v.addr.toNat true)

/-- CONTEXT_DRAIN_EXPIRE (R369): step 2 on its cycle; at f + W what has not finished is cancelled and the image is written, once its
pages are mapped (R336). -/
def execContextDrainExpire (bay : Nat) (s : State) : Out :=
  if 256 ≤ bay then .fault .absent
  else match (s.bay bay).save with
  | none => .next s
  | some sv =>
    let p := s.partOf bay
    let asid := (s.bay bay).asid
    if !s.saveDue bay then .next s
    else if (sv.froze || sv.frz) && !(s.imageGaps p asid sv.addr.toNat).isEmpty then
      .next (s.askImage (s.bay bay).node p asid sv.addr.toNat)
    else if !sv.froze then
        let s1 := (s.freeze bay).onBay bay fun b => { b with save := some { sv with froze := true } }
        if sv.frz then
          let b := s1.bay bay
          let s2 := (s1.writeFreeze bay sv.addr.toNat).putVa (s1.partOf bay) b.asid sv.addr.toNat (s1.imageHeader bay false false)
          .next (s2.onBay bay fun b => { b with save := none, frozenAt := some sv.addr, nextAt := max b.nextAt (s.now + 1) })
        else .next s1
    else .next (s.finishSave bay sv)

/-! ## FRZ and CTXSV (R369, R370) -/

/-- The checks of an image address: alignment, and that every page of the image may be accessed so. -/
def State.imageAddr (s : State) (acc : Acc) (b : Reg) (go : Word → State) : State :=
  let a := s.readS b 0
  if a.toNat % 4096 ≠ 0 then s.addrFault 0x12 a
  else
    let bad := (List.range 17).findSome? fun i =>
      let va := if i = 16 then a.toNat + 0xFFFFF else a.toNat + 65536 * i
      match (s.translate acc (s.partOf s.cur.bay) s.here.asid true va 0).1 with
      | .ok _ _ => none
      | .absent r | .form r | .prot r => some r
      | .wait => some tryAgain
    match bad with
    | some r => s.raise r
    | none => go a

/-- A save begins: no bundle issues until it is over. After FRZ it goes on from the cycle of step 2 (R370). -/
def Bay.beginSave (b : Bay) (bay now : Nat) (addr : Word) (w : Nat) (own frz : Bool) : Bay :=
  let froze := b.frozenAt.isSome
  { b.withdraw with save := some ⟨addr, if froze then b.frozenFrom else b.landedBy bay now, w, own, froze, frz, false⟩ }

def execFrz (b : Reg) (s : State) : Out :=
  .next (if s.here.empty then s.protect
    else s.imageAddr .store b fun a =>
      if s.here.frozenAt.isSome then s.illegal b.toNat else s.upd fun x => x.beginSave s.cur.bay s.now a 0 false true)

def execCtxsv (b : Reg) (s : State) : Out :=
  .next (if s.here.empty then s.protect
    else s.imageAddr .store b fun a => match s.here.frozenAt with
      | some f => if f = a then s.upd fun x => x.beginSave s.cur.bay s.now a 8192 false false else s.illegal b.toNat
      | none => s.upd fun x => x.beginSave s.cur.bay s.now a 8192 false false)

/-- Whether the part has still to act on a bay of a victim gang. A FRZ of the handler first makes its step 2. -/
def Bay.mustSave (b : Bay) : Bool := match b.save with
  | some v => !(v.own || v.leave || v.frz)
  | none => true

/-- A task of a victim gang is saved: a save that its handler has begun ends within the part's window, and a bay that the handler
has emptied is given back. (DESIGN CHOICE, log entry 153.) -/
def State.saveVictim (s : State) (n : Node) (bay : Nat) : State :=
  let b := s.bay bay
  if !b.mustSave then s
  else match b.save with
  | some v => s.onBay bay fun x => { x with save := some { v with w := min v.w 2048, leave := true } }
  | none =>
    if b.empty then s.leaveBay bay
    else s.onBay bay fun x =>
      x.beginSave bay s.now (BitVec.ofNat 64 (n.save + ((x.task.map (·.taskid)).getD 0) * 2 ^ 20)) 2048 true false

/-- PREEMPT_SAVE (R336): the part begins the save of every task of a victim gang. -/
def execPreemptSave (leaf gang : Nat) (s : State) : Out :=
  match s.node leaf with
  | none => .fault .absent
  | some n =>
    if (n.gangOf gang).state ≠ 2 ∨ n.dying then .next s
    else .next ((s.gangOn leaf gang).foldl (fun s bay => s.saveVictim n bay) s)

/-! ## Restore (R373, R374) -/

/-- An 8-byte word of an image. -/
def State.imageWord (s : State) (p asid addr off : Nat) : Nat := leNat ((s.getVa p asid (addr + off) 8).getD [])

/-- The phase table of an image, reinstalled without a fresh check of its agents (R373). -/
def State.imagePhase (s : State) (bay p asid addr : Nat) : List PhaseAgent :=
  let bs := (s.getVa p asid (addr + 0x1000) 0x2000).getD []
  match (s.putScratch bay 0 bs).phaseAgents bay (fun _ => true) (leNat (bs.take 1)) 8 [] with
  | .ok l => l
  | .error _ => []

/-- The first poisoned line of an image among those that a restore reads as words: the header, the registers, the phase table, the
indices, the records and the freeze section (R47, R399). -/
def State.imagePoison (s : State) (bay p asid addr : Nat) : Option Nat :=
  let w (off : Nat) : Nat := s.imageWord p asid addr off
  let n (k : Nat) : Nat := w (48 + 8 * (k / 4)) / 2 ^ (16 * (k % 4)) % 2 ^ 16
  let read : List (Nat × Nat) := [(0, 0x400), (0x1000, phaseBytes (s.imagePhase bay p asid addr)), (0x8000, 64 * min 1280 (w 40)), (0x40000, 8)]
    ++ (List.range 8).map fun k => (0x3000 + 1024 * k, 4 * min 256 (n k))
  if s.pkg.poisonLlc.isEmpty && s.pkg.expDown.isEmpty then none
  else read.findSome? fun x => s.poisonedOf (s.vaLines p asid (addr + x.1) x.2)

/-- The checks of an image (R373): the node and TASKID that it is of, or the cause. -/
def State.checkImage (s : State) (p asid addr bay : Nat) : Except Nat (Nat × Node × Nat) :=
  let w (i : Nat) : Nat := s.imageWord p asid addr (8 * i)
  if (s.getVa p asid addr 8).isNone then .error 0x10
  else if bits (w 0) 31 0 ≠ 0x434B594E ∨ bits (w 0) 47 32 ≠ s.pkg.frzver then .error 0x1A
  else if bits (w 0) 63 48 ≠ 0 ∨ bits (w 1) 63 51 ≠ 0 ∨ bits (w 1) 47 44 ≠ 0 ∨ !bit (w 1) 50 ∨ bits (w 2) 63 57 ≠ 0
      ∨ bits (w 5) 63 11 ≠ 0 ∨ 1280 < w 5 ∨ (List.range 8).any (fun k => decide (256 < w (6 + k / 4) / 2 ^ (16 * (k % 4)) % 2 ^ 16)) then
    .error 0x01
  else match s.nodeAt p (w 2) with
  | none => .error 0x11
  | some id => match s.node id with
    | none => .error 0x11
    | some n =>
      let t := bits (w 1) 31 0
      if n.state ≠ 4 ∨ !n.leaf ∨ n.tasks ≤ t ∨ n.dying ∨ s.bays.any (fun x => x.1 != bay && x.2.uid == 2 ^ 32 * id + t) then .error 0x11
      else .ok (id, n, t)

/-- The least BSAVE among the images of a gang: that of one image, and those at their save addresses of the other members of its gang
that are images of theirs. (DESIGN CHOICE, log entry 173.) -/
def State.leastBeat (s : State) (p asid addr : Nat) (n : Node) (taskid : Nat) : Nat :=
  let gang := taskid / max 1 n.gangSize
  let saves := ((n.members gang).filter (· != taskid)).map fun t => (t, n.save + t * 2 ^ 20)
  let good := saves.filter fun x =>
    let w (off : Nat) : Nat := s.imageWord p asid x.2 off
    bits (w 0) 31 0 == 0x434B594E && bit (w 8) 50 && bits (w 8) 31 0 == x.1 && w 16 == n.addr
  good.foldl (fun m x => min m (s.imageWord p asid x.2 24)) (s.imageWord p asid addr 24)

/-- Δ of R374: the smallest even number that carries a saved beat past the open one. (DEDUCED, log entry 75.) -/
def rebase (bmin bnow : Nat) : Int := ((bnow : Int) + 1 - bmin + 1) / 2 * 2

/-- A task is restored on a bay from an image. Reserved bits of its register words are loaded as they stand; those of the header alone are
checked. (DESIGN CHOICE, log entry 167.) -/
def State.restoreTask (s : State) (bay p asid addr : Nat) (id : Nat) (n : Node) (taskid : Nat) (delta : Int) : State :=
  let w (off : Nat) : Nat := s.imageWord p asid addr off
  let word (off : Nat) : Word := BitVec.ofNat 64 (w off)
  let bytes (off k : Nat) : List Byte := (s.getVa p asid (addr + off) k).getD []
  let t := n.task id (taskid / max 1 n.gangSize) taskid
  let hmode := bit (w 8) 48
  let off : Int := signed 64 (w 32) + delta
  let beatno := (s.part p).beatno
  let cause := word 0x1C0
  let phase := s.imagePhase bay p asid addr
  let plan := (List.range 32).filterMap fun i =>
    let v := w (0x300 + 8 * i)
    let beat : Int := signed 48 (bits v 63 16) + off
    if 32 ≤ bits v 15 0 ∧ (beatno : Int) < beat then some (beat.toNat, bits v 15 0) else none
  let step (k : Nat) : BitVec 128 := BitVec.ofNat 128 (leNat (bytes (0x140 + 16 * k) 16))
  let nidx (k : Nat) : Nat := w (48 + 8 * (k / 4)) / 2 ^ (16 * (k % 4)) % 2 ^ 16
  let recs := (List.range (w 40)).map fun i => replayOf (bytes (0x8000 + 64 * i) 64)
  let s1 := s.putScratch bay 0xE0000 (bytes 0x80000 0x20000)
  let s2 := (List.range 256).foldl (fun s k =>
    let bs := bytes (0xA0000 + 1024 * k) 1024
    (s.putAcc (accKey bay k 15 0) bs).onPart p fun x => { x with snapAcc := x.snapAcc.store (accKey bay k 15 0) bs }) s1
  let kept := Tbl.get { } s.pkg.freezes (w 0x40000)
  let s3 := s2.onBay bay fun b =>
    { b.start t 0 (n.save + taskid * 2 ^ 20) [] none (s.now + 1) with
      sreg := Tbl.run 0 1 ((List.range 31).map fun i => word (0x48 + 8 * i))
      hreg := Tbl.run 0 24 ((List.range 8).map fun i => word (0x200 + 8 * i))
      hstat := word 0x240, hfmt := word 0x248
      tiles := Tbl.run none 0 ((List.range 512).map fun i => some (rowOf (bytes (0x30000 + 128 * i) 128)))
      b0 := step 0, b1 := step 1, b2 := step 2, b3 := step 3
      fmt := word 0x180, stat := word 0x188 &&& ~~~0x100, dbeat := word 0x190, beatctl := word 0x198, latecnt := w 0x1A0
      rqpos := word 0x1A8, rqposc := word 0x1B0, fb := s.now - signed 64 (w 0x1B8), fresh := kept.fresh, lost := kept.lost
      cause := cause, trappc := word 0x1C8, info0 := word 0x1D0, info1 := word 0x1D8, info2 := word 0x1E0, info3 := word 0x1E8
      handler := hmode, pc := if hmode then w 0x1F0 else w 0x1C8
      ended := if bit cause.toNat 10 then some (w 0x1C8) else none
      beatoff := off, plan := plan, phase := phase, phaseOn := !phase.isEmpty
      btx := ((List.range 8).filter fun k => nidx k != 0).map fun k =>
        (k, { Channel.reset with queue := (List.range (nidx k)).map fun i => (leNat (bytes (0x3000 + 1024 * k + 4 * i) 4), s.now) })
      replay := recs, l1 := [], l1data := [], l1ext := [], lent := false }
  let s4 := (s3.resumeLeases t.uid (s3.bay bay).fb).loadPoison bay p asid addr
  s4.onBay bay fun b => { b with
    frozen := kept.runs.map fun r =>
      { r with entry := { r.entry with bay := bay, beat := s4.beatOf bay r.entry.tag } } }

/-- Whether the part can go on with the restore of a gang (R336, R381). -/
def State.restoreOpen (s : State) (id : Nat) (n : Node) (gang : Nat) : Bool :=
  (n.standing gang).all fun x => s.imageDue id n.part n.asid (n.save + x.1 * 2 ^ 20) false

/-- CONTEXT_RESTORE (R373): a saved gang is restored on its bays, all its members by the same Δ; an image that fails a check is
fatal to its region (R338). Pages of the images that are not mapped are asked for. (DEDUCED, log entry 64.) -/
def execContextRestore (leaf gang : Nat) (s : State) : Out :=
  match s.node leaf with
  | none => .fault .absent
  | some n =>
    let g := n.gangOf gang
    if g.state ≠ 4 ∨ n.dying ∨ !s.restoreOpen leaf n gang then .next s
    else
      let ms := n.standing gang
      if ms.any fun x => !(s.imageGaps n.part n.asid (n.save + x.1 * 2 ^ 20)).isEmpty then
        .next (ms.foldl (fun s x => s.askImage leaf n.part n.asid (n.save + x.1 * 2 ^ 20)) s)
      else if !(ms.all fun x => (s.bay x.2).isFree s.now 0) then
        .next ((s.onGang leaf gang fun x => { x with state := 3 }).requeue leaf g.die n)
      else
        let addr (t : Nat) : Nat := n.save + t * 2 ^ 20
        match ms.findSome? fun x => if (s.imagePoison x.2 n.part n.asid (addr x.1)).isSome then some 0x14
          else match s.checkImage n.part n.asid (addr x.1) x.2 with
          | .error c => some c
          | .ok y => if y.1 = leaf ∧ y.2.2 = x.1 then none else some 0x11 with
        | some c => .next (s.fatal n.part leaf c)
        | none =>
          let bmin := ms.foldl (fun m x => min m (s.imageWord n.part n.asid (addr x.1) 24)) (2 ^ 64)
          let delta := rebase bmin (s.part n.part).beatno
          let s1 := ms.foldl (fun s x => s.restoreTask x.2 n.part n.asid (addr x.1) leaf n x.1 delta) s
          .next (s1.onGang leaf gang fun x => { x with state := 1, placed := s.now })

/-- CTXLD (R373): the restore on an empty bay; the handler goes on, at its saved address when the task was saved in handler
mode. (DEDUCED, log entry 73.) (DEDUCED, log entry 74.) -/
def execCtxld (b : Reg) (s : State) : Out :=
  let bay := s.cur.bay
  let p := s.partOf bay
  .next (if !s.here.empty then s.protect
    else s.imageAddr .load b fun a => if s.imageHeld p s.here.asid a.toNat false then s.raise tryAgain
      else match s.imagePoison bay p s.here.asid a.toNat with
      | some x => s.raise ⟨0x14, 1, BitVec.ofNat 64 x, 0, 0⟩
      | none => match s.checkImage p s.here.asid a.toNat bay with
      | .error 0x01 => s.illegal b.toNat
      | .error c => s.raise (plain c)
      | .ok (id, n, t) =>
        let delta := rebase (s.leastBeat p s.here.asid a.toNat n t) (s.part p).beatno
        let s1 := s.restoreTask bay p s.here.asid a.toNat id n t delta
        let h := (s1.bay bay).handler
        let s2 := s1.onBay bay fun x => { x with handler := true, checkTarget := false, ended := none }
        if h then s2.goTo (BitVec.ofNat 64 (s1.bay bay).pc) else s2)

/-! ## ERET (R363, R371) -/

/-- ERET: the deadlines that a FRZ without CTXSV has stopped go on; back to task mode and to TRAPPC; after END, and on a bay whose context has been saved, no bundle is resumed. -/
def execEret (s : State) : Out :=
  let bay := s.cur.bay
  let b := s.here
  if b.empty then .next (s.leaveBay bay)
  else if bit b.cause.toNat 10 then
    .next ((s.resumeLeases b.uid b.fb).onBay bay fun b => { b with handler := false, frozenAt := none, ended := match b.ended with
      | some h => some h
      | none => some b.trappc.toNat })
  else .next (((s.resumeLeases b.uid b.fb).returnTrap bay).goTo b.trappc)

/-! ## TLBINV (R295, R348) -/

/-- Whether a TLBINV selects a cached translation. -/
def tlbSelects (p va asid : Nat) (allVa allAsid : Bool) (e : TlbEntry) : Bool :=
  e.part == p && (allAsid || e.asid == asid) && (allVa || e.page * 65536 / e.leaf.size == va / e.leaf.size)

/-- Whether a TLBINV selects a cached non-leaf entry. -/
def tableSelects (p va asid : Nat) (allVa allAsid : Bool) (e : TableEntry) : Bool :=
  e.part == p && (allAsid || e.asid == asid) && (allVa || e.tag == va / 2 ^ levelLow e.level)

/-- TLBINV: what it selects leaves the caches, and it waits for the accesses that use such a translation without a pin. -/
def execTlbinv (b c : Reg) (s : State) : Out :=
  let w := (s.readS c 1).toNat
  let p := s.partOf s.cur.bay
  let va := (s.readS b 0).toNat
  let sel := tlbSelects p va (bits w 11 0) (bit w 12) (bit w 13)
  .next (if bits w 63 14 ≠ 0 then s.illegal c.toNat
    else
      let uses (e : BEntry) : Bool := e.use.any fun u => (bit w 13 || u.1 == bits w 11 0) && (bit w 12 || u.2 == va / 65536)
      let beats := s.bays.flatMap fun x => if s.partOf x.1 != p then [] else
        ((x.2.bq ++ x.2.transit).filter fun e => uses e && !(e.served && !e.op.isWrite)).map fun e => (e.bay, e.id)
      let cmds := (s.cmdsOfPart p).flatMap fun c => (c.pinned.filter fun x => x.run.isNone && sel ⟨p, c.asid, x.page, x.leaf⟩).map
        fun x => (c.bay, c.id, x.page)
      ({ s with
          tlb := s.tlb.filter fun e => !sel e
          tables := s.tables.filter fun e => !tableSelects p va (bits w 11 0) (bit w 12) (bit w 13) e } : State).upd fun x =>
        { x with tlbWait := beats, tlbCmds := cmds })

end Sys2Proof.Machine
end

