-- ==== Sys2Proof/Machine/Trap.lean ====
section
/-!
DEFINITION. Short results that land, reports that reach their tasks, traps that are taken, and the periods of TIME with their
throttle steps and thermal states (spec/04_tile_core.md R90 to R94; spec/22_traps_context.md R362 to R367;
spec/20_regions.md R334, R338; spec/24_bringup_power_ras.md R397, R398).
-/

namespace Sys2Proof.Machine

/-! ## SHORT_OP_LAND (R90, R93) -/

/-- Whether a result of a bay lands, or a .t form reads a row, by the present cycle. -/
def State.landDue (s : State) (bay : Nat) : Bool :=
  let b := s.bay bay
  (b.pends.any fun p => decide (p.due ≤ s.now)) || (b.jobs.any fun j => decide (j.next ≤ s.now))

/-- SHORT_OP_LAND: results due land, and the .t forms read the rows due. -/
def execShortOpLand (bay : Nat) (s : State) : Out :=
  if 256 ≤ bay then .fault .absent else .next (s.landShort bay)

/-! ## Fatal faults and double traps (R338, R364) -/

/-- A double trap: the bay stops issuing, and the fault is fatal to its region with its own cause. -/
def State.doubleTrap (s : State) (bay cause : Nat) : State :=
  let t := (s.bay bay).task
  let s1 := match t with
    | some t => s.fatal t.part t.node cause
    | none => s
  s1.onBay bay fun b => { b with stopped := true }

/-- A trap of a bay: in task mode it is taken; in handler mode it re-enters the handler, where R364 allows that, or is a double
trap. -/
def State.trap (s : State) (bay : Nat) (r : Report) (pc : Nat) (again : Bool) : State :=
  if !(s.bay bay).handler || again then s.takeTrap bay r pc else s.doubleTrap bay r.cause

/-! ## REPORT_ARRIVE (R366) -/

/-- Whether the task of a number is off its bay, saved, and will go on. (DEDUCED, log entry 69.) -/
def State.taskSaved (s : State) (uid : Nat) : Bool :=
  match s.node (uid / 2 ^ 32) with
  | none => false
  | some n =>
    let t := uid % 2 ^ 32
    let g := n.gangOf (t / max 1 n.gangSize)
    n.live && !n.dying && decide (1 ≤ g.state) && !g.ended.contains t

/-- The bay that holds the context of the task of a number: the one named, if it still does. -/
def State.bayOfTask (s : State) (bay uid : Nat) : Option Nat :=
  let is (b : Bay) : Bool := !b.empty && b.task.any fun t => t.uid == uid
  if is (s.bay bay) then some bay else (s.bays.find? fun x => is x.2).map (·.1)

/-- Whether a report on its way can be delivered now; one for a saved task waits for its restore. -/
def State.mailDue (s : State) (m : Mail) : Bool :=
  decide (m.from_ ≤ s.now) && ((s.bayOfTask m.bay m.task).isSome || !s.taskSaved m.task)

/-- A report reaches its task, or the fault domain of a task that has ended. (DEDUCED, log entry 100.) -/
def State.deliver (s : State) (m : Mail) : State :=
  match s.bayOfTask m.bay m.task with
  | some bay =>
    let b := s.bay bay
    if b.stopped then s
    else if m.own && b.handler then s.doubleTrap bay m.rep.cause
    else s.onBay bay fun b => b.report m.rep
  | none =>
    let id := m.task / 2 ^ 32
    match s.node id with
    | none => s
    | some n => if n.dying then s else s.fatal n.part id m.rep.cause

/-- The first letter of a list that satisfies a test, and the rest. -/
def takeMail (ok : Mail → Bool) : List Mail → Option (Mail × List Mail)
  | [] => none
  | m :: ms => if ok m then some (m, ms) else (takeMail ok ms).map fun (x : Mail × List Mail) => (x.1, m :: x.2)

/-- REPORT_ARRIVE: the report arrives in the pending list of the task that it is for. -/
def execReportArrive (bay : Nat) (rep : Report) (s : State) : Out :=
  if 256 ≤ bay then .fault .absent
  else match takeMail (fun m => m.bay == bay && decide (m.rep = rep) && s.mailDue m) s.pkg.outbox with
  | none => .next s
  | some (m, rest) => .next ((s.onPkg fun p => { p with outbox := rest }).deliver m)

/-! ## TRAP_TAKE (R362, R366) -/

/-- TRAP_TAKE: one trap is taken at the boundary: one that the bundle before it has caused, else the oldest report, else a
preemption request. After END, TRAPPC is the header of the bundle that held END (R282). -/
def execTrapTake (bay : Nat) (s : State) : Out :=
  if 256 ≤ bay then .fault .absent
  else
    let b := s.bay bay
    if b.task.isNone || b.stopped || b.save.isSome then .next s
    else match b.due with
    | some r => .next ((s.onBay bay fun b => { b with due := none }).trap bay r b.pc false)
    | none =>
      let pc := b.ended.getD b.pc
      if b.handler then .next s
      else match b.reports with
      | r :: rest => .next ((s.onBay bay fun b => { b with reports := rest }).takeTrap bay r pc)
      | [] =>
        if b.preempt && b.ended.isNone then
          .next ((s.onBay bay fun b => { b with preempt := false }).takeTrap bay ⟨0x19, 0, 0, 0, 0⟩ pc)
        else .next s

/-! ## Periods of TIME (R87, R334, R397, R398) -/

/-- A throttle step of a gang: no member issues for one period, and their frames and lease deadlines move by it. -/
def State.throttleGang (s : State) (id g : Nat) : State :=
  (s.gangOn id g).foldl (fun s bay =>
    let uid := (s.bay bay).uid
    let s1 := s.onBay bay fun b => { b.withdraw with throttled := s.now + 1024, fb := b.fb + 1024 }
    s1.mapDies fun _ d => { d with leases := d.leases.map fun (x : Nat × Lease) =>
      (x.1, if x.2.state != 0 && x.2.task == uid then { x.2 with deadline := x.2.deadline.map (· + 1024) } else x.2) }) s

/-- The class-0 gangs of a die, the latest placed first. -/
def State.classZero (s : State) (die : Nat) : List (Nat × Nat × Node) :=
  let all := s.pkg.nodes.flatMap fun x => match x.2 with
    | some n => if n.live && !n.dying && n.prio == 0 then
        (n.gangs.filter fun g => g.2.state == 1 && g.2.die == die).map fun g => (x.1, g.1, n) else []
    | none => []
  sortBy (fun (x : Nat × Nat × Node) => s.now - (x.2.2.gangOf x.2.1).placed) all

/-- The next thermal state of a die and its count of cool periods (R398). -/
def thermalNext (state temp watts cool : Nat) : Nat × Nat :=
  match state with
  | 0 => if 1600 ≤ temp ∨ 2400 < watts then (1, 0) else (0, 0)
  | 1 =>
    if 1680 ≤ temp then (2, 0)
    else if temp < 1520 ∧ watts ≤ 2300 then (if 16 ≤ cool + 1 then (0, 0) else (1, cool + 1))
    else (1, 0)
  | 2 => if temp < 1600 then (1, 0) else (2, 0)
  | _ => (state, cool)

/-- A die at a period boundary: its state changes, gangs are throttled, as many as its estimate asks for, and its sensors give
new values. The estimate and the sensors are not of the machine: free values. -/
def State.periodOfDie (s : State) (p die : Nat) : State :=
  let d := s.die die
  let (st, cool) := thermalNext d.thermal d.temp (s.pkg.pkgpwr.toNat % 65536) d.coolPeriods
  let s1 := s.onDie die fun x => { x with
    thermal := st, coolPeriods := cool, periodSeen := s.cycle p / 1024
    temp := Config.freeChoice (s.freeKey die 12 0) % 4096, grantAt := if d.thermal = 2 ∧ st < 2 then s.now + 1 else x.grantAt }
  let low := s1.victims die
  let gangs := if st = 1 then low.take (Config.freeChoice (s.freeKey die 12 1) % (low.length + 1))
    else if st = 2 then
      let all := low ++ s1.classZero die
      all.take (Config.freeChoice (s.freeKey die 12 1) % (all.length + 1))
    else []
  gangs.foldl (fun s x => s.throttleGang x.1 x.2.1) s1

/-- Whether a partition has dies that have not acted on the present period. -/
def State.periodDue (s : State) (p : Nat) : Bool := (s.diesOf p).any fun d => decide ((s.die d).periodSeen < s.cycle p / 1024)

/-- TIME_PERIOD_BOUNDARY. (DESIGN CHOICE, log entry 102.) -/
def execTimePeriodBoundary (part : Nat) (s : State) : Out :=
  if 4 ≤ part then .fault .absent
  else if !s.periodDue part then .next s
  else
    let s1 := s.onPkg fun k => { k with pkgpwr := BitVec.ofNat 64 (Config.freeChoice (s.freeKey part 12 2) % 65536) }
    .next ((s.diesOf part).foldl (fun t d => t.periodOfDie part d) s1)

/-- THERMAL_T3_ENTRY: the die stops its arrays and engines, and its partition stops with CAUSE 0xFF. -/
def execThermalT3Entry (die : Nat) (s : State) : Out :=
  if 4 ≤ die then .fault .absent
  else if (s.die die).temp < 1840 ∨ (s.die die).thermal = 3 then .next s
  else
    let s1 := s.onDie die fun d => { d with thermal := 3 }
    let s2 := s1.mapBays fun k b => if dieOf k = die then { b with running := b.running.map fun r => { r with stop := true } } else b
    .next (s2.stopPart (s2.partOfDie die) 0xFF)

end Sys2Proof.Machine
end

