-- ==== Sys2Proof/Machine/Fetch.lean ====
section
/-!
DEFINITION. Fetching a bundle: its words, where its slot words stand, and the faults of the words themselves
(spec/10_encoding.md R192 to R198, R201), and BUNDLE_ISSUE up to the reading of the opcode maps.
-/

namespace Sys2Proof.Machine

/-! ## Words (R192) -/

/-- Lines that the instruction cache of 64 KiB holds (R9). -/
def icacheLines : Nat := 1024

/-- A line of code comes into the instruction cache; a full one drops its oldest line. (DESIGN CHOICE, log entry 66.) -/
def Bay.takeCode (b : Bay) (l : Line) (bs : List Byte) : Bay :=
  let rest := b.icache.filter fun x => x.1 != l
  { b with icache := (if icacheLines ≤ rest.length then rest.drop 1 else rest) ++ [(l, bs)] }

/-- A line of code is used: while the lines used fit the cache and no trap has been taken, they may be all the task's code (R311). -/
def Bay.useCode (b : Bay) (l : Line) : Bay :=
  { b with resident := b.resident.bind fun ls =>
      if ls.contains l then some ls else if ls.length < icacheLines then some (l :: ls) else none }

/-- How the fetch of a code word comes out. -/
inductive Fetched where
  | word (w : Word32)
  | fault (r : Report)
  /-- The bundle waits for its words (R195). -/
  | wait
  deriving DecidableEq, Repr

/-- The bytes of the line of an ordinary page that an offset lies in. -/
def State.codeLine (s : State) (l : Leaf) (off : Nat) : List Byte := s.readLeaf l (off / 64 * 64) 64

/-- A code word of an ordinary page: from the instruction cache, or, once R311 no longer applies and memory holds other bytes,
perhaps afresh from its home; a line that is not there is fetched, which may take time. (DESIGN CHOICE, log entry 66.) -/
def State.cachedWord (s : State) (bay : Nat) (l : Leaf) (pa off key : Nat) : Fetched × State :=
  let b := s.bay bay
  let line : Line := (l.tgt == 1, pa / 64)
  let wordOf (bs : List Byte) : Fetched := .word (BitVec.ofNat 32 (leNat ((bs.drop (off % 64)).take 4)))
  let fetch : Fetched × State :=
    if s.poisoned line.1 pa then (.fault ⟨0x14, 0, BitVec.ofNat 64 (pa / 64 * 64), 0, 0⟩, s)
    else if s.hostHolds [line] then (.wait, s.onBay bay fun x => { x with nextAt := s.now + 1 })
    else
      let bs := s.codeLine l off
      let s1 := (s.llcTouch (s.partOf bay) (s.waysOf b.node) line false).onBay bay fun x => (x.takeCode line bs).useCode line
      let d := if (s1.bay bay).resident.isSome then 0 else Config.freeDelay key
      if d = 0 then (wordOf bs, s1) else (.wait, s1.onBay bay fun x => { x with nextAt := s.now + d })
  match b.icache.find? fun x => x.1 == line with
  | none => fetch
  | some x =>
    if b.resident.isNone && x.2 != s.codeLine l off && Config.freeBool key then fetch
    else (wordOf x.2, s.onBay bay fun y => y.useCode line)

/-- A code word fetched for a bay's bundle, the fault of its fetch, or a wait for it; only ordinary pages pass through the cache. A
poisoned line is reported (R365). (DESIGN CHOICE, log entry 66.) (DEDUCED, log entry 128.) -/
def State.fetchWord (s : State) (bay va : Nat) : Fetched × State :=
  let b := s.bay bay
  let key := s.freeKey bay 10 (va / 4 % 4096)
  let (t, s1) := s.translate .fetch (s.partOf bay) b.asid b.handler va key
  match t with
  | .absent r | .form r | .prot r => (.fault r, s1)
  | .wait => (.wait, s1.onBay bay fun x => { x with nextAt := s.now + 1 })
  | .ok l pa =>
    let off := va % l.size
    if l.plain then s1.cachedWord bay l pa off key
    else
      let lines := s1.leafLines l off 4
      if s1.hostHolds lines then (.wait, s1.onBay bay fun x => { x with nextAt := s.now + 1 })
      else match s1.poisonedOf lines with
        | some a => (.fault ⟨0x14, 0, BitVec.ofNat 64 a, 0, 0⟩, s1)
        | none => (.word (BitVec.ofNat 32 (leNat (s1.readLeaf l off 4))), s1)

/-- The lines of a task's code of at most 64 KiB, from its entry on. -/
def State.codeVas (s : State) (bay : Nat) : List Nat := (List.range icacheLines).map fun i => (s.bay bay).pc / 64 * 64 + 64 * i

/-- Whether a line of them, or of a walk to one, must first be taken from the host (R311, R381). -/
def State.codeHeld (s : State) (bay : Nat) : Bool :=
  (s.codeVas bay).any fun va => s.walkWaits (s.partOf bay) (s.bay bay).asid va || match s.walk (s.partOf bay) (s.bay bay).asid va with
    | .leaf l => l.plain && l.tgt != 2 && s.hostHolds [(l.tgt == 1, (l.pa + va % l.size) / 64)]
    | _ => false

/-- The code of a task comes into its bay's cache before its first bundle (R311): the 64 KiB from its entry on, as far as they are
mapped and may be fetched. (DESIGN CHOICE, log entry 66.) -/
def State.fillCode (s : State) (bay : Nat) : State :=
  let b := s.bay bay
  (s.codeVas bay).foldl (fun s va =>
    match s.walk (s.partOf bay) b.asid va with
    | .leaf l => match s.checkLeaf .fetch b.handler b.asid va l with
      | .ok l pa =>
        let line : Line := (l.tgt == 1, pa / 64)
        if l.plain && !s.poisoned line.1 pa then
          s.onBay bay fun x => x.takeCode line (s.codeLine l (va % l.size))
        else s
      | _ => s
    | _ => s) (s.onBay bay fun x => { x with resident := some [] })

/-- The kind of a word. -/
def wordKind (w : Word32) : Nat := w.toNat % 4

/-- The slots that a header's MASK names, in slot order (R193). -/
def headerSlots (w : Word32) : List Slot := Slot.all.filter fun sl => w.getLsbD (sl.code + 2)

/-! ## Layout (R194, R196, R197) -/

/-- The words of a bundle as far as they can be fetched; `wait` when a word of it has still to be fetched, `half` when the last item lacks
its payload. -/
structure Scan where
  items : List Item
  bad : Option Report
  len : Nat
  s : State
  wait : Bool := false
  half : Bool := false

/-- A fault of R212 at a word. -/
def wordReport (cause reason off : Nat) (w : Word32) (slot : Nat) : Report :=
  ⟨cause, BitVec.ofNat 64 reason, BitVec.ofNat 64 off, w.zeroExtend 64, BitVec.ofNat 64 slot⟩

/-- The words from an offset on: the slots still due, the prefixes pending with the offset and word of the first, their
count, and whether two are of one class (R197). A slot word whose payload cannot be fetched stands with none. -/
def State.scan (s : State) (bay pc : Nat) : Nat → List Slot → Nat → Pfx → Option (Nat × Word32) → Nat → Bool → List Item → Scan
  | 0, _, off, _, _, _, _, items => { items, bad := none, len := off, s }
  | fuel + 1, due, off, p, first, n, dup, items =>
    match s.fetchWord bay (pc + off) with
    | (.wait, s1) => { items, bad := none, len := off, s := s1, wait := true }
    | (.fault r, s1) => { items, bad := some r, len := off, s := s1 }
    | (.word w, s1) =>
      let stop (r : Report) : Scan := { items, bad := some r, len := off, s := s1 }
      let k := wordKind w
      match due with
      | [] =>
        if w = 0 then s1.scan bay pc fuel [] (off + 4) p first n dup items
        else if k = 3 then { items, bad := none, len := off, s := s1 }
        else if k = 2 then stop (wordReport 0x03 0 off w 15)
        else stop (wordReport 0x01 8 off w 15)
      | sl :: rest =>
        if w = 0 ∨ k = 3 then match first with
          | some (o, x) => stop (wordReport 0x03 0 o x sl.code)
          | none => stop (wordReport 0x01 8 off w sl.code)
        else if k = 2 then
          if n = 2 then stop (wordReport 0x01 7 off w sl.code)
          else match decodePfx w p, decodePfx w .empty with
            | some p', _ => s1.scan bay pc fuel due (off + 4) p' (first.or (some (off, w))) (n + 1) dup items
            | none, some _ => s1.scan bay pc fuel due (off + 4) p first (n + 1) true items
            | none, none => stop (wordReport 0x01 7 off w sl.code)
        else if k = 0 then s1.scan bay pc fuel rest (off + 4) .empty none 0 false (items ++ [⟨sl, w, none, p, off, dup⟩])
        else
          let half := items ++ [⟨sl, w, some 0, p, off, dup⟩]
          match s1.fetchWord bay (pc + off + 4) with
          | (.wait, s2) => { items := half, bad := none, len := off, s := s2, wait := true, half := true }
          | (.fault r, s2) => { items := half, bad := some r, len := off, s := s2, half := true }
          | (.word q, s2) => s2.scan bay pc fuel rest (off + 8) .empty none 0 false (items ++ [⟨sl, w, some q, p, off, dup⟩])

/-- More words than any bundle can have in the address space. -/
def scanFuel : Nat := 2 ^ 55

/-- A bundle at its issue point, with its words. -/
def State.fetchBundle (s : State) (bay : Nat) (h : Word32) : State :=
  let pc := (s.bay bay).pc
  let base : Cur :=
    { bay, slot := 15, pc, gap := bits h.toNat 30 28, tport := bits h.toNat 27 12, head := h, live := true }
  let go (s : State) (ext : Option Word32) (off : Nat) : State :=
    let r := s.scan bay pc scanFuel (headerSlots h) off .empty none 0 false []
    { r.s with cur := { base with len := r.len, ext := ext, items := r.items, wordFault := r.bad, live := !r.wait, half := r.half } }
  if h.getLsbD 31 then match s.fetchWord bay (pc + 4) with
    | (.wait, s1) => { s1 with cur := { } }
    | (.fault r, s1) => { s1 with cur := { base with wordFault := some r } }
    | (.word x, s1) =>
      if wordKind x ≠ 3 ∨ x.extractLsb' 26 6 ≠ 0 then { s1 with cur := { base with wordFault := some (wordReport 0x01 3 4 x 15) } }
      else go s1 (some x) 8
  else go s none 4

/-! ## The issue point (R195, R198, R282) -/

/-- Whether a trap is to be taken at the bay's boundary before any bundle (R366). -/
def Bay.trapWaits (b : Bay) : Bool :=
  b.due.isSome || (!b.handler && (!b.reports.isEmpty || (b.preempt && b.ended.isNone)))

/-- Whether a command in a timetable still uses a page that it has translated. -/
def State.keepsLeaf (s : State) (bay id page : Nat) : Bool :=
  let has (l : List Cmd) : Bool := l.any fun c => c.bay == bay && c.id == id && c.pinned.any fun p => p.page == page
  ((s.bay bay).btx.any fun x => has x.2.buf) || (s.die (dieOf bay)).engines.any fun x => has x.2.cmds

/-- Whether the beat loads that a TLBINV waits for have been served, the beat stores have been applied at the close of their beat, and
the commands have made the accesses that hold no pin (R348). (DEDUCED, log entry 76.) -/
def State.tlbDone (s : State) (bay : Nat) : Bool :=
  let w := (s.bay bay).tlbWait
  (w.isEmpty || s.bays.all fun x => (x.2.bq ++ x.2.transit).all fun e => (e.served && !e.op.isWrite) || !w.contains (e.bay, e.id))
    && !((s.bay bay).tlbCmds.any fun x => s.keepsLeaf x.1 x.2.1 x.2.2)

/-- Whether a bay's bundle may reach its issue point on this cycle. -/
def State.mayIssue (s : State) (bay : Nat) : Bool :=
  let b := s.bay bay
  b.task.isSome && !b.stopped && (b.handler || b.ended.isNone) && b.save.isNone && !b.trapWaits
    && decide (b.nextAt ≤ s.now) && decide (b.throttled ≤ s.now) && !(s.part (s.partOf bay)).stopped
    && b.cacheDone && s.tlbDone bay

/-- BUNDLE_ISSUE (R111): the bundle's target is checked when it was branched to (R198), and its words are fetched. A task's own first
bundle fixes FB (R86), and waits until its code can be fetched whole (R311). -/
def execBundleIssue (bay : Nat) (s : State) : Out :=
  if 256 ≤ bay then .fault .absent
  else if !s.mayIssue bay then .next s
  else
    let first := (s.bay bay).fresh && !(s.bay bay).handler
    if first && s.codeHeld bay then .next { s.onBay bay (fun b => { b with nextAt := s.now + 1 }) with cur := { } }
    else
    let ready := s.finishCache bay
    let s0 := (if first then ready.fillCode bay else ready).onBay bay fun b =>
      { b with tlbWait := [], tlbCmds := [], fb := if first then (s.now : Int) else b.fb }
    let b := s0.bay bay
    let bad (s : State) (r : Report) : State := { s with cur := { bay, slot := 15, pc := b.pc, wordFault := some r, live := true } }
    let target : Report := ⟨0x04, 0, BitVec.ofNat 64 b.from_, 0, 0⟩
    let t : State := if b.pc % 4 ≠ 0 then bad s0 target
      else match s0.fetchWord bay b.pc with
      | (.wait, s1) => { s1 with cur := { } }
      | (.fault r, s1) => bad s1 r
      | (.word h, s1) =>
        if wordKind h ≠ 3 then bad s1 (if b.checkTarget then target else wordReport 0x01 8 0 h 15)
        else s1.fetchBundle bay h
    .next (if t.cur.live && first then t.onBay bay fun b => { b with fresh := false } else t)

end Sys2Proof.Machine
end

