-- ==== Sys2Proof/Machine/Plan.lean ====
section
/-!
DEFINITION. What the commands of the block-transfer, GATH, SORT, SOLV and COLL engines do, step after step
(spec/14_ref_control_engines.md R299 to R306, R308; spec/06_correcting.md R136; spec/07_tack_room.md R155, R163). A step of a
command with nothing left to perform chooses its next accesses, or decides its result.
-/

namespace Sys2Proof.Machine

/-! ## Steps -/

/-- A command is done: STATUS 1 with a count. -/
def State.doneCmd (s : State) (e : Engine) (c : Cmd) (count : Nat) : State :=
  s.settleCmd e c 1 0 count

/-- A command fails with a cause. -/
def State.stopCmd (s : State) (e : Engine) (c : Cmd) (cause : Nat) : State := s.failCmd e c (plain cause)

/-- Whether n bytes from an address lie in their space, for a command of a bay (R161); translation and windows judge the other
spaces (R341, R402). -/
def State.reachable (s : State) (bay : Nat) (a : SAddr) (n : Nat) : Bool :=
  match a.space with
  | 1 => decide (a.addr + n ≤ 2 ^ 20)
  | 2 => decide (a.addr < 2 ^ 28) && s.inPart (s.partOf bay) (a.addr / 2 ^ 20) && decide (a.addr % 2 ^ 20 + n ≤ 2 ^ 20)
  | 3 => decide (a.addr + n ≤ 2 ^ 22)
  | 5 => a.addr / 2 ^ 30 == bay && decide (a.addr % 2 ^ 21 + n ≤ 1536 * 1024)
  | _ => true

/-- A command goes on to a stage by reading ranges into an empty buffer; a range outside its space fails it. -/
def State.readThen (s : State) (e : Engine) (c : Cmd) (stage : Nat) (rs : List (SAddr × Nat)) : State :=
  if rs.all fun x => s.reachable c.bay x.1 x.2 then
    s.setCmd e { c with stage := stage, buf := [], todo := rs.flatMap fun x => if x.2 = 0 then [] else readPieces x.1 x.2 }
  else s.stopCmd e c 0x11

/-- A command goes on to a stage by writing bytes. -/
def State.writeThen (s : State) (e : Engine) (c : Cmd) (stage : Nat) (a : SAddr) (data : List Byte) (own : Option Nat) : State :=
  if s.reachable c.bay a data.length then
    s.setCmd e { c with stage := stage, buf := [], todo := if data.isEmpty then [] else writePieces a data own }
  else s.stopCmd e c 0x11

/-- An address further on in its space. -/
def SAddr.plus (a : SAddr) (n : Nat) : SAddr := { a with addr := a.addr + n }

/-! ## XCPY, XGTH and XSCT (R300, R301) -/

/-- XCPY: pieces of 128 bytes, each read and then written. R118 orders a command's accesses to different locations in no way.
(DESIGN CHOICE, log entry 149.) -/
def State.planXcpy (s : State) (e : Engine) (c : Cmd) (src dst : SAddr) (len : Nat) : State :=
  let total := ceilDiv len 128
  let k := c.stage / 2
  let at_ := 128 * if descending src dst len then total - 1 - k else k
  if total ≤ k then s.doneCmd e c len
  else if c.stage % 2 = 0 then
    s.readThen e c (c.stage + 1) [(src.plus at_, min 128 (len - at_))]
  else s.writeThen e c (c.stage + 1) (dst.plus at_) c.buf (some at_)

/-- XGTH and XSCT: an index popped, a row read, a row written. -/
def State.planGather (s : State) (e : Engine) (c : Cmd) (scatter : Bool) (own tbl : SAddr) (rlen nrows n : Nat) : State :=
  let i := c.stage / 3
  let x := c.regs.headD 0
  let mine := own.plus (i * rlen)
  let row := tbl.plus (x * rlen)
  match c.stage % 3 with
  | 0 => if n ≤ i then s.doneCmd e c n
    else s.setCmd e { c with stage := c.stage + 1, todo := [.pop] }
  | 1 => if nrows ≤ x then s.stopCmd e c 0x11
    else s.readThen e c (c.stage + 1) [(if scatter then mine else row, rlen)]
  | _ => s.writeThen e c (c.stage + 1) (if scatter then row else mine) c.buf
      (some (if scatter then x * rlen else i * rlen))

/-! ## XRED (R302) -/

/-- FP32 elements of bytes. -/
def words32 (bs : List Byte) : List Nat := elems 32 (bs.length / 4) (leNat bs)

/-- The bytes of FP32 elements. -/
def bytes32 (l : List Nat) : List Byte := l.flatMap (leBytes 4 ·)

/-- Whether a space-address word is well formed and names one of some spaces. -/
def spaceOk (w : Nat) (spaces : List Nat) : Bool := bits w 63 60 == 0 && spaces.contains (bits w 59 57)

/-- XRED: `regs` holds the indices applied and the sums. -/
def State.planXred (s : State) (e : Engine) (c : Cmd) : State :=
  let w := parWord c.params
  let rlen := bits (w 2) 24 16
  let n := bits (w 2) 15 0
  let nrows := bits (w 2) 63 32
  let target : SAddr := ⟨3, bits (w 3) 13 6 * 2 ^ 14 + bits (w 3) 5 2 * 2 ^ 10⟩
  let i := c.regs.headD 0
  match c.stage with
  | 0 =>
    if !spaceOk (w 0) [0, 1] || !spaceOk (w 1) [0, 1, 5] || bits (w 2) 31 26 != 0 || nrows == 0 || rlen == 0
        || decide (256 < rlen) || n == 0 || bits (w 3) 63 14 != 0 || bits (w 3) 1 0 != 0 then s.stopCmd e c 0x01
    else
      let acc := if bit (w 2) 25 then List.replicate rlen 0 else words32 (c.params.drop 32)
      s.setCmd e { c with stage := 1, regs := 0 :: acc }
  | 1 => if n ≤ i then s.doneCmd e c n else s.readThen e { c with count := i } 2 [((spaceAddr (w 0)).plus (4 * i), 4)]
  | 2 =>
    let x := leNat c.buf
    if nrows ≤ x then s.stopCmd e c 0x11 else s.readThen e c 3 [((spaceAddr (w 1)).plus (4 * rlen * x), 4 * rlen)]
  | _ =>
    let acc := List.zipWith (fun a b => (add32 a b).1) c.regs.tail (words32 c.buf)
    let c' := { c with regs := (i + 1) :: acc, count := i + 1 }
    if (i + 1) % 64 = 0 ∨ i + 1 = n then s.writeThen e c' 1 target (bytes32 acc) none
    else s.setCmd e { c' with stage := 1, buf := [] }

/-! ## XSRT and XMRG (R303, R304) -/

/-- The place of a key in the order of R303: key types n32, i32, f32, n64, i64. -/
def keyRank (kt k : Nat) : Nat :=
  match kt with
  | 1 => (signed 32 k + 2 ^ 31).toNat
  | 2 =>
    let m := k % 2 ^ 31
    if 0x7F800000 < m then 2 ^ 33 else if bit k 31 then 2 ^ 31 - 1 - m else 2 ^ 31 + m
  | 4 => (signed 64 k + 2 ^ 63).toNat
  | _ => k

/-- The sort key of a record. -/
def recordRank (kt : Nat) (desc : Bool) (r : List Byte) : Nat :=
  let k := keyRank kt (leNat (r.take (if kt < 3 then 4 else 8)))
  if desc then 2 ^ 65 - k else k

/-- Bytes cut into pieces of one size. -/
def chunks (n : Nat) : Nat → List Byte → List (List Byte)
  | 0, _ => []
  | k + 1, bs => bs.take n :: chunks n k (bs.drop n)

/-- XSRT: everything is read, sorted and written. (DEDUCED, log entry 77.) -/
def State.planXsrt (s : State) (e : Engine) (c : Cmd) : State :=
  let w := parWord c.params
  let kt := bits (w 2) 28 26
  let pay := bits (w 2) 30 29
  let rb := recBytes kt pay
  let n := bits (w 2) 25 0
  let m := kept (bits (w 2) 63 32) n
  let src := spaceAddr (w 0)
  let dst := spaceAddr (w 1)
  let size := if kt < 3 then 4 else 8
  let meet := src.space = dst.space ∧ src.addr ≠ dst.addr ∧ src.addr < dst.addr + rb * m ∧ dst.addr < src.addr + rb * n
  match c.stage with
  | 0 =>
    if !spaceOk (w 0) [0, 1] || !spaceOk (w 1) [0, 1] || pay == 3 || decide (4 < kt) || n == 0 || w 3 != 0 || decide meet then
      s.stopCmd e c 0x01
    else if src.addr % size ≠ 0 ∨ dst.addr % size ≠ 0 then s.stopCmd e c 0x12
    else s.readThen e c 1 [(src, rb * n)]
  | 1 =>
    let l := sortBy (recordRank kt (bit (w 2) 31)) (chunks rb n c.buf)
    s.writeThen e c 2 dst ((l.take m).flatten) none
  | _ => s.doneCmd e c m

/-- A run of a merge: its bay, its place among the runs, how many of its records have gone out, and those left. -/
structure MergeRun where
  bay : Nat
  idx : Nat
  pos : Nat
  recs : List (List Byte)

/-- The head that comes first: by key, then bay, then position, then run. -/
def mergePick (rank : List Byte → Nat) (rs : List MergeRun) : Option MergeRun :=
  let live := rs.filter fun r => !r.recs.isEmpty
  (sortBy (fun r => rank (r.recs.headD [])) (sortBy (·.bay) (sortBy (·.pos) (sortBy (·.idx) live)))).head?

/-- The records that a merge puts out. -/
def mergeRuns (rank : List Byte → Nat) : Nat → List MergeRun → List (List Byte)
  | 0, _ => []
  | k + 1, rs => match mergePick rank rs with
    | none => []
    | some r => r.recs.headD [] :: mergeRuns rank k (rs.map fun x =>
        if x.idx = r.idx then { x with pos := x.pos + 1, recs := x.recs.tail } else x)

/-- The runs of a merge cut from the bytes read. -/
def cutRuns (rb : Nat) : Nat → List (Nat × Nat) → List Byte → List MergeRun
  | _, [], _ => []
  | i, (cnt, bay) :: rest, bs => ⟨bay, i, 0, chunks rb cnt bs⟩ :: cutRuns rb (i + 1) rest (bs.drop (rb * cnt))

/-- XMRG. -/
def State.planXmrg (s : State) (e : Engine) (c : Cmd) : State :=
  let w := parWord c.params
  let kt := bits (w 1) 28 26
  let pay := bits (w 1) 30 29
  let rb := recBytes kt pay
  let nr := bits (w 1) 20 16
  let size := if kt < 3 then 4 else 8
  let runs := (List.range nr).map fun r => (spaceAddr (w (4 + 2 * r)), w (5 + 2 * r) % 2 ^ 32, bits (w (5 + 2 * r)) 39 32)
  let total := (runs.map fun x => x.2.1).sum
  let m := kept (bits (w 1) 63 32) total
  let dst := spaceAddr (w 0)
  match c.stage with
  | 0 =>
    if !spaceOk (w 0) [0, 1] || bits (w 1) 25 21 != 0 || bits (w 1) 15 0 != 0 || w 2 != 0 || w 3 != 0 || decide (nr < 2)
        || decide (16 < nr) || pay == 3 || decide (4 < kt)
        || ((List.range nr).any fun r => !spaceOk (w (4 + 2 * r)) [0, 1] || bits (w (5 + 2 * r)) 63 40 != 0)
        || (runs.any fun x => x.1.space == dst.space && decide (x.1.addr < dst.addr + rb * m) && decide (dst.addr < x.1.addr + rb * x.2.1)) then
      s.stopCmd e c 0x01
    else if dst.addr % size ≠ 0 ∨ runs.any (fun x => x.1.addr % size != 0) then s.stopCmd e c 0x12
    else s.readThen e c 1 (runs.map fun x => (x.1, rb * x.2.1))
  | 1 =>
    let out := mergeRuns (recordRank kt (bit (w 1) 31)) m (cutRuns rb 0 (runs.map fun x => x.2) c.buf)
    s.writeThen e c 2 dst out.flatten none
  | _ => s.doneCmd e c m

/-! ## XSOLV (R136, R305) -/

/-- L[t][s] of R136. The arithmetic of XSOLV sets no flag of STAT. (DESIGN CHOICE, log entry 165.) -/
def solvL (k : Nat → List Nat) (beta : Nat → Nat) (t s : Nat) : Nat :=
  let g := (List.zip (k t) (k s)).foldl (fun g x => (fma32 x.1 x.2 g).1) 0
  (mul32 (beta t) g).1

/-- Row t of T, from the rows above it; a NaN is negated like any value. (DESIGN CHOICE, log entry 150.) -/
def solvRow (k : Nat → List Nat) (beta : Nat → Nat) (size t : Nat) (above : List (List Nat)) : List Nat :=
  (List.range size).map fun s =>
    if s < t then
      let v := (List.range (t - s)).foldl (fun v i => (fma32 (solvL k beta t (s + i)) ((above.getD (s + i) []).getD s 0) v).1) 0
      v ^^^ 2 ^ 31
    else if s = t then beta t else 0

/-- The first n rows of T. -/
def solvRows (k : Nat → List Nat) (beta : Nat → Nat) (size : Nat) : Nat → List (List Nat)
  | 0 => []
  | t + 1 =>
    let above := solvRows k beta size t
    above ++ [solvRow k beta size t above]

/-- XSOLV: K and β are read; each row of T is written as soon as it is formed. (DESIGN CHOICE, log entry 151.) -/
def State.planXsolv (s : State) (e : Engine) (c : Cmd) : State :=
  let w := parWord c.params
  let size := bits (w 2) 37 32 + 1
  let ncol := bits (w 3) 8 0 + 1
  let koff := bits (w 0) 19 0
  let toff := bits (w 0) 51 32
  let boff := bits (w 1) 19 0
  let ks := if bits (w 1) 47 32 = 0 then 4 * ncol else bits (w 1) 47 32
  let ts := if bits (w 1) 63 48 = 0 then 4 * size else bits (w 1) 63 48
  let vec := bit (w 2) 48
  let badStride (x packed : Nat) : Bool := x != 0 && (x % 16 != 0 || decide (x < packed))
  match c.stage with
  | 0 =>
    if bits (w 0) 63 52 != 0 || bits (w 0) 31 20 != 0 || bits (w 1) 31 20 != 0 || bits (w 2) 63 49 != 0 || bits (w 2) 47 38 != 0
        || bits (w 3) 63 9 != 0 || decide (256 < ncol) || koff % 16 != 0 || toff % 16 != 0 || (vec && boff % 16 != 0)
        || badStride (bits (w 1) 47 32) (4 * ncol) || badStride (bits (w 1) 63 48) (4 * size) then s.stopCmd e c 0x01
    else s.readThen e c 1 ((List.range size).map (fun t => ((⟨1, koff + t * ks⟩ : SAddr), 4 * ncol))
      ++ if vec then [(⟨1, boff⟩, 4 * size)] else [])
  | 1 => s.setCmd e { c with stage := 2, regs := words32 c.buf, buf := [] }
  | st + 2 =>
    let t := st
    let k (i : Nat) : List Nat := (c.regs.drop (ncol * i)).take ncol
    let beta (i : Nat) : Nat := if vec then (c.regs.drop (ncol * size)).getD i 0 else w 2 % 2 ^ 32
    if size ≤ t then s.doneCmd e c size
    else s.writeThen e c (t + 3) ⟨1, toff + t * ts⟩ (bytes32 ((solvRows k beta size (t + 1)).getD t [])) none

/-! ## XCOLL (R306, R385, R386) -/

/-- Bytes of an element of TY. -/
def collBytes (ty : Nat) : Nat := if ty = 1 then 2 else 4

/-- Elements of bytes. -/
def collElems (ty : Nat) (bs : List Byte) : List Nat := elems (8 * collBytes ty) (bs.length / collBytes ty) (leNat bs)

/-- One element of a sum or a maximum over the ranks, in ascending rank. -/
def collFold (ty : Nat) (isMax : Bool) (l : List Nat) : Nat :=
  match l with
  | [] => 0
  | x :: xs =>
    if ty = 2 then xs.foldl (fun a b => if isMax then (if signed 32 a < signed 32 b then b else a) else (a + b) % 2 ^ 32) x
    else
      let wide (v : Nat) : Nat := if ty = 1 then v * 65536 else v
      let r := (xs.map wide).foldl (fun a b => if isMax then (minMaxF 8 true a b).1 else (add32 a b).1) (wide x)
      if ty = 1 then (convert 8 10 ⟨0, false⟩ 0 r).1 else r

/-- What a rank receives from a committed round. -/
def collResult (cons : List Contribution) (op ty cnt rank root : Nat) : List Nat :=
  let l := sortBy (·.rank) cons
  let col (i : Nat) : List Nat := l.map fun x => ((x.data.getD i 0).toNat)
  let sum (isMax : Bool) (i : Nat) : Nat := collFold ty isMax (col i)
  match op with
  | 0 => (List.range cnt).map (sum false)
  | 1 => (List.range cnt).map (sum true)
  | 2 => (List.range cnt).map fun i => sum false (rank * cnt + i)
  | 3 => l.flatMap fun x => (List.range cnt).map fun i => (x.data.getD i 0).toNat
  | _ => match l.find? fun x => x.rank == root with
    | some x => (List.range cnt).map fun i => (x.data.getD i 0).toNat
    | none => []

/-- The address of the entry of a group (R385). -/
def State.groupAddr (s : State) (g : Nat) : Nat := bits s.pkg.grptab.toNat 56 16 * 65536 + 16 * g

/-- The line of a group's entry, in the memory that holds it. -/
def State.groupLine (s : State) (g : Nat) : Line := (bit s.pkg.grptab.toNat 0, s.groupAddr g / 64)

/-- The entry of a group: its links and ranks, when it is defined and well formed (R385). -/
def State.groupEntry (s : State) (g : Nat) : Option (Nat × Nat) :=
  let t := s.pkg.grptab.toNat
  let a := s.groupAddr g
  let w0 := s.numPhys (bit t 0) 0 a 8
  let w1 := s.numPhys (bit t 0) 0 (a + 8) 8
  if !bit w0 63 || bits w0 62 52 != 0 || bits w0 17 0 != 0 || w1 != 0 then none else some (bits w0 51 34, bits w0 33 18)

/-- The round of a group that a command takes part in. -/
def State.roundOf (s : State) (g r : Nat) : Option Round := s.pkg.rounds.find? fun x => x.group == g && x.round == r

/-- The ranks of a round whose XCOLL runs, or has run, on this package. -/
def State.localRanks (s : State) (g r : Nat) : List Nat :=
  let running := (s.engines.flatMap s.cmds).filter fun c => c.kind == .xcoll && c.stage != 0
    && bits (parWord c.params 2) 51 40 == g && bits (parWord c.params 3) 63 48 == r
  sortBy id (((match s.roundOf g r with
    | some x => x.took
    | none => []) ++ running.map fun c => bits (parWord c.params 3) 15 0).eraseDups)

/-- The links of a group that carry the XCOLL of a rank (R385). With several ranks on the package, which of them a link of the group
carries stands open. (DESIGN CHOICE, log entry 159.) -/
def State.linksOf (s : State) (g r rank : Nat) : List Nat :=
  let ranks := s.localRanks g r
  match s.groupEntry g with
  | some y => (List.range 18).filter fun k => bit y.1 k && ranks.getD (Config.freeChoice (18 * g + k) % ranks.length) rank == rank
  | none => []

/-- Whether a link that carries the XCOLL of a rank is down (R386). -/
def State.linkFails (s : State) (g r rank : Nat) : Bool :=
  (s.linksOf g r rank).any fun k => !(Tbl.get Link.reset s.pkg.links k).up

/-- A link changed. -/
def State.onLink (s : State) (k : Nat) (f : Link → Link) : State :=
  s.onPkg fun p => { p with links := Tbl.set Link.reset p.links k (f (Tbl.get Link.reset p.links k)) }

/-- The CRC-32 of a flit, over its header and payload (R384). -/
def flitCrc (header : BitVec 32) (payload : BitVec 1920) : BitVec 32 :=
  BitVec.ofNat 32 (crc32 (leBytes 4 header.toNat ++ leBytes 240 payload.toNat))

/-- Whether the CRC of a flit holds. -/
def flitIntact (f : Flit) : Bool := f.crc == flitCrc f.header f.payload

/-- A payload is sent on a channel of a link, and stands in the replay buffer (R384). -/
def Link.send (l : Link) (x : Nat × Nat × BitVec 1920) : Link :=
  let vc := x.1 % 8
  let h := BitVec.ofNat 32 (vc + 8 * (x.2.1 % 32))
  let n := Tbl.get 0 l.next vc
  { l with next := Tbl.set 0 l.next vc (n + 1), sent := l.sent ++ [⟨h, x.2.2, flitCrc h x.2.2, n⟩] }

/-- A contribution sets out on the links that carry it. -/
def State.sendOut (s : State) (c : Contribution) : State :=
  (s.linksOf c.group c.round c.rank).foldl (fun s k => s.onLink k fun l => if l.up then (Config.flitsOf c).foldl Link.send l else l) s

/-- A rank takes the outcome of a round. -/
def State.takeRound (s : State) (x : Round) (rank : Nat) : State :=
  s.onPkg fun p => { p with rounds := p.rounds.map fun (y : Round) =>
    if y.group = x.group ∧ y.round = x.round then { y with took := y.took ++ [rank] } else y }

/-- XCOLL: the input is read, the contribution sets out, and the result is written once the round has committed. (DEDUCED, log entry 79.) -/
def State.planXcoll (s : State) (e : Engine) (c : Cmd) : State :=
  let w := parWord c.params
  let g := bits (w 2) 51 40
  let ty := bits (w 2) 39 36
  let op := bits (w 2) 35 32
  let cnt := bits (w 2) 31 0
  let round := bits (w 3) 63 48
  let root := bits (w 3) 47 32
  let nrank := bits (w 3) 31 16
  let rank := bits (w 3) 15 0
  match c.stage with
  | 0 =>
    let entry := s.groupEntry g
    if !bit s.pkg.ready 10 then s.stopCmd e c 0x11
    else if s.hostHolds [s.groupLine g] then s.setCmd e { c with next := s.now + 1 }
    else match s.poisonedOf [s.groupLine g] with
    | some a => s.failCmd e c (poisonAt a)
    | none =>
    if !spaceOk (w 0) [0, 1] || !spaceOk (w 1) [0, 1] || bits (w 2) 63 52 != 0 || decide (2 < ty) || decide (4 < op) || cnt == 0
        || decide (nrank < 2) || decide (nrank ≤ rank) || (op == 4 && decide (nrank ≤ root))
        || entry.all fun x => x.2 != nrank then s.stopCmd e c 0x01
    else if op = 4 ∧ rank ≠ root then s.setCmd e { c with stage := 1, buf := [] }
    else s.readThen e c 1 [(spaceAddr (w 0), collBytes ty * cnt * if op = 2 then nrank else 1)]
  | 1 =>
    let con : Contribution := ⟨g, rank, round, nrank, op, ty, root, (collElems ty c.buf).map (BitVec.ofNat 32)⟩
    { (s.sendOut con).setCmd e { c with stage := 2, regs := [g, round], buf := [] } with
      inputs := (s.now + 1 + s.cmdDelay c 6, .collContributionArrive con) :: s.inputs }
  | 2 => match s.roundOf g round with
    | none => s
    | some x =>
      if x.state = 2 then
        ((s.takeRound x rank).settleCmd e c 3 0 0).report c.bay c.task
          ⟨0x15, BitVec.ofNat 64 g, BitVec.ofNat 64 round, c.word, 0⟩
      else if x.state = 0 then s
      else if s.linkFails g round rank then (s.takeRound x rank).stopCmd e c 0x15
      else
        let out := collResult x.cons op ty cnt rank root
        (s.takeRound x rank).writeThen e { c with regs := [] } 3 (spaceAddr (w 1)) (out.flatMap (leBytes (collBytes ty) ·)) none
  | _ => if s.linkFails g round rank then s.stopCmd e c 0x15 else s.doneCmd e c c.count

/-! ## SPAWN (R308) -/

/-- SPAWN. -/
def State.planSpawn (s : State) (e : Engine) (c : Cmd) (rcb : Word) : State :=
  match s.spawnChild c rcb with
  | (s1, .wait none) => s1.setCmd e { c with next := s.now + 1 }
  | (s1, .wait (some va)) =>
    let d := dieOf c.bay
    if s1.mayPark d c.node c.asid (va / 65536) then
      (s1.park d c.node c.asid (va / 65536) false false (.cmd e c.id)).setCmd e { c with parked := some (va / 65536) }
    else s1.setCmd e { c with next := s.now + 1 }
  | (s1, .done st cause) => s1.settleCmd e c st cause (if st = 1 then 1 else 0)

end Sys2Proof.Machine
end

