-- ==== Sys2Proof/Machine/Attention.lean ====
section
/-!
DEFINITION. Attention at the last-level cache: XKVT, XSPLC and XATT (spec/08_attention.md R164 to R179).
-/

namespace Sys2Proof.Machine

/-! ## The engine of a command -/

/-- The engine record of a timetable; a block-transfer channel has none. -/
def State.engine (s : State) : Engine → Eng
  | .btx _ _ => Eng.reset
  | .tack die unit => Tbl.get Eng.reset (s.die die).engines unit

/-- The engine record replaced. -/
def State.onEngine (s : State) (e : Engine) (f : Eng → Eng) : State :=
  match e with
  | .btx _ _ => s
  | .tack die unit => s.onDie die fun d => { d with engines := Tbl.set Eng.reset d.engines unit (f (Tbl.get Eng.reset d.engines unit)) }

/-! ## XKVT (R166) -/

/-- XKVT: the frequency row is read at the start, and the generator loaded. -/
def State.planXkvt (s : State) (e : Engine) (c : Cmd) : State :=
  let w := parWord c.params
  let dh := 32 * 2 ^ bits (w 0) 46 45
  let nblk := bits (w 0) 44 32
  let tbl := bits (w 0) 19 0
  let freq := bits (w 2) 19 0
  if bits (w 0) 63 48 != 0 || bits (w 0) 31 20 != 0 || bits (w 2) 63 20 != 0 || w 3 != 0 || nblk == 0 || decide (4096 < nblk)
      || tbl % 16 != 0 || freq % 16 != 0 then s.stopCmd e c 0x01
  else if !s.reachable c.bay ⟨1, freq⟩ (2 * dh) then s.stopCmd e c 0x11
  else match s.engRead e c ⟨1, freq⟩ (2 * dh) with
    | .ok s1 c1 d =>
      let g : KvGen := { rope := bit (w 0) 47, dh, nblk, tbl, qstr := bits (w 1) 63 32, hstr := bits (w 1) 31 0, freq := words32 d }
      (s1.onEngine e fun x => { x with gen := some g, splices := [] }).doneCmd e c1 1
    | .wait s1 c1 => s1.setCmd e c1
    | .fail s1 c1 r => s1.failCmd e c1 r

/-! ## XSPLC (R177, R178) -/

/-- An entry of the block table (R167). -/
def entryBytes (addr rbase nvalid : Nat) : List Byte := leBytes 8 addr ++ leBytes 4 rbase ++ leBytes 4 nvalid

/-- XSPLC: the entries are written in ascending order, then the record is open. (DEDUCED, log entry 84.) -/
def State.planXsplc (s : State) (e : Engine) (c : Cmd) : State :=
  let w := parWord c.params
  let b0 := bits (w 1) 43 32
  let len := bits (w 2) 16 0
  let win := if bits (w 2) 27 17 = 0 then 64 else bits (w 2) 27 17
  let nb := ceilDiv len 64
  let rec_ := bits (w 2) 31 28
  match c.stage with
  | 0 =>
    if bits (w 1) 63 44 != 0 || len == 0 || decide (65536 < len) || decide (len < win) || decide (1024 < win) then s.stopCmd e c 0x01
    else match (s.engine e).gen with
      | none => s.stopCmd e c 0x07
      | some g =>
        if g.nblk < b0 + nb then s.stopCmd e c 0x11
        else
          let data := (List.range nb).flatMap fun k =>
            entryBytes (w 0 + k * bits (w 2) 63 32) (bits (w 1) 31 0 + 64 * k) (min 64 (len - 64 * k))
          s.writeThen e c 1 ⟨1, g.tbl + 16 * b0⟩ data none
  | _ => (s.onEngine e fun x =>
      { x with splices := (x.splices.filter fun (r : Nat × Nat × Nat) => r.1 != rec_) ++ [(rec_, 64 * b0, win)] }).doneCmd e c nb

/-- XSPLC.done: the record is closed. -/
def State.planXsplcDone (s : State) (e : Engine) (c : Cmd) (rec_ : Nat) : State :=
  let n := if (s.engine e).splices.any fun r => r.1 == rec_ then 1 else 0
  (s.onEngine e fun x => { x with splices := x.splices.filter fun (r : Nat × Nat × Nat) => r.1 != rec_ }).doneCmd e c n

/-! ## Arithmetic of attention (R171 to R173) -/

/-- RoundNE to FP32. -/
def rn32 (v : FV) : Nat := (roundFV 8 ⟨0, false⟩ 0 v).1

/-- x × c ± y × n with one rounding. -/
def turn (minus : Bool) (x c y n : Nat) : Nat :=
  let p := (mulFV (decodeF 8 x) (decodeF 8 c)).1
  let q := (mulFV (decodeF 8 y) (decodeF 8 n)).1
  rn32 (addFV 0 p (if minus then q.neg else q)).1

/-- The pairs of a row turned, each with its frequency. -/
def turnPairs (p : Nat) : List Nat → List Nat → List Nat
  | x :: y :: xs, f :: fs =>
    let t := decodeF 8 (rn32 (mulFV (FV.ofInt p 0 false) (decodeF 8 f)).1)
    let c := (specialF .fcos 8 ⟨0, false⟩ 0 t).1
    let n := (specialF .fsin 8 ⟨0, false⟩ 0 t).1
    turn true x c y n :: turn false x n y c :: turnPairs p xs fs
  | _, _ => []

/-- A row of BF16 elements at a position (R171). -/
def rotate (g : KvGen) (p : Nat) (row : List Nat) : List Nat :=
  let wide := row.map fun x => (widen32 10 x).1
  if g.rope then turnPairs p wide g.freq else wide

/-- Whether a list of BF16 elements holds NaN or +∞ (R174). -/
def badRow (row : List Nat) : Bool := row.any fun x => match decodeF 10 x with
  | .nan _ => true
  | .inf n => !n
  | _ => false

/-- Whether an FP32 pattern is NaN or +∞. -/
def bad32 (x : Nat) : Bool := match decodeF 8 x with
  | .nan _ => true
  | .inf n => !n
  | _ => false

/-- The chain of Fma32 over two rows, from +0. -/
def dot32 (a b : List Nat) : Nat := (List.zip a b).foldl (fun g x => (fma32 x.1 x.2 g).1) 0

/-- The larger of two FP32 patterns. (DEDUCED, log entry 86.) -/
def max32 (a b : Nat) : Nat := (minMaxF 8 true a b).1

/-- The difference of two FP32 patterns, exact. -/
def diff32 (a b : Nat) : FV := (addFV 0 (decodeF 8 a) (decodeF 8 b).neg).1

/-- The FP32 pattern of an E4M3 code ÷ 256. -/
def weightOf (p8 : Nat) : Nat := match decodeF 11 p8 with
  | .fin n m e => rn32 (.fin n m (e - 8))
  | v => rn32 v

/-- The triple of a block from the scores and values of its unmasked slots, ascending (R172). -/
def blockTriple (dh : Nat) (l : List (Nat × List Nat)) : Option Triple :=
  match l with
  | [] => none
  | x :: xs =>
    let m := xs.foldl (fun m y => max32 m y.1) x.1
    if m = 0xFF800000 then none
    else some (l.foldl (fun (t : Triple) y =>
      let p := weightOf (expqF false (diff32 y.1 m)).1
      { t with l := (add32 t.l p).1, o := List.zipWith (fun v o => (fma32 p v o).1) y.2 t.o }) ⟨m, 0, List.replicate dh 0⟩)

/-- 2^x rounded once to FP32. -/
def exp32 (x : FV) : Nat := (specialF .fexp2 8 ⟨0, false⟩ 0 x).1

/-- Merge(A, B) (R173). -/
def mergeTriple (a b : Triple) : Triple :=
  let m := max32 a.m b.m
  if cmpFV (decodeF 8 a.m) (decodeF 8 b.m) = .lt then
    let f := exp32 (diff32 a.m b.m)
    ⟨m, (fma32 a.l f b.l).1, List.zipWith (fun x y => (fma32 x f y).1) a.o b.o⟩
  else
    let f := exp32 (diff32 b.m a.m)
    ⟨m, (fma32 b.l f a.l).1, List.zipWith (fun x y => (fma32 x f y).1) b.o a.o⟩

/-- Triples merged from the first on. -/
def mergeAll : List Triple → Option Triple
  | [] => none
  | t :: ts => some (ts.foldl mergeTriple t)

/-! ## XATT (R168, R170, R172 to R175) -/

/-- What query q forms with one KV unit: whether it met NaN or +∞, its triple, and whether a window masked a token. (DEDUCED, log entry 87.) -/
def attQuery (g : KvGen) (c : Cmd) (en : AttEntry) (unit : List Nat) (q : Nat) : Bool × Option Triple :=
  let w := parWord c.params
  let p0 := w 1 % 2 ^ 32
  let ntok := bits (w 1) 63 32
  let qpos := bits (w 2) 31 0 + if bit (w 0) 46 then q else 0
  let scale := w 3 % 2 ^ 32
  let raw := (c.regs.drop (g.dh * q)).take g.dh
  let q' := rotate g qpos raw
  let keyRow (j : Nat) := (unit.drop (g.dh * j)).take g.dh
  let valRow (j : Nat) := (unit.drop (64 * g.dh + g.dh * j)).take g.dh
  let open_ (j : Nat) : Bool :=
    let t := 64 * en.b + j
    decide (p0 ≤ t) && decide (t < p0 + ntok) && decide (j < en.nvalid) && !(bit (w 0) 45 && decide (qpos < en.rbase + j))
      && !(c.att.windows.any fun x => decide (x.1 ≤ t) && decide (t < x.1 + x.2))
  let rows := ((List.range 64).filter open_).map fun j =>
    let k := keyRow j
    let v := valRow j
    let sc := (mul32 (dot32 q' (rotate g (en.rbase + j) k)) scale).1
    (badRow k || badRow v || bad32 sc, sc, v.map fun x => (widen32 10 x).1)
  (rows.any (·.1), blockTriple g.dh (rows.map (·.2)))

/-- Whether an open window masks a token of a command in a block. -/
def attWindow (c : Cmd) (b : Nat) : Bool :=
  let p0 := parWord c.params 1 % 2 ^ 32
  let ntok := bits (parWord c.params 1) 63 32
  c.att.windows.any fun x => decide (max (max (64 * b) p0) x.1 < min (min (64 * b + 64) (p0 + ntok)) (x.1 + x.2))

/-- The address of the KV unit of an entry (R167). -/
def unitAddr (g : KvGen) (c : Cmd) (en : AttEntry) : Nat :=
  let w2 := parWord c.params 2
  wrap 64 (en.addr.toNat + bits w2 47 32 * signed 32 g.hstr + bits w2 63 48 * signed 32 g.qstr)

/-- A command whose page does not translate: it parks, waits or fails as a read of the page would (R349). -/
def State.awaitPage (s : State) (e : Engine) (c : Cmd) (va : Nat) : State :=
  match s.engGlobal e c false va 1 [] with
  | .ok s2 c2 _ => s2.setCmd e { c2 with next := s.now + 1 }
  | .wait s2 c2 => s2.setCmd e { c2 with next := s.now + 1 }
  | .fail s2 c2 r => s2.failCmd e c2 r

/-- A KV unit is translated, its frame pinned and its reads listed: it must be aligned, and its page untagged or BF16 (R165, R179). -/
def State.openUnit (s : State) (e : Engine) (c : Cmd) (g : KvGen) (en : AttEntry) : State :=
  let va := unitAddr g c en
  let size := 256 * g.dh
  if va % size ≠ 0 then s.stopCmd e c 0x12
  else
    let (t, s1) := s.engLeaf c .engRead va
    match t with
    | .ok l pa =>
      if bit l.w1 17 && bits l.w1 22 18 != 10 then s1.stopCmd e c 0x13
      else if s1.pinFull (s1.pinRun c l pa) then s1.setCmd e { c with next := s.now + 1 }
      else
        let (s2, c2) := s1.pinPage c va l pa
        s2.setCmd e { c2 with stage := c.stage + 1, buf := [], todo := readPieces ⟨0, va⟩ size, next := s.now }
    | _ => s1.awaitPage e c va

/-- The rows of output of one query (R174). -/
def attOutput (g : KvGen) (c : Cmd) (slices : List Nat) (q : Nat) : List Byte :=
  let w0 := parWord c.params 0
  let parts (sl : Nat) : List Triple := (c.att.parts.filter fun x => x.2.1 == sl && x.2.2.1 == q).map fun x => x.2.2.2
  let t := mergeAll (slices.filterMap fun sl => mergeAll (parts sl))
  let nan := c.att.nanq.contains q
  let (m, l, o) : Nat × Nat × List Nat :=
    if nan then (canonNaN 8, canonNaN 8, List.replicate g.dh (canonNaN 8))
    else match t with
      | none => (0xFF800000, 0, List.replicate g.dh 0)
      | some t =>
        let div (x : Nat) : Nat := if t.l = 0 then 0 else (divF 8 ⟨0, false⟩ 0 (decodeF 8 x) (decodeF 8 t.l)).1
        (t.m, t.l, if bit w0 44 then t.o.map div else t.o)
  let isNan (x : Nat) : Bool := (decodeF 8 x).isNaN
  let flag := nan || isNan m || isNan l || o.any isNan
  leBytes 4 m ++ leBytes 4 l ++ leBytes 8 ((if c.att.wpend then 1 else 0) + if flag then 2 else 0) ++ bytes32 o

/-- The slices that have formed a triple, ascending. -/
def attSlices (c : Cmd) : List Nat := sortBy id ((c.att.parts.map fun x => x.2.1).eraseDups)

/-- XATT: the checks, the queries, the units in ascending block, the arrival of the triples, the output. (DEDUCED, log entry 83.) (DEDUCED, log entry 85.) -/
def State.planXatt (s : State) (e : Engine) (c : Cmd) : State :=
  let w := parWord c.params
  let nq := bits (w 0) 43 40 + 1
  let (b0, n) := attBlocks c
  let oaddr := bits (w 0) 39 20
  let ntok := bits (w 1) 63 32
  match c.stage, (s.engine e).gen with
  | 0, gen =>
    if bits (w 0) 63 47 != 0 || bits (w 3) 63 32 != 0 || ntok == 0 || decide (65536 < ntok) || oaddr % 16 != 0 then s.stopCmd e c 0x01
    else match gen with
      | none => s.stopCmd e c 0x07
      | some g =>
        if g.nblk < b0 + n then s.stopCmd e c 0x11
        else
          let run : AttRun := { windows := (s.engine e).splices.map fun r => r.2 }
          s.readThen e { c with att := run } 1 [(⟨1, bits (w 0) 19 0⟩, 2 * g.dh * nq)]
  | _ + 1, none => s.stopCmd e c 0x07
  | 1, some _ => s.setCmd e { c with stage := 2, regs := elems 16 (c.buf.length / 2) (leNat c.buf), buf := [], next := max s.now (c.started.getD 0 + 24) }
  | st + 2, some g =>
    let k := st / 2
    if n ≤ k then
      if st = 2 * n then s.setCmd e { c with stage := st + 3, next := s.now + 1 + s.cmdDelay c 7 }
      else if st = 2 * n + 1 then
        let qbad := (List.range nq).filter fun q => badRow ((c.regs.drop (g.dh * q)).take g.dh)
        let c' := { c with att := { c.att with nanq := c.att.nanq ++ qbad } }
        s.writeThen e c' (st + 3) ⟨1, oaddr⟩ ((List.range nq).flatMap fun q => attOutput g c' (attSlices c') q) none
      else s.doneCmd e c c.att.entries.length
    else match c.att.entries[k]? with
      | none => s.setCmd e { c with next := s.now + 1 }
      | some en =>
        let after := max s.now (c.started.getD 0 + k + 1 + 24)
        if st % 2 = 0 then
          if en.nvalid = 0 then
            s.setCmd e { c with stage := st + 4, next := after, att := { c.att with wpend := c.att.wpend || attWindow c en.b } }
          else s.openUnit e c g en
        else
          let unit := elems 16 (c.buf.length / 2) (leNat c.buf)
          let va := unitAddr g c en
          let slice := match c.pinned.find? fun x => x.holds va with
            | some x => s.homeSlice c.part (x.leaf.pa + va % x.leaf.size)
            | none => 0
          let got := (List.range nq).map fun q => (q, attQuery g c en unit q)
          let parts : List (Nat × Nat × Nat × Triple) := got.filterMap fun x => x.2.2.map fun t => (k, slice, x.1, t)
          let bad := (got.filter fun x => x.2.1).map fun x => x.1
          let att : AttRun :=
            { c.att with parts := c.att.parts ++ parts, nanq := c.att.nanq ++ bad, wpend := c.att.wpend || attWindow c en.b }
          let (s1, c1) := s.unpin c
          s1.setCmd e { c1 with stage := st + 3, buf := [], next := after, att := att }

/-! ## Events -/

/-- The logical block whose entry a running XATT samples next, and the cycle on which it does so. -/
def State.nextEntry (s : State) (e : Engine) : Option (Cmd × KvGen × Nat × Nat) :=
  match s.headCmd e, (s.engine e).gen with
  | some c, some g =>
    let k := c.att.entries.length
    if c.kind = .xatt ∧ c.result = none ∧ c.stage ≠ 0 ∧ k < (attBlocks c).2 then
      c.started.map fun t => (c, g, (attBlocks c).1 + k, t + k)
    else none
  | _, _ => none

/-- ATTN_ENTRY_SAMPLE (R168): the k-th entry of the block table is sampled on cycle S + k. An entry that a block-transfer
command has armed and not filled is absent; one with a reserved bit or too many slots is illegal (R167). -/
def execAttnEntrySample (eng : Engine) (s : State) : Out :=
  match s.nextEntry eng with
  | none => .next s
  | some (c, g, b, due) =>
    if s.now < due then .next s
    else if !s.reachable c.bay ⟨1, g.tbl + 16 * b⟩ 16 then .next (s.stopCmd eng c 0x11)
    else match s.engRead eng c ⟨1, g.tbl + 16 * b⟩ 16 with
      | .wait s1 c1 => .next (s1.setCmd eng c1)
      | .fail s1 c1 r => .next (s1.failCmd eng c1 r)
      | .ok s1 c1 d =>
        let w1 := leNat (d.drop 8)
        let nvalid := bits w1 38 32
        if bits w1 63 39 != 0 || decide (64 < nvalid) then .next (s1.stopCmd eng c1 0x01)
        else
          let en : AttEntry := ⟨b, BitVec.ofNat 64 (leNat (d.take 8)), bits w1 31 0, nvalid⟩
          let att : AttRun := { c1.att with entries := c1.att.entries ++ [en] }
          .next (s1.setCmd eng { c1 with att := att, count := att.entries.length })

/-- The slices whose triples an XATT still waits for. (DEDUCED, log entry 88.) -/
def State.awaited (s : State) (e : Engine) : List Nat :=
  match s.headCmd e with
  | none => []
  | some c =>
    if c.kind = .xatt ∧ c.result = none ∧ c.stage = 2 * (attBlocks c).2 + 3 then
      (attSlices c).filter fun x => !c.att.arrived.contains x
    else []

/-- ATTN_TRIPLE_ARRIVE (R173): the triples of a slice reach the engine. The engine merges in ascending slice whatever the
order of arrival. -/
def execAttnTripleArrive (eng : Engine) (slice : Nat) (s : State) : Out :=
  match s.headCmd eng with
  | none => .next s
  | some c =>
    if (s.awaited eng).contains slice then
      let att : AttRun := { c.att with arrived := c.att.arrived ++ [slice] }
      .next (s.setCmd eng { c with att := att, next := s.now + 1 + s.cmdDelay c 7 })
    else .next s

end Sys2Proof.Machine
end

