-- ==== Sys2Proof/Machine/Page.lean ====
section
/-!
DEFINITION. XQNT, XCMP and XDCMP: the contents of a page in its element order, its encoding in another format, the
compressed form, and the swap of the leaf (spec/14_ref_control_engines.md R307; spec/21_translation.md R355 to R358;
spec/02_numbers.md R37 to R42).
-/

namespace Sys2Proof.Machine

/-! ## The elements of a page -/

/-- Elements, element bytes and scale bytes of one block of a block format (R37, R39). -/
def blockShape (f : Nat) : Nat × Nat × Nat := if isMX f then (32, blkBytes f, 1) else (16, 2 * (f - 16), 2)

/-- The blocks of a block format that a page holds: element plane first, then the scale plane. -/
def pageBlocks (f size : Nat) : Nat := size / ((blockShape f).2.1 + (blockShape f).2.2)

/-- An element of a page: the pattern of a scalar format, or the value of a block element. -/
inductive PageElem where
  | raw (w : Nat)
  | val (v : FV)
  deriving DecidableEq, Repr

/-- The values of one block from its element bytes and scale bytes. -/
def blockElems (f plane scales : Nat) : List FV :=
  if isMX f then (elems (fmtWidth (mxElem f).1) 32 plane).map (mxDecode f (scales % 256))
  else (elems (f - 16) 16 plane).zipIdx.map fun (x : Nat × Nat) =>
    nbfDecode (f - 16) (scales % 256) (if bit (scales / 256) (x.2 / 2) then 1 else 0) x.1

/-- The elements of a page tagged f, in their order. (DEDUCED, log entry 89.) -/
def pageElems (f : Nat) (bs : List Byte) : List PageElem :=
  if isBLK f then
    let n := pageBlocks f bs.length
    let (_, eb, sb) := blockShape f
    (List.range n).flatMap fun k =>
      (blockElems f (leNat ((bs.drop (eb * k)).take eb)) (leNat ((bs.drop (eb * n + sb * k)).take sb))).map .val
  else (elems (fmtWidth f) (8 * bs.length / fmtWidth f) (leNat bs)).map .raw

/-- The value of an element. -/
def PageElem.value (f : Nat) : PageElem → FV
  | .raw w => if f < 8 then FV.ofInt (decodeI f w) 0 false else decodeF f w
  | .val v => v

/-- One element in a scalar format. -/
def PageElem.encode (f d : Nat) (r : Rnd) : PageElem → Nat
  | .raw w => (convert f d r 0 w).1
  | .val v => if d < 8 then (toIntF d r.mode 0 v).1 else (roundFV d r 0 v).1

/-- Values cut into blocks of n, the last one filled up with +0. -/
def cutBlocks (n : Nat) : Nat → List FV → List (List FV)
  | 0, _ => []
  | k + 1, vs => (vs.take n ++ List.replicate (n - min n vs.length) (.fin false 0 0)) :: cutBlocks n k (vs.drop n)

/-- The element bytes and scale bytes of one block of values. -/
def encodeBlock (d : Nat) (r : Rnd) (vs : List FV) : List Byte × List Byte :=
  let (_, eb, sb) := blockShape d
  if isMX d then
    let (xb, es) := mxEncode d r (fun _ => 0) vs
    (leBytes eb (packElems (fmtWidth (mxElem d).1) (es.map (·.1))), leBytes sb xb)
  else
    let (e, mu, ms) := nbfEncode (d - 16) r.mode (fun _ => 0) vs
    (leBytes eb (packElems (d - 16) (ms.map (·.1))), leBytes sb (e + 256 * mu))

/-- One MXFP4 block as two NBF5 blocks (R42): E and the mantissas are exact but for the two largest scales. (DEDUCED, log
entry 96.) For a block of NaN the rule gives E alone; the mantissas and micro-exponents are written as zeros. (DESIGN CHOICE, log
entry 148.) -/
def mxToNbf5 (plane xb : Nat) : List (List Byte × List Byte) :=
  let codes := elems 4 32 plane
  let twice (c : Nat) : Int :=
    let m : Int := match c % 8 with
      | 0 => 0 | 1 => 1 | 2 => 2 | 3 => 3 | 4 => 4 | 5 => 6 | 6 => 8 | _ => 12
    if bit c 3 then -m else m
  let mant (c : Nat) : Nat :=
    if xb = 0xFF then 0 else if 0xFD ≤ xb then wrap 5 (satInt (twice c * 2 ^ (xb - 252)) (-15) 15) else wrap 5 (twice c)
  let e := if xb = 0xFF then 255 else min 254 (xb + 2)
  [codes.take 16, codes.drop 16].map fun l => (leBytes 10 (packElems 5 (l.map mant)), leBytes 2 e)

/-- The blocks of a page in a block format, from the bytes of the old page. -/
def encodeBlocks (f d : Nat) (r : Rnd) (bs : List Byte) : List (List Byte × List Byte) :=
  if f = 16 ∧ d = 21 then
    let n := pageBlocks f bs.length
    (List.range n).flatMap fun k => mxToNbf5 (leNat ((bs.drop (16 * k)).take 16)) ((bs.getD (16 * n + k) 0).toNat)
  else
    let n := (blockShape d).1
    let vs := (pageElems f bs).map (PageElem.value f)
    (cutBlocks n (ceilDiv vs.length n) vs).map (encodeBlock d r)

/-- The page re-encoded: its elements, and its new bytes unless they are more than the page holds. -/
def requant (f d : Nat) (r : Rnd) (bs : List Byte) : Nat × Option (List Byte) :=
  let es := pageElems f bs
  let fill (l : List Byte) (n : Nat) : List Byte := l ++ List.replicate (n - l.length) 0
  if isBLK d then
    let (n, eb, _) := blockShape d
    let most := pageBlocks d bs.length
    if most < ceilDiv es.length n then (es.length, none)
    else
      let blocks := encodeBlocks f d r bs
      (es.length, some (fill (fill (blocks.flatMap (·.1)) (eb * most) ++ blocks.flatMap (·.2)) bs.length))
  else if 8 * bs.length < es.length * fmtWidth d then (es.length, none)
  else
    let v := packElems (fmtWidth d) (es.map (PageElem.encode f d r))
    (es.length, some (leBytes bs.length v))

/-! ## The compressed form (R356) -/

/-- The data of a chunk and its kind: zero, one repeated word, or raw. -/
def packChunk (c : List Byte) : Nat × List Byte :=
  let ws := elems 64 32 (leNat c)
  let w := ws.headD 0
  if ws.all (· == 0) then (1, []) else if ws.all (· == w) then (2, leBytes 8 w) else (0, c)

/-- The directory entries of chunks whose data begin at an offset. (DEDUCED, log entry 93.) -/
def directory : Nat → List (Nat × List Byte) → List Byte
  | _, [] => []
  | off, (k, d) :: rest => leBytes 4 (off % 2 ^ 30 + k * 2 ^ 30) ++ directory (off + d.length) rest

/-- A compressed frame. -/
def packPage (bs : List Byte) : List Byte :=
  let cs := (chunks 256 (bs.length / 256) bs).map packChunk
  directory (4 * cs.length) cs ++ cs.flatMap (·.2)

/-! ## Frames and the swap (R357, R358) -/

/-- The lowest free run of n frames aligned to n, among the k candidates from the one numbered i. (DEDUCED, log entry 92.) -/
def State.findRun (s : State) (p n : Nat) : Nat → Nat → Option Nat
  | 0, _ => none
  | k + 1, i =>
    let base := bits (s.part p).fpool.toNat 56 16 * 65536
    let free (f : Nat) : Bool := bit (s.numPhys true 0 (base + f / 8) 1) (f % 8)
    if (List.range n).all fun j => free (n * i + j) then some (n * i) else s.findRun p n k (i + 1)

/-- How the claim of a run of n frames comes out: none is free, lines must first come back from the host, a line of the bitmap or of
the run cannot be used, or the run. -/
inductive Claim where
  | full
  | wait
  | poison (a : Nat)
  | run (f : Nat)
  deriving DecidableEq, Repr

/-- The first line of the bitmap, up to the bit of a frame, that returns poison (R383, R399). -/
def State.poolPoison (s : State) (p f : Nat) : Option Nat :=
  s.poisonedOf ((linesOf (s.poolByte p 0) (f / 8 + 1)).map fun k => (true, k))

/-- The run of n frames that an engine claims; it reads the bitmap up to it, and then writes the frames (R357, R381). -/
def State.claimRun (s : State) (p n : Nat) : Claim :=
  match s.findRun p n (2 ^ 27 / n) 0 with
  | none => if s.poolHeld p 0 (2 ^ 27) then .wait else match s.poolPoison p (2 ^ 27 - 1) with
    | some a => .poison a
    | none => .full
  | some f => if s.poolHeld p 0 (f + n) || s.rangeHeld (f * 65536) (n * 65536) then .wait
    else match (s.poolPoison p (f + n - 1)).or (s.unwritable true (f * 65536) (n * 65536)) with
    | some a => .poison a
    | none => .run f

/-- Bytes of a leaf replaced at their home, in one store. -/
def State.storeEntry (s : State) (c : Cmd) (l : Leaf) (a : Nat) (bs : List Byte) : State :=
  let s1 := s.homeStore c.part l.leafMem 0 a bs
  if l.leafMem then s1 else s1.onPkg fun p => { p with acks := p.acks ++ [s.engAck c (a / 64)] }

/-- Words 0 and 1 of a leaf replaced; the old frame goes back to the pool when no pin is left on it, and no cached
translation of the page remains. The command gives up its own pins, and waits in its last stage. -/
def State.swapLeaf (s : State) (e : Engine) (c : Cmd) (l : Leaf) (va w0 w1 count : Nat) : State :=
  let s1 := s.storeEntry c l l.leafAddr (leBytes 8 w0 ++ leBytes 8 w1)
  let n := s.framesOf l
  let s2 := if n = 0 then s1 else s1.onPart c.part fun x => { x with freeing := x.freeing ++ [(l.pa / 65536, n)] }
  let s3 : State :=
    { s2 with tlb := s2.tlb.filter fun t => !(t.part == c.part && t.asid == c.asid && t.page * 65536 / l.size == va / l.size) }
  let (s4, c4) := s3.unpin c
  s4.setCmd e { c4 with stage := 2, regs := [count], buf := [] }

/-- Whether another command still uses the former leaf of a page without a pin (R348, R358). -/
def State.swapWaits (s : State) (c : Cmd) (va : Nat) : Bool :=
  (s.cmdsOfPart c.part).any fun x => !(x.id == c.id && x.bay == c.bay) && x.asid == c.asid
    && x.pinned.any fun p => p.run.isNone && p.holds va && s.walk c.part c.asid va != .leaf p.leaf

/-- The last stage of a page command. -/
def State.endSwap (s : State) (e : Engine) (c : Cmd) (va : Nat) : State :=
  if s.swapWaits c va then s.setCmd e { c with next := s.now + 1 } else s.doneCmd e c (c.regs.headD 0)

/-- Word 0 of a leaf with another frame and other C and E bits. -/
def leafWord (w0 frame : Nat) (cmp elided : Bool) : Nat :=
  w0 - bits w0 56 14 * 2 ^ 14 - bits w0 3 2 * 4 + frame + (if cmp then 4 else 0) + (if elided then 8 else 0)

/-- Word 1 of a leaf with the generation advanced and another format. (DEDUCED, log entry 95.) -/
def genWord (w1 f : Nat) : Nat :=
  (bits w1 63 32 + 1) % 2 ^ 32 * 2 ^ 32 + bits w1 31 23 * 2 ^ 23 + f * 2 ^ 18 + w1 % 2 ^ 18

/-! ## The commands -/

/-- Whether the home of a leaf must first take its line from the host (R381). -/
def State.leafHeld (s : State) (l : Leaf) : Bool := s.hostHolds [(l.leafMem, l.leafAddr / 64)] true

/-- A page command has its page: the new frame is claimed and written, and the leaf swapped. -/
def State.putPage (s : State) (e : Engine) (c : Cmd) (l : Leaf) (va count frames : Nat) (data : List Byte) (w1 : Nat)
    (cmp : Bool) : State :=
  let later : State := s.setCmd e { c with next := s.now + 1 }
  if s.leafHeld l then later
  else match s.unwritable l.leafMem l.leafAddr 32 with
  | some a => s.failCmd e c (poisonAt a)
  | none =>
  match s.claimRun c.part frames with
  | .poison a => s.failCmd e c (poisonAt a)
  | .full => s.stopCmd e c 0x11
  | .wait => later
  | .run f =>
    let s1 := (s.setFrames c.part f frames false).homeStore c.part true (s.leafKey l) (f * 65536) data
    s1.swapLeaf e c l va (leafWord l.w0 (f * 65536) cmp false) w1 count

/-- The first look at the page of a command: where it may act, its frames are pinned and the reads of the whole page are listed.
(DEDUCED, log entry 91.) -/
def State.openPage (s : State) (e : Engine) (c : Cmd) (va : Nat) (mayAct : Leaf → Bool) : State :=
  let (t, s1) := s.engLeaf c .engRead va
  match t with
  | .ok l pa =>
    if va % l.size ≠ 0 then s1.stopCmd e c 0x01
    else if l.tgt != 1 || bit l.w0 5 || !mayAct l then s1.stopCmd e c 0x11
    else if s1.pinFull (s1.pinRun c l pa) then s1.setCmd e { c with next := s.now + 1 }
    else
      let (s2, c2) := s1.pinPage c va l pa
      s2.setCmd e { c2 with stage := 1, buf := [], todo := readPieces ⟨0, va⟩ l.size, next := s.now }
  | _ => s1.awaitPage e c va

/-- The leaf that a page command has pinned. -/
def Cmd.leafOf (c : Cmd) (va : Nat) : Option Leaf := (c.pinned.find? fun x => x.holds va).map (·.leaf)

/-- XQNT (R307, R358). (DEDUCED, log entry 90.) -/
def State.planXqnt (s : State) (e : Engine) (c : Cmd) : State :=
  let w := parWord c.params
  let va := bits (w 0) 56 0
  let d := bits (w 1) 4 0
  match c.stage with
  | 0 =>
    if bits (w 0) 63 57 != 0 || bits (w 1) 63 12 != 0 || bits (w 1) 7 5 != 0 || bit (w 1) 10 || !fmtListed d then s.stopCmd e c 0x01
    else s.openPage e c va fun l => bit l.w0 7 && bit l.w0 4 && bit l.w1 17
  | 1 => match c.leafOf va with
    | none => s.stopCmd e c 0x11
    | some l =>
      match requant (bits l.w1 22 18) d ⟨bits (w 1) 10 8, bit (w 1) 11⟩ c.buf with
      | (_, none) => s.stopCmd e c 0x01
      | (n, some data) => s.putPage e c l va n (l.size / 65536) data (genWord l.w1 d) false
  | _ => s.endSwap e c va

/-- XCMP (R307, R356, R358): CONST is written before a swap that makes the page elided. (DEDUCED, log entry 94.) -/
def State.planXcmp (s : State) (e : Engine) (c : Cmd) : State :=
  let w := parWord c.params
  let va := bits (w 0) 56 0
  match c.stage with
  | 0 =>
    if bits (w 0) 63 57 != 0 || w 1 != 0 then s.stopCmd e c 0x01 else s.openPage e c va fun l => bit l.w0 7
  | 1 => match c.leafOf va with
    | none => s.stopCmd e c 0x11
    | some l =>
      let ws := elems 64 (c.buf.length / 8) (leNat c.buf)
      let k := ws.headD 0
      if ws.all (· == k) then
        if s.leafHeld l then s.setCmd e { c with next := s.now + 1 }
        else match s.unwritable l.leafMem l.leafAddr 32 with
        | some a => s.failCmd e c (poisonAt a)
        | none => (s.storeEntry c l (l.leafAddr + 16) (leBytes 8 k)).swapLeaf e c l va (leafWord l.w0 l.pa false true) l.w1 0
      else
        let data := packPage c.buf
        s.putPage e c l va data.length (ceilDiv data.length 65536) data l.w1 true
  | _ => s.endSwap e c va

/-- XDCMP (R307). -/
def State.planXdcmp (s : State) (e : Engine) (c : Cmd) : State :=
  let w := parWord c.params
  let va := bits (w 0) 56 0
  match c.stage with
  | 0 => if bits (w 0) 63 57 != 0 || w 1 != 0 then s.stopCmd e c 0x01 else s.openPage e c va fun _ => true
  | 1 => match c.leafOf va with
    | none => s.stopCmd e c 0x11
    | some l => s.putPage e c l va l.size (l.size / 65536) c.buf l.w1 false
  | _ => s.endSwap e c va

end Sys2Proof.Machine
end

