-- ==== Sys2Proof/Machine/Perform.lean ====
section
/-!
DEFINITION. ENGINE_ACCESS_PERFORM: a running command performs its next access, or works out what comes next
(spec/05_ordering.md R116, R118; spec/07_tack_room.md R160, R161, R163).
-/

namespace Sys2Proof.Machine

/-- A running command with nothing left to perform works out what it does next. -/
def State.plan (s : State) (e : Engine) (c : Cmd) : State :=
  match c.kind with
  | .xcpy src dst len => s.planXcpy e c src dst len
  | .xgth own tbl rlen nrows n => s.planGather e c false own tbl rlen nrows n
  | .xsct own tbl rlen nrows n => s.planGather e c true own tbl rlen nrows n
  | .xred => s.planXred e c
  | .xsrt => s.planXsrt e c
  | .xmrg => s.planXmrg e c
  | .xsolv => s.planXsolv e c
  | .xcoll => s.planXcoll e c
  | .xqnt => s.planXqnt e c
  | .xcmp => s.planXcmp e c
  | .xdcmp => s.planXdcmp e c
  | .xatt => s.planXatt e c
  | .xkvt => s.planXkvt e c
  | .xsplc => s.planXsplc e c
  | .xsplcDone r => s.planXsplcDone e c r
  | .spawn rcb => s.planSpawn e c rcb

/-- Whether what a command waits for outside the machine has come: the round of an XCOLL, the triples of an XATT. (DESIGN CHOICE, log entry 131.) -/
def State.planReady (s : State) (e : Engine) (c : Cmd) : Bool :=
  match c.kind with
  | .xcoll => c.stage != 2 || (match c.regs with
      | [g, r] => match s.roundOf g r with
        | some x => x.state != 0 && !x.took.contains (bits (parWord c.params 3) 15 0)
        | none => false
      | _ => true)
  | .xatt => (s.awaited e).isEmpty
  | _ => true

/-- Whether an access of a command finds its destination ready: no row of beat memory in a refresh window (R64), and no home
once the host's requests of the cycle have been performed there (R114). -/
def State.reachesNow (s : State) (c : Cmd) (a : SAddr) : Bool :=
  if a.space = 5 then decide ((s.die (dieOf c.bay)).rfend ≤ s.now)
  else a.space != 0 || decide (s.pkg.hostServed ≤ s.now)

/-- Whether the next access of a command may be performed now: writes to beat memory and accumulators only in an access beat,
block-transfer writes at most one piece a cycle, a pop only of an index that is present. -/
def State.microReady (s : State) (e : Engine) (c : Cmd) : Bool :=
  match c.todo.head? with
  | none => s.planReady e c
  | some (.read a _) => s.reachesNow c a
  | some (.write a _ _) =>
    s.reachesNow c a && (a.space != 3 && a.space != 5 || (s.part c.part).beatno % 2 == 0) && (match e with
      | .btx bay _ => decide ((s.bay bay).btxNext ≤ s.now)
      | .tack _ _ => true)
  | some .pop => match e with
    | .btx bay ch => !(Tbl.get Channel.reset (s.bay bay).btx ch).queue.isEmpty
    | .tack _ _ => false

/-- The running command of an engine when it may act now. -/
def State.performable (s : State) (e : Engine) : Option Cmd :=
  match s.headCmd e with
  | none => none
  | some c =>
    if c.started.isSome && c.result.isNone && decide (c.next ≤ s.now) && c.parked.isNone && !c.owner && s.engineRuns e c
      && s.microReady e c then some c else none

/-- Whether a command lists its writes one by one, and may leave some until its last ones (R118). -/
def Cmd.listsPieces (c : Cmd) : Bool :=
  match c.kind with
  | .xcpy _ _ _ | .xgth _ _ _ _ _ | .xsct _ _ _ _ _ | .xsolv => true
  | _ => false

/-- A command that has worked out what comes next acts on it from the next cycle. -/
def State.afterPlan (s : State) (e : Engine) (c : Cmd) : State :=
  let leave := Config.freeBool (s.freeKey c.bay 6 (c.id % 4096))
  s.setCmds e ((s.cmds e).map fun (x : Cmd) =>
    if x.id = c.id ∧ x.bay = c.bay then
      let y : Cmd := { x with next := max x.next (s.now + 1) }
      if x.listsPieces && x.stage != c.stage then y.defer leave else y
    else x)

/-- ENGINE_ACCESS_PERFORM (R118). -/
def execEngineAccessPerform (eng : Engine) (s : State) : Out :=
  match s.performable eng with
  | none => .next s
  | some c => .next (if c.todo.isEmpty then (s.plan eng c).afterPlan eng c else s.runMicro eng c)

end Sys2Proof.Machine
end

