-- ==== Sys2Proof/Machine/Host.lean ====
section
/-!
DEFINITION. The outside of the machine: management registers, partitions, keys, firmware, attestation, readiness, the host
port and its lines, page-request responses, expanders, links, collective rounds, errors and power
(spec/23_host_links_security.md R378 to R392; spec/24_bringup_power_ras.md R393 to R400; spec/21_translation.md R351;
spec/05_ordering.md R117, R123, R125).
-/

namespace Sys2Proof.Machine

/-! ## Management registers (R378, R393 to R400) -/

/-- Whether the management registers answer: not while the recovery ROM has no image to start (R395). (DEDUCED, log entry 104.) -/
def State.answers (s : State) : Bool := !s.pkg.recovery

/-- An answer to the host. -/
def State.answer (s : State) (kind : Nat) (bs : List Byte) : State :=
  s.onPkg fun p => { p with hostData := p.hostData ++ [(kind, bs)] }

/-- A management register as the host reads it, by its offset in BAR0. -/
def State.registerRead (s : State) (off : Nat) : Word :=
  let p := s.pkg
  let d (base step : Nat) : Die := s.die ((off - base) / step)
  if off = 0x108 then p.fwctl
  else if !s.answers then 0
  else if off = 0x100 then BitVec.ofNat 64 p.ready
  else if 0x110 ≤ off ∧ off < 0x130 then
    let x := d 0x110 8
    BitVec.ofNat 64 (x.thermal + x.temp * 2 ^ 16)
  else if off = 0x130 then p.pkgpwr
  else if 0x140 ≤ off ∧ off < 0x180 then (if off % 16 = 0 then (d 0x140 16).raserr else (d 0x140 16).rasaddr)
  else if off = 0x1000 then BitVec.ofNat 64 p.partcfg
  else if off = 0x1008 then BitVec.ofNat 64 p.partstat
  else if off = 0x1010 then p.grptab
  else if off = 0x1020 then p.keyctl
  else 0

/-- Write-one-to-clear fields: the bits of a mask that a write holds as 1 are cleared. -/
def clearBits (old v mask : Nat) : Nat := old ^^^ (old &&& v &&& mask)

/-- Whether a write of KEYCTL is refused. (DESIGN CHOICE, log entry 107.) (DEDUCED, log entry 108.) -/
def State.keyRefused (s : State) (v : Word) : Bool :=
  let half (k : Nat) := Tbl.read 0 s.pkg.keydata (32 * k) 32
  !bit s.pkg.ready 11 || (v.getLsbD 9 && v.getLsbD 10) || v.toNat % 512 == 0 || half 0 == half 1

/-- A refused write of KEYCTL sets ERR and changes nothing else (R391). -/
def State.keyErr (s : State) : State := s.onPkg fun p => { p with keyctl := p.keyctl ||| 0x800 }

/-- A management register written, with the fields that a write without GO, ZAP or RECOVER reaches. -/
def State.writeManagement (s : State) (off : Nat) (v : Word) : State :=
  if off = 0x108 then s.onPkg fun p =>
    { p with fwctl := (p.fwctl &&& 0x70) ||| (v &&& 0x01FFFFFFFFFFF000) }
  else if !s.answers then s
  else if 0x140 ≤ off ∧ off < 0x180 ∧ off % 16 = 0 then
    s.onDie ((off - 0x140) / 16) fun d => { d with raserr := BitVec.ofNat 64 (clearBits d.raserr.toNat v.toNat (3 * 2 ^ 62)) }
  else if off = 0x1000 then s.onPkg fun p => { p with partcfg := v.toNat % 256 }
  else if off = 0x1008 then s.onPkg fun p => { p with partstat := clearBits p.partstat v.toNat 0xC000C000C000C000 }
  else if off = 0x1010 then s.onPkg fun p => { p with grptab := v &&& 0x01FFFFFFFFFF0001 }
  else if off = 0x1020 then
    if s.keyRefused v then s.keyErr else s.onPkg fun p => { p with keyctl := (p.keyctl &&& 0x800) ||| (v &&& 0x1FF) }
  else if 0x1040 ≤ off ∧ off < 0x1080 then
    s.onPkg fun p => { p with keydata := Tbl.write 0 p.keydata ((off - 0x1040) / 8 * 8) (leBytes 8 v.toNat) }
  else s

/-- REGISTER_WRITE (R5): offsets below 2^16 are management registers in BAR0. Above them, 2^16 × (1 + bay) + n is the system
register n of R368, reached by system software through a bay of the register's scope. (DESIGN CHOICE, log entry 103.) -/
def execRegisterWrite (off : Nat) (v : Word) (s : State) : Out :=
  if off < 2 ^ 16 then .next (s.writeManagement off v)
  else if 2 ^ 16 * 257 ≤ off then .fault .absent
  else .next (if s.answers && decide (0x100 ≤ off % 2 ^ 16) then s.applySystem (off / 2 ^ 16 - 1) (off % 2 ^ 16) v else s)

/-- RASERR_READ (R400): the read returns RASERR and clears CECNT. -/
def execRaserrRead (die : Nat) (s : State) : Out :=
  if 4 ≤ die then .fault .absent
  else .next (if !s.answers then s
    else (s.answer 2 (leBytes 8 (s.die die).raserr.toNat)).onDie die fun d => { d with raserr := d.raserr &&& 0xFFFFFFFF00000000 })

/-! ## Partitions (R387, R388, R394) -/

/-- The dies of a partition under PID fields. -/
def diesUnder (pids p : Nat) : List Nat := (List.range 4).filter fun d => bits pids (2 * d + 1) (2 * d) == p

/-- The partitions whose membership changes. -/
def changedParts (old new : Nat) : List Nat := (List.range 4).filter fun p => diesUnder old p != diesUnder new p

/-- BUSY of partitions set. -/
def State.setBusy (s : State) (ps : List Nat) : State :=
  s.onPkg fun k => { k with partstat := ps.foldl (fun v p => v ||| 2 ^ (16 * p + 14)) k.partstat }

/-- A partition is formed: its counters start at 0, its anchor, RGNANCH, ASIDTB and beat plans are cleared, and its beat 0 opens,
which first runs the owed refresh windows (R66) and serves the host's requests. -/
def State.formPart (s : State) (p : Nat) : State :=
  let s1 := s.onPart p fun x => { x with
    formed := s.now, rgnanch := 0, asidtb := 0, stopped := false, stopping := none, engWrites := []
    hostWrites := x.hostWrites.map fun (w : Nat × Nat × List Byte) => (0, w.2)
    hostReads := x.hostReads.map fun (r : Nat × HostReq) => (0, r.2) }
  let s2 := s1.mapBays fun b x => if s.partOf b = p then { x with plan := [], plans := [] } else x
  let s3 := s2.mapDies fun d x => if s.partOfDie d = p then { x with periodSeen := 0, sched := true } else x
  let s4 := s3.onPkg fun k => { k with nodes := Tbl.set none k.nodes p none, schedWrites := k.schedWrites.filter fun w => w.part != p }
  let s5 : State := { s4 with tlb := s4.tlb.filter fun e => e.part != p, tables := s4.tables.filter fun e => e.part != p }
  ((s5.snapshot p).openBeat p 0).serveHost p 0

/-- The host's requests to beat memory go with their dies to the partitions that are formed. -/
def State.moveRequests (s : State) (ps : List Nat) : State :=
  let writes := ps.flatMap fun p => (s.part p).hostWrites
  let reads := ps.flatMap fun p => (s.part p).hostReads
  ps.foldl (fun s p => s.onPart p fun x =>
    { x with hostWrites := writes.filter fun (w : Nat × Nat × List Byte) => s.partOf (w.2.1 / 2 ^ 30) == p
             hostReads := reads.filter fun (r : Nat × HostReq) => s.partOf (r.2.addr / 2 ^ 30) == p }) s

/-- The LLC of some dies is written back and invalidated: the host has every write made there, and their slices hold its lines no
more (R123, R381, R387). -/
def State.flushDies (s : State) (dies : List Nat) : State :=
  let rest := s.pkg.llc.filter fun x => !dies.contains (x.1 / 32)
  let kept (k : Nat) : Bool := rest.any fun x => x.2.any fun l => l.line == (false, k)
  s.onPkg fun p => { p with
    llc := rest, sliceOwns := p.sliceOwns.filter kept, sliceShares := p.sliceShares.filter kept, acks := p.acks.filter fun a => kept a.line }

/-- PARTCFG_GO (R387): the partitions whose membership changes are formed again, the LLC of their dies written back and
invalidated, unless one of them holds a live node or a die that is not ready. (DEDUCED, log entry 105.) (DEDUCED, log entry 106.) -/
def execPartcfgGo (v : Word) (s : State) : Out :=
  let new := v.toNat % 256
  let ps := changedParts s.pkg.pids new
  let busy := ps.filter fun p => s.pkg.nodes.any fun x => decide (4 ≤ x.1) && x.2.any fun n => n.part == p && n.live
  let dies := ps.flatMap fun p => diesUnder s.pkg.pids p ++ diesUnder new p
  let unready := ps.filter fun p => (diesUnder s.pkg.pids p ++ diesUnder new p).any fun d => !bit s.pkg.ready (4 + d)
  .next (if !s.answers then s
    else if !busy.isEmpty || !unready.isEmpty then s.setBusy (ps.filter fun p => busy.contains p || unready.contains p)
    else ps.foldl State.formPart (((s.flushDies dies).onPkg fun k => { k with partcfg := new, pids := new }).moveRequests ps))

/-! ## Memory keys (R391, R394) -/

/-- KEYCTL_GO (R391): KEYDATA is loaded into slot INDEX and zeroed; a refused write sets ERR only. -/
def execKeyctlGo (v : Word) (s : State) : Out :=
  .next (if !s.answers then s
    else if s.keyRefused v then s.keyErr
    else s.onPkg fun p =>
      { p with keyctl := v &&& 0x1FF, keydata := []
               keys := Tbl.set 0 p.keys (v.toNat % 512) (leNat (Tbl.read 0 p.keydata 0 64)) })

/-- KEYCTL_ZAP (R391): slot INDEX is emptied, or ERR is set. -/
def execKeyctlZap (v : Word) (s : State) : Out :=
  .next (if !s.answers then s
    else if s.keyRefused v then s.keyErr
    else s.onPkg fun p => { p with keyctl := v &&& 0x1FF, keys := Tbl.set 0 p.keys (v.toNat % 512) 0 })

/-! ## Firmware and power (R395, R396) -/

/-- FWCTL.STATE. -/
def State.fwState (s : State) : Nat := bits s.pkg.fwctl.toNat 6 4

/-- FWCTL.STATE written. -/
def State.setFwState (s : State) (st : Nat) : State :=
  s.onPkg fun p => { p with fwctl := (p.fwctl &&& 0x01FFFFFFFFFFF000) ||| BitVec.ofNat 64 (st * 16) }

/-- The image that FWCTL.ADDR names. (DESIGN CHOICE, log entry 110.) -/
def State.newImage (s : State) : List Byte := s.host.bytes (bits s.pkg.fwctl.toNat 56 12 * 4096) Config.imageBytes

/-- FWCTL_GO (R396): ignored while an image is verified or written; rejected while a node other than an anchor is live. -/
def execFwctlGo (v : Word) (s : State) : Out :=
  if s.fwState = 1 ∨ s.fwState = 2 then .next s
  else
    let s1 := s.onPkg fun p => { p with fwctl := v &&& 0x01FFFFFFFFFFF000 }
    let live := s.pkg.nodes.any fun x => decide (4 ≤ x.1) && x.2.any (·.live)
    .next (if live then s1.setFwState 4
      else (s1.setFwState 1).onPkg fun p => { p with fwDue := some (s.now + 1 + Config.freeDelay (s.freeKey 0 12 3)) })

/-- FW_VERIFY_COMPLETE (R396): a valid image is written to the flash, which holds no whole image until that is done. -/
def execFwVerifyComplete (s : State) : Out :=
  if s.fwState ≠ 1 ∨ !(s.pkg.fwDue.any fun t => decide (t ≤ s.now)) then .next s
  else if Config.imageValid s.newImage then
    .next ((s.setFwState 2).onPkg fun p =>
      { p with flash := s.newImage, flashWhole := false, fwDue := some (s.now + 1 + Config.freeDelay (s.freeKey 0 12 4)) })
  else .next ((s.setFwState 4).onPkg fun p => { p with fwDue := none })

/-- FW_WRITE_COMPLETE (R396). -/
def execFwWriteComplete (s : State) : Out :=
  if s.fwState ≠ 2 ∨ !(s.pkg.fwDue.any fun t => decide (t ≤ s.now)) then .next s
  else .next ((s.setFwState 3).onPkg fun p => { p with flashWhole := true, fwDue := none })

/-- The machine reset: what is outside it, and its flash, stay. (DESIGN CHOICE, log entry 109.) -/
def State.again (s : State) (recovery : Bool) : State :=
  { State.reset with
    host := s.host, expander := s.expander
    pkg := { State.reset.pkg with flash := s.pkg.flash, flashWhole := s.pkg.flashWhole, recovery := recovery, lineKey := s.pkg.lineKey }
    inputs := s.inputs.map fun (x : Nat × Instr) => (x.1 - s.now, x.2) }

/-- FWCTL_RECOVER (R396): the part resets into the recovery ROM and does not start the image. -/
def execFwctlRecover (_v : Word) (s : State) : Out := .next (s.again true)

/-- POWER_FAIL (R396): an image that was being written is lost; the next power-on begins as a reset. -/
def execPowerFail (s : State) : Out := .next (s.again false)

/-- POWER_ON_RESET (R395): the ROM measures itself and the image, and starts the image when its signature holds. -/
def execPowerOnReset (s : State) : Out :=
  if !s.pkg.poweron then .next s
  else
    let p := s.pkg
    let start := !p.recovery && p.flashWhole && Config.imageValid p.flash
    .next { s with pkg := { p with
      poweron := false, measureRom := Config.romDigest, measureFw := sha512 p.flash, recovery := !start
      ready := p.ready ||| (if start then 3 else 1) } }

/-! ## Readiness (R393) -/

/-- A bit of READY set. -/
def State.setReady (s : State) (n : Nat) : State := s.onPkg fun p => { p with ready := p.ready ||| 2 ^ n }

/-- DIE_READY (R393): the die's beat memory is tested and zeroed. -/
def execDieReady (die : Nat) (s : State) : Out :=
  if 4 ≤ die then .fault .absent
  else
    let mine (a : Nat) : Bool := a / 2 ^ 36 == die
    let s1 : State := { s with beat := s.beat.filter fun e => !mine e.1 }
    let clean (l : List Nat) : List Nat := l.filter fun r => !mine (1024 * r)
    let s2 := (s1.onPkg fun p => { p with poisonBeat := clean p.poisonBeat }).onPart (s.partOfDie die) fun x =>
      { x with snapBeat := x.snapBeat.filter fun e => !mine e.1, snapPoisonBeat := clean x.snapPoisonBeat }
    .next ((s2.setReady (4 + die)).onDie die fun d => { d with sched := true })

/-- EXPANDERS_READY (R393, R383): a population of three ports is used as two. (DEDUCED, log entry 121.) -/
def execExpandersReady (ports : Nat) (s : State) : Out :=
  .next ((s.setReady 9).onPkg fun p => { p with expanders := if 4 ≤ ports then 4 else if ports = 3 then 2 else ports })

/-- JEXVIK_TRAINED (R393). -/
def execJexvikTrained (s : State) : Out := .next ((s.setReady 10).onPkg fun p => { p with links := [] })

/-- KEYS_READY (R393). -/
def execKeysReady (s : State) : Out := .next (s.setReady 11)

/-- Whether a port as it trained comes up: at 64 or 32 GT/s, with 16 or 8 lanes, in 256-byte flit mode (R378). -/
def portWorks (u : PortUp) : Bool := (u.gts == 64 || u.gts == 32) && (u.lanes == 16 || u.lanes == 8) && u.mode == .flit256

/-- HOST_PORT_UP (R378, R393). -/
def execHostPortUp (up : PortUp) (s : State) : Out :=
  let port := up.port
  if 2 ≤ port then .fault .absent
  else if !portWorks up then .next s
  else .next ((s.setReady 8).onPkg fun p => { p with ports := if p.ports.contains port then p.ports else p.ports ++ [port] })

/-! ## Host requests to device memory (R117, R380, R394) -/

/-- Whether an address of the beat range names a hole (R380). -/
def beatHole (a : Nat) : Bool := decide (2 ^ 38 ≤ a) || decide (1536 ≤ bits a 20 10)

/-- Whether the HDM decoders open n bytes of a range to the host (R380). (DESIGN CHOICE, log entry 171.) -/
def State.hdmOpen (s : State) (exp : Bool) (a n : Nat) : Bool :=
  if exp then s.pkg.expOpen.any fun x => decide (x.1 ≤ a) && decide (a + n ≤ x.1 + x.2) else s.pkg.beatOpen

/-- The host programs the decoder of a range: an extent is opened, or closed (R380). -/
def State.programHdm (s : State) (exp : Bool) (a n : Nat) (on : Bool) : State :=
  s.onPkg fun p =>
    if exp then
      let rest := p.expOpen.filter (· != (a, n))
      { p with expOpen := if on then rest ++ [(a, n)] else rest }
    else { p with beatOpen := on }

/-- HOST_REQUEST_ARRIVE: beat memory is served by the beats; a line of the expander range is read or written at its home, after every
access of the part that arrives there on the same cycle (R114). The recovery ROM answers none (R395). (DEDUCED, log entry 112.)
(DEDUCED, log entry 113.) -/
def execHostRequestArrive (req : HostReq) (s : State) : Out :=
  if !s.answers then .next s
  else match req.space with
  | .hdm exp => .next (match req.act with
    | .write d => s.programHdm exp req.addr req.len (d != 0)
    | _ => s)
  | .image part rcb beat => .next (match req.act with
    | .write d => s.onPkg fun p => { p with images := p.images ++ [⟨part, rcb, beat, req.addr, leBytes req.len d.toNat⟩] }
    | _ => s)
  | .beat =>
    let p := s.partOf (req.addr / 2 ^ 30)
    let n := (s.part p).beatno
    let k := if n % 2 = 0 then n + 2 else n + 1
    let dead := beatHole req.addr || !bit s.pkg.ready (4 + req.addr / 2 ^ 36) || !s.hdmOpen false req.addr req.len
    .next (match req.act with
      | .write d => if dead then s
          else s.onPart p fun x => { x with hostWrites := x.hostWrites ++ [(k, req.addr, leBytes req.len d.toNat)] }
      | _ => if dead then s.answer 1 [] else s.onPart p fun x => { x with hostReads := x.hostReads ++ [(k, req)] })
  | .expander =>
    let line : Line := (true, req.addr / 64)
    let held (s : State) : State := s.onPkg fun p =>
      { p with hostOwns := if p.hostOwns.contains line.2 then p.hostOwns else p.hostOwns ++ [line.2] }
    let s := s.onPkg fun p => { p with hostServed := s.now + 1 }
    let old := s.readPhys true 0 req.addr req.len
    let shut := !s.hdmOpen true req.addr req.len
    .next (match req.act with
      | .write d => if shut || s.unanswered true req.addr then s
          else (s.writePhys true 0 req.addr (leBytes req.len d.toNat)).dropCopies line
      | .read => if shut || s.poisoned true req.addr then s.answer 1 [] else (held (s.answer 0 old)).dropCopies line
      | .atomic op v cmp =>
        if shut || s.poisoned true req.addr then s.answer 1 []
        else
          let new := leBytes req.len (atomNew req.len op.toNat (leNat old) v.toNat cmp.toNat)
          ((s.writePhys true 0 req.addr new).dropCopies line).answer 0 old)

/-! ## Lines that the host and the part hold in turn (R123, R125, R381) -/

/-- A command that has waited goes on at once, where it can. -/
def State.retryCmd (s : State) (e : Engine) (c : Cmd) : State :=
  let s1 := s.setCmd e { c with owner := false, parked := none, next := s.now }
  let mine (x : Option Cmd) : Bool := x.any fun y => y.id == c.id && y.bay == c.bay
  let run (o : Out) : State := match o with
    | .next t => t
    | _ => s1
  if mine (s1.performable e) then run (execEngineAccessPerform e s1)
  else if mine (s1.finishable e) then run (execEngineCmdFinish e s1)
  else s1

/-- An access that stands in a home intake is tried again. -/
def State.retryArrival (s : State) (a : Arrival) : State :=
  match a.what with
  | .entry bay q id => match (Tbl.get [] (s.bay bay).sq q).find? fun e => e.id == id with
    | some e => (s.onEntry bay q id fun e => { e with stage := .queued }).performGlobal bay q { e with stage := .queued }
    | none => s
  | .cmd bay id => match s.engines.findSome? fun e => ((s.cmds e).find? fun c => c.bay == bay && c.id == id && c.owner).map (e, ·) with
    | some x => s.retryCmd x.1 x.2
    | none => s

/-- The accesses that stand in the home intakes are tried again, in the order of R114: a line has changed hands (R381). Each of them
may meet the DEP of a node (R327). Frames whose bits of the bitmap could not be set go back to their pools. What arrives at the homes
on this cycle has been performed. -/
def State.retryHome (s : State) : State :=
  let s1 := (sortBy Arrival.rank s.pkg.intake).foldl (fun s a => (s.retryArrival a).noteDeps) s
  let s2 := (List.range 4).foldl (fun s p => if (s.part p).freeing.isEmpty then s else s.freeFrames p) s1
  s2.onPkg fun p => { p with hostServed := s.now + 1 }

/-- HOST_SNOOP (R381, R123): the line goes back to the host with every write made at the home, and acknowledges them; no copy of it
stays in the part. A poisoned line goes back as poison (R399). (DEDUCED, log entry 13.) -/
def execHostSnoop (line : Nat) (s : State) : Out :=
  let l : Line := (false, line)
  let s1 := if !s.pkg.sliceOwns.contains line then s
    else if s.poisoned false (64 * line) then s.answer 1 []
    else s.answer 0 (s.readPhys false 0 (64 * line) 64)
  .next (((s1.dropCopies l).llcClean (· == l) true).onPkg fun p =>
    { p with sliceOwns := p.sliceOwns.filter (· != line), sliceShares := p.sliceShares.filter (· != line)
             acks := p.acks.filter fun a => a.line != line, hostServed := s.now + 1 })

/-- A home slice owns a host line, or holds a shared copy of it (R381). -/
def Pkg.takeLine (p : Pkg) (line : Nat) (shared : Bool) : Pkg :=
  if shared then { p with sliceShares := if p.sliceShares.contains line then p.sliceShares else p.sliceShares ++ [line] }
  else { p with sliceOwns := if p.sliceOwns.contains line then p.sliceOwns else p.sliceOwns ++ [line]
                sliceShares := p.sliceShares.filter (· != line) }

/-- HOST_CXL_CACHE_RESPONSE (R381, R123): the slice holds the line as the host has left it, and performs what waited for it. -/
def execHostCxlCacheResponse (x : LineAnswer) (s : State) : Out :=
  let s1 := match x.data with
    | some d => (s.writePhys false 0 (64 * x.line) (leBytes 64 d.toNat)).dropCopies (false, x.line)
    | none => s
  .next (s1.onPkg fun p => p.takeLine x.line x.shared).retryHome

/-- BACK_INVALIDATE_RESPONSE (R381): the host gives the line up with what it has modified, and the waiting accesses follow. -/
def execBackInvalidateResponse (line : Nat) (data : Option (BitVec 512)) (s : State) : Out :=
  let s1 := match data with
    | some d => (s.writePhys true 0 (64 * line) (leBytes 64 d.toNat)).dropCopies (true, line)
    | none => s
  let s2 := s1.onPkg fun p => { p with hostOwns := p.hostOwns.filter (· != line) }
  .next s2.retryHome

/-! ## The host port (R379) -/

/-- The port that a host line travels on, while some are up. -/
def portOf (ports : List Nat) (line : Nat) : Option Nat :=
  match ports with
  | [] => none
  | [p] => some p
  | _ => some (line / 64 % 2)

/-- The host line that an entry of a queue waits for. -/
def State.entryLine (s : State) (bay : Nat) (e : SEntry) : Option Nat :=
  match s.walk (s.partOf bay) (s.bay bay).asid e.va.toNat with
  | .leaf l => if l.tgt = 0 then some ((l.pa + e.va.toNat % l.size) / 64) else none
  | _ => none

/-- The entries of the stream queues that wait on a port. -/
def State.onPort (s : State) (port : Nat) : List (Nat × Nat × SEntry) :=
  (s.bays.map (·.1)).flatMap fun bay => (s.bay bay).sq.flatMap fun (x : Nat × List SEntry) =>
    (x.2.filter fun e => decide (e.stage = .owner) && (s.entryLine bay e).any fun k => portOf s.pkg.ports k == some port).map
      fun e => (bay, x.1, e)

/-- The commands that wait for a host line on a port, with the line and whether the access is a read. -/
def State.cmdsOnPort (s : State) (port : Nat) : List (Engine × Cmd × Nat × Bool) :=
  s.engines.flatMap fun e => ((s.cmds e).filter fun c => c.owner).filterMap fun c =>
    let (a, read) : SAddr × Bool := match c.todo.head? with
      | some (.read a _) => (a, true)
      | some (.write a _ _) => (a, false)
      | _ => (⟨0, c.word.toNat⟩, false)
    let line : Option Nat := if a.space = 4 then some (a.addr / 64) else match s.walk c.part c.asid a.addr with
      | .leaf l => if l.tgt = 0 then some ((l.pa + a.addr % l.size) / 64) else none
      | _ => none
    (line.filter fun k => portOf s.pkg.ports k == some port).map fun k => (e, c, k, read)

/-- The device reads in flight on a port return poison. -/
def State.poisonPort (s : State) (port : Nat) : State :=
  let s1 := (s.onPort port).foldl (fun s (x : Nat × Nat × SEntry) => match x.2.2.op with
    | .store _ => s
    | _ =>
      let a := ((s.entryLine x.1 x.2.2).getD 0) * 64
      (s.entryDone x.1 x.2.1 x.2.2).report x.1 (s.bay x.1).uid ⟨0x14, BitVec.ofNat 64 x.2.2.acc.code, BitVec.ofNat 64 a, 0, 0⟩ x.2.2.priv) s
  (s.cmdsOnPort port).foldl (fun s (x : Engine × Cmd × Nat × Bool) =>
    if x.2.2.2 then (s.leaveIntake (.cmd x.2.1.bay x.2.1.id)).failCmd x.1 { x.2.1 with owner := false } (poisonAt (64 * x.2.2.1)) else s) s1

/-- The writes that the host has not acknowledged are lost: the lines stand as before the oldest of them (R379). -/
def State.loseAcks (s : State) : State :=
  let s1 := s.pkg.acks.reverse.foldl (fun s (a : HostAck) => { s with host := s.host.store (64 * a.line) a.old }) s
  s1.onPkg fun p => { p with acks := [] }

/-- UPSTREAM_PORT_DOWN (R379): reads in flight on the port return poison and writes move to the other port; with no port left
the writes are lost and every partition stops. (DEDUCED, log entry 114.) -/
def execUpstreamPortDown (port : Nat) (s : State) : Out :=
  if 2 ≤ port then .fault .absent
  else if !s.pkg.ports.contains port then .next s
  else
    let s1 := (s.poisonPort port).onPkg fun p => { p with ports := p.ports.filter (· != port) }
    if !s1.pkg.ports.isEmpty then .next s1
    else
      let lost := (s1.bays.map (·.1)).flatMap fun bay => (s1.bay bay).sq.flatMap fun (x : Nat × List SEntry) =>
        (x.2.filter fun e => decide (e.stage = .owner) && (s1.entryLine bay e).isSome).map fun e => (bay, x.1, e)
      let s2 := lost.foldl (fun s (x : Nat × Nat × SEntry) => s.entryDone x.1 x.2.1 x.2.2) s1
      let s3 := s2.loseAcks.onPkg fun p => { p with ready := p.ready - (p.ready &&& 256) }
      let cause := (Config.freeWord (s.freeKey 0 12 5)).toNat % 256
      .next (((List.range 4).filter fun p => !(s3.diesOf p).isEmpty).foldl (fun s p => s.stopPart p cause) s3)

/-- DOWNSTREAM_PORT_DOWN (R383). (DEDUCED, log entry 115.) -/
def execDownstreamPortDown (port : Nat) (s : State) : Out :=
  if 4 ≤ port then .fault .absent
  else .next (s.onPkg fun p => { p with expDown := if p.expDown.contains port then p.expDown else p.expDown ++ [port] })

/-! ## Page-request responses (R350, R351) -/

/-- An entry of a stream queue. -/
def State.findEntry (s : State) (bay q id : Nat) : Option SEntry := (Tbl.get [] (s.bay bay).sq q).find? fun e => e.id == id

/-- A command of an engine. -/
def State.findCmd (s : State) (e : Engine) (id : Nat) : Option Cmd := (s.cmds e).find? fun c => c.id == id && c.parked.isSome

/-- Whether an entry that walks now is parked again. -/
def State.stillAway (s : State) (bay : Nat) (e : SEntry) : Bool :=
  match (s.translate e.acc (s.partOf bay) (s.bay bay).asid e.priv e.va.toNat (s.freeKey bay 13 (e.id % 4096))).1 with
  | .absent _ | .form _ => true
  | _ => false

/-- What was parked walks again, and arrives at its home from the next cycle on, with what else arrives there (R114); the scheduler
asks again for a page that is still not mapped. -/
def State.replayParked (s : State) (page : Nat) (what : Parked) : State :=
  match what with
  | .entry bay q id => match s.findEntry bay q id with
    | some e =>
      if s.stillAway bay e then (s.onEntry bay q id fun x => { x with stage := .queued }).performGlobal bay q { e with stage := .queued }
      else s.onEntry bay q id fun x => { x with stage := .queued, notBefore := s.now + 1 }
    | none => s
  | .cmd e id => match s.findCmd e id with
    | some c => s.setCmd e { c with owner := false, parked := none, next := s.now + 1 }
    | none => s
  | .sched node =>
    let s1 := s.onNode node fun n => { n with asked := n.asked.filter (· != page) }
    match s1.pkg.schedWrites.find? fun w => w.node == node && w.va / 65536 == page && s1.unmapped w.part w.asid w.va with
    | some w => s1.askPage node w.part w.asid w.va
    | none => s1

/-- The level at which a walk of an address ends. -/
def State.walkLevel (s : State) (p asid va : Nat) : Nat :=
  match s.walk p asid va with
  | .leaf l => l.level
  | .absent k | .bad k => k

/-- Whether a save or a restore of a node waits for a page of its image. -/
def State.wantsImage (s : State) (node : Nat) (n : Node) (page : Nat) : Bool :=
  let inside (a : Nat) : Bool := decide (a / 65536 ≤ page) && decide (page ≤ (a + 0xFFFFF) / 65536)
  (s.bays.any fun x => x.2.ofNode node && x.2.save.any fun v => inside v.addr.toNat)
    || n.gangs.any fun g => g.2.state == 4 && (n.standing g.1).any fun x => inside (n.save + x.1 * 2 ^ 20)

/-- What was parked fails with reason 1; the scheduler asks for the page no more, and a save or restore that cannot go on without it is fatal
to its region. (DEDUCED, log entry 64.) -/
def State.refuseParked (s : State) (page : Nat) (what : Parked) : State :=
  match what with
  | .entry bay q id => match s.findEntry bay q id with
    | some e =>
      let b := s.bay bay
      (s.entryDone bay q e).report bay b.uid
        (transReport 0x10 e.acc 1 (s.walkLevel (s.partOf bay) b.asid e.va.toNat) e.va.toNat b.asid) e.priv
    | none => s
  | .cmd e id => match s.findCmd e id with
    | some c =>
      let va := match c.todo.head? with
        | some (.read a _) | some (.write a _ _) => a.addr
        | _ => 65536 * page
      let r := transReport 0x10 .engRead 1 (s.walkLevel c.part c.asid va) va c.asid
      if c.result.isSome then (s.dropCmd e { c with parked := none }).report c.bay c.task { r with i1 := c.word }
      else s.failCmd e { c with parked := none } r
    | none => s
  | .sched node => match s.node node with
    | some n => if s.wantsImage node n page then s.fatal n.part node 0x10 else s
    | none => s

/-- PAGE_REQUEST_RESPONSE (R351): the entries of the group walk again in the order in which they were parked, or fail. -/
def execPageRequestResponse (die asid page : Nat) (ok : Bool) (s : State) : Out :=
  if 4 ≤ die then .fault .absent
  else
    let mine := (s.die die).parked.filter fun p => p.asid == asid && p.page == page
    let s1 := s.onDie die fun d =>
      { d with parked := d.parked.filter fun p => !(p.asid == asid && p.page == page)
               groups := d.groups.filter fun g => !(g.asid == asid && g.page == page) }
    .next (mine.foldl (fun s p => if ok then s.replayParked page p.what else s.refuseParked page p.what) s1)

/-! ## Links and collective rounds (R384, R386) -/

/-- The bytes of the contributions that wait for a lower rank. -/
def Round.buffered (x : Round) : Nat :=
  let ranks := x.cons.map (·.rank)
  ((x.cons.filter fun c => (List.range c.rank).any fun r => !ranks.contains r).map fun c =>
    c.data.length * collBytes c.ty).sum

/-- A round after its contributions have changed: committed when all are in, abandoned when its buffer is full. (DEDUCED, log entry 120.) -/
def Round.settle (x : Round) (nrank : Nat) : Round :=
  if x.state ≠ 0 then x
  else if 2 ^ 21 < x.buffered then { x with state := 2 }
  else if nrank ≤ x.cons.length then { x with state := 1 }
  else x

/-- Whether an open round of a group has waited too long for a contribution. -/
def State.roundLate (s : State) (x : Round) : Bool := x.state == 0 && decide (x.first + 16000 < s.now)

/-- Whether a contribution skips an open round of its group among some: ranks give different ROUND values. -/
def skipsRound (c : Contribution) (l : List Round) : Bool :=
  l.any fun x => x.group == c.group && x.state == 0 && !(x.cons.any fun y => y.rank == c.rank)

/-- The open rounds of a group are abandoned. -/
def abandon (g : Nat) (l : List Round) : List Round := l.map fun (x : Round) => if x.group = g ∧ x.state = 0 then { x with state := 2 } else x

/-- A contribution arrives at the switch, which holds the rounds in the order of their first contributions; one that comes too late
finds its round abandoned, and one that skips an earlier open round abandons the open rounds of the group. -/
def State.contribute (s : State) (c : Contribution) : State :=
  let same (x : Round) : Bool := x.group == c.group && x.round == c.round
  let new : Round := { group := c.group, round := c.round, first := s.now, cons := [c] }
  let put (l : List Round) : State := s.onPkg fun p => { p with rounds := l }
  let fresh (l : List Round) : State :=
    if skipsRound c l then put (abandon c.group l ++ [{ new with state := 2 }]) else put (l ++ [new.settle c.nrank])
  match s.roundOf c.group c.round with
  | some x =>
    if x.took.contains c.rank then fresh (s.pkg.rounds.filter fun x => !same x)
    else if x.state ≠ 0 ∨ s.roundLate x ∨ x.cons.any (fun y => y.rank == c.rank) then s
    else if skipsRound c (s.pkg.rounds.takeWhile fun x => !same x) then put (abandon c.group s.pkg.rounds)
    else put (s.pkg.rounds.map fun x => if same x then Round.settle { x with cons := x.cons ++ [c] } c.nrank else x)
  | none => fresh s.pkg.rounds

/-- COLL_CONTRIBUTION_ARRIVE (R386). -/
def execCollContributionArrive (con : Contribution) (s : State) : Out := .next (s.contribute con)

/-- COLL_ROUND_TIMEOUT (R386): an open round that has waited 16,000 cycles for a contribution is abandoned. -/
def execCollRoundTimeout (group : Nat) (s : State) : Out :=
  .next (s.onPkg fun p => { p with rounds := p.rounds.map fun (x : Round) =>
    if x.group = group ∧ s.roundLate x then { x with state := 2 } else x })

/-- JEXVIK_FLIT_RECEIVE (R384): a flit whose CRC fails is asked for again; each channel delivers in order, each flit once, and the
credits free the replay buffer. (DESIGN CHOICE, log entry 134.) -/
def execJexvikFlitReceive (link : Nat) (flit : Flit) (s : State) : Out :=
  if 18 ≤ link then .fault .absent
  else
    let l := Tbl.get Link.reset s.pkg.links link
    let vc := flit.vc
    if !l.up then .next s
    else if !flitIntact flit then
      .next (s.onLink link fun l => { l with replay := Tbl.set none l.replay vc ((Tbl.get none l.replay vc).or (some s.now)) })
    else if flit.seq ≠ Tbl.get 0 l.expect vc then .next s
    else
      let parts := Tbl.get [] l.parts vc ++ [(flit.kind, flit.payload)]
      let con := Config.contributionOf parts
      let s1 := s.onLink link fun l =>
        { l with expect := Tbl.set 0 l.expect vc (flit.seq + 1), replay := Tbl.set none l.replay vc none
                 parts := Tbl.set [] l.parts vc (if con.isSome then [] else parts), sent := l.sent.drop flit.credit }
      .next (match con with
        | some c => s1.contribute c
        | none => s1)

/-- Whether a channel of a link has waited too long for a replay. -/
def Link.replayLate (l : Link) (now : Nat) : Bool := l.replay.any fun x => x.2.any fun t => decide (t + 65536 ≤ now)

/-- JEXVIK_REPLAY_TIMEOUT (R384). -/
def execJexvikReplayTimeout (link : Nat) (s : State) : Out :=
  if 18 ≤ link then .fault .absent
  else .next (if (Tbl.get Link.reset s.pkg.links link).replayLate s.now then s.onLink link fun l => { l with up := false, replay := [] } else s)

/-! ## Errors (R79, R399, R400) -/

/-- A row or sector is poisoned; a row of beat memory or accumulators also for the readers of the last snapshot. An address of an
LLC line with bit 57 set is one of host memory. (DESIGN CHOICE, log entry 37.) (DEDUCED, log entry 119.) -/
def State.poison (s : State) (e : EccError) : State :=
  let s1 := s.onPart (s.partOfDie e.die) fun x => match e.unit with
    | 0 => { x with snapPoisonBeat := x.snapPoisonBeat ++ [e.addr / 1024] }
    | 1 => { x with snapPoisonAcc := x.snapPoisonAcc ++ [e.addr / 1024] }
    | _ => x
  s1.onPkg fun p => match e.unit with
    | 0 => { p with poisonBeat := p.poisonBeat ++ [e.addr / 1024] }
    | 1 => { p with poisonAcc := p.poisonAcc ++ [e.addr / 1024] }
    | 2 => { p with poisonScratch := p.poisonScratch ++ [e.addr % 2 ^ 28 / 64] }
    | 4 => { p with poisonTile := p.poisonTile ++ [e.addr / 64] }
    | _ => { p with poisonLlc := p.poisonLlc ++ [(!bit e.addr 57, e.addr % 2 ^ 57 / 64)] }

/-- The record of an uncorrectable error: the first one stands; a further one sets OVF, and one of the same cycle at a lower
address takes its place. -/
def State.recordError (s : State) (e : EccError) : State :=
  let d := s.die e.die
  let field : Word := BitVec.ofNat 64 (e.unit % 16 * 2 ^ 58)
  let keep : Word := d.raserr &&& 0xFFFFFFFF
  if !d.raserr.getLsbD 63 then
    (s.setDie e.die { d with raserr := keep ||| field ||| (d.raserr &&& 0x4000000000000000) ||| 0x8000000000000000
                             rasaddr := BitVec.ofNat 64 e.addr, rasAt := s.now }).onPkg fun p => { p with msix := p.msix ++ [1] }
  else if d.rasAt = s.now ∧ e.addr < d.rasaddr.toNat then
    s.setDie e.die { d with raserr := keep ||| field ||| 0xC000000000000000, rasaddr := BitVec.ofNat 64 e.addr }
  else s.setDie e.die { d with raserr := d.raserr ||| 0x4000000000000000 }

/-- ECC_UNCORRECTABLE (R399, R400). -/
def execEccUncorrectable (err : EccError) (s : State) : Out :=
  if 4 ≤ err.die ∨ 6 ≤ err.unit then .fault .absent else .next ((s.poison err).recordError err)

/-- ECC_CORRECTED (R399, R400): the data stand, and CECNT counts up to its last value. -/
def execEccCorrected (err : EccError) (s : State) : Out :=
  if 4 ≤ err.die then .fault .absent
  else .next (s.onDie err.die fun d =>
    if d.raserr &&& 0xFFFFFFFF = 0xFFFFFFFF then d else { d with raserr := d.raserr + 1 })

/-! ## Attestation (R392) -/

/-- A number of 66 bytes twice, big-endian: r and s of a signature. -/
def signatureBytes (v : BitVec 1056) : List Byte := (leBytes 132 v.toNat).reverse

/-- A measurement block by its index. -/
def State.measurement (s : State) (i : Nat) : List Byte :=
  let d : BitVec 512 := match i with
    | 1 => s.pkg.measureRom
    | 2 => s.pkg.measureFw
    | 3 => sha512 (leBytes 8 s.pkg.partcfg ++ leBytes 8 s.pkg.grptab.toNat)
    | _ => sha512 (leBytes 8 s.pkg.frzver ++ leBytes 8 Config.partRevision)
  (leBytes 64 d.toNat).reverse

/-- An SPDM answer: its code and what it holds. (PRESUMED, log entry 116.) -/
def State.spdm (s : State) (code : Nat) (bs : List Byte) : State := s.answer (256 + code) bs

/-- An answer that follows a negotiation; before one, the request fails. -/
def State.afterNegotiation (s : State) (kind : Nat) (bs : List Byte) : State :=
  if s.pkg.spdmState = 3 then s.spdm kind bs else s.spdm 0x7F []

/-- GET_VERSION: SPDM 1.2. -/
def execGetVersion (_req : SpdmReq) (s : State) : Out :=
  .next ((s.spdm 0x04 [0x12]).onPkg fun p => { p with spdmState := 1 })

/-- GET_CAPABILITIES. -/
def execGetCapabilities (_req : SpdmReq) (s : State) : Out :=
  .next (if 1 ≤ s.pkg.spdmState then (s.spdm 0x61 [0x12]).onPkg fun p => { p with spdmState := max 2 p.spdmState }
    else s.spdm 0x7F [])

/-- NEGOTIATE_ALGORITHMS: ECDSA on P-521 (bit 8) with SHA-512 (bit 2); anything else fails. -/
def execNegotiateAlgorithms (req : SpdmReq) (s : State) : Out :=
  .next (if 2 ≤ s.pkg.spdmState ∧ bit req.sigAlg 8 ∧ bit req.hashAlg 2 then
      (s.spdm 0x63 (leBytes 4 0x100 ++ leBytes 4 4)).onPkg fun p => { p with spdmState := 3 }
    else (s.spdm 0x7F []).onPkg fun p => { p with spdmState := min 2 p.spdmState })

/-- GET_DIGESTS: the digest of the chain of a slot. -/
def execGetDigests (req : SpdmReq) (s : State) : Out :=
  .next (s.afterNegotiation 0x01 ((leBytes 64 (sha512 (Config.certChain req.param)).toNat).reverse))

/-- GET_CERTIFICATE: a part of the chain of a slot. -/
def execGetCertificate (req : SpdmReq) (s : State) : Out :=
  .next (s.afterNegotiation 0x02 (((Config.certChain req.param).drop req.offset).take req.len))

/-- CHALLENGE: the digest of the chain and the nonce, signed. -/
def execChallenge (req : SpdmReq) (s : State) : Out :=
  let body := (leBytes 64 (sha512 (Config.certChain req.param)).toNat).reverse ++ leBytes 32 req.nonce.toNat
  .next (s.afterNegotiation 0x03 (body ++ signatureBytes (Config.sign (sha512 body) s.now)))

/-- GET_MEASUREMENTS: one block or, for index 255, all four, signed. -/
def execGetMeasurements (req : SpdmReq) (s : State) : Out :=
  let idx := if req.param = 255 then [1, 2, 3, 4] else if 1 ≤ req.param ∧ req.param ≤ 4 then [req.param] else []
  let body := idx.flatMap s.measurement ++ leBytes 32 req.nonce.toNat
  .next (s.afterNegotiation 0x60 (body ++ signatureBytes (Config.sign (sha512 body) s.now)))

end Sys2Proof.Machine
end

