-- ==== Sys2Proof/Machine/Dispatch.lean ====
section
/-!
DEFINITION. The meaning of every instruction and of every step of the machine: one arm for each constructor of Instr.
-/

namespace Sys2Proof.Machine

/-- The machine carries out an instruction or a step. -/
def exec (i : Instr) (s : State) : Host.Outcome State Fault Refusal :=
  match i with
  | .bundleIssue bay => Sys2Proof.Machine.execBundleIssue bay s
  | .shortOpLand bay => Sys2Proof.Machine.execShortOpLand bay s
  | .scratchWriteApply bay => Sys2Proof.Machine.execScratchWriteApply bay s
  | .scratchLoadSample bay => Sys2Proof.Machine.execScratchLoadSample bay s
  | .streamDeliver bay q => Sys2Proof.Machine.execStreamDeliver bay q s
  | .fenceMarkerLeave bay => Sys2Proof.Machine.execFenceMarkerLeave bay s
  | .hostAck line => Sys2Proof.Machine.execHostAck line s
  | .beatQueueArrival bay id => Sys2Proof.Machine.execBeatQueueArrival bay id s
  | .beatLoadServe bay id => Sys2Proof.Machine.execBeatLoadServe bay id s
  | .remoteLoadLand bay id => Sys2Proof.Machine.execRemoteLoadLand bay id s
  | .beatClose part => Sys2Proof.Machine.execBeatClose part s
  | .beatOverrun bay => Sys2Proof.Machine.execBeatOverrun bay s
  | .refreshDue die => Sys2Proof.Machine.execRefreshDue die s
  | .refreshWindowEnd die => Sys2Proof.Machine.execRefreshWindowEnd die s
  | .arrayOpStart bay => Sys2Proof.Machine.execArrayOpStart bay s
  | .arrayCommitPoint bay => Sys2Proof.Machine.execArrayCommitPoint bay s
  | .arrayOpComplete bay => Sys2Proof.Machine.execArrayOpComplete bay s
  | .awritePieceSample bay => Sys2Proof.Machine.execAwritePieceSample bay s
  | .tmmaComplete bay => Sys2Proof.Machine.execTmmaComplete bay s
  | .bplanTableSample bay => Sys2Proof.Machine.execBplanTableSample bay s
  | .engineCmdStart eng => Sys2Proof.Machine.execEngineCmdStart eng s
  | .engineAccessPerform eng => Sys2Proof.Machine.execEngineAccessPerform eng s
  | .engineCmdFinish eng => Sys2Proof.Machine.execEngineCmdFinish eng s
  | .indexPopTimeout bay ch => Sys2Proof.Machine.execIndexPopTimeout bay ch s
  | .attnEntrySample eng => Sys2Proof.Machine.execAttnEntrySample eng s
  | .attnTripleArrive eng slice => Sys2Proof.Machine.execAttnTripleArrive eng slice s
  | .leaseGrant die => Sys2Proof.Machine.execLeaseGrant die s
  | .leaseWakeComplete die lease => Sys2Proof.Machine.execLeaseWakeComplete die lease s
  | .leaseDeadlinePass die lease => Sys2Proof.Machine.execLeaseDeadlinePass die lease s
  | .evictionGraceEnd die lease => Sys2Proof.Machine.execEvictionGraceEnd die lease s
  | .drowsyHoldExpire die unit => Sys2Proof.Machine.execDrowsyHoldExpire die unit s
  | .taskEnd bay => Sys2Proof.Machine.execTaskEnd bay s
  | .trapTake bay => Sys2Proof.Machine.execTrapTake bay s
  | .reportArrive bay rep => Sys2Proof.Machine.execReportArrive bay rep s
  | .timePeriodBoundary part => Sys2Proof.Machine.execTimePeriodBoundary part s
  | .thermalT3Entry die => Sys2Proof.Machine.execThermalT3Entry die s
  | .contextDrainExpire bay => Sys2Proof.Machine.execContextDrainExpire bay s
  | .preemptSave leaf gang => Sys2Proof.Machine.execPreemptSave leaf gang s
  | .contextRestore leaf gang => Sys2Proof.Machine.execContextRestore leaf gang s
  | .schedChildScan node => Sys2Proof.Machine.execSchedChildScan node s
  | .nodeDepReached node => Sys2Proof.Machine.execNodeDepReached node s
  | .nodeComplete node => Sys2Proof.Machine.execNodeComplete node s
  | .gangPlace die => Sys2Proof.Machine.execGangPlace die s
  | .class0Preempt die => Sys2Proof.Machine.execClass0Preempt die s
  | .rgnkillWrite part v => Sys2Proof.Machine.execRgnkillWrite part v s
  | .preemptWrite part v => Sys2Proof.Machine.execPreemptWrite part v s
  | .partcfgGo v => Sys2Proof.Machine.execPartcfgGo v s
  | .keyctlGo v => Sys2Proof.Machine.execKeyctlGo v s
  | .keyctlZap v => Sys2Proof.Machine.execKeyctlZap v s
  | .fwctlGo v => Sys2Proof.Machine.execFwctlGo v s
  | .fwctlRecover v => Sys2Proof.Machine.execFwctlRecover v s
  | .fwWriteComplete => Sys2Proof.Machine.execFwWriteComplete s
  | .bformWrite bay v => Sys2Proof.Machine.execBformWrite bay v s
  | .raserrRead die => Sys2Proof.Machine.execRaserrRead die s
  | .registerWrite off v => Sys2Proof.Machine.execRegisterWrite off v s
  | .pageRequestResponse die asid page ok => Sys2Proof.Machine.execPageRequestResponse die asid page ok s
  | .hostRequestArrive req => Sys2Proof.Machine.execHostRequestArrive req s
  | .hostSnoop line => Sys2Proof.Machine.execHostSnoop line s
  | .backInvalidateResponse line data => Sys2Proof.Machine.execBackInvalidateResponse line data s
  | .upstreamPortDown port => Sys2Proof.Machine.execUpstreamPortDown port s
  | .hostPortUp up => Sys2Proof.Machine.execHostPortUp up s
  | .downstreamPortDown port => Sys2Proof.Machine.execDownstreamPortDown port s
  | .jexvikFlitReceive link flit => Sys2Proof.Machine.execJexvikFlitReceive link flit s
  | .jexvikReplayTimeout link => Sys2Proof.Machine.execJexvikReplayTimeout link s
  | .collContributionArrive con => Sys2Proof.Machine.execCollContributionArrive con s
  | .collRoundTimeout group => Sys2Proof.Machine.execCollRoundTimeout group s
  | .getVersion req => Sys2Proof.Machine.execGetVersion req s
  | .getCapabilities req => Sys2Proof.Machine.execGetCapabilities req s
  | .negotiateAlgorithms req => Sys2Proof.Machine.execNegotiateAlgorithms req s
  | .getDigests req => Sys2Proof.Machine.execGetDigests req s
  | .getCertificate req => Sys2Proof.Machine.execGetCertificate req s
  | .challenge req => Sys2Proof.Machine.execChallenge req s
  | .getMeasurements req => Sys2Proof.Machine.execGetMeasurements req s
  | .powerOnReset => Sys2Proof.Machine.execPowerOnReset s
  | .dieReady die => Sys2Proof.Machine.execDieReady die s
  | .expandersReady ports => Sys2Proof.Machine.execExpandersReady ports s
  | .jexvikTrained => Sys2Proof.Machine.execJexvikTrained s
  | .keysReady => Sys2Proof.Machine.execKeysReady s
  | .eccUncorrectable err => Sys2Proof.Machine.execEccUncorrectable err s
  | .eccCorrected err => Sys2Proof.Machine.execEccCorrected err s
  | .add d b c => Sys2Proof.Machine.execAdd d b c s
  | .sub d b c => Sys2Proof.Machine.execSub d b c s
  | .addi d b imm => Sys2Proof.Machine.execAddi d b imm s
  | .addi64 d b imm => Sys2Proof.Machine.execAddi64 d b imm s
  | .addsh d b c k => Sys2Proof.Machine.execAddsh d b c k s
  | .mul d b c => Sys2Proof.Machine.execMul d b c s
  | .mulh d b c => Sys2Proof.Machine.execMulh d b c s
  | .mulhn d b c => Sys2Proof.Machine.execMulhn d b c s
  | .div d b c => Sys2Proof.Machine.execDiv d b c s
  | .divn d b c => Sys2Proof.Machine.execDivn d b c s
  | .rem d b c => Sys2Proof.Machine.execRem d b c s
  | .remn d b c => Sys2Proof.Machine.execRemn d b c s
  | .min d b c => Sys2Proof.Machine.execMin d b c s
  | .max d b c => Sys2Proof.Machine.execMax d b c s
  | .minn d b c => Sys2Proof.Machine.execMinn d b c s
  | .maxn d b c => Sys2Proof.Machine.execMaxn d b c s
  | .and d b c => Sys2Proof.Machine.execAnd d b c s
  | .andi d b imm => Sys2Proof.Machine.execAndi d b imm s
  | .andi64 d b imm => Sys2Proof.Machine.execAndi64 d b imm s
  | .or d b c => Sys2Proof.Machine.execOr d b c s
  | .ori d b imm => Sys2Proof.Machine.execOri d b imm s
  | .ori64 d b imm => Sys2Proof.Machine.execOri64 d b imm s
  | .xor d b c => Sys2Proof.Machine.execXor d b c s
  | .xori d b imm => Sys2Proof.Machine.execXori d b imm s
  | .xori64 d b imm => Sys2Proof.Machine.execXori64 d b imm s
  | .andn d b c => Sys2Proof.Machine.execAndn d b c s
  | .sel d k b c => Sys2Proof.Machine.execSel d k b c s
  | .shl d b c => Sys2Proof.Machine.execShl d b c s
  | .shli d b imm => Sys2Proof.Machine.execShli d b imm s
  | .shli64 d b imm => Sys2Proof.Machine.execShli64 d b imm s
  | .shrl d b c => Sys2Proof.Machine.execShrl d b c s
  | .shrli d b imm => Sys2Proof.Machine.execShrli d b imm s
  | .shrli64 d b imm => Sys2Proof.Machine.execShrli64 d b imm s
  | .shra d b c => Sys2Proof.Machine.execShra d b c s
  | .shrai d b imm => Sys2Proof.Machine.execShrai d b imm s
  | .shrai64 d b imm => Sys2Proof.Machine.execShrai64 d b imm s
  | .rotl d b c => Sys2Proof.Machine.execRotl d b c s
  | .cmp cc d b c => Sys2Proof.Machine.execCmp cc d b c s
  | .clz d b => Sys2Proof.Machine.execClz d b s
  | .ctz d b => Sys2Proof.Machine.execCtz d b s
  | .popc d b => Sys2Proof.Machine.execPopc d b s
  | .brev d b => Sys2Proof.Machine.execBrev d b s
  | .bswap d b => Sys2Proof.Machine.execBswap d b s
  | .extb sx d b c => Sys2Proof.Machine.execExtb sx d b c s
  | .insb d b c => Sys2Proof.Machine.execInsb d b c s
  | .li d imm => Sys2Proof.Machine.execLi d imm s
  | .li64 d imm => Sys2Proof.Machine.execLi64 d imm s
  | .lih d imm => Sys2Proof.Machine.execLih d imm s
  | .lih64 d imm => Sys2Proof.Machine.execLih64 d imm s
  | .mov d b => Sys2Proof.Machine.execMov d b s
  | .fadd d b c p => Sys2Proof.Machine.execFadd d b c p s
  | .fsub d b c p => Sys2Proof.Machine.execFsub d b c p s
  | .fmul d b c p => Sys2Proof.Machine.execFmul d b c p s
  | .ffma d b c e p => Sys2Proof.Machine.execFfma d b c e p s
  | .fmin d b c => Sys2Proof.Machine.execFmin d b c s
  | .fmax d b c => Sys2Proof.Machine.execFmax d b c s
  | .fcmp cc d b c => Sys2Proof.Machine.execFcmp cc d b c s
  | .fcvt dst src d b p => Sys2Proof.Machine.execFcvt dst src d b p s
  | .fclass f d b => Sys2Proof.Machine.execFclass f d b s
  | .rds n d => Sys2Proof.Machine.execRds n d s
  | .wrs n b => Sys2Proof.Machine.execWrs n b s
  | .taddT o => Sys2Proof.Machine.execTaddT o s
  | .taddR o r => Sys2Proof.Machine.execTaddR o r s
  | .tsubT o => Sys2Proof.Machine.execTsubT o s
  | .tsubR o r => Sys2Proof.Machine.execTsubR o r s
  | .tmulT o => Sys2Proof.Machine.execTmulT o s
  | .tmulR o r => Sys2Proof.Machine.execTmulR o r s
  | .tfmaT o r => Sys2Proof.Machine.execTfmaT o r s
  | .tfmaR o r => Sys2Proof.Machine.execTfmaR o r s
  | .tfmsT o r => Sys2Proof.Machine.execTfmsT o r s
  | .tfmsR o r => Sys2Proof.Machine.execTfmsR o r s
  | .tminT o => Sys2Proof.Machine.execTminT o s
  | .tminR o r => Sys2Proof.Machine.execTminR o r s
  | .tmaxT o => Sys2Proof.Machine.execTmaxT o s
  | .tmaxR o r => Sys2Proof.Machine.execTmaxR o r s
  | .tabsT o => Sys2Proof.Machine.execTabsT o s
  | .tabsR o r => Sys2Proof.Machine.execTabsR o r s
  | .tnegT o => Sys2Proof.Machine.execTnegT o s
  | .tnegR o r => Sys2Proof.Machine.execTnegR o r s
  | .tandT o => Sys2Proof.Machine.execTandT o s
  | .tandR o r => Sys2Proof.Machine.execTandR o r s
  | .torT o => Sys2Proof.Machine.execTorT o s
  | .torR o r => Sys2Proof.Machine.execTorR o r s
  | .txorT o => Sys2Proof.Machine.execTxorT o s
  | .txorR o r => Sys2Proof.Machine.execTxorR o r s
  | .tshlT o => Sys2Proof.Machine.execTshlT o s
  | .tshlR o r => Sys2Proof.Machine.execTshlR o r s
  | .tshrT o => Sys2Proof.Machine.execTshrT o s
  | .tshrR o r => Sys2Proof.Machine.execTshrR o r s
  | .tshraT o => Sys2Proof.Machine.execTshraT o s
  | .tshraR o r => Sys2Proof.Machine.execTshraR o r s
  | .tcmpT o => Sys2Proof.Machine.execTcmpT o s
  | .tcmpR o r => Sys2Proof.Machine.execTcmpR o r s
  | .tselT o r => Sys2Proof.Machine.execTselT o r s
  | .tselR o r => Sys2Proof.Machine.execTselR o r s
  | .tcvtT o r => Sys2Proof.Machine.execTcvtT o r s
  | .tcvtR o r => Sys2Proof.Machine.execTcvtR o r s
  | .tqntT o r => Sys2Proof.Machine.execTqntT o r s
  | .tqntR o r => Sys2Proof.Machine.execTqntR o r s
  | .tdqT o r => Sys2Proof.Machine.execTdqT o r s
  | .tdqR o r => Sys2Proof.Machine.execTdqR o r s
  | .tredT o => Sys2Proof.Machine.execTredT o s
  | .tredR o r => Sys2Proof.Machine.execTredR o r s
  | .tscanT o => Sys2Proof.Machine.execTscanT o s
  | .tscanR o r => Sys2Proof.Machine.execTscanR o r s
  | .tbcstT o => Sys2Proof.Machine.execTbcstT o s
  | .tbcstR o r => Sys2Proof.Machine.execTbcstR o r s
  | .tinsR o r => Sys2Proof.Machine.execTinsR o r s
  | .textT o => Sys2Proof.Machine.execTextT o s
  | .textR o r => Sys2Proof.Machine.execTextR o r s
  | .tpermT o => Sys2Proof.Machine.execTpermT o s
  | .tpermR o r => Sys2Proof.Machine.execTpermR o r s
  | .ttrnT o => Sys2Proof.Machine.execTtrnT o s
  | .ttrnR o r => Sys2Proof.Machine.execTtrnR o r s
  | .tzeroT o => Sys2Proof.Machine.execTzeroT o s
  | .tzeroR o r => Sys2Proof.Machine.execTzeroR o r s
  | .tmovT o => Sys2Proof.Machine.execTmovT o s
  | .tmovR o r => Sys2Proof.Machine.execTmovR o r s
  | .tshfT o => Sys2Proof.Machine.execTshfT o s
  | .tshfR o r => Sys2Proof.Machine.execTshfR o r s
  | .fexp2T o => Sys2Proof.Machine.execFexp2T o s
  | .fexp2R o r => Sys2Proof.Machine.execFexp2R o r s
  | .flog2T o => Sys2Proof.Machine.execFlog2T o s
  | .flog2R o r => Sys2Proof.Machine.execFlog2R o r s
  | .frcpT o => Sys2Proof.Machine.execFrcpT o s
  | .frcpR o r => Sys2Proof.Machine.execFrcpR o r s
  | .frsqT o => Sys2Proof.Machine.execFrsqT o s
  | .frsqR o r => Sys2Proof.Machine.execFrsqR o r s
  | .fsqrtT o => Sys2Proof.Machine.execFsqrtT o s
  | .fsqrtR o r => Sys2Proof.Machine.execFsqrtR o r s
  | .fdivtT o => Sys2Proof.Machine.execFdivtT o s
  | .fdivtR o r => Sys2Proof.Machine.execFdivtR o r s
  | .ftanhT o => Sys2Proof.Machine.execFtanhT o s
  | .ftanhR o r => Sys2Proof.Machine.execFtanhR o r s
  | .fsigmT o => Sys2Proof.Machine.execFsigmT o s
  | .fsigmR o r => Sys2Proof.Machine.execFsigmR o r s
  | .fsinT o => Sys2Proof.Machine.execFsinT o s
  | .fsinR o r => Sys2Proof.Machine.execFsinR o r s
  | .fcosT o => Sys2Proof.Machine.execFcosT o s
  | .fcosR o r => Sys2Proof.Machine.execFcosR o r s
  | .fexpqT o => Sys2Proof.Machine.execFexpqT o s
  | .fexpqR o r => Sys2Proof.Machine.execFexpqR o r s
  | .frandT o => Sys2Proof.Machine.execFrandT o s
  | .frandR o r => Sys2Proof.Machine.execFrandR o r s
  | .ld m off => Sys2Proof.Machine.execLd m off s
  | .ld64 m off => Sys2Proof.Machine.execLd64 m off s
  | .ldt m off => Sys2Proof.Machine.execLdt m off s
  | .ldt64 m off => Sys2Proof.Machine.execLdt64 m off s
  | .ldb acc m off p => Sys2Proof.Machine.execLdb acc m off p s
  | .ldb64 acc m off tag => Sys2Proof.Machine.execLdb64 acc m off tag s
  | .ldg acq m off p => Sys2Proof.Machine.execLdg acq m off p s
  | .ldg64 acq m off p => Sys2Proof.Machine.execLdg64 acq m off p s
  | .ldx m off => Sys2Proof.Machine.execLdx m off s
  | .atom o off p => Sys2Proof.Machine.execAtom o off p s
  | .st m off p => Sys2Proof.Machine.execSt m off p s
  | .st64 m off p => Sys2Proof.Machine.execSt64 m off p s
  | .stt m off p => Sys2Proof.Machine.execStt m off p s
  | .stt64 m off p => Sys2Proof.Machine.execStt64 m off p s
  | .stb acc m off p => Sys2Proof.Machine.execStb acc m off p s
  | .stb64 acc m off tag => Sys2Proof.Machine.execStb64 acc m off tag s
  | .stg rel m off p => Sys2Proof.Machine.execStg rel m off p s
  | .stg64 rel m off p => Sys2Proof.Machine.execStg64 rel m off p s
  | .stx m off p => Sys2Proof.Machine.execStx m off p s
  | .amac o p => Sys2Proof.Machine.execAmac o p s
  | .amac64 o p x => Sys2Proof.Machine.execAmac64 o p x s
  | .azero b c p => Sys2Proof.Machine.execAzero b c p s
  | .azero64 b c x => Sys2Proof.Machine.execAzero64 b c x s
  | .adrain b c p => Sys2Proof.Machine.execAdrain b c p s
  | .adrain64 b c x => Sys2Proof.Machine.execAdrain64 b c x s
  | .aswap b p => Sys2Proof.Machine.execAswap b p s
  | .aswap64 b x => Sys2Proof.Machine.execAswap64 b x s
  | .awrite b c p => Sys2Proof.Machine.execAwrite b c p s
  | .awrite64 b c x => Sys2Proof.Machine.execAwrite64 b c x s
  | .aop o p => Sys2Proof.Machine.execAop o p s
  | .aop64 o x => Sys2Proof.Machine.execAop64 o x s
  | .asum o p => Sys2Proof.Machine.execAsum o p s
  | .asum64 o x => Sys2Proof.Machine.execAsum64 o x s
  | .tmma o => Sys2Proof.Machine.execTmma o s
  | .tmma64 o stamp => Sys2Proof.Machine.execTmma64 o stamp s
  | .cresp o p => Sys2Proof.Machine.execCresp o p s
  | .cresp64 o x => Sys2Proof.Machine.execCresp64 o x s
  | .copa o p => Sys2Proof.Machine.execCopa o p s
  | .copa64 o x => Sys2Proof.Machine.execCopa64 o x s
  | .copaC o p => Sys2Proof.Machine.execCopaC o p s
  | .copaC64 o x => Sys2Proof.Machine.execCopaC64 o x s
  | .cchk o p => Sys2Proof.Machine.execCchk o p s
  | .cchk64 o x => Sys2Proof.Machine.execCchk64 o x s
  | .csnapSv a b p => Sys2Proof.Machine.execCsnapSv a b p s
  | .csnapSv64 a b x => Sys2Proof.Machine.execCsnapSv64 a b x s
  | .csnapLd a b p => Sys2Proof.Machine.execCsnapLd a b p s
  | .csnapLd64 a b x => Sys2Proof.Machine.execCsnapLd64 a b x s
  | .br off => Sys2Proof.Machine.execBr off s
  | .br64 off => Sys2Proof.Machine.execBr64 off s
  | .bz b off => Sys2Proof.Machine.execBz b off s
  | .bz64 b off => Sys2Proof.Machine.execBz64 b off s
  | .bnz b off => Sys2Proof.Machine.execBnz b off s
  | .bnz64 b off => Sys2Proof.Machine.execBnz64 b off s
  | .bcc f cc b c off => Sys2Proof.Machine.execBcc f cc b c off s
  | .bcc64 f cc b c off => Sys2Proof.Machine.execBcc64 f cc b c off s
  | .call off => Sys2Proof.Machine.execCall off s
  | .call64 off => Sys2Proof.Machine.execCall64 off s
  | .callr b => Sys2Proof.Machine.execCallr b s
  | .ret => Sys2Proof.Machine.execRet s
  | .jr b => Sys2Proof.Machine.execJr b s
  | .loop b off => Sys2Proof.Machine.execLoop b off s
  | .loop64 b off => Sys2Proof.Machine.execLoop64 b off s
  | .trap imm => Sys2Proof.Machine.execTrap imm s
  | .sys imm => Sys2Proof.Machine.execSys imm s
  | .endTask => Sys2Proof.Machine.execEndTask s
  | .setf b => Sys2Proof.Machine.execSetf b s
  | .setsz rnd sat => Sys2Proof.Machine.execSetsz rnd sat s
  | .frame k => Sys2Proof.Machine.execFrame k s
  | .beatset b => Sys2Proof.Machine.execBeatset b s
  | .beatset64 tag => Sys2Proof.Machine.execBeatset64 tag s
  | .beatnext => Sys2Proof.Machine.execBeatnext s
  | .bplan b => Sys2Proof.Machine.execBplan b s
  | .bplan64 off => Sys2Proof.Machine.execBplan64 off s
  | .phase b => Sys2Proof.Machine.execPhase b s
  | .bar sc => Sys2Proof.Machine.execBar sc s
  | .waitw ch b => Sys2Proof.Machine.execWaitw ch b s
  | .waitl b => Sys2Proof.Machine.execWaitl b s
  | .waitcReg n => Sys2Proof.Machine.execWaitcReg n s
  | .waitcWord b => Sys2Proof.Machine.execWaitcWord b s
  | .waitcG b => Sys2Proof.Machine.execWaitcG b s
  | .fence sc mask => Sys2Proof.Machine.execFence sc mask s
  | .cinv b c => Sys2Proof.Machine.execCinv b c s
  | .cinvLlc b c => Sys2Proof.Machine.execCinvLlc b c s
  | .cwb b c => Sys2Proof.Machine.execCwb b c s
  | .eret => Sys2Proof.Machine.execEret s
  | .rdsys n d => Sys2Proof.Machine.execRdsys n d s
  | .wrsys n b => Sys2Proof.Machine.execWrsys n b s
  | .ctxsv b => Sys2Proof.Machine.execCtxsv b s
  | .ctxld b => Sys2Proof.Machine.execCtxld b s
  | .tlbinv b c => Sys2Proof.Machine.execTlbinv b c s
  | .frz b => Sys2Proof.Machine.execFrz b s
  | .lease d b cls prio => Sys2Proof.Machine.execLease d b cls prio s
  | .unlease b => Sys2Proof.Machine.execUnlease b s
  | .lstat d b => Sys2Proof.Machine.execLstat d b s
  | .xcpy ch o => Sys2Proof.Machine.execXcpy ch o s
  | .xcpy64 ch o stamp => Sys2Proof.Machine.execXcpy64 ch o stamp s
  | .xgth ch n o => Sys2Proof.Machine.execXgth ch n o s
  | .xgth64 ch n o stamp => Sys2Proof.Machine.execXgth64 ch n o stamp s
  | .xsct ch n o => Sys2Proof.Machine.execXsct ch n o s
  | .xsct64 ch n o stamp => Sys2Proof.Machine.execXsct64 ch n o stamp s
  | .xpush ch b => Sys2Proof.Machine.execXpush ch b s
  | .xred o => Sys2Proof.Machine.execXred o s
  | .xred64 o stamp => Sys2Proof.Machine.execXred64 o stamp s
  | .xsrt o => Sys2Proof.Machine.execXsrt o s
  | .xsrt64 o stamp => Sys2Proof.Machine.execXsrt64 o stamp s
  | .xmrg o => Sys2Proof.Machine.execXmrg o s
  | .xmrg64 o stamp => Sys2Proof.Machine.execXmrg64 o stamp s
  | .xsolv o => Sys2Proof.Machine.execXsolv o s
  | .xsolv64 o stamp => Sys2Proof.Machine.execXsolv64 o stamp s
  | .xcoll o => Sys2Proof.Machine.execXcoll o s
  | .xcoll64 o stamp => Sys2Proof.Machine.execXcoll64 o stamp s
  | .xqnt o => Sys2Proof.Machine.execXqnt o s
  | .xqnt64 o stamp => Sys2Proof.Machine.execXqnt64 o stamp s
  | .xcmp o => Sys2Proof.Machine.execXcmp o s
  | .xcmp64 o stamp => Sys2Proof.Machine.execXcmp64 o stamp s
  | .xdcmp o => Sys2Proof.Machine.execXdcmp o s
  | .xdcmp64 o stamp => Sys2Proof.Machine.execXdcmp64 o stamp s
  | .xatt o => Sys2Proof.Machine.execXatt o s
  | .xatt64 o stamp => Sys2Proof.Machine.execXatt64 o stamp s
  | .xkvt o => Sys2Proof.Machine.execXkvt o s
  | .xkvt64 o stamp => Sys2Proof.Machine.execXkvt64 o stamp s
  | .xsplc o => Sys2Proof.Machine.execXsplc o s
  | .xsplc64 o stamp => Sys2Proof.Machine.execXsplc64 o stamp s
  | .xsplcDone o => Sys2Proof.Machine.execXsplcDone o s
  | .xsplcDone64 o stamp => Sys2Proof.Machine.execXsplcDone64 o stamp s
  | .spawn o => Sys2Proof.Machine.execSpawn o s
  | .spawn64 o stamp => Sys2Proof.Machine.execSpawn64 o stamp s
  | .fwVerifyComplete => Sys2Proof.Machine.execFwVerifyComplete s
  | .powerFail => Sys2Proof.Machine.execPowerFail s
  | .hostCxlCacheResponse line => Sys2Proof.Machine.execHostCxlCacheResponse line s
  | .reservedEngineDrowsy die unit => Sys2Proof.Machine.execReservedEngineDrowsy die unit s

end Sys2Proof.Machine
end

