-- ==== Sys2Proof/Machine/Uses.lean ====
section
/-!
DEFINITION. What a slot instruction uses of the core: the scalar registers that it reads through the ports of its bundle, its
tile sources, the registers and rows that the rules of holds and of double writes count, its stamp, its occupancy, and
whether it waits or is privileged (spec/04_tile_core.md R91 to R100; spec/10_encoding.md R210, R212).
-/

namespace Sys2Proof.Machine

/-! ## Scalar sources (R99, R100) -/

/-- The scalar sources of an instruction, in the order in which its operands are written. -/
def Instr.scalars (i : Instr) : List Reg :=
  match i.vec with
  | some (k, _, o, _) => (vecScalar k o).toList
  | none => match i with
    | .add _ b c | .sub _ b c | .mul _ b c | .mulh _ b c | .mulhn _ b c | .div _ b c | .divn _ b c | .rem _ b c
    | .remn _ b c | .min _ b c | .max _ b c | .minn _ b c | .maxn _ b c | .and _ b c | .or _ b c | .xor _ b c
    | .andn _ b c | .shl _ b c | .shrl _ b c | .shra _ b c | .rotl _ b c | .fmin _ b c | .fmax _ b c
    | .addsh _ b c _ | .cmp _ _ b c | .extb _ _ b c | .fcmp _ _ b c | .fadd _ b c _ | .fsub _ b c _ | .fmul _ b c _
    | .azero b c _ | .azero64 b c _ | .adrain b c _ | .adrain64 b c _ | .awrite b c _ | .awrite64 b c _
    | .bcc _ _ b c _ | .bcc64 _ _ b c _ | .cinv b c | .cinvLlc b c | .cwb b c | .tlbinv b c => [b, c]
    | .addi _ b _ | .addi64 _ b _ | .andi _ b _ | .andi64 _ b _ | .ori _ b _ | .ori64 _ b _ | .xori _ b _
    | .xori64 _ b _ | .shli _ b _ | .shli64 _ b _ | .shrli _ b _ | .shrli64 _ b _ | .shrai _ b _ | .shrai64 _ b _
    | .clz _ b | .ctz _ b | .popc _ b | .brev _ b | .bswap _ b | .mov _ b | .fcvt _ _ _ b _ | .fclass _ _ b
    | .wrs _ b | .aswap b _ | .aswap64 b _ | .bz b _ | .bz64 b _ | .bnz b _ | .bnz64 b _ | .callr b | .jr b
    | .loop b _ | .loop64 b _ | .setf b | .beatset b | .bplan b | .phase b | .waitw _ b | .waitl b | .waitcWord b
    | .waitcG b | .wrsys _ b | .ctxsv b | .ctxld b | .frz b | .lease _ b _ _ | .unlease b | .lstat _ b | .xpush _ b => [b]
    | .sel _ k b c => [k, b, c]
    | .insb d b c => [d, b, c]
    | .lih d _ | .lih64 d _ => [d]
    | .ffma _ b c e _ => [b, c, e]
    | .ld m _ | .ld64 m _ | .ldg _ m _ _ | .ldg64 _ m _ _ => [m.b]
    | .ldt m _ | .ldt64 m _ | .ldb _ m _ _ | .ldb64 _ m _ _ | .stt m _ _ | .stt64 m _ _ | .stb _ m _ _
    | .stb64 _ m _ _ => [m.b]
    | .ldx m _ | .stx m _ _ => [m.b]
    | .st m _ _ | .st64 m _ _ | .stg _ m _ _ | .stg64 _ m _ _ => [m.b, m.a] ++ (if m.size = 4 then [m.a + 1] else [])
    | .atom o _ _ => [o.b, o.c] ++ (if o.op = 10 then [o.a] else [])
    | .amac o _ | .amac64 o _ _ => [0#1 ++ o.sp, 0#1 ++ o.sp].zipIdx.map fun (x, i) => x + x + BitVec.ofNat 5 i
    | .aop o _ | .aop64 o _ => [o.a] ++ (if o.op = 6 then [] else [o.b])
        ++ (if o.op = 2 ∨ o.op = 5 then [] else [o.c])
    | .asum o _ | .asum64 o _ => [o.b, o.c]
    | .cresp o _ | .cresp64 o _ | .copa o _ | .copa64 o _ | .copaC o _ | .copaC64 o _ =>
        [0#1 ++ o.sp, 0#1 ++ o.sp].zipIdx.map fun (x, i) => x + x + BitVec.ofNat 5 i
    | .cchk o _ | .cchk64 o _ => [0#1 ++ o.sp, 0#1 ++ o.sp].zipIdx.map fun (x, i) => x + x + BitVec.ofNat 5 i
    | .csnapSv a b _ | .csnapSv64 a b _ | .csnapLd a b _ | .csnapLd64 a b _ => [a, a + 1, b]
    | .ret => [31]
    | .xcpy _ o | .xcpy64 _ o _ | .xgth _ _ o | .xgth64 _ _ o _ | .xsct _ _ o | .xsct64 _ _ o _ => [o.b, o.b + 1, o.b + 2, o.c]
    | .xred o | .xred64 o _ | .xsrt o | .xsrt64 o _ | .xmrg o | .xmrg64 o _ | .xsolv o | .xsolv64 o _ | .xcoll o
    | .xcoll64 o _ | .xqnt o | .xqnt64 o _ | .xcmp o | .xcmp64 o _ | .xdcmp o | .xdcmp64 o _ | .xatt o | .xatt64 o _
    | .xkvt o | .xkvt64 o _ | .xsplc o | .xsplc64 o _ | .xsplcDone o | .xsplcDone64 o _ => [o.a, o.b, o.c]
    | .spawn o | .spawn64 o _ => [o.b, o.c]
    | _ => []

/-- Scalar sources that need a port. -/
def Instr.scalarPorts (i : Instr) : Nat := ((Instr.scalars i).filter (· ≠ 0)).length

/-! ## Tile sources and occupancy (R92, R93, R96) -/

/-- Tile sources that a short instruction reads through ports; a long one needs none. -/
def Instr.tilePorts (i : Instr) : Nat :=
  match i.vec with
  | some (k, _, o, r) => (vecSources k o r).length
  | none => match i with
    | .stt _ _ _ | .stt64 _ _ _ | .ldx _ _ => 1
    | .stx _ _ _ => 2
    | _ => 0

/-- Whether the instruction is a short .t form, which keeps its slot (R92). -/
def Instr.longForm (i : Instr) : Bool :=
  match i.vec with
  | some (_, t, _, _) => t
  | none => match i with
    | .stt m _ _ | .stt64 m _ _ | .ldt m _ | .ldt64 m _ => m.t
    | .ldx m _ | .stx m _ _ => m.t
    | _ => false

/-- The cycles for which an instruction issued now keeps its slot and ports; one unless it is a .t form (R92). -/
def State.occupancy (s : State) (i : Instr) : Nat :=
  if !Instr.longForm i then 1
  else match i.vec with
    | none => 32
    | some (k, _, o, r) =>
      let base := if k = .tperm then 128 else 32
      let rs : Bool := vecRounds k o.ty.toNat r.f2.toNat && (match s.rnd o.p with
        | some x => x.mode == 4
        | none => false)
      if rs then max base (ceilDiv (32 * vecDraws k o.ty.toNat r.f2.toNat) 64) else base

/-! ## What the holds count (R96) -/

/-- The tile rows that a short instruction reads. -/
def Instr.rowReads (i : Instr) : List Nat :=
  match i.vec with
  | some (k, t, o, r) => (vecSources k o r).flatMap fun x => rowsOf t x.1 x.2
  | none => match i with
    | .stt m _ _ | .stt64 m _ _ => rowsOf m.t m.a.toNat m.row.toNat
    | .ldx m _ => rowsOf m.t m.x.toNat m.row.toNat
    | .stx m _ _ => rowsOf m.t m.a.toNat m.row.toNat ++ rowsOf m.t m.x.toNat m.row.toNat
    | _ => []

/-- The tile rows that an instruction writes, as far as its words name them. -/
def Instr.rowWrites (i : Instr) : List Nat :=
  match i.vec with
  | some (k, t, o, r) => if k = .tred && t then [rowNum o.a.toNat o.c.toNat] else vecDests k t o r
  | none => match i with
    | .ldt m _ | .ldt64 m _ | .ldb _ m _ _ | .ldb64 _ m _ _ => rowsOf m.t m.a.toNat m.row.toNat
    | .ldx m _ => rowsOf m.t m.a.toNat m.row.toNat
    | .tmma o | .tmma64 o _ => rowsOf true o.a.toNat 0
    | _ => []

/-- The scalar registers that an instruction writes. -/
def Instr.scalarWrites (i : Instr) : List Reg :=
  match i with
  | .add d _ _ | .sub d _ _ | .mul d _ _ | .mulh d _ _ | .mulhn d _ _ | .div d _ _ | .divn d _ _ | .rem d _ _
  | .remn d _ _ | .min d _ _ | .max d _ _ | .minn d _ _ | .maxn d _ _ | .and d _ _ | .or d _ _ | .xor d _ _
  | .andn d _ _ | .shl d _ _ | .shrl d _ _ | .shra d _ _ | .rotl d _ _ | .fmin d _ _ | .fmax d _ _
  | .addsh d _ _ _ | .cmp _ d _ _ | .extb _ d _ _ | .fcmp _ d _ _ | .fadd d _ _ _ | .fsub d _ _ _ | .fmul d _ _ _
  | .addi d _ _ | .addi64 d _ _ | .andi d _ _ | .andi64 d _ _ | .ori d _ _ | .ori64 d _ _ | .xori d _ _
  | .xori64 d _ _ | .shli d _ _ | .shli64 d _ _ | .shrli d _ _ | .shrli64 d _ _ | .shrai d _ _ | .shrai64 d _ _
  | .clz d _ | .ctz d _ | .popc d _ | .brev d _ | .bswap d _ | .mov d _ | .fcvt _ _ d _ _ | .fclass _ d _
  | .sel d _ _ _ | .insb d _ _ | .li d _ | .li64 d _ | .lih d _ | .lih64 d _ | .ffma d _ _ _ _ | .rds _ d
  | .rdsys _ d | .lease d _ _ _ | .lstat d _ => [d]
  | .loop b _ | .loop64 b _ => [b]
  | .ld m _ | .ld64 m _ | .ldg _ m _ _ | .ldg64 _ m _ _ => [m.a] ++ (if m.size = 4 then [m.a + 1] else [])
  | .atom o _ _ => [o.a]
  | .call _ | .call64 _ | .callr _ => [31]
  | _ => []

/-- The special registers that an instruction writes, by number (R91). -/
def Instr.specialWrites (i : Instr) : List Nat :=
  match i with
  | .wrs n _ => [n.toNat]
  | .wrsys n _ => if n.toNat < 0x100 then [n.toNat] else []
  | .setf _ | .setsz _ _ => [0x001]
  | .beatset _ | .beatset64 _ | .beatnext => [0x002]
  | _ => []

/-- The number of R96 of the step register half that a special register is, if it is one. -/
def stepNum (n : Nat) : List Nat := if 0x020 ≤ n ∧ n ≤ 0x027 then [544 + (n - 0x020) / 2] else []

/-- Whether an instruction is a long operation, whose holds are placed at issue (R96). -/
def Instr.isLong (i : Instr) : Bool :=
  match i with
  | .ldb .. | .ldb64 .. | .stb .. | .stb64 .. | .ldg .. | .ldg64 .. | .stg .. | .stg64 .. | .atom ..
  | .amac .. | .amac64 .. | .azero .. | .azero64 .. | .adrain .. | .adrain64 .. | .aswap .. | .aswap64 .. | .awrite ..
  | .awrite64 .. | .aop .. | .aop64 .. | .asum .. | .asum64 .. | .tmma .. | .tmma64 .. | .cresp .. | .cresp64 ..
  | .copa .. | .copa64 .. | .copaC .. | .copaC64 .. | .cchk .. | .cchk64 .. | .csnapSv .. | .csnapSv64 .. | .csnapLd ..
  | .csnapLd64 .. | .xcpy .. | .xcpy64 .. | .xgth .. | .xgth64 .. | .xsct .. | .xsct64 .. | .xred .. | .xred64 ..
  | .xsrt .. | .xsrt64 .. | .xmrg .. | .xmrg64 .. | .xsolv .. | .xsolv64 .. | .xcoll .. | .xcoll64 .. | .xqnt ..
  | .xqnt64 .. | .xcmp .. | .xcmp64 .. | .xdcmp .. | .xdcmp64 .. | .xatt .. | .xatt64 .. | .xkvt .. | .xkvt64 ..
  | .xsplc .. | .xsplc64 .. | .xsplcDone .. | .xsplcDone64 .. | .spawn .. | .spawn64 .. => true
  | _ => false

/-- The registers of R96 that an instruction reads at issue. -/
def Instr.holdReads (i : Instr) : List Nat :=
  ((Instr.scalars i).map (·.toNat)).filter (· ≠ 0) ++ (Instr.rowReads i).map (32 + ·)
    ++ (match i with
      | .rds n _ | .rdsys n _ => stepNum n.toNat
      | _ => [])

/-- The tile rows that a short instruction writes for the check of holds: a .t form writes all 32 rows of its tile (R233). -/
def Instr.rowsHeld (i : Instr) : List Nat :=
  match i.vec with
  | some (k, t, o, r) => vecDests k t o r
  | none => Instr.rowWrites i

/-- The registers of R96 that a short instruction writes. -/
def Instr.holdWrites (i : Instr) : List Nat :=
  if Instr.isLong i then []
  else ((Instr.scalarWrites i).map (·.toNat)).filter (· ≠ 0) ++ (Instr.rowsHeld i).map (32 + ·)
    ++ (match i with
      | .wrs n _ | .wrsys n _ => stepNum n.toNat
      | _ => [])

/-- What two instructions of one bundle must not both write: scalar registers but s0, rows, and special registers as
2,048 + number, beyond every number of a hold (R91). -/
def Instr.clashes (i : Instr) : List Nat :=
  ((Instr.scalarWrites i).map (·.toNat)).filter (· ≠ 0) ++ (Instr.rowWrites i).map (32 + ·)
    ++ (Instr.specialWrites i).map (2048 + ·)

/-! ## Stamps, waits and privilege (R22, R210, R288) -/

/-- The issue stamp of a stamped instruction. -/
def Instr.stamp (i : Instr) : Option Nat :=
  match i with
  | .amac64 _ _ x | .azero64 _ _ x | .adrain64 _ _ x | .aswap64 _ x | .awrite64 _ _ x | .aop64 _ x | .asum64 _ x
  | .cresp64 _ x | .copa64 _ x | .copaC64 _ x | .cchk64 _ x | .csnapSv64 _ _ x | .csnapLd64 _ _ x => some x.stamp.toNat
  | .tmma64 _ t | .xcpy64 _ _ t | .xgth64 _ _ _ t | .xsct64 _ _ _ t | .xred64 _ t | .xsrt64 _ t | .xmrg64 _ t
  | .xsolv64 _ t | .xcoll64 _ t | .xqnt64 _ t | .xcmp64 _ t | .xdcmp64 _ t | .xatt64 _ t | .xkvt64 _ t | .xsplc64 _ t
  | .xsplcDone64 _ t | .spawn64 _ t => some t.toNat
  | _ => none

/-- Whether an instruction is a wait. -/
def Instr.isWait (i : Instr) : Bool :=
  match i with
  | .bar _ | .waitw _ _ | .waitl _ | .waitcReg _ | .waitcWord _ | .waitcG _ => true
  | _ => false

/-- Whether an instruction is privileged. -/
def Instr.privileged (i : Instr) : Bool :=
  match i with
  | .eret | .rdsys _ _ | .wrsys _ _ | .ctxsv _ | .ctxld _ | .tlbinv _ _ | .frz _ => true
  | _ => false

end Sys2Proof.Machine
end

