-- ==== Sys2Proof/Machine/Issue.lean ====
section
/-!
DEFINITION. The issue of a bundle (spec/10_encoding.md R192 to R213; spec/04_tile_core.md R90 to R105; spec/01_machine.md R22):
its words are decoded, its faults are found in the order of R213, its slot instructions are executed in slot order, and the
bay goes on; and the replay of the instructions of a restored task (spec/22_traps_context.md R373).
-/

namespace Sys2Proof.Machine

noncomputable section

/-! ## Decoding and the faults of whole bundles (R213 steps 1 to 5) -/

/-- A slot instruction with its words. -/
abbrev SlotInstr := Item × Instr

/-- The slot words decoded in word order: the first fault ends it. -/
def decodeItems (dbeat : BitVec 16) : List Item → Except Report (List SlotInstr)
  | [] => .ok []
  | it :: rest => match decodeDoubled it.slot it.word it.pay it.pfx it.dup dbeat with
    | .error (r, late) => .error (wordReport 0x01 r (if late then it.off + 4 else it.off) (if late then it.pay.getD 0 else it.word) it.slot.code)
    | .ok i => match decodeItems dbeat rest with
      | .error r => .error r
      | .ok l => .ok ((it, i) :: l)

/-- The second instruction of the first pair that must not share a bundle. (DEDUCED, log entry 26.) -/
def clashing {α : Type} (bad : α → α → Bool) : List α → List α → Option α
  | _, [] => none
  | before, x :: rest => if before.any fun y => bad y x then some x else clashing bad (before ++ [x]) rest

/-- A fault of a whole bundle, at the second slot word concerned (R212). -/
def bundleReport (reason : Nat) (x : SlotInstr) : Report := wordReport 0x01 reason x.1.off x.1.word x.1.slot.code

/-- Whether two lists of numbers share one. -/
def meet (a b : List Nat) : Bool := a.any fun x => b.contains x

/-- The port fields of 4 bits from a bit of a word: n of them. -/
def portCodes (w low n : Nat) : List Nat := (List.range n).map fun k => bits w (low + 4 * k + 3) (low + 4 * k)

/-- The scalar ports of a bundle: the slot code of each (R100). -/
def Cur.scalarAllot (c : Cur) : List Nat := match c.ext with
  | some x => portCodes x.toNat 2 6
  | none => [0, 0, 1, 1, 6, 7]

/-- Whether a port code is one of the reserved ones (R99). -/
def portReserved (k : Nat) : Bool := decide (10 ≤ k) && decide (k ≤ 14)

/-- A reserved port code in the header, or else in the extended word (reason 0x0009). -/
def Cur.portFault (c : Cur) : Option Report :=
  if (portCodes c.tport 0 4).any portReserved then some (wordReport 0x01 9 0 c.head 15)
  else match c.ext with
    | some x => if (portCodes x.toNat 2 6).any portReserved then some (wordReport 0x01 9 4 x 15) else none
    | none => none

/-- The tile ports that a slot takes for n sources, in ascending port order (R99). -/
def Cur.tileTaken (c : Cur) (slot n : Nat) : List Nat :=
  (((portCodes c.tport 0 4).zipIdx.filter fun x => x.1 == slot).map (·.2)).take n

/-- The port fault of one slot instruction, or that its slot is occupied (R93, R99, R100, R212). -/
def Bay.slotFault (b : Bay) (now : Nat) (c : Cur) (x : SlotInstr) : Option Report :=
  let k := x.1.slot.code
  let taken := c.tileTaken k (Instr.tilePorts x.2)
  let scalar := (c.scalarAllot.filter (· == k)).length
  let rep (v : Nat) : Option Report := some ⟨0x02, BitVec.ofNat 64 v, 0, 0, 0⟩
  if now < Tbl.get 0 b.slotBusy k then rep (k + 32)
  else if taken.length < Instr.tilePorts x.2 ∨ taken.any (fun p => decide (now < Tbl.get 0 b.portBusy p)) then rep k
  else if scalar < Instr.scalarPorts x.2 then rep (k + 16)
  else none

/-- The stamps of a bundle. -/
def stampsOf (l : List SlotInstr) : List SlotInstr := l.filter fun x => (Instr.stamp x.2).isSome

/-- Steps 3 to 5 of R213. -/
def State.bundleFault (s : State) (l : List SlotInstr) : Option Report :=
  match clashing (fun x y => meet (Instr.clashes x.2) (Instr.clashes y.2)) [] l with
  | some x => some (bundleReport 0x0A x)
  | none => match clashing (fun x y => Instr.stamp x.2 != Instr.stamp y.2) [] (stampsOf l) with
    | some x => some (bundleReport 0x0B x)
    | none => match s.cur.portFault with
      | some r => some r
      | none => match l.findSome? fun x => s.here.slotFault s.now s.cur x with
        | some r => some r
        | none => if s.here.handler then none
            else (l.find? fun x => Instr.privileged x.2).map fun x => wordReport 0x16 0 x.1.off x.1.word x.1.slot.code

/-! ## Execution in slot order (R107, R213) -/

/-- The machine about to execute a slot instruction. -/
def State.atSlot (s : State) (x : SlotInstr) : State := s.updCur fun c => { c with slot := x.1.slot.code }

/-- The values of the scalar sources that use a port, in operand order (R372). -/
def State.operands (s : State) (i : Instr) : List Word :=
  ((Instr.scalars i).zipIdx.filter fun (x : Reg × Nat) => x.1 != 0).map fun (x : Reg × Nat) => s.readS x.1 x.2

/-- The entries and commands of the issuing bay that are newer than a number keep their operands for a context save. -/
def State.keepOps (s : State) (old : Nat) (ops : List Word) : State :=
  let bay := s.cur.bay
  let new := s.here.opCount
  if new = old then s
  else
    let fit (id : Nat) : Bool := decide (old < id)
    let beat (own : Bool) (e : BEntry) : BEntry := if (own || e.bay == bay) && fit e.id && e.item == s.item then { e with ops := ops } else e
    let s1 := s.upd fun b =>
      { b with
        sq := b.sq.map fun (x : Nat × List SEntry) =>
          (x.1, x.2.map fun (e : SEntry) => if fit e.id then { e with ops := ops } else e)
        transit := b.transit.map (beat true)
        bq := b.bq.map (beat false) }
    if s.cur.slot = Slot.e.code then ((List.range (new - old)).map (old + 1 + ·)).foldl
      (fun s id => s.mapCmd bay id fun c => { c with ops := ops }) s1
    else s1

/-- The instructions whose precise faults re-enter the handler (R364). -/
def Instr.ofHandler (i : Instr) : Bool :=
  match i with
  | .ctxsv _ | .ctxld _ | .frz _ | .tlbinv _ _ => true
  | _ => false

/-- What remains to be done after a slot instruction: its operands are kept, and its holds are set beside those of the slots
before it. -/
def State.afterSlot (t s : State) (x : SlotInstr) : State :=
  let mine : Bool := s.here.handler && s.cur.fault.isNone && t.cur.fault.isSome && Instr.ofHandler x.2
  (t.keepOps s.here.opCount (s.operands x.2)).updCur fun c =>
    { c with asked := c.asked ++ [c.holds], holds := [], again := c.again || mine }

/-- The slot instructions are executed in slot order. -/
def State.runSlots : List SlotInstr → State → Out
  | [], s => .next s
  | x :: rest, s => match exec x.2 (s.atSlot x) with
    | .next t => State.runSlots rest (t.afterSlot (s.atSlot x) x)
    | o => o

/-! ## Holds (R96, R98, R213 step 8) -/

/-- A held-register fault. -/
def heldReport (reg code : Nat) : Report := ⟨0x05, BitVec.ofNat 64 (reg % 1024 + code * 4096), 0, 0, 0⟩

/-- The first register of a list that is held, as a fault. -/
def Bay.heldFault (b : Bay) (now : Nat) (destOnly : Bool) (regs : List Nat) : Option Report :=
  (regs.find? fun r => b.held now r destOnly).map fun r => heldReport r 0

/-- The fault of placing a hold (R96, R98). -/
def Bay.holdFault (b : Bay) (now : Nat) (h : Hold) : Option Report :=
  if h.dest then b.heldFault now false h.regs
  else match b.heldFault now true h.regs with
    | some r => some r
    | none => (h.regs.find? fun r => decide (255 ≤ b.sourceHolds now r)).map fun r => heldReport r 2

/-- Holds placed one after the other, up to the first fault. -/
def Bay.placeHolds (b : Bay) (now : Nat) : List Hold → Except Report Bay
  | [] => .ok b
  | h :: rest => match b.holdFault now h with
    | some r => .error r
    | none => ({ b with holds := b.holds ++ [h] } : Bay).placeHolds now rest

/-- The held-register fault of a bundle, slot by slot: what its short instructions read and write is held against the holds
that stand, and the holds that it asks for against those and against one another. (DEDUCED, log entry 57.) (DEDUCED, log entry 123.) -/
def Bay.bundleHolds (b0 : Bay) (now : Nat) : Bay → List (SlotInstr × List Hold) → Except (Report × Bool) Bay
  | b, [] => .ok b
  | b, (x, hs) :: rest =>
    match (b0.heldFault now true (Instr.holdReads x.2)).or (b0.heldFault now false (Instr.holdWrites x.2)) with
    | some r => .error (r, b0.handler && Instr.ofHandler x.2)
    | none => match b.placeHolds now hs with
      | .error r => .error (r, b0.handler && Instr.ofHandler x.2)
      | .ok b1 => Bay.bundleHolds b0 now b1 rest

/-- Two slot words that write one register or row, when the rows that a long operation writes come from a descriptor (R91). (DEDUCED, log entry 122.) -/
def destClash (l : List (SlotInstr × List Hold)) : Option Report :=
  let w (x : SlotInstr × List Hold) : List Nat := Instr.clashes x.1.2 ++ (x.2.filter (·.dest)).flatMap (·.regs)
  (clashing (fun x y => meet (w x) (w y)) [] l).map fun x => bundleReport 0x0A x.1

/-- The clash of the rows that the slot instructions of a bundle would hold as destinations. -/
def State.rowClash (s : State) (l : List SlotInstr) : Option Report :=
  match s.runSlots l with
  | .next t => destClash (l.zip t.cur.asked)
  | _ => none

/-- The slot instructions of the words that could be fetched, or the fault at which decoding stops: a word after it is not reached, nor
is a payload that could not be fetched while its first word is right (R192). -/
def State.wordsRead (s : State) : Except Report (List SlotInstr) :=
  match decodeItems (s.here.dbeat.truncate 16) s.cur.items with
  | .error r => if s.cur.half && decide ((s.cur.items.getLast?.map fun it => it.off + 4) = some r.i1.toNat) then .ok [] else .error r
  | .ok l => .ok l

/-- A bundle read as far as its words and its ports go: its slot instructions, or its first fault; two rows that descriptors
name twice come before the other faults of a whole bundle (R213 step 3). -/
def State.readBundle (s : State) : Except Report (List SlotInstr) :=
  match s.wordsRead with
  | .error r => .error r
  | .ok l => match s.cur.wordFault with
    | some r => .error r
    | none => match s.bundleFault l with
      | some r => .error (if r.i0 = 0x0A then r else (s.rowClash l).getD r)
      | none => .ok l

/-- Whether the slot word that a fault of the words of a bundle names is one whose precise faults re-enter the handler (R364): an
opcode of CTXSV, CTXLD, TLBINV or FRZ in the C slot. -/
def State.reenters (s : State) (r : Report) : Bool :=
  let slot := if r.cause = 0x02 then r.i0.toNat % 16 else r.i3.toNat
  s.here.handler && (r.cause == 0x01 || r.cause == 0x02) && slot == Slot.c.code
    && s.cur.items.any fun it => it.slot == .c && [0x33, 0x34, 0x35, 0x36].contains (it.word.toNat / 4 % 64)

/-! ## How a bundle ends -/

/-- The bay goes on from its issue point with nothing in hand. -/
def State.clearCur (s : State) : State := { s with cur := ({ } : Cur) }

/-- A precise fault: nothing of the bundle issues, and the trap is taken (R213, R365). A poisoned word is reported, and the
bundle is tried again; one whose walk waits for a line of the host (`tryAgain`) is tried again too. -/
def State.precise (s : State) (r : Report) (again : Bool := false) : State :=
  let bay := s.cur.bay
  let s1 := s.clearCur
  if r = tryAgain then s1.onBay bay fun b => { b with nextAt := s.now + 1 }
  else if r.cause = 0x14 then
    (s1.report bay (s.bay bay).uid r (s.bay bay).handler).onBay bay fun b => { b with nextAt := s.now + 1 }
  else (s1.lostLease r).trap bay r s.cur.pc again

/-- A bundle that does not issue on this cycle. -/
def State.holdBack (s : State) (at_ : Nat) : State :=
  (s.upd fun b => { b with nextAt := at_, waiting := true }).clearCur

/-- A wait bundle whose condition does not hold yet (R288, R289, R292). -/
def State.keepWaiting (s : State) (w : Wait) : State :=
  match w with
  | .plain => s.holdBack (s.now + 1)
  | .sampled seen => (s.upd fun b => { b with waitSeen := if seen then some s.now else none }).holdBack (s.now + 1)
  | .bar sc =>
    let b := s.here
    (if !b.arrived && b.barFence.isNone then s.placeMarkers 0xFFFF sc true else s).holdBack (s.now + 1)

/-- A table of busy cycles with keys busy until a cycle. -/
def busyUntil (t : Tbl Nat) (keys : List Nat) (until_ : Nat) : Tbl Nat := keys.foldl (fun t k => Tbl.set 0 t k until_) t

/-- The slots and ports that the .t forms of a bundle keep (R93). (DEDUCED, log entry 124.) -/
def State.occupy (s : State) (l : List SlotInstr) : State :=
  l.foldl (fun t x =>
    let n := s.occupancy x.2
    if n ≤ 1 then t
    else t.upd fun b => { b with
      slotBusy := busyUntil b.slotBusy [x.1.slot.code] (s.now + n)
      portBusy := busyUntil b.portBusy (s.cur.tileTaken x.1.slot.code (Instr.tilePorts x.2)) (s.now + n)
      drainAt := max b.drainAt (s.now + n) }) s

/-- The cycle from which the next bundle may reach its issue point (R195). (DEDUCED, log entry 126.) -/
def Bay.gapEnd (b : Bay) (now gap : Nat) : Nat := if gap = 7 then max (now + 1) b.drainAt else now + 1 + gap

/-- The bundle has issued: the bay stands at the next one (R195, R280). -/
def State.retire (s : State) (l : List SlotInstr) : State :=
  let c := s.cur
  if s.here.task.isNone then s.clearCur
  else
    let isEret : Bool := l.any fun x => match x.2 with
      | .eret => true
      | _ => false
    ((s.occupy l).upd fun b => { b with
      pc := c.next.getD (c.pc + c.len)
      from_ := if isEret then 0 else c.pc
      checkTarget := c.next.isSome
      nextAt := max b.nextAt (b.gapEnd s.now c.gap)
      stopTo := max b.stopTo (b.gapEnd s.now c.gap)
      due := c.after
      waiting := false
      waitSeen := none }).clearCur

/-- What the fold over the slots has found, in the order of R213, rows that clash first and then from step 6 on; nothing stands when there is a fault. -/
def State.settle (s t : State) (l : List SlotInstr) (late : Option (Nat × Nat)) : State :=
  let asked := l.zip (t.cur.asked ++ List.replicate (l.length - t.cur.asked.length) [])
  match destClash asked with
  | some r => s.precise r (s.reenters r)
  | none => match t.cur.fault with
    | some r => s.precise r t.cur.again
    | none => match late with
      | some (st, k) => s.precise ⟨0x06, BitVec.ofNat 64 st, BitVec.ofNat 64 k, 0, 0⟩
      | none => match s.here.bundleHolds s.now s.here asked with
        | .error (r, again) => s.precise r again
        | .ok _ => match t.cur.late with
          | some r => s.precise r
          | none =>
            let live (h : Hold) : Bool := match h.ends with
              | none => true
              | some e => decide (s.now ≤ e)
            (t.upd fun b => { b with holds := b.holds.filter live ++ (t.cur.asked.flatten.filter fun h => !h.regs.isEmpty) }).retire l

/-- The issue of a bundle that has reached its issue point: its stamp, the slot instructions of `run`, which are all of it
or those before a wait that cannot be tried, and how it ends. -/
def State.issueRun (s : State) (l run : List SlotInstr) : Out :=
  let stamp := l.findSome? fun x => Instr.stamp x.2
  let at_ (st : Nat) : Int := s.here.fb + st
  let early := match stamp with
    | some st => decide ((s.now : Int) < at_ st)
    | none => false
  if early then .next (s.holdBack (at_ (stamp.getD 0)).toNat)
  else
    let late := match stamp with
      | some st => if at_ st < s.now then some (st, (s.now - at_ st).toNat) else none
      | none => none
    match s.runSlots run with
    | .next t => .next (s.settle t l late)
    | o => o

/-- The issue of a bundle that has reached its issue point, once its wait allows. -/
def State.issueBundle (s : State) (l : List SlotInstr) : Out := s.issueRun l l

/-- Whether a bundle that still waits for words stops at one that it has (R192). -/
def State.wordsWrong (s : State) : Bool := match s.wordsRead with
  | .error _ => true
  | .ok _ => false

/-- The bundle in hand issues, waits, or is refused with its first fault. A wait that faults, or whose source is held, ends
the bundle by the order of R213: the operand faults of the other slots and the stamp come before the held register. (DEDUCED, log entry 125.) -/
def State.issueCur (s : State) : Out :=
  match s.readBundle with
  | .error r => .next (s.precise r (s.reenters r))
  | .ok l => match l.find? fun x => Instr.isWait x.2 with
    | none => s.issueBundle l
    | some x =>
      match s.here.heldFault s.now true (Instr.holdReads x.2) with
      | some _ => s.issueRun l (l.filter fun y => !Instr.isWait y.2)
      | none => match exec x.2 (s.atSlot x) with
        | .next t => match t.cur.fault, t.cur.wait with
          | none, some w => .next (t.keepWaiting w)
          | _, _ => s.issueBundle l
        | o => o

/-! ## Replay after a restore (R373 step 5) -/

/-- The slot of a code. -/
def slotOf (k : Nat) : Option Slot := Slot.all.find? fun sl => sl.code == k

/-- The item that a record holds. -/
def Replay.item (r : Replay) : Option Item :=
  (slotOf r.slot).map fun sl =>
    { slot := sl, word := r.word, pay := if wordKind r.word = 1 then some r.pay else none
      pfx := r.pfx.foldl (fun p w => (decodePfx w p).getD p) .empty, off := 0 }

/-- The command fields of an instruction of the E slot. -/
def Instr.eop (i : Instr) : Option EOp :=
  match i with
  | .xred o | .xred64 o _ | .xsrt o | .xsrt64 o _ | .xmrg o | .xmrg64 o _ | .xsolv o | .xsolv64 o _ | .xcoll o
  | .xcoll64 o _ | .xqnt o | .xqnt64 o _ | .xcmp o | .xcmp64 o _ | .xdcmp o | .xdcmp64 o _ | .xatt o | .xatt64 o _
  | .xkvt o | .xkvt64 o _ | .xsplc o | .xsplc64 o _ | .xsplcDone o | .xsplcDone64 o _ => some o
  | _ => none

/-- A command whose lease is lost writes its completion word with STATUS 2 (R373). -/
def State.lostCommand (s : State) (o : EOp) (ops : List Word) : State :=
  match s.wordAddr o.wg (s.readS o.c 3) with
  | .error _ => s
  | .ok word =>
    let (id, s1) := s.newOp
    let w : Engine := .btx s.cur.bay wordCh
    s1.setCmds w (s1.cmds w ++ [{ s1.newCmd o .xred 0 0 id word ops with result := some (2, 0), next := s.now + 1 }])

/-- The bay as the instruction of a record finds it: its operands in their registers, and DBEAT so that its tag comes out. (DEDUCED, log entry 130.) -/
def Bay.forReplay (b : Bay) (i : Instr) (r : Replay) (p : Pfx) : Bay :=
  let regs := (Instr.scalars i).filter (· != 0)
  let off := match p.beat with
    | some k => k.toNat
    | none => 0
  let b1 : Bay := { b with pends := [], handler := false, dbeat := BitVec.ofNat 64 ((r.tag + 65536 - off) % 65536) }
  (regs.zip r.ops).foldl (fun b (x : Reg × Word) => b.setScalar false x.1.toNat x.2) b1

/-- One record is issued again. -/
def State.reissueOne (s : State) (bay : Nat) (r : Replay) : State :=
  match r.item with
  | none => s
  | some it =>
    let tag := BitVec.ofNat 16 (r.tag + 65536 - (match it.pfx.beat with
      | some k => k.toNat
      | none => 0))
    match decodeSlot it.slot it.word it.pay it.pfx tag with
    | .error _ => s
    | .ok i =>
      let b := s.bay bay
      let s1 := (s.onBay bay fun b => b.forReplay i r it.pfx)
      let s2 : State := { s1 with cur := { bay, slot := it.slot.code, items := [it], live := true } }
      let lost : Bool := r.kind == 3 && (match s2.useHandle (r.ops.headD 0) with
        | .ok _ => false
        | .error _ => true)
      let t := match lost, Instr.eop i with
        | true, some o => s2.lostCommand o r.ops
        | _, _ => match exec i s2 with
          | .next t => t.keepOps b.opCount r.ops
          | _ => s2
      let rep := t.cur.fault.or t.cur.late
      let back := (t.onBay bay fun x => { x with
        pends := b.pends ++ x.pends, handler := b.handler, dbeat := b.dbeat, sreg := b.sreg
        holds := x.holds ++ (if rep.isSome then [] else t.cur.holds.filter fun h => !h.regs.isEmpty) })
      match rep with
      | some x => (back.report bay b.uid x).clearCur
      | none => back.clearCur

/-- Whether a restored task still has instructions to issue again. -/
def Bay.replayDue (b : Bay) : Bool := b.task.isSome && b.save.isNone && b.frozenAt.isNone && !b.empty && !b.replay.isEmpty

/-- The records of a restored task are issued again, in ORDER. (DEDUCED, log entry 129.) -/
def State.reissue (s : State) (bay : Nat) : State :=
  let l := sortBy (fun r => r.order) (s.bay bay).replay
  l.foldl (fun s r => s.reissueOne bay r) (s.onBay bay fun b => { b with replay := [] })

end

end Sys2Proof.Machine
end

