-- ==== Sys2Proof/Machine/Moves.lean ====
section
/-!
DEFINITION. What the machine does next. On every cycle the agents act in a fixed order, one move at a time: results that land,
homes and engines, the scratch timelines, beats, leases, contexts, the scheduler, the outside, reports, traps, bundles; then
the cycle ends (spec/05_ordering.md R108 to R118; the order inside a cycle where no rule gives one is a design choice).
-/

namespace Sys2Proof.Machine

noncomputable section

/-! ## Looking over the agents -/

/-- The first answer over the listed bays, ascending. -/
def State.firstBay (s : State) (f : Nat → Bay → Option Instr) : Option Instr := s.bays.findSome? fun x => f x.1 x.2

/-- The first bay that a test picks. -/
def State.pickBay (s : State) (ok : Nat → Bay → Bool) (i : Nat → Instr) : Option Instr :=
  s.firstBay fun k b => if ok k b then some (i k) else none

/-- The first die that a test picks. -/
def State.pickDie (s : State) (ok : Nat → Die → Bool) (i : Nat → Instr) : Option Instr :=
  (List.range 4).findSome? fun d => if ok d (s.die d) then some (i d) else none

/-- The first partition that a test picks. -/
def State.pickPart (_s : State) (ok : Nat → Bool) (i : Nat → Instr) : Option Instr :=
  (List.range 4).findSome? fun p => if ok p then some (i p) else none

/-- The first engine that a test picks. -/
def State.pickEngine (s : State) (ok : Engine → Bool) (i : Engine → Instr) : Option Instr :=
  s.engines.findSome? fun e => if ok e then some (i e) else none

/-- The first lease record that a test picks. -/
def State.pickLease (s : State) (ok : Nat → Lease → Bool) (i : Nat → Nat → Instr) : Option Instr :=
  s.dies.findSome? fun (x : Nat × Die) => x.2.leases.findSome? fun (y : Nat × Lease) => if ok y.1 y.2 then some (i x.1 y.1) else none

/-- The first tack engine that a test picks. -/
def State.pickUnit (s : State) (ok : Die → Eng → Bool) (i : Nat → Nat → Instr) : Option Instr :=
  s.dies.findSome? fun (x : Nat × Die) => x.2.engines.findSome? fun (y : Nat × Eng) => if ok x.2 y.2 then some (i x.1 y.1) else none

/-- The first node that a test picks. -/
def State.pickNode (s : State) (ok : Nat → Node → Bool) (i : Nat → Instr) : Option Instr :=
  s.pkg.nodes.findSome? fun (x : Nat × Option Node) => match x.2 with
    | some n => if ok x.1 n then some (i x.1) else none
    | none => none

/-- The first gang that a test picks. -/
def State.pickGang (s : State) (ok : Nat → Nat → Node → Gang → Bool) (i : Nat → Nat → Instr) : Option Instr :=
  s.pkg.nodes.findSome? fun (x : Nat × Option Node) => match x.2 with
    | some n => n.gangs.findSome? fun (g : Nat × Gang) => if ok x.1 g.1 n g.2 then some (i x.1 g.1) else none
    | none => none

/-! ## The groups of moves of one cycle -/

/-- Whether the next access of an engine's command is a write, which precedes the samples of its cycle (R95, R112). -/
def State.writesNext (s : State) (e : Engine) : Bool :=
  match s.performable e with
  | some c => match c.todo with
    | .write _ _ _ :: _ => true
    | _ => false
  | none => false

/-- The access that an engine makes next at a home, with the issuing bay and the number of its command: a completion word or an
access of global or host memory. -/
def State.homeNext (s : State) (e : Engine) : Option (Nat × Nat × Instr) :=
  let word : Option Cmd := (s.finishable e).or ((s.earlyWord e).map (·.2))
  match word.filter (·.wg) with
  | some c => some (c.bay, c.id, .engineCmdFinish e)
  | none => match s.performable e with
    | some c => match c.todo.head? with
      | some (.read a _) | some (.write a _ _) =>
        if a.space = 0 ∨ a.space = 4 then some (c.bay, c.id, .engineAccessPerform e) else none
      | _ => none
    | none => none

/-- The next access that reaches its destination from a bay: its task's entries in the order of their issue, then the accesses of its
commands in the order in which they were accepted (R114). -/
def State.bayHome (s : State) (cmds : List (Nat × Nat × Instr)) (k : Nat) : Option Instr :=
  let es := (s.bay k).sq.filterMap fun (x : Nat × List SEntry) => (s.deliverable k x.1).map fun e => (e.id, x.1)
  match (sortBy (fun (x : Nat × Nat) => x.1) es).head? with
  | some x => some (.streamDeliver k x.2)
  | none => ((sortBy (fun (x : Nat × Nat × Instr) => x.2.1) (cmds.filter fun x => x.1 == k)).head?).map fun x => x.2.2

/-- Results that land, acknowledgements, fence markers, the accesses that reach their homes by ascending bay (R114), the other writes
of engines and completion words. (DESIGN CHOICE, log entry 29.) -/
def State.homeMove (s : State) : Option Instr :=
  (s.pickBay (fun k _ => s.landDue k) fun k => .shortOpLand k).or <|
  (s.pkg.acks.findSome? fun a => if a.at_ ≤ s.now then some (.hostAck a.line) else none).or <|
  (s.pickBay (fun k b => b.fences.any fun f => s.fenceReady k f) fun k => .fenceMarkerLeave k).or <|
  (s.firstBay fun k _ => s.bayHome (s.engines.filterMap s.homeNext) k).or <|
  (s.pickEngine (fun e => (s.earlyWord e).isSome) fun e => .engineCmdFinish e).or <|
  (s.pickEngine (fun e => s.writesNext e) fun e => .engineAccessPerform e).or <|
  (s.pickEngine (fun e => (s.finishable e).isSome) fun e => .engineCmdFinish e)

/-- The scratch timelines, the starts and reads of engines, and the arrivals of attention. -/
def State.scratchMove (s : State) : Option Instr :=
  (s.pickBay (fun _ b => b.swrites.any fun w => decide (w.due ≤ s.now)) fun k => .scratchWriteApply k).or <|
  (s.pickBay (fun _ b => b.samples.any fun x => decide (x.due ≤ s.now)) fun k => .scratchLoadSample k).or <|
  (s.pickEngine (fun e => (s.startable e).isSome) fun e => .engineCmdStart e).or <|
  (s.pickEngine (fun e => (s.nextEntry e).any fun x => decide (x.2.2.2 ≤ s.now)) fun e => .attnEntrySample e).or <|
  (s.engines.findSome? fun e => match s.awaited e, s.headCmd e with
    | k :: _, some c => if c.next ≤ s.now then some (.attnTripleArrive e k) else none
    | _, _ => none).or <|
  (s.pickEngine (fun e => (s.performable e).isSome) fun e => .engineAccessPerform e).or
  (s.engines.findSome? fun e => match e, s.headCmd e with
    | .btx bay ch, some c =>
      if c.todo.head? = some .pop ∧ c.started.isSome ∧ c.popped + 256 < s.now ∧ ch < 8
        ∧ (Tbl.get Channel.reset (s.bay bay).btx ch).queue = [] then some (.indexPopTimeout bay ch) else none
    | _, _ => none)

/-- Periods of TIME, beats, refresh, in-array work and beat queues. -/
def State.arrayMove (s : State) : Option Instr :=
  (s.pickPart (fun p => s.periodDue p) fun p => .timePeriodBoundary p).or <|
  (s.pickDie (fun _ d => decide (1840 ≤ d.temp) && d.thermal != 3) fun d => .thermalT3Entry d).or <|
  (s.pickDie (fun _ d => d.rfend != 0 && decide (d.rfend ≤ s.now)) fun d => .refreshWindowEnd d).or <|
  (s.pickPart (fun p => s.closable p) fun p => .beatClose p).or <|
  (s.pickDie (fun _ d => decide (d.rfnext ≤ s.now)) fun d => .refreshDue d).or <|
  (s.pickBay (fun k _ => s.commitDue k) fun k => .arrayCommitPoint k).or <|
  (s.pickBay (fun _ b => b.running.any fun r => r.op.any fun o => decide (o.steps ≤ r.done)) fun k => .arrayOpComplete k).or <|
  (s.pickBay (fun k _ => s.arrayMayStart k) fun k => .arrayOpStart k).or <|
  (s.pickBay (fun k _ => (s.awriteDue k).isSome) fun k => .awritePieceSample k).or <|
  (s.firstBay fun k b => (b.bq.find? fun e => s.servable k e).map fun e => .beatLoadServe k e.id).or <|
  (s.firstBay fun k b => (b.transit.find? fun e => decide (e.due ≤ s.now)).map fun e => .beatQueueArrival k e.id).or <|
  (s.firstBay fun k b => (b.landing.find? fun x => decide (x.due ≤ s.now)).map fun x => .remoteLoadLand k x.id).or <|
  (s.pickBay (fun _ b => b.tmmas.head?.any fun t => decide (t.start + 1032 ≤ s.now)) fun k => .tmmaComplete k).or <|
  (s.pickBay (fun k _ => s.overrunDue k) fun k => .beatOverrun k).or
  (s.pickBay (fun _ b => b.plans.head?.any fun x => decide (x.2.1 + 2 ≤ s.now)) fun k => .bplanTableSample k)

/-- Leases and the power states of tack engines: a lease that is late is withdrawn before a grant (R149). -/
def State.leaseMove (s : State) : Option Instr :=
  (s.pickLease (fun _ l => l.late s.now) fun d i => .leaseDeadlinePass d i).or <|
  (s.pickDie (fun k d => decide (d.grantAt ≤ s.now) && (s.nextGrant k).isSome) fun d => .leaseGrant d).or <|
  (s.pickLease (fun _ l => l.state == 2 && decide (l.readyAt ≤ s.now)) fun d i => .leaseWakeComplete d i).or <|
  (s.pickLease (fun _ l => l.notice.any fun x => decide (x.1 ≤ s.now)) fun d i => .evictionGraceEnd d i).or <|
  (s.pickUnit (fun d x => x.power == 1 && x.reserved.isNone && !x.saddled && decide (x.since + d.drowsyhold.toNat ≤ s.now))
    fun d u => .drowsyHoldExpire d u).or
  (s.pickUnit (fun _ x => x.power == 0 && x.reserved.isSome && decide (x.since ≤ s.now)) fun d u => .reservedEngineDrowsy d u)

/-- Saves and restores. -/
def State.contextMove (s : State) : Option Instr :=
  (s.pickBay (fun k _ => s.saveDue k) fun k => .contextDrainExpire k).or <|
  (s.pickGang (fun id k n g => g.state == 2 && !n.dying && (s.gangOn id k).any fun b => (s.bay b).mustSave)
    fun id k => .preemptSave id k).or
  (s.pickGang (fun id k n g => g.state == 4 && !n.dying && s.restoreOpen id n k) fun id k => .contextRestore id k)

/-- A node whose DEP has been met moves on when the cycle ends: a kill on the cycle comes first (R340). -/
def State.metMove (s : State) : Option Instr := s.pickNode (fun _ n => n.state == 1 && n.met && !n.dying) fun id => .nodeDepReached id

/-- Whether a WAITING node has reached DEP ≤ 0 since the last move. -/
def State.depsDue (s : State) : Bool := s.pkg.nodes.any fun x => x.2.any s.depNews

/-- The region scheduler. -/
def State.schedMove (s : State) : Option Instr :=
  (s.pickPart (fun p => s.scanDue p) fun p => .schedChildScan p).or <|
  (s.pickNode (fun id _ => s.scanDue id) fun id => .schedChildScan id).or <|
  (s.pickBay (fun k _ => s.taskOver k) fun k => .taskEnd k).or <|
  (s.pickNode (fun id n => s.nodeDone id n) fun id => .nodeComplete id).or <|
  (s.pickDie (fun k _ => s.placeDue k) fun d => .gangPlace d).or
  (s.pickDie (fun k _ => !(s.preemptNow k).isEmpty) fun d => .class0Preempt d)

/-- Time limits outside the bays. -/
def State.limitMove (s : State) : Option Instr :=
  (s.pkg.rounds.findSome? fun x => if s.roundLate x then some (.collRoundTimeout x.group) else none).or <|
  (s.pkg.links.findSome? fun (x : Nat × Link) =>
    if x.2.replayLate s.now then some (.jexvikReplayTimeout x.1) else none).or <|
  if s.pkg.fwDue.any fun t => decide (t ≤ s.now) then
    (if s.fwState = 1 then some .fwVerifyComplete else if s.fwState = 2 then some .fwWriteComplete else none)
  else none

/-- Reports that reach their tasks, those of the lowest cause first (R366), and traps. (DEDUCED, log entry 98.) (DEDUCED, log entry 127.) -/
def State.trapMove (s : State) : Option Instr :=
  ((sortBy (fun m => m.rep.cause) (s.pkg.outbox.filter fun m => s.mailDue m)).head?.map fun m => .reportArrive m.bay m.rep).or
  (s.pickBay (fun _ b => b.task.isSome && !b.stopped && b.save.isNone && b.trapWaits) fun k => .trapTake k)

/-! ## What comes from outside -/

/-- The steps that the outside world makes. -/
def Instr.fromOutside (i : Instr) : Bool :=
  match i with
  | .rgnkillWrite _ _ | .preemptWrite _ _ | .partcfgGo _ | .keyctlGo _ | .keyctlZap _ | .fwctlGo _ | .fwctlRecover _
  | .bformWrite _ _ | .raserrRead _ | .registerWrite _ _ | .pageRequestResponse _ _ _ _ | .hostRequestArrive _
  | .hostSnoop _ | .backInvalidateResponse _ _ | .upstreamPortDown _ | .hostPortUp _ | .downstreamPortDown _
  | .jexvikFlitReceive _ _ | .collContributionArrive _ | .getVersion _ | .getCapabilities _ | .negotiateAlgorithms _
  | .getDigests _ | .getCertificate _ | .challenge _ | .getMeasurements _ | .dieReady _ | .expandersReady _
  | .jexvikTrained | .keysReady | .eccUncorrectable _ | .eccCorrected _ | .powerFail | .hostCxlCacheResponse _ => true
  | _ => false

/-- The steps of the outside that a cycle begins with: writes of system registers, whose effects hold throughout it (R295), among
them those of RGNKILL, which come before all that a node does on the same cycle (R340). -/
def Instr.early (i : Instr) : Bool :=
  match i with
  | .rgnkillWrite _ _ | .preemptWrite _ _ | .bformWrite _ _ | .registerWrite _ _ => true
  | _ => false

/-- The first input that is due and satisfies a test, and the inputs without it. (DESIGN CHOICE, log entry 12.) -/
def takeInput (now : Nat) (ok : Instr → Bool) : List (Nat × Instr) → Option (Instr × List (Nat × Instr))
  | [] => none
  | x :: rest => if decide (x.1 ≤ now) && ok x.2 then some (x.2, rest)
    else (takeInput now ok rest).map fun (y : Instr × List (Nat × Instr)) => (y.1, x :: y.2)

/-! ## The next move -/

/-- The steps of the machine that are due after the inputs of a cycle, by the order inside a cycle; the accesses at their homes
come before the inputs, those of the host among them last (R114). -/
def State.dueStep (s : State) : Option Instr :=
  s.scratchMove.or <| s.arrayMove.or <| s.leaseMove.or <| s.contextMove.or <| s.schedMove.or s.limitMove

/-- An input is taken: a step of the outside is made, anything else is dropped. -/
def State.takes (s : State) (x : Instr × List (Nat × Instr)) : Out :=
  let s1 : State := { s with inputs := x.2 }
  if Instr.fromOutside x.1 then exec x.1 s1 else .next s1

/-- The bay whose restored instructions are issued again. -/
def State.replayBay (s : State) : Option Nat := (s.bays.find? fun x => x.2.replayDue).map (·.1)

/-- The bay whose bundle is at its issue point: the lowest. (DESIGN CHOICE, log entry 11.) -/
def State.issueBay (s : State) : Option Nat := (s.bays.find? fun x => s.mayIssue x.1).map (·.1)

/-- The cycle ends: carries counted on it join LATECNT (R59, R228). -/
def State.tick (s : State) : State :=
  { s with
    now := s.now + 1
    bays := s.bays.map fun (x : Nat × Bay) =>
      (x.1, if x.2.lateNow = 0 then x.2 else { x.2 with latecnt := min 0xFFFFFFFF (x.2.latecnt + x.2.lateNow), lateNow := 0 }) }

/-- A bundle at its issue point: its words are fetched, and it issues, waits or faults. -/
def State.issueAt (s : State) (bay : Nat) : Out :=
  match exec (.bundleIssue bay) s with
  | .next t => if t.cur.live || t.wordsWrong then t.issueCur else .next t
  | o => o

/-- One move of the machine: at power-on the ROM runs first (R395). (DESIGN CHOICE, log entry 10.) -/
def State.move (s : State) : Out :=
  if s.pkg.poweron then exec .powerOnReset s
  else match takeInput s.now Instr.early s.inputs with
  | some x => s.takes x
  | none => match s.replayBay with
    | some bay => .next (s.reissue bay)
    | none => if s.depsDue then .next s.noteDeps else if !s.stopsDue.isEmpty then .next s.finishStops else match s.homeMove with
      | some i => exec i s
      | none => match takeInput s.now (fun _ => true) s.inputs with
        | some x => s.takes x
        | none => match s.dueStep.or s.trapMove with
          | some i => exec i s
          | none => match s.issueBay with
            | some bay => s.issueAt bay
            | none => match s.metMove with
              | some i => exec i s
              | none => .next s.tick

/-! ## An instruction placed where the next fetch reads -/

/-- The code address at which a placed instruction stands. -/
def placeVa : Nat := 0x10000

/-- Little-endian words one after the other. -/
def wordBytes (l : List Nat) : List Byte := l.flatMap fun w => leBytes 4 w

/-- The header of a bundle of one slot word, with an extended word, every port allotted to its slot (R193, R194). -/
def placeHeader (sl : Slot) : List Nat :=
  let k := sl.code
  [2 ^ 31 + (k + k * 16 + k * 256 + k * 4096) * 2 ^ 12 + 2 ^ (k + 2) + 3,
   (List.range 6).foldl (fun v i => v + k * 2 ^ (4 * i + 2)) 3]

/-- The bundle that holds one slot word of a slot, with a payload of zeros when its kind asks for one, and a closing header. -/
def placeBundle (sl : Slot) (w : Nat) : List Nat :=
  placeHeader sl ++ [w % 2 ^ 32] ++ (if w % 4 = 1 then [0] else []) ++ [3]

/-- A task that stands on a bay, for a placed instruction. -/
def placeTask : Task :=
  { uid := 0, node := 0, gang := 0, taskid := 0, coord := 0, asid := 0, seed := 0, d := false, cls := 0, part := 0 }

/-- A bundle stored where the next fetch reads: a task on bay 0 whose code page is mapped (R342, R343), the lines of its walk held by
their homes (R381), with the line of the bundle in its instruction cache (R311), at its issue point; in handler mode when the instruction is privileged. The recovery ROM has run. -/
def State.placeFetch (s : State) (w : Nat) : State :=
  let sl := ((tableSlot (BitVec.ofNat 32 w)).map (·.1)).getD .s0
  let priv := ((tableSlot (BitVec.ofNat 32 w)).map fun x => Instr.privileged x.2).getD false
  let put (a : Nat) (l : List Nat) (m : Memory) : Memory := m.store a (wordBytes l)
  let code := placeBundle sl w
  let line := wordBytes (code ++ List.replicate (16 - code.length) 0)
  let mem := put placeVa code (put 0xC000 [0x1C3, 0, 0, 0] (put 0x8000 [0xC001, 0, 0, 0]
    (put 0x4000 [0x8001, 0, 0, 0] (put 0 [0x4001, 0, 0, 0] s.host))))
  { s with
    host := mem
    parts := Tbl.set Part.reset s.parts (s.partOf 0) { s.part (s.partOf 0) with asidtb := 0 }
    bays := Tbl.set Bay.reset s.bays 0
      { (s.bay 0).start placeTask placeVa 0 [] none s.now with
        handler := priv, fresh := false, fb := (s.now : Int), icache := [((false, placeVa / 64), line)], resident := some [] }
    pkg := { s.pkg with poweron := false, sliceShares := s.pkg.sliceShares ++ [0, 256, 512, 768] } }

end

end Sys2Proof.Machine
end

