-- ==== Sys2Proof/Machine/Step.lean ====
section
/-!
DEFINITION. One step of the machine: its next move. A move is one step of an agent on the present cycle, the issue of one
bundle, or the end of the cycle.
-/

namespace Sys2Proof.Machine

/-- One step. -/
noncomputable def step (s : State) : Host.Outcome State Fault Refusal := s.move

/-- The machine with one table word stored where its next step fetches: a bundle of bay 0 that holds it, and nothing else. (DESIGN CHOICE, log entry 8.) -/
noncomputable def State.withFetchWord (s : State) (_nbits w : Nat) : State := s.placeFetch w

end Sys2Proof.Machine
end

