-- ==== Sys2Proof/Safety.lean ====
section
/-!
DEFINITION. What claims about the machine are stated in: the canonical form of its memories, and what a step leaves alone.
-/

namespace Sys2Proof.Machine

/-- Every memory of the machine is in its canonical form: scratch, beat memory, accumulators, host and expander memory. -/
def State.memWf (s : State) : Bool :=
  s.scratch.wf && s.beat.wf && s.acc.wf && s.host.wf && s.expander.wf

/-- An outcome that is a next state, and of which something holds. -/
def Out.completes (o : Out) (P : State → Prop) : Prop := ∃ t, o = .next t ∧ P t

/-- No byte of any memory differs between two states: own and remote scratch, beat memory, accumulators, host and expander
memory. -/
def State.sameBytes (s t : State) : Prop :=
  ∀ a, t.scratch.byte a = s.scratch.byte a ∧ t.beat.byte a = s.beat.byte a ∧ t.acc.byte a = s.acc.byte a ∧
    t.host.byte a = s.host.byte a ∧ t.expander.byte a = s.expander.byte a

/-- Two states hold the same outside the bay b and the bundle record: every other bay, every die and partition, the package
record, every memory, the translations, the inputs and the cycle. -/
def State.sameBut (b : Nat) (s t : State) : Prop :=
  t.now = s.now ∧ (∀ k, k ≠ b → t.bay k = s.bay k) ∧ t.dies = s.dies ∧ t.parts = s.parts ∧ t.pkg = s.pkg ∧
    t.scratch = s.scratch ∧ t.beat = s.beat ∧ t.acc = s.acc ∧ t.host = s.host ∧ t.expander = s.expander ∧
    t.tlb = s.tlb ∧ t.tables = s.tables ∧ t.inputs = s.inputs

/-- Two states of a bay hold the same outside the results in flight (and the cycle by which they have landed). -/
def Bay.sameButFlight (b c : Bay) : Prop := { c with pends := b.pends, drainAt := b.drainAt } = b

/-! ## Scalar results -/

/-- A scalar source that no result in flight makes undefined (R90). -/
def State.settled (s : State) (r : Reg) : Prop := s.here.inWindow s.now (.scalar r.toNat (s.here.bank r.toNat)) = false

/-- The value that a scalar register holds in the bank of the mode (R80, R361). -/
def State.val (s : State) (r : Reg) : Word := s.here.scalar s.here.handler r.toNat

/-- The special registers that a task writes hold the same (R84), STAT apart. -/
def Bay.sameSpecial (b c : Bay) : Prop :=
  c.fmt = b.fmt ∧ c.hfmt = b.hfmt ∧ c.dbeat = b.dbeat ∧ c.beatctl = b.beatctl ∧ c.rqpos = b.rqpos ∧ c.rqposc = b.rqposc ∧
    c.b0 = b.b0 ∧ c.b1 = b.b1 ∧ c.b2 = b.b2 ∧ c.b3 = b.b3

/-- Flags f join the STAT of the mode h (R85). -/
def Bay.gainsFlags (b c : Bay) (h : Bool) (f : Word) : Prop :=
  c.stat = (if h then b.stat else b.stat ||| f) ∧ c.hstat = (if h then b.hstat ||| f else b.hstat)

/-- Every scalar register of two states of a bay agrees, but the register d of the bank of the mode h. -/
def Bay.sameScalars (b c : Bay) (h : Bool) (d : Nat) : Prop :=
  ∀ h' r, r ≠ d ∨ (24 ≤ d ∧ h' ≠ h) → c.scalar h' r = b.scalar h' r

/-- An instruction issued now completes: at every later cycle the landed registers are those of a machine that did not issue it,
but for the scalar register d, which from L cycles on holds v and until then is undefined to its readers, and the flags f of
STAT. A write to s0 is discarded. Nothing else of the machine changes but that a drain waits for the result, also for one that is
discarded (R195). -/
def State.givesScalar (s : State) (o : Out) (d : Reg) (L : Nat) (v : Word) (f : Flags) : Prop :=
  ∃ t, o = .next t ∧ t.cur = s.cur ∧ s.sameBut s.cur.bay t ∧ s.here.sameButFlight t.here ∧ s.now + L ≤ t.here.drainAt ∧
    (d = 0 → f = 0 → t.here.pends = s.here.pends) ∧
    ∀ N, let b := s.here.land N
      let c := t.here.land N
      Bay.sameScalars b c s.here.handler d.toNat ∧ (∀ n, c.row n = b.row n) ∧ Bay.sameSpecial b c ∧
      Bay.gainsFlags b c s.here.handler (if s.now + L ≤ N then f else 0) ∧
      (d ≠ 0 → s.now + L ≤ N → c.scalar s.here.handler d.toNat = v) ∧
      (d ≠ 0 → s.now < N → N < s.now + L → c.inWindow N (.scalar d.toNat (s.here.bank d.toNat)) = true)

end Sys2Proof.Machine
end

