-- ==== Sys2Proof/Certificates/Slice0/Obligations.lean ====
section
/-!
DEFINITION. What the machine must satisfy: the statements for the provers, each from the numbered rules of spec/ that its text names.
-/

open Sys2Proof Sys2Proof.Machine

/-! ## Scalar results (R215 to R227) -/

/-- The two-source integer instructions of R217, R218, R220 and R221 with their latency and their result as a number. -/
def Sys2Proof.Machine.twoSource : List ((Reg → Reg → Reg → Instr) × Nat × (Word → Word → Word)) :=
  [(.add, 1, fun x y => BitVec.ofNat 64 (x.toNat + y.toNat)),
   (.sub, 1, fun x y => BitVec.ofInt 64 (x.toInt - y.toInt)),
   (.mul, 3, fun x y => BitVec.ofInt 64 (x.toInt * y.toInt)),
   (.mulh, 3, fun x y => BitVec.ofInt 64 (x.toInt * y.toInt / (2 ^ 64 : Int))),
   (.mulhn, 3, fun x y => BitVec.ofNat 64 (x.toNat * y.toNat / 2 ^ 64)),
   (.div, 20, fun x y => if y = 0 then BitVec.allOnes 64 else BitVec.ofInt 64 (x.toInt.tdiv y.toInt)),
   (.rem, 20, fun x y => if y = 0 then x else x - BitVec.ofInt 64 (x.toInt.tdiv y.toInt * y.toInt)),
   (.divn, 20, fun x y => if y = 0 then BitVec.allOnes 64 else BitVec.ofNat 64 (x.toNat / y.toNat)),
   (.remn, 20, fun x y => if y = 0 then x else x - BitVec.ofNat 64 (x.toNat / y.toNat * y.toNat)),
   (.min, 1, fun x y => if x.slt y then x else y),
   (.max, 1, fun x y => if x.slt y then y else x),
   (.minn, 1, fun x y => if x.ult y then x else y),
   (.maxn, 1, fun x y => if x.ult y then y else x),
   (.and, 1, fun x y => x &&& y), (.or, 1, fun x y => x ||| y), (.xor, 1, fun x y => x ^^^ y), (.andn, 1, fun x y => x &&& ~~~y),
   (.shl, 1, fun x y => BitVec.ofNat 64 (x.toNat * 2 ^ (y.toNat % 64))),
   (.shrl, 1, fun x y => BitVec.ofNat 64 (x.toNat / 2 ^ (y.toNat % 64))),
   (.shra, 1, fun x y => BitVec.ofInt 64 (x.toInt / 2 ^ (y.toNat % 64))),
   (.rotl, 1, fun x y => BitVec.ofNat 64 (x.toNat * 2 ^ (y.toNat % 64) % 2 ^ 64 + x.toNat / 2 ^ (64 - y.toNat % 64)))]

/-- The two-source integer instructions of the scalar slots (ADD to ROTL of R217, DIV to REMN of R218): the result as R217
and R218 give it, from the cycle of R215 on; every other register, every flag, every special register and every memory stands.

Exec answers a next state here for: add, sub, mul, mulh, mulhn, div, divn, rem, remn, min, max, minn, maxn, and, or, xor, andn, shl,
shrl, shra, rotl. -/
def Obligations.TwoSourceIntegers : Prop :=
  ∀ x ∈ twoSource, ∀ (d b c : Reg) (s : State), s.settled b → s.settled c →
    s.givesScalar (exec (x.1 d b c) s) d x.2.1 (x.2.2 (s.val b) (s.val c)) 0

/-- The field that sc names (R220): position and length. -/
def Sys2Proof.Machine.bitField (c : Word) : Nat × Nat :=
  (c.toNat % 64, min (c.toNat / 2 ^ 8 % 64 + 1) (64 - c.toNat % 64))

/-- The condition codes of R205 on 64-bit integers. -/
def Sys2Proof.Machine.condition (cc : BitVec 3) (x y : Word) : Bool :=
  match cc.toNat with
  | 0 => x == y
  | 1 => x != y
  | 2 => x.slt y
  | 3 => x.sle y
  | 4 => y.slt x
  | 5 => y.sle x
  | 6 => x.ult y
  | _ => y.ule x

/-- ADDSH, CMP.cc, SEL, EXTB, INSB and the one-source counts and reversals (R217, R219 to R221): each result bit by bit or as
a number, one cycle after issue, and nothing else.

The immediate forms of R216, in both their lengths, and MOV (R221): ADDI and LI extend by the sign, ANDI, ORI and XORI by
zeros; the shifts take a count of 0 to 63; LIH replaces bits [63:32] of its register.

Exec answers a next state here for: addi, addi64, addsh, andi, andi64, ori, ori64, xori, xori64, sel, shli, shli64, shrli, shrli64,
shrai, shrai64, cmp, clz, ctz, popc, brev, bswap, extb, insb, li, li64, lih, lih64, mov. -/
def Obligations.FieldsAndImmediates : Prop :=
  (∀ (d b c : Reg) (s : State), s.settled b → s.settled c →
    (∀ k : BitVec 3, s.givesScalar (exec (.addsh d b c k) s) d 1 (BitVec.ofNat 64 ((s.val b).toNat + (s.val c).toNat * 2 ^ k.toNat)) 0) ∧
    (∀ cc, s.givesScalar (exec (.cmp cc d b c) s) d 1 (if condition cc (s.val b) (s.val c) then 1 else 0) 0) ∧
    (∀ k, s.settled k → s.givesScalar (exec (.sel d k b c) s) d 1 (if s.val k = 0 then s.val c else s.val b) 0) ∧
    (∀ sx : Bool,
      let (pos, len) := bitField (s.val c)
      let f : Nat := (s.val b).toNat / 2 ^ pos % 2 ^ len
      s.givesScalar (exec (.extb sx d b c) s) d 1
        (if sx = true ∧ f.testBit (len - 1) = true then BitVec.ofInt 64 ((f : Int) - (2 ^ len : Nat)) else BitVec.ofNat 64 f) 0) ∧
    (s.settled d → ∃ v, s.givesScalar (exec (.insb d b c) s) d 1 v 0 ∧
      ∀ i, i < 64 → let (pos, len) := bitField (s.val c)
        v.getLsbD i = if pos ≤ i ∧ i < pos + len then (s.val b).getLsbD (i - pos) else (s.val d).getLsbD i) ∧
    (∃ n : Nat, s.givesScalar (exec (.clz d b) s) d 1 (BitVec.ofNat 64 n) 0 ∧ n ≤ 64 ∧
      (∀ i, 64 - n ≤ i → i < 64 → (s.val b).getLsbD i = false) ∧ (n < 64 → (s.val b).getLsbD (63 - n) = true)) ∧
    (∃ n : Nat, s.givesScalar (exec (.ctz d b) s) d 1 (BitVec.ofNat 64 n) 0 ∧ n ≤ 64 ∧
      (∀ i, i < n → (s.val b).getLsbD i = false) ∧ (n < 64 → (s.val b).getLsbD n = true)) ∧
    s.givesScalar (exec (.popc d b) s) d 1 (BitVec.ofNat 64 ((List.range 64).countP fun i => (s.val b).getLsbD i)) 0 ∧
    (∃ v, s.givesScalar (exec (.brev d b) s) d 1 v 0 ∧ ∀ i, i < 64 → v.getLsbD (63 - i) = (s.val b).getLsbD i) ∧
    (∃ v, s.givesScalar (exec (.bswap d b) s) d 1 v 0 ∧
      ∀ i, i < 8 → v.toNat / 256 ^ (7 - i) % 256 = (s.val b).toNat / 256 ^ i % 256)) ∧
  (∀ (d b : Reg) (i : BitVec 14) (w : BitVec 32) (s : State), s.settled b →
    s.givesScalar (exec (.addi d b i) s) d 1 (BitVec.ofInt 64 ((s.val b).toInt + i.toInt)) 0 ∧
    s.givesScalar (exec (.addi64 d b w) s) d 1 (BitVec.ofInt 64 ((s.val b).toInt + w.toInt)) 0 ∧
    s.givesScalar (exec (.andi d b i) s) d 1 (s.val b &&& BitVec.ofNat 64 i.toNat) 0 ∧
    s.givesScalar (exec (.andi64 d b w) s) d 1 (s.val b &&& BitVec.ofNat 64 w.toNat) 0 ∧
    s.givesScalar (exec (.ori d b i) s) d 1 (s.val b ||| BitVec.ofNat 64 i.toNat) 0 ∧
    s.givesScalar (exec (.ori64 d b w) s) d 1 (s.val b ||| BitVec.ofNat 64 w.toNat) 0 ∧
    s.givesScalar (exec (.xori d b i) s) d 1 (s.val b ^^^ BitVec.ofNat 64 i.toNat) 0 ∧
    s.givesScalar (exec (.xori64 d b w) s) d 1 (s.val b ^^^ BitVec.ofNat 64 w.toNat) 0 ∧
    (i.toNat < 64 →
      s.givesScalar (exec (.shli d b i) s) d 1 (BitVec.ofNat 64 ((s.val b).toNat * 2 ^ i.toNat)) 0 ∧
      s.givesScalar (exec (.shrli d b i) s) d 1 (BitVec.ofNat 64 ((s.val b).toNat / 2 ^ i.toNat)) 0 ∧
      s.givesScalar (exec (.shrai d b i) s) d 1 (BitVec.ofInt 64 ((s.val b).toInt / 2 ^ i.toNat)) 0) ∧
    (w.toNat < 64 →
      s.givesScalar (exec (.shli64 d b w) s) d 1 (BitVec.ofNat 64 ((s.val b).toNat * 2 ^ w.toNat)) 0 ∧
      s.givesScalar (exec (.shrli64 d b w) s) d 1 (BitVec.ofNat 64 ((s.val b).toNat / 2 ^ w.toNat)) 0 ∧
      s.givesScalar (exec (.shrai64 d b w) s) d 1 (BitVec.ofInt 64 ((s.val b).toInt / 2 ^ w.toNat)) 0) ∧
    s.givesScalar (exec (.li d i) s) d 1 (BitVec.ofInt 64 i.toInt) 0 ∧
    s.givesScalar (exec (.li64 d w) s) d 1 (BitVec.ofInt 64 w.toInt) 0 ∧
    (s.settled d → s.givesScalar (exec (.lih d i) s) d 1 (BitVec.ofNat 64 (i.toNat * 2 ^ 32 + (s.val d).toNat % 2 ^ 32)) 0) ∧
    (s.settled d → s.givesScalar (exec (.lih64 d w) s) d 1 (BitVec.ofNat 64 (w.toNat * 2 ^ 32 + (s.val d).toNat % 2 ^ 32)) 0) ∧
    s.givesScalar (exec (.mov d b) s) d 1 (s.val b) 0)

/-- The FP32 value in bits [31:0] of a register (R222). -/
def Sys2Proof.Machine.fp32 (x : Word) : FV := decodeF 8 (x.toNat % 2 ^ 32)

/-- The machine with n draws claimed by the slot instruction in hand (R107). -/
def Sys2Proof.Machine.State.claimed (s : State) (p : Pfx) (n : Nat) : State :=
  if n = 0 then s
  else if pfxCommon p then
    (s.upd fun b => { b with rqposc := b.rqposc + BitVec.ofNat 64 n }).updCur fun c => { c with drewC := c.drewC + n }
  else (s.upd fun b => { b with rqpos := b.rqpos + BitVec.ofNat 64 n }).updCur fun c => { c with drew := c.drew + n }

/-- A scalar floating-point instruction rounds an exact value once to FP32 (R223): under modes RN to RD at L cycles; under RS
with the next draw of its sequence, which it claims, one cycle later (R107, R222). -/
def Sys2Proof.Machine.State.roundsTo (s : State) (o : Out) (d : Reg) (L : Nat) (p : Pfx) (f : Rnd → Nat → Nat × Flags) : Prop :=
  ∀ r, s.rnd p = some r →
    (r.mode ≠ 4 → s.givesScalar o d L (BitVec.ofNat 64 (f r 0).1) (f r 0).2) ∧
    (r.mode = 4 →
      let u := s.here.drawAt (pfxCommon p) (if pfxCommon p then s.here.rqposc.toNat else s.here.rqpos.toNat)
      (s.claimed p 1).givesScalar o d (L + 1) (BitVec.ofNat 64 (f r u).1) (f r u).2)

/-- FADD, FSUB, FMUL and FFMA form one exact value of their FP32 operands and round it once; FCVT converts (R222, R223, R226).
The flags land with the result; under RS one draw is claimed and the result comes one cycle later.

FMIN, FMAX, FCMP.cc and FCLASS (R224, R225, R227): FMIN and FMAX give the smaller and the larger number with −0 below +0,
a number beside a quiet NaN, and the canonical NaN otherwise; a signalling NaN sets INVALID. FCLASS sets exactly one bit.

Exec answers a next state here for: fadd, fsub, fmul, ffma, fmin, fmax, fcmp, fcvt, fclass. -/
def Obligations.ScalarFloat : Prop :=
  (∀ (d b c e : Reg) (p : Pfx) (s : State), s.settled b → s.settled c → s.settled e →
    let x := fp32 (s.val b)
    let y := fp32 (s.val c)
    let z := fp32 (s.val e)
    let once (r : Rnd) (u : Nat) (v : FV × Flags) : Nat × Flags := ((roundFV 8 r u v.1).1, (roundFV 8 r u v.1).2 ||| v.2)
    s.roundsTo (exec (.fadd d b c p) s) d 4 p (fun r u => once r u (addFV r.mode x y)) ∧
    s.roundsTo (exec (.fsub d b c p) s) d 4 p (fun r u => once r u (addFV r.mode x y.neg)) ∧
    s.roundsTo (exec (.fmul d b c p) s) d 4 p (fun r u => once r u (mulFV x y)) ∧
    s.roundsTo (exec (.ffma d b c e p) s) d 4 p (fun r u => once r u (fmaFV r.mode x y z)) ∧
    (∀ dst src : BitVec 4, (8 ≤ dst.toNat ∨ 8 ≤ src.toNat) →
      s.roundsTo (exec (.fcvt dst src d b p) s) d 3 p fun r u =>
        let v := convert src.toNat dst.toNat r u ((s.val b).toNat % 2 ^ fmtWidth src.toNat)
        (if dst.toNat < 4 then wrap 64 (signed (fmtWidth dst.toNat) v.1) else v.1, v.2)) ∧
    (∀ dst src : BitVec 4, dst.toNat < 8 → src.toNat < 8 → (s.rnd p).isSome →
      ∃ v f, s.givesScalar (exec (.fcvt dst src d b p) s) d 3 v f)) ∧
  (∀ (d b c : Reg) (s : State), s.settled b → s.settled c →
    let x := fp32 (s.val b)
    let y := fp32 (s.val c)
    let sig : Flags := if x.isSig || y.isSig then fInvalid else 0
    (∃ v, s.givesScalar (exec (.fmin d b c) s) d 2 v sig ∧
      (sig ≠ 0 ∨ (x.isNaN ∧ y.isNaN) → v = 0x7FC00000) ∧
      (!x.isNaN → !y.isNaN → (cmpFV x y = .lt → v.toNat = (s.val b).toNat % 2 ^ 32) ∧
        (cmpFV x y = .gt → v.toNat = (s.val c).toNat % 2 ^ 32) ∧
        (cmpFV x y = .eq → v.toNat = if (s.val b).getLsbD 31 then (s.val b).toNat % 2 ^ 32 else (s.val c).toNat % 2 ^ 32)) ∧
      (sig = 0 → x.isNaN → !y.isNaN → v.toNat = (s.val c).toNat % 2 ^ 32) ∧
      (sig = 0 → !x.isNaN → y.isNaN → v.toNat = (s.val b).toNat % 2 ^ 32)) ∧
    (∃ v, s.givesScalar (exec (.fmax d b c) s) d 2 v sig ∧
      (sig ≠ 0 ∨ (x.isNaN ∧ y.isNaN) → v = 0x7FC00000) ∧
      (!x.isNaN → !y.isNaN → (cmpFV x y = .lt → v.toNat = (s.val c).toNat % 2 ^ 32) ∧
        (cmpFV x y = .gt → v.toNat = (s.val b).toNat % 2 ^ 32) ∧
        (cmpFV x y = .eq → v.toNat = if (s.val b).getLsbD 31 then (s.val c).toNat % 2 ^ 32 else (s.val b).toNat % 2 ^ 32)) ∧
      (sig = 0 → x.isNaN → !y.isNaN → v.toNat = (s.val c).toNat % 2 ^ 32) ∧
      (sig = 0 → !x.isNaN → y.isNaN → v.toNat = (s.val b).toNat % 2 ^ 32)) ∧
    (∀ cc, s.givesScalar (exec (.fcmp cc d b c) s) d 2 (if condF cc.toNat x y then 1 else 0) sig) ∧
    (∀ f : BitVec 4, ∃ k, k < 10 ∧ s.givesScalar (exec (.fclass f d b) s) d 2 (BitVec.ofNat 64 (2 ^ k)) 0 ∧
      (f.toNat = 8 → (k = 8 ↔ x.isSig) ∧ (k = 9 ↔ x.isNaN ∧ !x.isSig) ∧ (k = 0 ↔ x = .inf true) ∧ (k = 7 ↔ x = .inf false) ∧
        (k = 3 ∨ k = 4 ↔ x.isZero))))

/-! ## Special registers (R84 to R89, R228, R283 to R285) -/

/-- A special register that a task writes, by its number and the bank of the mode (R84). -/
def Sys2Proof.Machine.Bay.special (b : Bay) (h : Bool) (n : Nat) : Word :=
  match n with
  | 0x000 => if h then b.hstat else b.stat
  | 0x001 => if h then b.hfmt else b.fmt
  | 0x002 => b.dbeat
  | 0x003 => b.beatctl
  | 0x005 => b.rqpos
  | 0x006 => b.rqposc
  | 0x020 => b.b0.extractLsb' 0 64
  | 0x021 => b.b0.extractLsb' 64 64
  | 0x022 => b.b1.extractLsb' 0 64
  | 0x023 => b.b1.extractLsb' 64 64
  | 0x024 => b.b2.extractLsb' 0 64
  | 0x025 => b.b2.extractLsb' 64 64
  | 0x026 => b.b3.extractLsb' 0 64
  | 0x027 => b.b3.extractLsb' 64 64
  | _ => 0

/-- The writable special registers, STAT apart, with the bits that a write reaches and the cycle from which it governs,
counted from issue (R59, R84, R88, R89). -/
def Sys2Proof.Machine.writable : List (Nat × Word × Nat) :=
  [(0x001, 0xFFFF, 5), (0x002, 0xFFFF, 1), (0x003, 0xFFFF0001, 1), (0x005, BitVec.allOnes 64, 1), (0x006, BitVec.allOnes 64, 1),
   (0x020, 0x1FFF, 1), (0x021, BitVec.allOnes 64, 1), (0x022, 0x1FFF, 1), (0x023, BitVec.allOnes 64, 1), (0x024, 0x1FFF, 1),
   (0x025, BitVec.allOnes 64, 1), (0x026, 0x1FFF, 1), (0x027, BitVec.allOnes 64, 1)]

/-- An instruction issued now completes: from L cycles on the special register n of the mode holds v in the bits of a mask and
what it would have held in the others; every other register stands, and nothing else of the machine changes. -/
def Sys2Proof.Machine.State.givesSpecial (s : State) (o : Out) (n L : Nat) (v mask : Word) : Prop :=
  ∃ t, o = .next t ∧ t.cur = s.cur ∧ s.sameBut s.cur.bay t ∧ s.here.sameButFlight t.here ∧
    ∀ N, let b := s.here.land N
      let c := t.here.land N
      (∀ h r, c.scalar h r = b.scalar h r) ∧ (∀ k, c.row k = b.row k) ∧
      (∀ h m, m ≠ n ∨ (m ≤ 1 ∧ h ≠ s.here.handler) → c.special h m = b.special h m) ∧
      (N < s.now + L → c.special s.here.handler n = b.special s.here.handler n) ∧
      (s.now + L ≤ N → c.special s.here.handler n = (b.special s.here.handler n &&& ~~~mask) ||| (v &&& mask))

/-- R285: BEATSET writes DBEAT from sb[15:0] or from the tag of its second word, of either parity; BEATNEXT adds 2 to DBEAT modulo
65,536; both change DBEAT for the bundles issued from the next cycle on (R53), and nothing else.

Exec answers a next state here for: beatset, beatset64, beatnext. -/
def Obligations.BeatRegister : Prop :=
  ∀ (b : Reg) (tag : BitVec 16) (s : State), s.settled b →
    s.givesSpecial (exec (.beatset b) s) 2 1 (BitVec.ofNat 64 ((s.val b).toNat % 65536)) (BitVec.allOnes 64) ∧
    s.givesSpecial (exec (.beatset64 tag) s) 2 1 (BitVec.ofNat 64 tag.toNat) (BitVec.allOnes 64) ∧
    s.givesSpecial (exec .beatnext s) 2 1 (BitVec.ofNat 64 ((s.here.dbeat.toNat + 2) % 65536)) (BitVec.allOnes 64)

/-- WRS, SETF and SETSZ (R84, R88, R89, R228, R283): a write governs from the next cycle, one of fmt from the fifth; SETSZ writes RND and SATD alone. A
WRS of LATECNT or of a read-only register changes nothing, and one of STAT clears the flags where sb holds 1.

FRAME k, issued at cycle c, sets FB to c + k and changes nothing else (R101).

Exec answers a next state here for: wrs, setf, setsz, frame. -/
def Obligations.SpecialWrites : Prop :=
  (∀ (b : Reg) (s : State), s.settled b →
    (∀ x ∈ writable, s.givesSpecial (exec (.wrs (BitVec.ofNat 9 x.1) b) s) x.1 x.2.2 (s.val b &&& x.2.1) (BitVec.allOnes 64)) ∧
    ((∀ p ∈ s.here.pends, p.isFlag = false ∧ p.dest ≠ .special 0 s.here.handler) →
      s.givesSpecial (exec (.wrs 0 b) s) 0 1 0 (s.val b &&& 0x7F)) ∧
    (∀ n ∈ [4, 7, 8, 16, 17, 18, 19, 20, 21, 22, 23, 24],
      s.givesSpecial (exec (.wrs (BitVec.ofNat 9 n) b) s) n 1 0 0) ∧
    s.givesSpecial (exec (.setf b) s) 1 5 (s.val b &&& 0xFFFF) (BitVec.allOnes 64) ∧
    (∀ (m : BitVec 3) (z : Bool), s.givesSpecial (exec (.setsz m z) s) 1 5
      (BitVec.ofNat 64 (m.toNat * 2 ^ 12 + if z then 2 ^ 15 else 0)) 0xF000)) ∧
  (∀ (k : BitVec 9) (s : State), ∃ t, exec (.frame k) s = .next t ∧ t.cur = s.cur ∧ s.sameBut s.cur.bay t ∧
    t.here.fb = s.now + k.toNat ∧ { t.here with fb := s.here.fb } = s.here)

/-- The special registers as RDS returns them to a task that stands on its bay (R59, R68, R84 to R87): the draws that the slots of the
bundle have claimed do not count yet. -/
def Sys2Proof.Machine.State.specials (s : State) (t : Task) : List (Nat × Word) :=
  let b := s.here
  let p := s.part (s.partOf s.cur.bay)
  let d := s.die (s.cur.bay / 64)
  let cycle : Nat := s.now - p.formed
  [(0x001, if b.handler then b.hfmt else b.fmt), (0x002, b.dbeat), (0x003, if t.d then b.beatctl ||| 1 else b.beatctl),
   (0x005, b.rqpos - BitVec.ofNat 64 s.cur.drew), (0x006, b.rqposc - BitVec.ofNat 64 s.cur.drewC), (0x007, if t.d then 0 else BitVec.ofInt 64 (b.fb - p.formed)),
   (0x008, if t.d then 0 else BitVec.ofInt 64 (s.now - b.fb)), (0x010, BitVec.ofInt 64 (p.beatno - b.beatoff)),
   (0x011, BitVec.ofNat 64 (cycle / 1024)), (0x012, BitVec.ofNat 64 s.cur.bay), (0x013, BitVec.ofNat 64 (s.cur.bay / 64)),
   (0x014, t.coord), (0x015, BitVec.ofNat 64 t.taskid), (0x016, BitVec.ofNat 64 ((d.rfnext - s.now) % 65536)),
   (0x017, BitVec.ofNat 64 d.rfdebt), (0x018, BitVec.ofNat 64 (if t.d then cycle / 1024 * 1024 else cycle))] ++
  [(0x020, b.b0.extractLsb' 0 64), (0x021, b.b0.extractLsb' 64 64), (0x022, b.b1.extractLsb' 0 64),
   (0x023, b.b1.extractLsb' 64 64), (0x024, b.b2.extractLsb' 0 64), (0x025, b.b2.extractLsb' 64 64),
   (0x026, b.b3.extractLsb' 0 64), (0x027, b.b3.extractLsb' 64 64)]

/-- RDS returns the register as it governs its bundle, two cycles later (R228); STAT with bit 8 for a phase set in force, when no
flag is in flight (R85); LATECNT is cleared by its read (R59). On a bay whose context has been saved BEATCTL, FB, FC, COORD and TASKID read 0
(R371).

Exec answers a next state here for: rds. -/
def Obligations.SpecialReads : Prop :=
  ∀ (d : Reg) (s : State) (t : Task), s.here.task = some t → s.cur.bay < 256 →
    (s.here.empty = false → ∀ x ∈ s.specials t, s.givesScalar (exec (.rds (BitVec.ofNat 9 x.1) d) s) d 2 x.2 0) ∧
    (s.here.empty = true → ∀ n ∈ [3, 7, 8, 20, 21], s.givesScalar (exec (.rds (BitVec.ofNat 9 n) d) s) d 2 0 0) ∧
    ((∀ p ∈ s.here.pends, p.isFlag = false) → s.here.jobs = [] → s.givesScalar (exec (.rds 0 d) s) d 2
      ((if s.here.handler then s.here.hstat else s.here.stat) ||| if s.here.phaseOn then 0x100 else 0) 0) ∧
    State.givesScalar ((s.updCur fun c => { c with lateRead := some (c.lateRead.getD s.here.latecnt) }).upd fun b => { b with latecnt := 0 })
      (exec (.rds 4 d) s) d 2 (BitVec.ofNat 64 (s.cur.lateRead.getD s.here.latecnt)) 0

/-! ## Tile rows (R90 to R93, R107, R230 to R253) -/

/-- An instruction issued now completes: from L cycles on each named row holds a value inside a mask and what it would have held
outside it, undefined to its readers until then; the flags f join STAT; every other register stands, and nothing else of the machine
changes. -/
def Sys2Proof.Machine.State.givesRows (s : State) (o : Out) (L : Nat) (rows : List (Nat × Nat × Nat)) (f : Flags) : Prop :=
  ∃ t, o = .next t ∧ t.cur = s.cur ∧ s.sameBut s.cur.bay t ∧ s.here.sameButFlight t.here ∧
    ∀ N, let b := s.here.land N
      let c := t.here.land N
      (∀ h r, c.scalar h r = b.scalar h r) ∧ Bay.sameSpecial b c ∧
      Bay.gainsFlags b c s.here.handler (if s.now + L ≤ N then f else 0) ∧
      (∀ n, (∀ x ∈ rows, x.1 ≠ n) → c.row n = b.row n) ∧
      (s.now + L ≤ N → ∀ x ∈ rows, c.row x.1 = BitVec.ofNat 1024 (blend (b.row x.1).toNat x.2.1 x.2.2)) ∧
      (s.now < N → N < s.now + L → ∀ x ∈ rows, c.inWindow N (.row x.1) = true)

/-- The rounding of a V or F instruction: the governing one where the instruction rounds, else none is needed (R232). -/
def Sys2Proof.Machine.State.vecMode (s : State) (k : VKind) (o : VOp) (r : VRow) : Option Rnd :=
  if vecRounds k o.ty.toNat r.f2.toNat then s.rnd o.p
  else some ⟨0, match o.p.sat with
    | some x => x
    | none => bit (s.here.fmtReg s.here.handler).toNat 15⟩

/-- Draws that a form claims for each row (R107, R234, R253). -/
def Sys2Proof.Machine.drawsOf (k : VKind) (o : VOp) (r : VRow) (m : Rnd) : Nat :=
  if k = .frand ∨ m.mode = 4 then vecDraws k o.ty.toNat r.f2.toNat else 0

/-- The position of the sequence that an instruction draws from. -/
def Sys2Proof.Machine.State.position (s : State) (p : Pfx) : Nat := if pfxCommon p then s.here.rqposc.toNat else s.here.rqpos.toNat

/-- A source row of a form that uses it, else 0. -/
def Sys2Proof.Machine.State.sourceRow (s : State) (used : Bool) (tile row : Nat) : Nat :=
  if used then (s.here.row (32 * tile + row)).toNat else 0

/-- A tile row that no result in flight makes undefined and that holds no poison (R47, R90). -/
def Sys2Proof.Machine.State.rowSettled (s : State) (n : Nat) : Prop :=
  s.here.inWindow s.now (.row n) = false ∧ s.tilePoison s.cur.bay n = none

/-- Every register that a .r form reads is settled (R90). -/
def Sys2Proof.Machine.State.sourcesSettled (s : State) (k : VKind) (o : VOp) (r : VRow) : Prop :=
  (k.cRole o.var.toNat = .scalar → s.settled o.c) ∧ ∀ x ∈ vecSources k o r, s.rowSettled (32 * x.1 + x.2)

/-- The scalar operand of a form that has one. -/
def Sys2Proof.Machine.State.scalarOf (s : State) (k : VKind) (o : VOp) : Nat :=
  if k.cRole o.var.toNat = .scalar then (s.val o.c).toNat else 0

/-- The .r forms of the V and F slots. -/
def Sys2Proof.Machine.rowForms : List (VKind × (VOp → VRow → Instr)) :=
  [(.tadd, .taddR), (.tsub, .tsubR), (.tmul, .tmulR), (.tfma, .tfmaR), (.tfms, .tfmsR), (.tmin, .tminR), (.tmax, .tmaxR),
   (.tabs, .tabsR), (.tneg, .tnegR), (.tand, .tandR), (.tor, .torR), (.txor, .txorR), (.tshl, .tshlR), (.tshr, .tshrR),
   (.tshra, .tshraR), (.tcmp, .tcmpR), (.tsel, .tselR), (.tcvt, .tcvtR), (.tqnt, .tqntR), (.tdq, .tdqR), (.tred, .tredR),
   (.tscan, .tscanR), (.tbcst, .tbcstR), (.tins, .tinsR), (.text, .textR), (.tperm, .tpermR), (.ttrn, .ttrnR), (.tzero, .tzeroR),
   (.tmov, .tmovR), (.tshf, .tshfR), (.fexp2, .fexp2R), (.flog2, .flog2R), (.frcp, .frcpR), (.frsq, .frsqR), (.fsqrt, .fsqrtR),
   (.fdivt, .fdivtR), (.ftanh, .ftanhR), (.fsigm, .fsigmR), (.fsin, .fsinR), (.fcos, .fcosR), (.fexpq, .fexpqR), (.frand, .frandR)]

/-- The .r forms of the V and F slots (R90, R92, R107, R230 to R253): the row that the rule of the form gives from its source rows,
its scalar and its draws is written within the bound of R92, raised by the draws it claims under RS; TQNT writes a scale row as well.
Nothing else changes.

TZERO.r, TMOV.r, TAND.r, TOR.r, TXOR.r and the integer TADD.r and TSUB.r in words of the rules (R235, R238, R249):
the whole row bit for bit, or each element modulo 2^w; none sets a flag.

Exec answers a next state here for: taddR, tsubR, tmulR, tfmaR, tfmsR, tminR, tmaxR, tabsR, tnegR, tandR, torR, txorR, tshlR, tshrR,
tshraR, tcmpR, tselR, tcvtR, tqntR, tdqR, tredR, tscanR, tbcstR, tinsR, textR, tpermR, ttrnR, tzeroR, tmovR, tshfR, fexp2R, flog2R,
frcpR, frsqR, fsqrtR, fdivtR, ftanhR, fsigmR, fsinR, fcosR, fexpqR, frandR. -/
def Obligations.RowResults : Prop :=
  (∀ x ∈ rowForms, ∀ (o : VOp) (r : VRow) (s : State) (m : Rnd), s.vecMode x.1 o r = some m → s.sourcesSettled x.1 o r →
    let k := x.1
    let n := drawsOf k o r m
    let L := (vecLat k).1 + if k = .frand then 0 else ceilDiv n 64
    let u (i : Nat) : Nat := s.here.drawAt (pfxCommon o.p) ((if n = 0 then 0 else s.position o.p) + i)
    let v := vecRow (vecEnv k o r (s.scalarOf k o) m.mode m.sat) u
      (s.sourceRow (k.hasB o.var.toNat) o.b.toNat r.rb.toNat)
      (s.sourceRow (decide (k.cRole o.var.toNat = .tile)) o.c.toNat r.rc.toNat)
      (s.sourceRow k.hasTd r.td.toNat r.rd.toNat)
    (s.claimed o.p n).givesRows (exec (x.2 o r) s) L
      ((32 * o.a.toNat + r.ra.toNat, v.val, v.mask) ::
        if v.mask2 = 0 then [] else [(32 * (o.a.toNat + 1) + r.ra.toNat, v.val2, v.mask2)]) v.flags) ∧
  (∀ (o : VOp) (r : VRow) (s : State),
    let dst := 32 * o.a.toNat + r.ra.toNat
    let B := (s.here.row (32 * o.b.toNat + r.rb.toNat)).toNat
    let C := (s.here.row (32 * o.c.toNat + r.rc.toNat)).toNat
    let gives (i : Instr) (v : Nat) : Prop := s.givesRows (exec i s) 2 [(dst, v, 2 ^ 1024 - 1)] 0
    gives (.tzeroR o r) 0 ∧
    (s.rowSettled (32 * o.b.toNat + r.rb.toNat) →
      gives (.tmovR o r) B ∧
      (s.rowSettled (32 * o.c.toNat + r.rc.toNat) → o.var.toNat = 0 →
        (o.ty.toNat ∈ [0, 1, 2, 4, 5, 6] →
          gives (.tandR o r) (B &&& C) ∧ gives (.torR o r) (B ||| C) ∧ gives (.txorR o r) (B ^^^ C)) ∧
        (o.ty.toNat ∈ [0, 1, 2, 4, 5, 6] → o.p.sat ≠ some true →
          ∃ v v', gives (.taddR o r) v ∧ gives (.tsubR o r) v' ∧
            ∀ i, i < rowElems o.ty.toNat →
              let w := fmtWidth o.ty.toNat
              let e (x : Nat) : Nat := x / 2 ^ (w * i) % 2 ^ w
              e v = (e B + e C) % 2 ^ w ∧ (e v' + e C) % 2 ^ w = e B))))

/-- The .t forms of the V and F slots, with whether the instruction has a row word. -/
def Sys2Proof.Machine.tileForms : List (VKind × Bool × (VOp → VRow → Instr)) :=
  [(.tadd, false, fun o _ => .taddT o), (.tsub, false, fun o _ => .tsubT o), (.tmul, false, fun o _ => .tmulT o),
   (.tfma, true, .tfmaT), (.tfms, true, .tfmsT), (.tmin, false, fun o _ => .tminT o), (.tmax, false, fun o _ => .tmaxT o),
   (.tabs, false, fun o _ => .tabsT o), (.tneg, false, fun o _ => .tnegT o), (.tand, false, fun o _ => .tandT o),
   (.tor, false, fun o _ => .torT o), (.txor, false, fun o _ => .txorT o), (.tshl, false, fun o _ => .tshlT o),
   (.tshr, false, fun o _ => .tshrT o), (.tshra, false, fun o _ => .tshraT o), (.tcmp, false, fun o _ => .tcmpT o),
   (.tsel, true, .tselT), (.tcvt, true, .tcvtT), (.tqnt, true, .tqntT), (.tdq, true, .tdqT),
   (.tred, false, fun o _ => .tredT o), (.tscan, false, fun o _ => .tscanT o), (.tbcst, false, fun o _ => .tbcstT o),
   (.text, false, fun o _ => .textT o), (.tperm, false, fun o _ => .tpermT o), (.ttrn, false, fun o _ => .ttrnT o),
   (.tzero, false, fun o _ => .tzeroT o), (.tmov, false, fun o _ => .tmovT o), (.tshf, false, fun o _ => .tshfT o),
   (.fexp2, false, fun o _ => .fexp2T o), (.flog2, false, fun o _ => .flog2T o), (.frcp, false, fun o _ => .frcpT o),
   (.frsq, false, fun o _ => .frsqT o), (.fsqrt, false, fun o _ => .fsqrtT o), (.fdivt, false, fun o _ => .fdivtT o),
   (.ftanh, false, fun o _ => .ftanhT o), (.fsigm, false, fun o _ => .fsigmT o), (.fsin, false, fun o _ => .fsinT o),
   (.fcos, false, fun o _ => .fcosT o), (.fexpq, false, fun o _ => .fexpqT o), (.frand, false, fun o _ => .frandT o)]

/-- The rows that a .t form writes, each with the cycles after issue within which it is written (R92, R93): all at the bound L of the
table where the form reads every row first, else row j within L less 31 − j. -/
def Sys2Proof.Machine.tileRows (k : VKind) (o : VOp) (L : Nat) : List (Nat × Nat) :=
  if k = .tred then [(32 * o.a.toNat + o.c.toNat, L)]
  else (List.range (if k = .tqnt then 64 else 32)).map fun i => (32 * o.a.toNat + i, if k = .ttrn then L else L - 31 + i % 32)

/-- The .t forms of the V and F slots begin (R90, R92, R93, R107): the draws of all 32 rows are claimed, row 0 is read on the cycle
of issue and each later row one cycle after the one before it, four for TPERM; the work in progress keeps the operation with its operands,
its scalar, its rounding and its first draw, from which RowsInFlight gives each row its result; each destination row is undefined to a
reader until its bound; every other register stands.

Exec answers a next state here for: taddT, tsubT, tmulT, tfmaT, tfmsT, tminT, tmaxT, tabsT, tnegT, tandT, torT, txorT, tshlT, tshrT,
tshraT, tcmpT, tselT, tcvtT, tqntT, tdqT, tredT, tscanT, tbcstT, textT, tpermT, ttrnT, tzeroT, tmovT, tshfT, fexp2T, flog2T, frcpT,
frsqT, fsqrtT, fdivtT, ftanhT, fsigmT, fsinT, fcosT, fexpqT, frandT. -/
def Obligations.TileForms : Prop :=
  ∀ x ∈ tileForms, ∀ (o : VOp) (w : VRow) (s : State) (m : Rnd),
    let k := x.1
    let r := if x.2.1 then w else .zero
    let n := 32 * drawsOf k o r m
    let L := (vecLat k).2 + if k = .frand then 0 else ceilDiv n 64
    s.vecMode k o r = some m → (k.cRole o.var.toNat = .scalar → s.settled o.c) →
    ∃ t j, exec (x.2.2 o w) s = .next t ∧ t.cur = (s.claimed o.p n).cur ∧ s.sameBut s.cur.bay t ∧
      t.here.jobs = s.here.jobs ++ [j] ∧
      j.kind = .vec k o r (s.scalarOf k o) m.mode m.sat (pfxCommon o.p) (if n = 0 then 0 else s.position o.p) (drawsOf k o r m) L ∧
      j.issued = s.now ∧ j.row = 0 ∧ j.next = s.now ∧ j.got = [] ∧ j.hnd = s.here.handler ∧
      j.every = (if k = .tperm then 4 else 1) ∧ j.id = s.here.opCount + 1 ∧ t.here.opCount = j.id ∧
      ∀ N, let b := (s.claimed o.p n).here.land N
        let c := t.here.land N
        (∀ h i, c.scalar h i = b.scalar h i) ∧ Bay.sameSpecial b c ∧ c.stat = b.stat ∧ c.hstat = b.hstat ∧
        (∀ i, (∀ y ∈ tileRows k o L, y.1 ≠ i) → c.row i = b.row i) ∧
        (∀ y ∈ tileRows k o L, s.now < N → N < s.now + y.2 → c.inWindow N (.row y.1) = true)

/-! ## Scratch (R95, R112, R254 to R260) -/

/-- An address names own scratch: aligned, no reserved bit, and every byte of the access inside (R254, R255). -/
def Sys2Proof.Machine.State.ownScratch (s : State) (align n : Nat) (ea : Word) : Prop :=
  ea.toNat % align = 0 ∧ ea.toNat + n ≤ 2 ^ 20 ∧ s.cur.bay < 256 ∧ s.here.lent = false ∧ s.here.phaseOn = false

/-- An address names the scratch of another bay of the partition (R254). -/
def Sys2Proof.Machine.State.remoteScratch (s : State) (align n : Nat) (ea : Word) (bay off : Nat) : Prop :=
  ea.toNat = 2 ^ 28 + bay * 2 ^ 20 + off ∧ off % align = 0 ∧ align ∣ 2 ^ 20 ∧ off + n ≤ 2 ^ 20 ∧ bay < 256 ∧ bay ≠ s.cur.bay ∧
    s.partOf bay = s.partOf s.cur.bay ∧ s.here.lent = false ∧ s.here.phaseOn = false

/-- LD in both its lengths (R95, R257): the own-scratch bytes at sb + offset, sampled two cycles after issue, land four cycles after
issue, extended as the type says, 16 bytes in a register and the one after it; no byte of memory changes.

LDT and LDX in their row and tile forms (R93, R95, R258, R259): row j is sampled 2 + j cycles after issue and lands within
4 + j; a tile form of LDX checks its index rows at issue and reads them one a cycle. Until then the row is undefined; nothing else
changes. That the rows checked at issue stay with the form in progress is the model's reading (log entry 139).

Exec answers a next state here for: scratchLoadSample, ld, ld64, ldt, ldt64, ldx. -/
def Obligations.ScratchLoads : Prop :=
  (∀ (m : MemA) (off8 : BitVec 8) (off32 : BitVec 32) (s : State), s.settled m.b → s.here.samples = [] → s.here.btx = [] →
    s.pkg.poisonScratch = [] → m.a.toNat ≠ 0 → m.size.toNat ≤ 4 → (m.size.toNat = 4 → m.a.toNat < 31) →
    let n : Nat := 2 ^ m.size.toNat
    ∀ x ∈ [(Instr.ld m off8, s.val m.b + BitVec.ofInt 64 (off8.toInt * n)), (Instr.ld64 m off32, s.val m.b + BitVec.ofInt 64 off32.toInt)],
      s.ownScratch n n x.2 →
      let v := leNat (s.scratchBytes s.cur.bay x.2.toNat n)
      ∃ t u, exec x.1 s = .next t ∧ exec (.scratchLoadSample s.cur.bay) { t with now := s.now + 2 } = .next u ∧
        s.sameBytes u ∧
        (∀ N, s.now + 4 ≤ N →
          (u.here.land N).scalar s.here.handler m.a.toNat =
            (if n = 16 then BitVec.ofNat 64 v else if m.sx then BitVec.ofInt 64 (signed (8 * n) v) else BitVec.ofNat 64 v) ∧
          (n = 16 → (u.here.land N).scalar s.here.handler (m.a.toNat + 1) = BitVec.ofNat 64 (v / 2 ^ 64))) ∧
        (∀ N h r, r ≠ m.a.toNat → (n = 16 → r ≠ m.a.toNat + 1) → (u.here.land N).scalar h r = (s.here.land N).scalar h r) ∧
        (∀ N, s.now < N → N < s.now + 4 → (t.here.land N).inWindow N (.scalar m.a.toNat (s.here.bank m.a.toNat)) = true)) ∧
  (∀ (m : MemB) (x : MemC) (off5 : BitVec 5) (off32 : BitVec 32) (s : State), s.settled m.b → s.settled x.b →
    (∀ y ∈ [(Instr.ldt m off5, s.val m.b + BitVec.ofInt 64 (off5.toInt * 128)), (Instr.ldt64 m off32, s.val m.b + BitVec.ofInt 64 off32.toInt)],
      s.ownScratch 128 (if m.t then 4096 else 128) y.2 →
      ∃ t, exec y.1 s = .next t ∧ t.cur = s.cur ∧ s.sameBut s.cur.bay t ∧
        t.here.samples = s.here.samples ++ (List.range (if m.t then 32 else 1)).map (fun j =>
          ⟨s.now + 2 + j, s.here.opCount + 1, [y.2.toNat + 128 * j], 128, .row (32 * m.a.toNat + m.row.toNat + j)⟩) ∧
        ∀ j, j < (if m.t then 32 else 1) → ∀ N, s.now < N → N < s.now + 4 + j →
          (t.here.land N).inWindow N (.row (32 * m.a.toNat + m.row.toNat + j)) = true) ∧
    (∀ off : Option (BitVec 32),
      let esz := if x.sz then 2 else 4
      let base := s.val x.b + (match off with
        | some o => BitVec.ofInt 64 o.toInt
        | none => 0)
      let offs (j : Nat) : List Nat := (elems (8 * esz) (128 / esz) (s.here.row (32 * x.x.toNat + j)).toNat).map fun i => base.toNat + i * esz
      let rows := if x.t then List.range 32 else [x.row.toNat]
      s.ownScratch esz 1 base →
      (x.t = true → s.here.jobs = []) →
      (∀ j ∈ rows, (if x.t then ∀ p ∈ s.here.pends, p.dest ≠ .row (32 * x.x.toNat + j) else s.rowSettled (32 * x.x.toNat + j)) ∧
        ∀ o ∈ offs j, o + esz ≤ 2 ^ 20) →
      ∃ t, exec (.ldx x off) s = .next t ∧ t.cur = s.cur ∧ s.sameBut s.cur.bay t ∧
        (x.t = false → t.here.jobs = s.here.jobs ∧ t.here.samples = s.here.samples ++
          [⟨s.now + 2, s.here.opCount + 1, offs x.row.toNat, esz, .row (32 * x.a.toNat + x.row.toNat)⟩]) ∧
        (x.t = true → t.here.samples = s.here.samples ∧ t.here.jobs =
          [⟨.ldx x.a.toNat x.x.toNat esz base.toNat, s.now, 0, s.now, 1, rows.map fun j => s.here.row (32 * x.x.toNat + j),
            s.here.opCount + 1, s.here.handler⟩])))

/-- The bytes of a ST of 2^size bytes: register a, then the next one for 16 bytes (R257). -/
def Sys2Proof.Machine.State.storeBytes (s : State) (m : MemA) : List Byte :=
  if m.size.toNat = 4 then leBytes 8 (s.val m.a).toNat ++ leBytes 8 (s.val (m.a + 1)).toNat else leBytes (2 ^ m.size.toNat) (s.val m.a).toNat

/-- Own-scratch stores ST, STT and STX (R95, R257 to R259): the bytes are read at issue and written three cycles after it, at the
address or at the offsets of the index row in ascending lane order; every other byte of every memory and every register stands.

The tile forms of STT and STX on own scratch begin (R93, R258, R259): row j of the tile is read on cycle c + j by the form that is
now in progress; nothing else changes yet. The index rows of STX are checked at issue, and the form in progress keeps them (log entry 139).

Stores to the scratch of another bay (R110, R112, R257 to R259): the bytes join the stream queue that pfx.stream names, SQ0
without it, and nothing is written yet.

Exec answers a next state here for: scratchWriteApply, st, st64, stt, stt64, stx. -/
def Obligations.ScratchStores : Prop :=
  (∀ (m : MemA) (r : MemB) (x : MemC) (off8 : BitVec 8) (off5 : BitVec 5) (off32 : BitVec 32) (off : Option (BitVec 32)) (p : Pfx)
    (s : State), s.here.swrites = [] → s.settled m.b → s.settled m.a → (m.size.toNat = 4 → s.settled (m.a + 1)) → s.settled r.b →
    s.settled x.b →
    let stores (i : Instr) (pieces : List (Nat × List Byte)) : Prop := ∃ t u, exec i s = .next t ∧ s.sameBytes t ∧
      exec (.scratchWriteApply s.cur.bay) { t with now := s.now + 3 } = .next u ∧
      (∀ N, (∀ h k, (u.here.land N).scalar h k = (s.here.land N).scalar h k) ∧ (∀ n, (u.here.land N).row n = (s.here.land N).row n) ∧
        Bay.sameSpecial (s.here.land N) (u.here.land N) ∧ (u.here.land N).stat = (s.here.land N).stat) ∧
      u.scratch = pieces.foldl (fun k y => k.store (s.cur.bay * 2 ^ 20 + y.1) y.2) s.scratch ∧
      u.beat = s.beat ∧ u.acc = s.acc ∧ u.host = s.host ∧ u.expander = s.expander
    let n : Nat := 2 ^ m.size.toNat
    let data := rowBytes (s.here.row (32 * r.a.toNat + r.row.toNat))
    let esz := if x.sz then 2 else 4
    let base := s.val x.b + (match off with
      | some o => BitVec.ofInt 64 o.toInt
      | none => 0)
    let offs := (elems (8 * esz) (128 / esz) (s.here.row (32 * x.x.toNat + x.row.toNat)).toNat).map fun i => base.toNat + i * esz
    (m.size.toNat ≤ 4 →
      (∀ ea, ea = s.val m.b + BitVec.ofInt 64 (off8.toInt * (n : Int)) → s.ownScratch n n ea →
        stores (.st m off8 p) [(ea.toNat, s.storeBytes m)]) ∧
      (∀ ea, ea = s.val m.b + BitVec.ofInt 64 off32.toInt → s.ownScratch n n ea → stores (.st64 m off32 p) [(ea.toNat, s.storeBytes m)])) ∧
    (r.t = false → s.rowSettled (32 * r.a.toNat + r.row.toNat) →
      (∀ ea, ea = s.val r.b + BitVec.ofInt 64 (off5.toInt * 128) → s.ownScratch 128 128 ea → stores (.stt r off5 p) [(ea.toNat, data)]) ∧
      (∀ ea, ea = s.val r.b + BitVec.ofInt 64 off32.toInt → s.ownScratch 128 128 ea → stores (.stt64 r off32 p) [(ea.toNat, data)])) ∧
    (x.t = false → s.rowSettled (32 * x.a.toNat + x.row.toNat) → s.rowSettled (32 * x.x.toNat + x.row.toNat) → s.ownScratch esz 1 base → (∀ o ∈ offs, o + esz ≤ 2 ^ 20) →
      stores (.stx x off p) (List.zipWith (fun o v => (o, leBytes esz v)) offs
        (elems (8 * esz) (128 / esz) (s.here.row (32 * x.a.toNat + x.row.toNat)).toNat)))) ∧
  (∀ (r : MemB) (x : MemC) (off5 : BitVec 5) (off32 : BitVec 32) (off : Option (BitVec 32)) (p : Pfx) (s : State), s.settled r.b →
    s.settled x.b →
    let begins (i : Instr) (k : JobKind) (got : List Row) : Prop := ∃ t, exec i s = .next t ∧ t.cur = s.cur ∧ s.sameBut s.cur.bay t ∧
      t.here.jobs = s.here.jobs ++ [⟨k, s.now, 0, s.now, 1, got, s.here.opCount + 1, s.here.handler⟩] ∧
      { t.here with jobs := s.here.jobs, opCount := s.here.opCount } = s.here
    let q := match p.stream with
      | some (k, _) => k.toNat
      | none => 0
    let esz := if x.sz then 2 else 4
    let base := s.val x.b + (match off with
      | some o => BitVec.ofInt 64 o.toInt
      | none => 0)
    (r.t = true →
      (∀ ea, ea = s.val r.b + BitVec.ofInt 64 (off5.toInt * 128) → s.ownScratch 128 4096 ea →
        begins (.stt r off5 p) (.stt r.a.toNat s.cur.bay ea.toNat q) []) ∧
      (∀ ea, ea = s.val r.b + BitVec.ofInt 64 off32.toInt → s.ownScratch 128 4096 ea →
        begins (.stt64 r off32 p) (.stt r.a.toNat s.cur.bay ea.toNat q) [])) ∧
    (x.t = true → s.ownScratch esz 1 base → s.here.jobs = [] →
      (∀ j, j < 32 → (∀ p ∈ s.here.pends, p.dest ≠ .row (32 * x.x.toNat + j)) ∧
        ∀ i ∈ elems (8 * esz) (128 / esz) (s.here.row (32 * x.x.toNat + j)).toNat, base.toNat + i * esz + esz ≤ 2 ^ 20) →
      begins (.stx x off p) (.stx x.a.toNat x.x.toNat esz s.cur.bay base.toNat q)
        ((List.range 32).map fun j => s.here.row (32 * x.x.toNat + j)))) ∧
  (∀ (m : MemA) (r : MemB) (off8 : BitVec 8) (off5 : BitVec 5) (off32 : BitVec 32) (p : Pfx) (s : State) (bay off : Nat),
    let q := match p.stream with
      | some (k, _) => k.toNat
      | none => 0
    let joins (i : Instr) (data : List Byte) : Prop := ∃ t e, exec i s = .next t ∧ t.cur = s.cur ∧ s.sameBut s.cur.bay t ∧
      Tbl.get [] t.here.sq q = Tbl.get [] s.here.sq q ++ [e] ∧ (∀ k, k ≠ q → Tbl.get [] t.here.sq k = Tbl.get [] s.here.sq k) ∧
      e.op = .remote bay [(off, data)] ∧ s.now < e.notBefore ∧ t.here.pends = s.here.pends ∧ t.here.swrites = s.here.swrites
    s.settled m.b → s.settled m.a → s.settled r.b → (m.size.toNat = 4 → s.settled (m.a + 1)) → m.size.toNat ≤ 4 →
    (s.remoteScratch (2 ^ m.size.toNat) (2 ^ m.size.toNat) (s.val m.b + BitVec.ofInt 64 (off8.toInt * 2 ^ m.size.toNat)) bay off →
      joins (.st m off8 p) (s.storeBytes m)) ∧
    (s.remoteScratch (2 ^ m.size.toNat) (2 ^ m.size.toNat) (s.val m.b + BitVec.ofInt 64 off32.toInt) bay off →
      joins (.st64 m off32 p) (s.storeBytes m)) ∧
    (r.t = false → s.rowSettled (32 * r.a.toNat + r.row.toNat) →
      (s.remoteScratch 128 128 (s.val r.b + BitVec.ofInt 64 (off5.toInt * 128)) bay off →
        joins (.stt r off5 p) (rowBytes (s.here.row (32 * r.a.toNat + r.row.toNat)))) ∧
      (s.remoteScratch 128 128 (s.val r.b + BitVec.ofInt 64 off32.toInt) bay off →
        joins (.stt64 r off32 p) (rowBytes (s.here.row (32 * r.a.toNat + r.row.toNat))))))

/-- A misaligned or illegal scratch address is an operand fault (R254, R255): an alignment fault first, else a protection fault for a
reserved bit, a bay number without REMOTE, a bay outside the partition, an access past the end or a load from another bay; the
address and the slot code are its syndrome, and nothing else of the machine changes. -/
def Obligations.ScratchFaults : Prop :=
  ∀ (m : MemA) (off : BitVec 32) (p : Pfx) (s : State), s.settled m.b → s.cur.fault = none → s.cur.bay < 256 → s.here.lent = false →
    let n := 2 ^ m.size.toNat
    let ea := s.val m.b + BitVec.ofInt 64 off.toInt
    let a := ea.toNat
    let faults (i : Instr) (cause : Nat) : Prop :=
      exec i s = .next { s with cur := { s.cur with fault := some ⟨cause, 0, ea, 0, BitVec.ofNat 64 s.cur.slot⟩ } }
    let bay := if a.testBit 28 then a / 2 ^ 20 % 256 else s.cur.bay
    (a % n ≠ 0 → faults (.ld64 m off) 0x12 ∧ faults (.st64 m off p) 0x12) ∧
    (a % n = 0 → (2 ^ 29 ≤ a ∨ (a.testBit 28 = false ∧ a / 2 ^ 20 % 256 ≠ 0) ∨ s.partOf bay ≠ s.partOf s.cur.bay ∨ 2 ^ 20 < a % 2 ^ 20 + n) →
      faults (.ld64 m off) 0x11 ∧ faults (.st64 m off p) 0x11) ∧
    (a % n = 0 → bay ≠ s.cur.bay → faults (.ld64 m off) 0x11)

/-- SCRATCH_LOAD_SAMPLE (R95): the one sample that is due takes its bytes, in the order of its addresses, for the results in flight of
its load; it is then over, and no byte of memory changes.

A row of a .t form of the V or F slot (R93): SHORT_OP_LAND on the cycle on which the row is due lands what is due, gives the
result in flight for that row its value, computed from the rows as they then stand, and passes to the next row; after row 31 the form
is over. TTRN.t and TRED.t keep the rows that they read and, with the last one, give every result its value: element x of row i of the
transposed tile, or the sums of the 32 rows (R243, R248). No byte of memory changes.

A row of a tile form of LDX, STX or STT (R93, R258, R259), on a cycle on which the rows that it reads are settled, hold no poison and
are as they were checked: LDX asks for its sample two cycles later, STT and STX put their bytes on the timeline three cycles later in
ascending lane order, or, for another bay, into the stream entry that waits for them.

Exec answers a next state here for: shortOpLand, scratchLoadSample. -/
def Obligations.RowsInFlight : Prop :=
  (∀ (bay n : Nat) (x : Sample) (s : State), bay < 256 → (s.bay bay).samples = [x] → x.due ≤ s.now → x.dst = .row n →
    (s.bay bay).btx = [] → s.pkg.poisonScratch = [] →
    let v := leNat (x.addrs.flatMap fun a => s.scratchBytes bay a x.esz)
    ∃ t, exec (.scratchLoadSample bay) s = .next t ∧ s.sameBytes t ∧ (t.bay bay).samples = [] ∧
      (∀ p ∈ (s.bay bay).pends, p.job = x.id → p.dest = .row n → ∃ q ∈ (t.bay bay).pends, q.dest = .row n ∧ q.due = p.due ∧
        q.val = v ∧ q.mask = p.mask &&& (2 ^ 1024 - 1)) ∧
      (∀ p ∈ (s.bay bay).pends, (p.job ≠ x.id ∨ p.dest ≠ .row n) → p ∈ (t.bay bay).pends)) ∧
  (∀ (bay : Nat) (s : State) (j : Job) (k : VKind) (o : VOp) (r : VRow) (sc mode : Nat) (sat common : Bool) (draw per bound : Nat),
    bay < 256 → j.kind = .vec k o r sc mode sat common draw per bound → k ≠ .ttrn → k ≠ .tred → (s.bay bay).jobs = [j] → j.next ≤ s.now →
    (∀ x ∈ vecSources k o r, s.tilePoison bay (32 * x.1 + j.row) = none) →
    let u := s.onBay bay fun b => b.land s.now
    let row (used : Bool) (t i : Nat) : Nat := if used then (u.readRow bay (32 * t + j.row) (j.id % 256 * 8 + i) j.id).toNat else 0
    let v := vecRow (vecEnv k o r sc mode sat) (fun i => (u.bay bay).drawAt common (draw + j.row * per + i))
      (row (k.hasB o.var.toNat) o.b.toNat 0) (row (decide (k.cRole o.var.toNat = .tile)) o.c.toNat 1) (row k.hasTd r.td.toNat 2)
    ∃ t, exec (.shortOpLand bay) s = .next t ∧ s.sameBytes t ∧ (∀ k, k ≠ bay → t.bay k = s.bay k) ∧
      (t.bay bay).jobs = (if j.row = 31 then [] else [{ j with row := j.row + 1, next := j.next + j.every, got := [] }]) ∧
      (∀ p ∈ (u.bay bay).pends, p.job = j.id → p.dest = .row (32 * o.a.toNat + j.row) →
        { p with val := v.val, mask := p.mask &&& v.mask } ∈ (t.bay bay).pends) ∧
      (∀ h i, (t.bay bay).scalar h i = (u.bay bay).scalar h i) ∧ (∀ i, (t.bay bay).row i = (u.bay bay).row i)) ∧
  (∀ (bay : Nat) (s : State) (j : Job) (k : VKind) (o : VOp) (r : VRow) (sc mode : Nat) (sat common : Bool) (draw per bound : Nat),
    bay < 256 → j.kind = .vec k o r sc mode sat common draw per bound → k = .ttrn ∨ k = .tred → (s.bay bay).jobs = [j] → j.next ≤ s.now →
    (∀ i, i < 32 → ∀ x ∈ vecSources k o r, s.tilePoison bay (32 * x.1 + i) = none) →
    let u := s.onBay bay fun b => b.land s.now
    let read := u.readRow bay (32 * o.b.toNat + j.row) (j.id % 256 * 8) j.id
    let rows := (read :: j.got).reverse.map BitVec.toNat
    let w := fmtWidth o.ty.toNat
    ∃ t, exec (.shortOpLand bay) s = .next t ∧ s.sameBytes t ∧ (∀ k, k ≠ bay → t.bay k = s.bay k) ∧
      (j.row ≠ 31 → (t.bay bay).jobs = [{ j with row := j.row + 1, next := j.next + j.every, got := read :: j.got }] ∧
        (t.bay bay).pends = (u.bay bay).pends) ∧
      (j.row = 31 → (t.bay bay).jobs = [] ∧ ∀ p ∈ (u.bay bay).pends, p.job = j.id →
        (k = .ttrn → ∀ i, i < 32 → p.dest = .row (32 * o.a.toNat + i) → ∃ q ∈ (t.bay bay).pends, q.dest = p.dest ∧ q.due = p.due ∧
          q.mask = p.mask &&& (2 ^ 1024 - 1) ∧ ∀ x, x < rowElems o.ty.toNat →
            q.val / 2 ^ (w * x) % 2 ^ w = rows.getD (x % 32) 0 / 2 ^ (w * (x / 32 * 32 + i)) % 2 ^ w) ∧
        (k = .tred → p.dest = .row (32 * o.a.toNat + o.c.toNat) → ∃ q ∈ (t.bay bay).pends, q.dest = p.dest ∧ q.due = p.due ∧
          q.mask = p.mask &&& (2 ^ 1024 - 1) ∧ q.val = packElems 32 (rows.zipIdx.map fun x =>
            (redRow (vecEnv k o r sc mode sat) (fun d => (u.bay bay).drawAt common (draw + x.2 * per + d)) x.1).1))) ∧
      (∀ h i, (t.bay bay).scalar h i = (u.bay bay).scalar h i) ∧ (∀ i, (t.bay bay).row i = (u.bay bay).row i)) ∧
  (∀ (bay target tile x esz base addr q : Nat) (s : State) (j : Job), bay < 256 → (s.bay bay).jobs = [j] → j.next ≤ s.now →
    let u := s.onBay bay fun b => b.land s.now
    let row (k : Nat) : Row := (u.bay bay).row (32 * k + j.row)
    let reads (k : Nat) : Prop := (u.bay bay).inWindow s.now (.row (32 * k + j.row)) j.id = false ∧ s.tilePoison bay (32 * k + j.row) = none
    let offs := (elems (8 * esz) (128 / esz) (row x).toNat).map fun i => base + i * esz
    let steps (P : Bay → Bay → Prop) : Prop := ∃ t, exec (.shortOpLand bay) s = .next t ∧ s.sameBytes t ∧ (∀ k, k ≠ bay → t.bay k = s.bay k) ∧
      (t.bay bay).jobs = (if j.row = 31 then [] else [{ j with row := j.row + 1, next := j.next + j.every }]) ∧
      (∀ h i, (t.bay bay).scalar h i = (u.bay bay).scalar h i) ∧ (∀ i, (t.bay bay).row i = (u.bay bay).row i) ∧ P (u.bay bay) (t.bay bay)
    let puts (ps : List (Nat × List Byte)) : Prop :=
      (target = bay → steps fun b c => c.swrites = b.swrites ++ ps.map fun y => ⟨s.now + 3, 3, 0, y.1, y.2⟩) ∧
      (target ≠ bay → steps fun b c => c.swrites = b.swrites ∧ ∀ n, Tbl.get [] c.sq n =
        if n = q then (Tbl.get [] b.sq n).map (fun e => if e.id = j.id + 1 + j.row then
          match e.op with
          | .remote k _ => { e with op := .remote k ps }
          | _ => e
        else e) else Tbl.get [] b.sq n)
    (j.kind = .ldx tile x esz base → reads x → j.got[j.row]? = some (row x) →
      steps fun b c => c.samples = b.samples ++ [⟨s.now + 2, j.id, offs, esz, .row (32 * tile + j.row)⟩] ∧ c.swrites = b.swrites) ∧
    (j.kind = .stt tile target addr q → reads tile → puts [(addr + 128 * j.row, rowBytes (row tile))]) ∧
    (j.kind = .stx tile x esz target base q → reads tile → reads x → j.got[j.row]? = some (row x) →
      puts (List.zipWith (fun o v => (o, leBytes esz v)) offs (elems (8 * esz) (128 / esz) (row tile).toNat))))

/-! ## Beat-tagged instructions at issue (R51 to R56, R261, R262, R265 to R276) -/

/-- The tag that a beat-tagged instruction carries (R51): its second word's, DBEAT plus the offset of pfx.beat, or DBEAT, moved up by one
where its parity is not that of the kind. -/
def Sys2Proof.Machine.State.carries (s : State) (odd : Bool) (p : Pfx) (tag : Option (BitVec 16)) (t : Nat) : Prop :=
  let d := s.here.dbeat.toNat % 65536
  t % 2 = (if odd then 1 else 0) ∧ match tag with
    | some x => t = x.toNat
    | none => match p.beat with
      | some k => t = (d + k.toNat) % 65536
      | none => t = if d % 2 = (if odd then 1 else 0) then d else (d + 1) % 65536

/-- The bay takes beat-tagged work of its own for the beat of a tag: the beat has not closed and the queue has room (R52, R56); no phase
set is in force, the bay holds no saved context and every frame holds the ordinary form. -/
def Sys2Proof.Machine.State.takesWork (s : State) (t : Nat) : Prop :=
  ((t : Int) + s.here.beatoff - (s.part (s.partOf s.cur.bay)).beatno) % 65536 < 32768 ∧ s.here.unserved.length < 512 ∧
    s.here.phaseOn = false ∧ s.here.lent = false ∧ s.here.forms = [] ∧ s.cur.bay < 256

/-- An instruction completes at issue by sending beat-tagged work to its own bay's queue: at the tail stands an entry of its task with the
operation, the tag, and the beat that the tag names; its holds are asked for, destinations apart from sources, a row that is both taking the
destination hold alone (the model's choice, log entry 142); no register, no memory and nothing else of the machine changes. -/
def Sys2Proof.Machine.State.sendsBeat (s : State) (o : Out) (odd : Bool) (p : Pfx) (tag : Option (BitVec 16)) (op : BeatOp)
    (dest src : List Nat) : Prop :=
  ∀ t, s.carries odd p tag t → s.takesWork t →
    ∃ u e, o = .next u ∧ u.here.bq = s.here.bq ++ [e] ∧ e.op = op ∧ e.tag = t ∧ e.bay = s.cur.bay ∧ e.task = s.here.uid ∧
      e.strict = (s.here.det || s.here.beatctl.getLsbD 0) ∧ e.served = false ∧ e.carried = false ∧
      (let n : Int := (s.part (s.partOf s.cur.bay)).beatno
       (e.beat - s.here.beatoff - t) % 65536 = 0 ∧ n - 32768 ≤ e.beat ∧ e.beat ≤ n + 32767) ∧
      e.id = s.here.opCount + 1 ∧ e.hold = e.id ∧
      u.cur = { s.cur with holds := s.cur.holds ++ [⟨e.id, true, dest.filter (· ≠ 0), none⟩,
        ⟨e.id, false, (src.filter fun r => !dest.contains r).filter (· ≠ 0), none⟩] } ∧
      s.sameBut s.cur.bay u ∧ { u.here with bq := s.here.bq, opCount := s.here.opCount } = s.here

/-- R52: a tag t names the beat N′ with N′ ≡ t (mod 65,536) and BEATNO − 32,768 ≤ N′ ≤ BEATNO + 32,767, where BEATNO is what the task
reads on the cycle of issue; so no tag names a beat more than 32,767 beats ahead. The entry of a beat-tagged instruction holds that
beat, counted from the partition's. -/
def Obligations.TagNamesBeat : Prop :=
  ∀ (bay t : Nat) (s : State), t < 65536 →
    let beatno : Int := (s.part (s.partOf bay)).beatno - (s.bay bay).beatoff
    let n := s.beatOf bay t - (s.bay bay).beatoff
    n % 65536 = t ∧ beatno - 32768 ≤ n ∧ n ≤ beatno + 32767 ∧
      ∀ k : Int, k % 65536 = t → beatno - 32768 ≤ k → k ≤ beatno + 32767 → k = n

/-- An instruction completes at issue by sending beat-tagged work to another bay: the entry, with its tag and the beat that the tag names, is on
its way, no write of the bay arriving before an earlier one to the same bay; its holds are asked for, and nothing else changes. -/
def Sys2Proof.Machine.State.sendsAfar (s : State) (o : Out) (p : Pfx) (tag : Option (BitVec 16)) (op : BeatOp) (dest src : List Nat) : Prop :=
  ∀ t, s.carries false p tag t → s.here.phaseOn = false →
    ∃ u e, o = .next u ∧ u.here.transit = s.here.transit ++ [e] ∧ e.op = op ∧ e.tag = t ∧ e.bay = s.cur.bay ∧ e.task = s.here.uid ∧
      e.served = false ∧ e.carried = false ∧ e.beat = s.beatOf s.cur.bay t ∧ e.id = s.here.opCount + 1 ∧ e.hold = e.id ∧ s.now < e.due ∧
      (op.isWrite = true → ∀ x ∈ s.here.transit, x.op.isWrite = true → x.op.target = op.target → x.due ≤ e.due) ∧
      u.cur = { s.cur with holds := s.cur.holds ++ [⟨e.id, true, dest.filter (· ≠ 0), none⟩,
        ⟨e.id, false, (src.filter fun r => !dest.contains r).filter (· ≠ 0), none⟩] } ∧
      s.sameBut s.cur.bay u ∧ { u.here with transit := s.here.transit, opCount := s.here.opCount } = s.here

/-- LDB and STB on accumulators (R51 to R56, R97, R261, R310): the rows, one or 32, go to the beat queue of the bay that holds them, at
once to the own bay and on the way to another bay of the partition, loads under a destination hold of their tile rows, stores with the
bytes that the rows hold at issue under a source hold.

LDB and STB on beat memory (R261, R310, R341, R346): the address is translated under the task's ASID, and the rows at the physical
beat address go to the queue of the bay that holds them.

Exec answers a next state here for: ldb, ldb64, stb, stb64. -/
def Obligations.BeatRows : Prop :=
  (∀ (m : MemB) (off5 : BitVec 5) (off16 tag : BitVec 16) (p : Pfx) (s : State) (bay bank row byte : Nat), s.settled m.b →
    let rows := if m.t then (List.range 32).map (32 * m.a.toNat + ·) else [32 * m.a.toNat + m.row.toNat]
    let pa := bay * 2 ^ 30 + bank * 2 ^ 22 + row * 2 ^ 10 + byte
    bay < 256 → s.cur.bay < 256 → s.partOf bay = s.partOf s.cur.bay → s.here.lent = false →
    bank < 256 → row < 16 → byte < 1024 → byte % 128 = 0 → (m.t = true → byte = 0 ∧ row % 4 = 0) →
    (∀ n ∈ rows, s.rowSettled n) →
    let load := BeatOp.load true pa rows
    let store := BeatOp.store true pa (rows.map fun n => s.here.row n)
    let held := rows.map (32 + ·)
    ((s.val m.b + BitVec.ofInt 64 (off5.toInt * 128)).toNat = pa →
      (bay = s.cur.bay → s.sendsBeat (exec (.ldb true m off5 p) s) false p none load held [] ∧
        s.sendsBeat (exec (.stb true m off5 p) s) false p none store [] held) ∧
      (bay ≠ s.cur.bay → s.sendsAfar (exec (.ldb true m off5 p) s) p none load held [] ∧
        s.sendsAfar (exec (.stb true m off5 p) s) p none store [] held)) ∧
    ((s.val m.b + BitVec.ofInt 64 (off16.toInt * 128)).toNat = pa →
      (bay = s.cur.bay → s.sendsBeat (exec (.ldb64 true m off16 tag) s) false .empty (some tag) load held [] ∧
        s.sendsBeat (exec (.stb64 true m off16 tag) s) false .empty (some tag) store [] held) ∧
      (bay ≠ s.cur.bay → s.sendsAfar (exec (.ldb64 true m off16 tag) s) .empty (some tag) load held [] ∧
        s.sendsAfar (exec (.stb64 true m off16 tag) s) .empty (some tag) store [] held))) ∧
  (∀ (m : MemB) (off5 : BitVec 5) (off tag : BitVec 16) (p : Pfx) (ea : Word) (s u : State) (load : Bool) (l : Leaf) (pa : Nat), s.settled m.b →
    let rows := if m.t then (List.range 32).map (32 * m.a.toNat + ·) else [32 * m.a.toNat + m.row.toNat]
    ea.toNat % (if m.t then 4096 else 128) = 0 → s.cur.bay < 256 →
    s.translate (if load then .beatLoad else .beatStore) (s.partOf s.cur.bay) s.here.asid s.here.handler ea.toNat
      (s.freeKey s.cur.bay s.cur.slot 100) = (.ok l pa, u) →
    s.inPart (s.partOf s.cur.bay) (pa / 2 ^ 30) = true → (∀ n ∈ rows, u.rowSettled n) →
    let op := if load then BeatOp.load false pa rows else .store false pa (rows.map fun n => s.here.row n)
    let dest := if load then rows.map (32 + ·) else []
    let src := if load then [] else rows.map (32 + ·)
    let goes (i : Instr) (p : Pfx) (tag : Option (BitVec 16)) : Prop :=
      (pa / 2 ^ 30 = s.cur.bay → u.sendsBeat (exec i s) false p tag op dest src) ∧
      (pa / 2 ^ 30 ≠ s.cur.bay → u.sendsAfar (exec i s) p tag op dest src)
    (ea = s.val m.b + BitVec.ofInt 64 (off5.toInt * 128) → goes (if load then .ldb false m off5 p else .stb false m off5 p) p none) ∧
    (ea = s.val m.b + BitVec.ofInt 64 (off.toInt * 128) → goes (if load then .ldb64 false m off tag else .stb64 false m off tag) .empty (some tag)))

/-- The number that a row register of AOP holds (R272). -/
def Sys2Proof.Machine.aopField (b0 nb n side row : Nat) : Nat := b0 + 2 ^ 8 * nb + 2 ^ 17 * row + 2 ^ 28 * side + 2 ^ 29 * n

/-- AZERO, ADRAIN, ASWAP and AWRITE in both their lengths (R266, R269 to R271): with a legal bank set and row fields the operation goes
to the beat queue, of compute kind for AZERO and ADRAIN and of access kind for ASWAP and AWRITE; none of them holds a register.

AOP.op and ASUM in both their lengths (R272, R273): the operation goes to the beat queue as compute work.

Exec answers a next state here for: azero, azero64, adrain, adrain64, aswap, aswap64, awrite, awrite64, aop, aop64, asum, asum64. -/
def Obligations.BankWork : Prop :=
  (∀ (b c : Reg) (p : Pfx) (x : Stamp) (s : State) (b0 nb : Nat), s.settled b → s.settled c → 1 ≤ nb → b0 < 256 → b0 + nb ≤ 256 →
    ((s.val b).toNat = b0 + 2 ^ 8 * nb →
      (∀ arow cnt, 1 ≤ cnt → arow + cnt ≤ 16 →
        ((s.val c).toNat = arow + 2 ^ 4 * cnt → arow < 16 →
          s.sendsBeat (exec (.azero b c p) s) true p none (.array (.azero b0 nb arow cnt)) [] [] ∧
          s.sendsBeat (exec (.azero64 b c x) s) true .empty (some x.tag) (.array (.azero b0 nb arow cnt)) [] []) ∧
        (∀ brow side (bf hi z : Bool), arow < 16 → brow + cnt ≤ 1536 → side < 2 → (hi = true → bf = true) →
          (s.val c).toNat = arow + 2 ^ 4 * cnt + 2 ^ 9 * brow + 2 ^ 20 * side + 2 ^ 21 * bf.toNat + 2 ^ 22 * hi.toNat + 2 ^ 23 * z.toNat →
          s.sendsBeat (exec (.adrain b c p) s) true p none (.array (.adrain b0 nb arow cnt brow side bf hi z)) [] [] ∧
          s.sendsBeat (exec (.adrain64 b c x) s) true .empty (some x.tag) (.array (.adrain b0 nb arow cnt brow side bf hi z)) [] [])) ∧
      s.sendsBeat (exec (.aswap b p) s) false p none (.aswap b0 nb) [] [] ∧
      s.sendsBeat (exec (.aswap64 b x) s) false .empty (some x.tag) (.aswap b0 nb) [] []) ∧
    (∀ row nrow, 1 ≤ nrow → row + nrow ≤ 1536 → nrow ≤ 1024 → (s.val c).toNat = b0 + 2 ^ 8 * nb + 2 ^ 17 * row + 2 ^ 28 * (nrow - 1) →
      s.ownScratch 128 (nb * nrow * 1024) (s.val b) →
      s.sendsBeat (exec (.awrite b c p) s) false p none (.awrite (s.val b).toNat b0 nb row nrow) [] [] ∧
      s.sendsBeat (exec (.awrite64 b c x) s) false .empty (some x.tag) (.awrite (s.val b).toNat b0 nb row nrow) [] [])) ∧
  (∀ (o : AopOp) (q : AsumOp) (p : Pfx) (x : Stamp) (s : State) (b0 nb n side : Nat), 1 ≤ nb → b0 < 256 → b0 + nb ≤ 256 → 1 ≤ n → n ≤ 64 → side < 2 →
    (∀ d a b, s.settled o.a → s.settled o.b → s.settled o.c → d + n ≤ 1536 → a + n ≤ 1536 → b + n ≤ 1536 →
      (s.val o.a).toNat = aopField b0 nb n side d → (o.op.toNat ≠ 6 → (s.val o.b).toNat = aopField b0 nb n side a) →
      (o.op.toNat ∈ [0, 1, 4] → (s.val o.c).toNat = aopField b0 nb n side b) →
      let two := o.op.toNat ∈ [0, 1, 4]
      let k := if o.op.toNat = 2 then o.c.toNat
        else if o.op.toNat = 3 ∨ o.op.toNat = 6 then (s.val o.c).toNat % 2 ^ aopWidth o.ty.toNat else 0
      let satd := (if s.here.handler then s.here.hfmt else s.here.fmt).getLsbD 15
      let op := ArrayOp.aop o.ty.toNat (o.sat || (o.ty.toNat == 3 && satd)) o.op.toNat b0 nb side d (if o.op.toNat = 6 then 0 else a) (if two then b else 0) n k
      s.sendsBeat (exec (.aop o p) s) true p none (.array op) [] [] ∧
      s.sendsBeat (exec (.aop64 o x) s) true .empty (some x.tag) (.array op) [] []) ∧
    (∀ arow row, s.settled q.b → s.settled q.c → arow < 16 → row + n ≤ 1536 → (s.val q.b).toNat = b0 + 2 ^ 8 * nb →
      (s.val q.c).toNat = row + 2 ^ 11 * side + 2 ^ 12 * n + 2 ^ 19 * arow →
      let op := ArrayOp.asum (q.ty == 1) q.hi b0 nb arow n side row
      s.sendsBeat (exec (.asum q p) s) true p none (.array op) [] [] ∧
      s.sendsBeat (exec (.asum64 q x) s) true .empty (some x.tag) (.array op) [] []))

/-- A tile descriptor that R130 allows, in a register pair of the issuing task. -/
def Sys2Proof.Machine.State.descriptor (s : State) (ra : Nat) (t : TileDesc) : Prop :=
  ra % 2 = 0 ∧ ra ≠ 0 ∧ ra < 32 ∧ s.settled (BitVec.ofNat 5 ra) ∧ s.settled (BitVec.ofNat 5 (ra + 1)) ∧ t.raw = s.val (BitVec.ofNat 5 ra) ∧
    t.raw.toNat = t.bank0 + 2 ^ 8 * t.nb + 2 ^ 17 * t.arow + 2 ^ 21 * t.nrow + 2 ^ 30 * t.ncol ∧
    (s.val (BitVec.ofNat 5 (ra + 1))).toNat = t.divlim + 2 ^ 32 * t.errlim ∧
    1 ≤ t.ncol ∧ t.ncol ≤ 256 ∧ 1 ≤ t.nrow ∧ t.nrow ≤ 256 ∧ 1 ≤ t.nb ∧ t.bank0 + t.nb ≤ 256 ∧ t.bank0 < 256 ∧ t.arow < 16 ∧
    t.arow + ceilDiv t.nrow t.nb ≤ 16 ∧ (t.errlim ≤ 0x7F800000 ∨ t.errlim = 0x80000000) ∧
    (t.divlim ≤ 0x7F800000 ∨ t.divlim = 0x80000000)

/-- CRESP, COPA, COPA.C, CCHK and CSNAP in both their lengths (R130 to R140, R275, R276): the tile of the descriptor, the key, value and
error rows and the step register go to the beat queue as compute work, under holds of the rows that they read and write and of the step
register. A row that an instruction both reads and writes takes the destination hold alone: that is the model's choice (log entry 142), which
R96 and R133 leave open.

Exec answers a next state here for: cresp, cresp64, copa, copa64, copaC, copaC64, cchk, cchk64, csnapSv, csnapSv64, csnapLd, csnapLd64. -/
def Obligations.CorrectingOperations : Prop :=
  ∀ (o : CorrOp) (k : CchkOp) (p : Pfx) (x : Stamp) (s : State) (t : TileDesc),
    let n := o.nm1.toNat + 1
    let gk := ceilDiv t.ncol 32
    let gv := ceilDiv t.nrow 32
    let key := 32 * o.tk.toNat + 8 * o.k8.toNat
    let val := 32 * o.tq.toNat + 8 * o.q8.toNat
    let err := 32 * (o.tq.toNat + 1) + 8 * o.q8.toNat
    let held (row m : Nat) : List Nat := (List.range m).map fun i => 32 + row + i
    let both (i : Instr) (j : Instr) (op : ArrayOp) (dest src : List Nat) : Prop :=
      s.sendsBeat (exec i s) true p none (.array op) dest src ∧ s.sendsBeat (exec j s) true .empty (some x.tag) (.array op) dest src
    let step := s.here.step o.bn.toNat
    let div := step.toNat / 2 ^ 11 % 4
    let beta := if step.getLsbD 9 then [32 + 32 * (step.toNat % 16) + step.toNat / 2 ^ 4 % 32] else []
    let src := held key (n * gk) ++ held val (n * gv) ++ [544 + o.bn.toNat]
    (s.descriptor (2 * o.sp.toNat) t → 8 * o.k8.toNat + n * gk ≤ 32 → 8 * o.q8.toNat + n * gv ≤ 32 →
      both (.cresp o p) (.cresp64 o x) (.cresp t key n val) (held val (n * gv)) (held key (n * gk)) ∧
      (div ≠ 3 → o.e = false → both (.copa o p) (.copa64 o x) (.copa t key val n step none) [] (src ++ beta)) ∧
      (div ≠ 3 → o.e = true → both (.copa o p) (.copa64 o x) (.copa t key val n step (some err)) (held err (n * gv)) (src ++ beta)) ∧
      (div ≠ 3 → step.getLsbD 10 = false → both (.copaC o p) (.copaC64 o x) (.copac t key val n div) [] src)) ∧
    (s.descriptor (2 * k.sp.toNat) t →
      let m := if k.e then k.nm1.toNat + 1 else 0
      k.re.toNat + m * gv ≤ 32 →
      both (.cchk k p) (.cchk64 k x) (.cchk t (32 * k.te.toNat + k.re.toNat) m) [] (held (32 * k.te.toNat + k.re.toNat) (m * gv))) ∧
    (∀ (a b : Reg) (side rowb : Nat), s.descriptor a.toNat t → s.settled b → side < 2 → rowb + ceilDiv t.nrow t.nb ≤ 1536 →
      (s.val b).toNat = rowb + 2 ^ 11 * side →
      both (.csnapSv a b p) (.csnapSv64 a b x) (.csnap false t side rowb) [] [] ∧
      both (.csnapLd a b p) (.csnapLd64 a b x) (.csnap true t side rowb) [] [])

/-- AMAC in both its lengths (R267, R268): n rows streamed in g segments against NBF weights, under source holds of the streamed rows and
of the rows that hold the scales of a block stream; the formats come from the instruction's pfx.fmt, else from fmt.

TMMA in both its lengths (R274): at most four are outstanding on a bay; it starts on its issue cycle or when the one before it
completes, and holds its destination tile and its source tiles. TMMA_COMPLETE, 1,032 cycles after the start, writes the 32 rows and
starts the next.

Exec answers a next state here for: tmmaComplete, amac, amac64, tmma, tmma64. -/
def Obligations.MatrixWork : Prop :=
  (∀ (o : AmacOp) (p : Pfx) (x : Stamp) (s : State) (b0 nb wrow a0 stile srow : Nat),
    let ra : Reg := BitVec.ofNat 5 (2 * o.sp.toNat)
    let f := if s.here.handler then s.here.hfmt.toNat else s.here.fmt.toNat
    let sfmt := match p.fmt1 with
      | some k => k.toNat
      | none => f % 32
    let wfmt := match p.fmt2 with
      | some k => k.toNat
      | none => f / 32 % 32
    let n := o.nm1.toNat + 1
    let g := 2 ^ o.g.toNat
    let src := 32 * o.t.toNat + o.row.toNat
    let scales := ceilDiv (scaleBytes sfmt n) 128
    let blocks := g * blocksPerRow sfmt
    s.settled ra → s.settled (ra + 1) → 1 ≤ nb → b0 < 256 → b0 + nb ≤ 256 → (s.val ra).toNat = b0 + 2 ^ 8 * nb →
    sfmt ∈ [10, 11, 12, 13, 14, 15, 16, 18, 19, 20, 21, 22, 23, 24] → 18 ≤ wfmt → wfmt ≤ 24 → f / 2 ^ 10 % 4 ≤ 1 →
    a0 < 16 → a0 + n / g ≤ 16 → wrow + ceilDiv (blocks * (wfmt - 16)) 2 + ceilDiv blocks 2 ≤ 1536 → wrow < 1536 →
    stile < 16 → srow < 32 → (sfmt < 14 → stile = 0 ∧ srow = 0) → (14 ≤ sfmt → srow + scales ≤ 32) →
    (s.val (ra + 1)).toNat = wrow + 2 ^ 11 * a0 + 2 ^ 15 * srow + 2 ^ 20 * stile →
    let op := ArrayOp.amac src n g b0 nb wrow a0 sfmt wfmt (32 * stile + srow) (f / 2 ^ 10 % 4 == 1)
    let held (row m : Nat) : List Nat := (List.range m).map fun i => 32 + row + i
    s.sendsBeat (exec (.amac o p) s) true p none (.array op) [] (held src n ++ held (32 * stile + srow) scales) ∧
    s.sendsBeat (exec (.amac64 o p x) s) true p (some x.tag) (.array op) [] (held src n ++ held (32 * stile + srow) scales)) ∧
  (∀ (o : TmmaOp) (stamp : BitVec 16) (s : State), s.here.tmmas.length < 4 → s.pkg.poisonTile = [] →
    let rows (t : Nat) : List Nat := (List.range 32).map fun i => 32 + 32 * t + i
    ∀ i ∈ [Instr.tmma o, .tmma64 o stamp],
      ∃ u x, exec i s = .next u ∧ u.here.tmmas = s.here.tmmas ++ [x] ∧ x.op = o ∧ x.hold = s.here.opCount + 1 ∧
        (s.here.tmmas = [] → x.start = s.now) ∧
        u.cur = { s.cur with holds := s.cur.holds ++ [⟨x.hold, true, rows o.a.toNat, none⟩,
          ⟨x.hold, false, (rows o.b.toNat ++ rows o.c.toNat).filter fun r => !(rows o.a.toNat).contains r, none⟩] } ∧
        s.sameBut s.cur.bay u ∧ { u.here with tmmas := s.here.tmmas, opCount := s.here.opCount } = s.here ∧
        (s.here.tmmas = [] → s.cur.bay < 256 → ∃ v, exec (.tmmaComplete s.cur.bay) { u with now := s.now + 1032 } = .next v ∧
          v.here.tmmas = [] ∧ (∀ n, n / 32 ≠ o.a.toNat → v.here.row n = s.here.row n) ∧
          (∀ h r, v.here.scalar h r = s.here.scalar h r) ∧ s.sameBytes v ∧
          (o.ty.toNat = 8 → o.z = true → s.here.pends = [] →
            let values (t : Nat) : List (List Nat) := (List.range 32).map fun j => elems 32 32 (s.here.row (32 * t + j)).toNat
            let out := (tmmaRows (values o.b.toNat) (values o.c.toNat) (List.replicate 32 (List.replicate 32 0))).1
            ∀ j, j < 32 → v.here.row (32 * o.a.toNat + j) = BitVec.ofNat 1024 (packElems 32 (out.getD j []))))) ∧
  (∀ (bay : Nat) (x : Tmma) (rest : List Tmma) (s : State), bay < 256 → (s.bay bay).tmmas = x :: rest → x.start + 1032 ≤ s.now →
    (∀ l ∈ x.src, l.length ≤ 32) →
    ∃ v, exec (.tmmaComplete bay) s = .next v ∧ (v.bay bay).tmmas.map (fun y => (y.op, y.start, y.hold)) = rest.map (fun y => (y.op, y.start, y.hold)) ∧
      (∀ n, n / 32 ≠ x.op.a.toNat → (v.bay bay).row n = (s.bay bay).row n) ∧ (∀ h r, (v.bay bay).scalar h r = (s.bay bay).scalar h r) ∧
      (∀ k, k ≠ bay → v.bay k = s.bay k) ∧ s.sameBytes v)

/-! ## Global accesses and streams (R110 to R125, R263, R264, R293) -/

/-- An instruction completes at issue by sending an access of global memory to the tail of the stream queue that its prefix names (R110):
the entry takes the operation, the virtual address, the scope and the order flags, and the registers that it will write come under a
destination hold. No byte of memory and no register changes; a store may change the bytes of a line copy of the core (R115). -/
def Sys2Proof.Machine.State.sendsGlobal (s : State) (o : Out) (p : Pfx) (op : StreamOp) (ea : Word) (acq rel store : Bool)
    (dest : List Nat) : Prop :=
  ∃ u e, o = .next u ∧ e.op = op ∧ e.va = ea ∧ e.acq = acq ∧ e.rel = rel ∧ e.scope = (pfxStream p).2 ∧ e.stage = .queued ∧
    s.now < e.notBefore ∧ e.id = s.here.opCount + 1 ∧ e.hold = e.id ∧ u.here.opCount = e.id ∧
    (∀ q, Tbl.get [] u.here.sq q = if q = (pfxStream p).1 then Tbl.get [] s.here.sq q ++ [e] else Tbl.get [] s.here.sq q) ∧
    u.cur = { s.cur with holds := s.cur.holds ++ if store then [] else [⟨e.id, true, (dest.filter (· ≠ 0)).map s.here.holdNum, none⟩] } ∧
    s.sameBut s.cur.bay u ∧ ((store = false ∨ s.here.l1 = []) → u.here.l1data = s.here.l1data ∧ u.here.l1ext = s.here.l1ext) ∧
    { u.here with sq := s.here.sq, opCount := s.here.opCount, l1data := s.here.l1data, l1ext := s.here.l1ext } = s.here

/-- LDG, STG and ATOM.op in both their lengths (R110, R263, R264): with an aligned address the access joins its stream queue; with any
other the bundle raises an alignment fault (R255).

Exec answers a next state here for: ldg, ldg64, atom, stg, stg64. -/
def Obligations.GlobalAccess : Prop :=
  ∀ (f : Bool) (m : MemA) (o : AtomOp) (off8 : BitVec 8) (off32 : BitVec 32) (off : Option (BitVec 32)) (p : Pfx) (s : State),
    s.settled m.b → s.settled m.a → s.settled (m.a + 1) → s.settled o.a → s.settled o.b → s.settled o.c → m.size.toNat ≤ 4 →
    let n : Nat := 2 ^ m.size.toNat
    let a8 := s.val m.b + BitVec.ofInt 64 (off8.toInt * n)
    let a32 := s.val m.b + BitVec.ofInt 64 off32.toInt
    let data : List Byte := if n = 16 then leBytes 8 (s.val m.a).toNat ++ leBytes 8 (s.val (m.a + 1)).toNat else leBytes n (s.val m.a).toNat
    let load := StreamOp.load m.a.toNat n m.sx (s.here.bank m.a.toNat)
    let regs := if n = 16 then [m.a.toNat, m.a.toNat + 1] else [m.a.toNat]
    (a8.toNat % n = 0 → s.sendsGlobal (exec (.ldg f m off8 p) s) p load a8 f false false regs ∧
      s.sendsGlobal (exec (.stg f m off8 p) s) p (.store data) a8 false f true []) ∧
    (a32.toNat % n = 0 → s.sendsGlobal (exec (.ldg64 f m off32 p) s) p load a32 f false false regs ∧
      s.sendsGlobal (exec (.stg64 f m off32 p) s) p (.store data) a32 false f true []) ∧
    (a8.toNat % n ≠ 0 → exec (.ldg f m off8 p) s = .next (s.addrFault 0x12 a8) ∧
      exec (.stg f m off8 p) s = .next (s.addrFault 0x12 a8)) ∧
    (let k : Nat := 2 ^ o.size.toNat
     let ea := s.val o.b + match off with
       | some w => BitVec.ofInt 64 w.toInt
       | none => 0
     if ea.toNat % k = 0 then
       s.sendsGlobal (exec (.atom o off p) s) p
         (.atom o.a.toNat k o.op.toNat (s.val o.c) (if o.op = 10 then s.val o.a else 0) (s.here.bank o.a.toNat)) ea o.acq o.rel false [o.a.toNat]
     else exec (.atom o off p) s = .next (s.addrFault 0x12 ea))

/-- What the atomic operations of R264 leave in memory: the old value, the operand and, for CAS, the compare value, of n bytes. -/
def Sys2Proof.Machine.atomic (op n old v cmp : Nat) : Nat :=
  let w := 8 * n
  match op with
  | 0 => (old + v) % 2 ^ w
  | 2 => if signed w old ≤ signed w (v % 2 ^ w) then old else v % 2 ^ w
  | 3 => if signed w old ≤ signed w (v % 2 ^ w) then v % 2 ^ w else old
  | 4 => min old (v % 2 ^ w)
  | 5 => max old (v % 2 ^ w)
  | 6 => old &&& v % 2 ^ w
  | 7 => old ||| v % 2 ^ w
  | 8 => old ^^^ v % 2 ^ w
  | 9 => v % 2 ^ w
  | _ => if old = cmp % 2 ^ w then v % 2 ^ w else old

/-- STREAM_DELIVER on host memory (R113 to R115, R123, R264): the head of a queue whose page is an ordinary one of the host, and whose
line the home holds, is performed. A load takes the bytes of memory, a store puts its bytes there and no other, an atomic does both in
one step; a write then awaits the acknowledgement of its line. The entry leaves its queue and its hold ends on this cycle.

STREAM_DELIVER of a remote-scratch write (R112, R113): its pieces join the scratch timeline of their bay on this cycle, in order, in
the class of writes from other bays; the entry leaves its queue and its hold ends.

Exec answers a next state here for: streamDeliver. -/
def Obligations.StreamDelivery : Prop :=
  (∀ (bay q : Nat) (e : SEntry) (l : Leaf) (pa : Nat) (s s1 : State), bay < 256 → q < 16 → s.deliverable bay q = some e →
    (∀ t ps, e.op ≠ .remote t ps) →
    s.translate e.acc (s.partOf bay) (s.bay bay).asid e.priv e.va.toNat (s.freeKey bay 13 (e.id % 4096)) = (.ok l pa, s1) →
    let n : Nat := match e.op with
      | .load _ n _ _ | .atom _ n _ _ _ _ => n
      | .store data => data.length
      | _ => 0
    l.tgt = 0 → l.w0.testBit 2 = false → l.w0.testBit 3 = false →
    (∀ a, a = pa ∨ (pa ≤ a ∧ a < pa + n) → s1.pkg.sliceOwns.contains (a / 64) = true ∧ s1.poisoned false a = false) → (s.bay bay).l1 = [] →
    ∃ t, exec (.streamDeliver bay q) s = .next t ∧
      Tbl.get [] (t.bay bay).sq q = (Tbl.get [] (s.bay bay).sq q).filter (fun x => x.id != e.id) ∧
      (t.bay bay).holds = ((s.bay bay).endHold s.now e.hold).holds ∧
      t.scratch = s.scratch ∧ t.beat = s.beat ∧ t.acc = s.acc ∧ t.expander = s.expander ∧
      (match e.op with
      | .load r n sx h =>
        let v := s.host.num pa n
        t.host = s.host ∧ (t.bay bay).scalar h r =
          (if r = 0 then 0 else if n = 16 then BitVec.ofNat 64 v else if sx then BitVec.ofInt 64 (signed (8 * n) v) else BitVec.ofNat 64 v) ∧
        (n = 16 → r ≠ 31 → (t.bay bay).scalar h (r + 1) = BitVec.ofNat 64 (v / 2 ^ 64)) ∧
        ∀ h' r', r' ≠ r → (n = 16 → r' ≠ r + 1) → (t.bay bay).scalar h' r' = (s.bay bay).scalar h' r'
      | .store data =>
        (∀ a, t.host.byte a = if pa ≤ a ∧ a < pa + data.length then data.getD (a - pa) 0 else s.host.byte a) ∧
        (∀ h r, (t.bay bay).scalar h r = (s.bay bay).scalar h r) ∧
        (∃ k, t.pkg.acks = s.pkg.acks ++ [⟨pa / 64, bay, (s.bay bay).uid, e.id, s.now + 1 + k, false, q, s.host.bytes (pa / 64 * 64) 64⟩])
      | .atom r n op v cmp h =>
        let old := s.host.num pa n
        (op ≠ 1 → t.host.num pa n = atomic op n old v.toNat cmp.toNat) ∧
        (∀ a, a < pa ∨ pa + n ≤ a → t.host.byte a = s.host.byte a) ∧
        (n ≤ 8 → r ≠ 0 → (t.bay bay).scalar h r = BitVec.ofNat 64 old) ∧
        ∀ h' r', r' ≠ r → (n = 16 → r' ≠ r + 1) → (t.bay bay).scalar h' r' = (s.bay bay).scalar h' r'
      | _ => True)) ∧
  (∀ (bay q target : Nat) (e : SEntry) (ps : List (Nat × List Byte)) (s : State), bay < 256 → q < 16 → s.deliverable bay q = some e →
    e.op = .remote target ps → target ≠ bay →
    ∃ t, exec (.streamDeliver bay q) s = .next t ∧
      (t.bay target).swrites = (s.bay target).swrites ++ ps.map (fun x => ⟨s.now, 1, bay, x.1, x.2⟩) ∧
      Tbl.get [] (t.bay bay).sq q = (Tbl.get [] (s.bay bay).sq q).filter (fun x => x.id != e.id) ∧
      (t.bay bay).holds = ((s.bay bay).endHold s.now e.hold).holds ∧ s.sameBytes t)

/-- R293: FENCE places one marker at the tail of every queue that MASK names, with the scope SC; the marker stands there until
FENCE_MARKER_LEAVE takes the markers of one fence away together, on a cycle on which nothing that the fence waits for stands ahead of
them (R121). Every register of the bay stands. A mask of 0 has no effect. The word 0x6000_6070 is FENCE 0x0003, sc=pkg.

Exec answers a next state here for: fenceMarkerLeave, fence. -/
def Obligations.FenceMarkers : Prop :=
  (∀ (sc : BitVec 3) (mask : BitVec 16) (s : State),
    ∃ t, exec (.fence sc mask) s = .next t ∧ s.sameBut s.cur.bay t ∧ t.cur = s.cur ∧ s.sameBytes t ∧ (mask = 0 → t = s) ∧
      { t.here with sq := s.here.sq, fences := s.here.fences, opCount := s.here.opCount } = s.here ∧
      (mask ≠ 0 → ∃ e, e.op = .marker (s.here.opCount + 1) ∧ e.scope = sc.toNat ∧ t.here.opCount = s.here.opCount + 1 ∧
        t.here.fences = s.here.fences ++ [⟨s.here.opCount + 1, sc.toNat, mask.toNat, false⟩] ∧
        ∀ q, q < 16 → Tbl.get [] t.here.sq q = if mask.getLsbD q then Tbl.get [] s.here.sq q ++ [e] else Tbl.get [] s.here.sq q)) ∧
  (∀ (bay : Nat) (f : Fence) (s : State), bay < 256 → (s.bay bay).fences = [f] → f.bar = false → (s.bay bay).barFence = none →
    ∃ t, exec (.fenceMarkerLeave bay) s = .next t ∧ s.sameBytes t ∧ (s.fenceReady bay f = false → t = s) ∧
      (s.fenceReady bay f = true → (t.bay bay).fences = [] ∧
        ∀ q, q < 16 → Tbl.get [] (t.bay bay).sq q = (Tbl.get [] (s.bay bay).sq q).filter (fun e => e.op != .marker f.n))) ∧
  decodeSlot .c 0x60006070 none .empty 0 = .ok (.fence 3 3)

/-- HOST_ACK, HOST_SNOOP, HOST_CXL_CACHE_RESPONSE and BACK_INVALIDATE_RESPONSE (R123, R125, R381): the oldest write to the line is
acknowledged; a snoop takes the line back with the bytes that it holds, or as poison (R399), acknowledges every write to it and leaves no
copy of it; an answer of the host gives the home the line as the host has left it, owned or shared, and what the host had modified returns
to expander memory, before the accesses that waited go on. That no L1 copy outlives a snoop is the model's reading (log entry 13).

Exec answers a next state here for: hostAck, hostSnoop, backInvalidateResponse, hostCxlCacheResponse. -/
def Obligations.HostLines : Prop :=
  ∀ (line : Nat) (data : Option (BitVec 512)) (s : State),
    (∀ a, s.pkg.acks.find? (fun x => x.line == line) = some a →
      exec (.hostAck line) s = .next { s with pkg := { s.pkg with acks := s.pkg.acks.erase a } }) ∧
    (s.pkg.acks.find? (fun x => x.line == line) = none → exec (.hostAck line) s = .next s) ∧
    (∃ t, exec (.hostSnoop line) s = .next t ∧ t.pkg.sliceOwns.contains line = false ∧ t.pkg.sliceShares.contains line = false ∧
      (∀ k, k ≠ line → t.pkg.sliceOwns.contains k = s.pkg.sliceOwns.contains k) ∧
      t.pkg.acks = s.pkg.acks.filter (fun a => a.line != line) ∧ s.sameBytes t ∧
      (s.pkg.sliceOwns.contains line = true → t.pkg.hostData = s.pkg.hostData ++
        [if s.poisoned false (64 * line) then (1, []) else (0, s.host.bytes (64 * line) 64)]) ∧
      ∀ b, (t.bay b).l1.contains (false, line) = false ∧ { t.bay b with l1 := (s.bay b).l1, l1data := (s.bay b).l1data } = s.bay b) ∧
    (∀ shared : Bool, ∃ u : State, exec (.hostCxlCacheResponse ⟨line, data, shared⟩) s = .next u.retryHome ∧
      (shared = false → u.pkg.sliceOwns.contains line = true ∧ u.pkg.sliceShares.contains line = false) ∧
      (shared = true → u.pkg.sliceShares.contains line = true ∧ u.pkg.sliceOwns = s.pkg.sliceOwns) ∧
      (∀ k, k ≠ line → u.pkg.sliceOwns.contains k = s.pkg.sliceOwns.contains k ∧ u.pkg.sliceShares.contains k = s.pkg.sliceShares.contains k) ∧
      (match data with
      | some d => ∀ a, u.host.byte a = if a / 64 = line then BitVec.ofNat 8 (d.toNat / 256 ^ (a % 64)) else s.host.byte a
      | none => u.host = s.host) ∧
      u.expander = s.expander ∧ u.beat = s.beat ∧ u.acc = s.acc ∧ u.scratch = s.scratch ∧
      (∀ b, { u.bay b with l1 := (s.bay b).l1, l1data := (s.bay b).l1data } = s.bay b) ∧
      (s.pkg.intake = [] → (∀ p, p < 4 → (s.part p).freeing = []) →
        u.retryHome = { u with pkg := { u.pkg with hostServed := s.now + 1 } })) ∧
    (line < 2 ^ 37 → ∃ u : State, exec (.backInvalidateResponse line data) s = .next u.retryHome ∧ u.pkg.hostOwns.contains line = false ∧
      (match data with
      | some d => Tbl.get 0 s.pkg.lineKey line = 0 →
          ∀ a, u.expander.byte a = if a / 64 = line then BitVec.ofNat 8 (d.toNat / 256 ^ (a % 64)) else s.expander.byte a
      | none => u.expander = s.expander) ∧
      u.host = s.host ∧ u.beat = s.beat ∧ u.acc = s.acc ∧ u.scratch = s.scratch ∧
      (s.pkg.intake = [] → (∀ p, p < 4 → (s.part p).freeing = []) →
        u.retryHome = { u with pkg := { u.pkg with hostServed := s.now + 1 } }))

/-! ## Control flow, waits and system registers (R198, R278 to R295, R362 to R368) -/

/-- A branch completes at issue: the next bundle is at an address, or after the gap of this one when the address is none; the scalar
register d takes v after L cycles, with flags f, and nothing else changes; a branch that names no register may leave a drain as it
was. -/
def Sys2Proof.Machine.State.branches (s : State) (o : Out) (goal : Option Nat) (d : Reg := 0) (L : Nat := 1) (v : Word := 0)
    (f : Flags := 0) : Prop :=
  ∃ t, o = .next t ∧ t.cur = { s.cur with next := goal.or s.cur.next } ∧
    let u : State := { t with cur := s.cur }
    s.givesScalar (.next (if d = 0 then u.upd fun b => b.outlast (s.now + L) else u)) d L v f

/-- BR, BZ, BNZ, BCC, CALL, CALLR, RET, JR and LOOP in all their lengths (R198, R280): an offset counts words from the header of the
bundle; a taken branch sends the bay there, one that is not taken leaves it to go on behind the bundle; CALL and CALLR write the address
behind the bundle to s31, LOOP decrements its register and branches while it is not 0. The two cycles of the INVALID flag of BCC.f32 are
the model's bound (log entry 41).

Exec answers a next state here for: br, br64, bz, bz64, bnz, bnz64, bcc, bcc64, call, call64, callr, ret, jr, loop, loop64. -/
def Obligations.Branches : Prop :=
  ∀ (b c : Reg) (cc : BitVec 3) (o9 : BitVec 9) (o14 : BitVec 14) (o24 : BitVec 24) (o32 : BitVec 32) (s : State),
    s.settled b → s.settled c → s.settled 31 →
    let at_ (k : Int) : Nat := (BitVec.ofInt 64 (s.cur.pc + 4 * k)).toNat
    let link := BitVec.ofNat 64 (s.cur.pc + s.cur.len)
    let iff (p : Bool) (k : Int) : Option Nat := if p then some (at_ k) else none
    let x := s.val b
    let y := s.val c
    let sig : Flags := if (fp32 x).isSig || (fp32 y).isSig then fInvalid else 0
    s.branches (exec (.br o24) s) (some (at_ o24.toInt)) ∧ s.branches (exec (.br64 o32) s) (some (at_ o32.toInt)) ∧
    s.branches (exec (.bz b o14) s) (iff (x == 0) o14.toInt) ∧ s.branches (exec (.bz64 b o32) s) (iff (x == 0) o32.toInt) ∧
    s.branches (exec (.bnz b o14) s) (iff (x != 0) o14.toInt) ∧ s.branches (exec (.bnz64 b o32) s) (iff (x != 0) o32.toInt) ∧
    s.branches (exec (.bcc false cc b c o9) s) (iff (condition cc x y) o9.toInt) ∧
    s.branches (exec (.bcc64 false cc b c o32) s) (iff (condition cc x y) o32.toInt) ∧
    s.branches (exec (.bcc true cc b c o9) s) (iff (condF cc.toNat (fp32 x) (fp32 y)) o9.toInt) 0 2 0 sig ∧
    s.branches (exec (.bcc64 true cc b c o32) s) (iff (condF cc.toNat (fp32 x) (fp32 y)) o32.toInt) 0 2 0 sig ∧
    s.branches (exec (.call o24) s) (some (at_ o24.toInt)) 31 1 link ∧ s.branches (exec (.call64 o32) s) (some (at_ o32.toInt)) 31 1 link ∧
    s.branches (exec (.callr b) s) (some x.toNat) 31 1 link ∧ s.branches (exec .ret s) (some (s.val 31).toNat) ∧
    s.branches (exec (.jr b) s) (some x.toNat) ∧
    s.branches (exec (.loop b o14) s) (iff (x != 1) o14.toInt) b 1 (x - 1) ∧
    s.branches (exec (.loop64 b o32) s) (iff (x != 1) o32.toInt) b 1 (x - 1)

/-- A trap has been taken on a bay (R362): the trap registers hold what it saved, the bay is in handler mode and goes on at TRAPVEC after
every short result in flight has landed; every register of the task stands, and nothing else of the machine changes. -/
def Sys2Proof.Machine.State.trapped (s t : State) (bay : Nat) (r : Report) (pc : Nat) : Prop :=
  let b := s.bay bay
  let c := t.bay bay
  s.sameBut bay t ∧ c.handler = true ∧ c.pc = (s.part (s.partOf bay)).trapvec.toNat ∧ c.trappc.toNat = pc % 2 ^ 57 ∧
    c.cause.toNat = r.cause % 256 + (if b.handler then 0x100 else 0) + (if b.lost then 0x200 else 0) + (if b.ended.isSome then 0x400 else 0) ∧
    c.info0 = r.i0 ∧ c.info1 = r.i1 ∧ c.info2 = r.i2 ∧ c.info3 = r.i3 ∧ c.lost = false ∧ c.due = none ∧ c.checkTarget = true ∧
    s.now < c.nextAt ∧ (∀ p ∈ b.pends, p.due < c.nextAt) ∧ c.pends = b.pends ∧ c.task = b.task ∧ c.ended = b.ended ∧
    (∀ h n, c.scalar h n = b.scalar h n) ∧ (∀ n, c.row n = b.row n) ∧ Bay.sameSpecial b c ∧ c.stat = b.stat ∧ c.hstat = b.hstat

/-- R281: TRAP and SYS raise their trap after every slot of their bundle has issued, TRAP with cause 0x18 and SYS with cause 0x17; TRAPPC
holds the next bundle, and TRAPINFO0 the immediate, zero-extended. The bundle that has issued in full leaves the bay at the next bundle
with that trap due, and TRAP_TAKE takes it there in task mode.

Exec answers a next state here for: trapTake, trap, sys. -/
def Obligations.TrapAndSys : Prop :=
  ∀ (imm : BitVec 16) (s : State),
    (∀ x ∈ [(Instr.trap imm, 0x18), (Instr.sys imm, 0x17)],
      exec x.1 s = .next { s with cur := { s.cur with after := some ⟨x.2, BitVec.ofNat 64 imm.toNat, 0, 0, 0⟩ } }) ∧
    (∀ l, s.here.task.isSome → ((s.retire l).bay s.cur.bay).due = s.cur.after ∧
      ((s.retire l).bay s.cur.bay).pc = (match s.cur.next with
        | some a => a
        | none => s.cur.pc + s.cur.len)) ∧
    (∀ (bay : Nat) (r : Report), bay < 256 → (s.bay bay).task.isSome → (s.bay bay).stopped = false → (s.bay bay).save = none →
      (s.bay bay).handler = false → (s.bay bay).due = some r →
      ∃ t, exec (.trapTake bay) s = .next t ∧ s.trapped t bay r (s.bay bay).pc)

/-- The bundle does not issue on this cycle, and nothing changes (R288). -/
def Sys2Proof.Machine.State.waits (s : State) (o : Out) (w : Wait) : Prop := o = .next { s with cur := { s.cur with wait := some w } }

/-- END (R282): a task that holds no lease issues nothing more, arrived at every later barrier of its gang; its registers and every
memory stand.

BAR (R292): a bay whose barrier has not opened waits; it issues on the cycle after the opening, when it gives its arrival up. The
markers of a gang of one open its barrier when they leave.

Exec answers a next state here for: fenceMarkerLeave, endTask, bar. -/
def Obligations.EndAndBarrier : Prop :=
  (∀ (s : State), s.leasesOf s.here.uid = [] →
    ∃ t, exec .endTask s = .next t ∧ t.cur = s.cur ∧ t.here.ended = some s.cur.pc ∧ t.dies = s.dies ∧ t.parts = s.parts ∧ t.pkg = s.pkg ∧
      s.sameBytes t ∧ { t.here with ended := s.here.ended, barOpen := s.here.barOpen } = s.here ∧
      (s.here.handler = false → t.mayIssue s.cur.bay = false)) ∧
  ((∀ (sc : BitVec 3) (s : State),
    (s.here.barOpen = none → s.waits (exec (.bar sc) s) (.bar sc.toNat)) ∧
    (∀ k, s.here.barOpen = some k → (s.now < k → s.waits (exec (.bar sc) s) .plain) ∧
      (k ≤ s.now → ∃ t, exec (.bar sc) s = .next t ∧ t.cur = s.cur ∧ s.sameBut s.cur.bay t ∧ t.here.barOpen = none ∧ t.here.arrived = false ∧
        { t.here with barOpen := s.here.barOpen, arrived := s.here.arrived } = s.here))) ∧
  (∀ (bay : Nat) (f : Fence) (s : State), bay < 256 → (s.bay bay).fences = [f] → (s.bay bay).barFence = some f.n → (s.bay bay).barOpen = none →
    (s.bay bay).task.isSome → (s.bay bay).empty = false → (∀ k, k ≠ bay → (s.bay k).task = none) → s.gangAway bay = [] →
    s.fenceReady bay f = true →
    ∃ t, exec (.fenceMarkerLeave bay) s = .next t ∧ (t.bay bay).barOpen = some (s.now + 1) ∧ (t.bay bay).arrived = true ∧
      (t.bay bay).barFence = none ∧ s.sameBytes t))

/-- WAITC, WAITW and WAITL (R151, R162, R288 to R291): the bundle goes on when no hold lies on the register, when a sample of an earlier
cycle saw a nonzero STATUS, when every command of the channel has filled its destination up to the byte, or when the lease is READY;
until then it waits and nothing changes. A word in host memory is read once its home holds the line (R381); a poisoned word is reported
and not used (R47).

Exec answers a next state here for: waitw, waitl, waitcReg, waitcWord, waitcG. -/
def Obligations.Waits : Prop :=
  ∀ (n : BitVec 10) (ch : BitVec 3) (b : Reg) (s : State), s.settled b →
    (s.here.held s.now n.toNat false = false → exec (.waitcReg n) s = .next s) ∧
    (s.here.held s.now n.toNat false = true → s.waits (exec (.waitcReg n) s) .plain) ∧
    (s.ownScratch 8 8 (s.val b) → ∀ r, s.sectorReport 1 s.cur.bay (s.val b).toNat 8 = some r → s.cur.fault = none →
      exec (.waitcWord b) s = .next { s with cur := { s.cur with fault := some r } }) ∧
    (s.ownScratch 8 8 (s.val b) → s.sectorReport 1 s.cur.bay (s.val b).toNat 8 = none →
      (s.here.waitSeen = none → s.waits (exec (.waitcWord b) s)
        (.sampled (s.scratchBytes s.cur.bay (s.val b).toNat 1 != [0]))) ∧
      (∀ k, s.here.waitSeen = some k → k < s.now → ∃ t, exec (.waitcWord b) s = .next t ∧ t.cur = s.cur ∧ s.sameBut s.cur.bay t ∧
        t.here.waitSeen = none ∧ { t.here with waitSeen := some k } = s.here)) ∧
    (∀ (l : Leaf) (pa : Nat) (s1 : State), (s.val b).toNat % 8 = 0 →
      s.translate .load (s.partOf s.cur.bay) s.here.asid s.here.handler (s.val b).toNat (s.freeKey s.cur.bay s.cur.slot 102) = (.ok l pa, s1) →
      l.tgt = 0 → l.w0.testBit 2 = false → l.w0.testBit 3 = false →
      (s1.hostHolds [(false, pa / 64)] = true → s1.waits (exec (.waitcG b) s) .plain) ∧
      ((∀ a, pa ≤ a → a < pa + 8 → s1.hostHolds [(false, a / 64)] = false ∧ s1.poisoned false a = false) →
      (s.here.waitSeen = none → s1.waits (exec (.waitcG b) s) (.sampled (s.host.byte pa != 0))) ∧
      (∀ k, s.here.waitSeen = some k → k < s.now → ∃ t, exec (.waitcG b) s = .next t ∧ t.cur = s.cur ∧ s1.sameBut s.cur.bay t ∧
        t.here.waitSeen = none))) ∧
    ((s.val b).toNat < 2 ^ 57 →
      let short (c : Cmd) : Prop := ∃ d k, c.dest = some (d, k) ∧ d.addr < (s.val b).toNat ∧ (s.val b).toNat ≤ d.addr + k ∧
        d.addr + c.wm < (s.val b).toNat
      ((∀ c ∈ s.cmds (.btx s.cur.bay ch.toNat), ¬ short c) → exec (.waitw ch b) s = .next s) ∧
      ((∃ c ∈ s.cmds (.btx s.cur.bay ch.toNat), short c) → s.waits (exec (.waitw ch b) s) .plain)) ∧
    (∀ die i, s.here.empty = false → s.val b = handleOf die i (s.leaseOf die i) → die < 4 → i < 4096 → (s.leaseOf die i).task = s.here.uid →
      (s.leaseOf die i).cls < 8 → (s.leaseOf die i).gen < 65536 →
      ((s.leaseOf die i).state = 3 → exec (.waitl b) s = .next s) ∧
      ((s.leaseOf die i).state = 1 ∨ (s.leaseOf die i).state = 2 → s.waits (exec (.waitl b) s) .plain))

/-- The system registers of a bay with numbers from 0x100 that hold what is written to them (R368), with the bits that a write
reaches. -/
def Sys2Proof.Machine.bayRegisters : List (Nat × Word) :=
  [(0x100, 0x7FF), (0x101, 0x01FFFFFFFFFFFFFF), (0x102, BitVec.allOnes 64), (0x103, BitVec.allOnes 64), (0x104, BitVec.allOnes 64),
   (0x105, BitVec.allOnes 64)]

/-- Those of a partition and of a die, which every bay of it reads. -/
def Sys2Proof.Machine.sharedRegisters : List (Nat × Word) :=
  [(0x106, 0x01FFFFFFFFFFFFFF), (0x120, 0xFFFF), (0x121, 0xFFFFFFFF), (0x130, 0x01FFFFFFFFFFFFFF),
   (0x140, 0x01FFFFFFFFFF0001), (0x143, 0x01FFFFFFFFFF0000), (0x144, 0x01FFFFFFFFF80001)]

/-- The system registers as they stand: the trap registers and CTXBASE of the bay, the registers of its partition and its die, FRZVER and
BEATOFF; PREEMPT and RGNKILL read 0 (R368). -/
def Sys2Proof.Machine.State.systemValues (s : State) : List (Nat × Word) :=
  let b := s.here
  let p := s.part (s.partOf s.cur.bay)
  [(0x100, b.cause), (0x101, b.trappc), (0x102, b.info0), (0x103, b.info1), (0x104, b.info2), (0x105, b.info3), (0x106, p.trapvec),
   (0x107, b.ctxbase), (0x108, BitVec.ofNat 64 s.pkg.frzver), (0x109, 0), (0x10A, BitVec.ofInt 64 b.beatoff), (0x120, p.plandef),
   (0x121, (s.die (s.cur.bay / 64)).drowsyhold), (0x130, p.rgnanch), (0x131, 0), (0x140, p.asidtb), (0x143, p.fpool), (0x144, p.hwtab)]

/-- RDSYS and WRSYS (R295, R368): RDSYS returns a system register two cycles later, and the task's special registers under their numbers;
WRSYS writes the bits that the register lets a write reach and no other register; a write of a register that other bays see too, of
PREEMPT, RGNKILL or BFORM is acted on from the next cycle: REGISTER_WRITE, which also stands for system software (log entry 103), makes
the write. BFORM_WRITE (R347) sets the form of the frame that its value names, in whichever bay; that it has no effect where the value
names no frame is the model's reading (log entry 152). No byte of memory changes.

Exec answers a next state here for: bformWrite, rdsys, wrsys. -/
def Obligations.SystemRegisters : Prop :=
  ∀ (b d : Reg) (s : State), s.settled b → s.here.empty = false →
    (∀ x ∈ s.systemValues, s.givesScalar (exec (.rdsys (BitVec.ofNat 9 x.1) d) s) d 2 x.2 0) ∧
    (∀ t, s.here.task = some t → s.cur.bay < 256 → ∀ x ∈ s.specials t, x.1 ≠ 1 →
      s.givesScalar (exec (.rdsys (BitVec.ofNat 9 x.1) d) s) d 2 x.2 0) ∧
    s.givesScalar (exec (.rdsys 1 d) s) d 2 s.here.fmt 0 ∧
    (let writes (o : Out) (v : Word) (x : Nat × Word) : Prop := ∃ t, o = .next t ∧ t.cur = s.cur ∧
       t.systemValues = s.systemValues.map (fun y => (y.1, if y.1 = x.1 then v &&& x.2 else y.2)) ∧ s.sameBytes t ∧ t.pkg = s.pkg ∧
       t.inputs = s.inputs ∧ t.now = s.now ∧ (∀ h r, t.here.scalar h r = s.here.scalar h r)
     let outer (n : Nat) (v : Word) : Instr := .registerWrite (2 ^ 16 * (1 + s.cur.bay) + n) v
     (∀ x ∈ bayRegisters, writes (exec (.wrsys (BitVec.ofNat 9 x.1) b) s) (s.val b) x) ∧
     (∀ x ∈ sharedRegisters, exec (.wrsys (BitVec.ofNat 9 x.1) b) s = .next { s with inputs := (s.now + 1, outer x.1 (s.val b)) :: s.inputs }) ∧
     (s.cur.bay < 256 → s.pkg.recovery = false → ∀ v, ∀ x ∈ bayRegisters ++ sharedRegisters, writes (exec (outer x.1 v) s) v x)) ∧
    (∀ x ∈ writable, x.1 ≠ 1 → s.givesSpecial (exec (.wrsys (BitVec.ofNat 9 x.1) b) s) x.1 x.2.2 (s.val b &&& x.2.1) (BitVec.allOnes 64)) ∧
    (let p := s.partOf s.cur.bay
     ∀ x ∈ [((0x109 : BitVec 9), Instr.preemptWrite p (s.val b)), (0x131, .rgnkillWrite p (s.val b)), (0x141, .bformWrite s.cur.bay (s.val b))],
      exec (.wrsys x.1 b) s = .next { s with inputs := (s.now + 1, x.2) :: s.inputs } ∧ Instr.fromOutside x.2 = true) ∧
    (∀ bay v f : Nat, bay < 256 → v % 65536 = 0 → v < 2 ^ 40 → f < 3 →
      (v < 2 ^ 38 → v / 65536 % 32 < 24 → ∃ t, exec (.bformWrite bay (BitVec.ofNat 64 (v + 2 ^ 62 * f))) s = .next t ∧ s.sameBytes t ∧
        t.readSystem bay 0x141 = BitVec.ofNat 64 (v + 2 ^ 62 * f) ∧
        (∀ c k, c ≠ v / 2 ^ 30 ∨ k ≠ v / 65536 % 2 ^ 14 → Tbl.get 0 (t.bay c).forms k = Tbl.get 0 (s.bay c).forms k) ∧
        ∀ c, { t.bay c with forms := (s.bay c).forms, bform := (s.bay c).bform } = s.bay c) ∧
      (2 ^ 38 ≤ v ∨ 24 ≤ v / 65536 % 32 → exec (.bformWrite bay (BitVec.ofNat 64 (v + 2 ^ 62 * f))) s = .next s))

/-! ## Leases and tack engines (R141 to R152, R157, R158, R291, R298) -/

/-- A lease record of a die after LEASE (R144, R145): its class, its task and bay, its effective priority, its request cycle and its
deadline; its GEN stands, and so does every other record but one. -/
def Sys2Proof.Machine.State.records (s t : State) (die i cls prio v state : Nat) (other : Option Nat) : Prop :=
  let l := t.leaseOf die i
  let k := s.leaseOf die i
  l.state = state ∧ l.gen = k.gen ∧ l.cls = cls ∧ l.bay = s.cur.bay ∧ l.task = s.here.uid ∧ l.requested = s.now ∧
    l.prio = max prio (match s.here.task with
      | some x => x.cls
      | none => 0) ∧
    l.deadline = (if v = 0 then none else some (s.here.fb + v).toNat) ∧ (∀ j, j ≠ i → other ≠ some j → t.leaseOf die j = s.leaseOf die j) ∧
    t.now = s.now ∧ s.sameBytes t ∧ t.pkg = s.pkg ∧ t.parts = s.parts

/-- LEASE (R143, R144, R147, R148, R150, R157): sb[63:32] is 0 and the task holds fewer than 16 leases. With a saddle and an engine free
the record is WAKING on that engine, awake 96 cycles later from drowsy and 3,200 from cold. A class-0 lease that finds no saddle takes a
victim, which gets 512 cycles of notice. Any other lease is QUEUED. In each case sd takes the handle two cycles later. A lease from the
reservation of its region takes an engine of it, READY at the later of 96 cycles after issue and 3,200 cycles after the launch on the die;
that it waits, assured, while 28 saddles are held is the model's choice (log entry 146), and so is the record that a LEASE takes, the
lowest that is FREE (log entry 56). A task of a D region beyond its reservation takes the lease-late
fault.

UNLEASE and LSTAT (R145, R146, R150, R152, R298): UNLEASE of a granted lease whose engine has no command frees the record, whose GEN
advances, and sends the engine drowsy without a saddle, both to be granted from the next cycle; an EVICTED record becomes FREE; a handle of another generation or of a FREE record
does nothing. LSTAT returns the status word: the state, RESERVED of a lease that holds a saddle, NOTICE, the commands outstanding and the
place in the queue.

Exec answers a next state here for: lease, unlease, lstat. -/
def Obligations.Leases : Prop :=
  (∀ (d b : Reg) (cls : BitVec 3) (prio : BitVec 2) (s : State), s.settled b → (s.val b).toNat < 2 ^ 32 →
    (s.leasesOf s.here.uid).length < 16 →
    let die := s.cur.bay / 64
    let i := s.freeRecord die
    let c := cls.toNat
    let v := (s.val b).toNat
    let handle := BitVec.ofNat 64 ((s.leaseOf die i).gen % 2 ^ 16 * 2 ^ 32 + c * 2 ^ 14 + die * 2 ^ 12 + i)
    let gives (t : State) : Prop := s.givesScalar (.next { t with dies := s.dies }) d 2 handle 0
    let pr := max prio.toNat (match s.here.task with
      | some x => x.cls
      | none => 0)
    let shut : Prop := s.freeSaddles die = 0 ∨ 2 ≤ (s.die die).thermal ∨ s.freeEngine die c = none
    s.here.empty = false →
    (∀ u, s.ownLeft die c s.here.node = true → s.ownEngine die c s.here.node = some u →
      (s.ownSaddle die u = true → ∃ t, exec (.lease d b cls prio) s = .next t ∧ gives t ∧ s.records t die i c prio.toNat v 2 none ∧
        (t.leaseOf die i).reserved = true ∧ (t.leaseOf die i).unit = u ∧ (t.engOf die u).lease = some i ∧
        ∀ n k, Tbl.get none s.pkg.nodes s.here.node = some n → n.launched.find? (fun y => y.1 == die) = some (die, k) →
          (t.leaseOf die i).readyAt = max (s.now + 96) (k + 3200)) ∧
      (s.ownSaddle die u = false → ∃ t, exec (.lease d b cls prio) s = .next t ∧ gives t ∧ s.records t die i c prio.toNat v 1 none ∧
        (t.leaseOf die i).reserved = true ∧ (t.leaseOf die i).aside = 2)) ∧
    ((∀ u, u / 16 = c → ¬ ((s.engOf die u).reserved = some s.here.node ∧ (s.engOf die u).lease = none)) →
    (s.here.det = true → exec (.lease d b cls prio) s = .next (s.raise ⟨0x0F, 0, 2, 0, 0⟩)) ∧
    (s.here.det = false →
      (∀ u, ¬ shut → s.freeEngine die c = some u → ∃ t, exec (.lease d b cls prio) s = .next t ∧ gives t ∧
        s.records t die i c prio.toNat v 2 none ∧ (t.leaseOf die i).unit = u ∧ (t.engOf die u).lease = some i ∧
        (t.leaseOf die i).readyAt = s.now + (if (s.engOf die u).power = 0 then 3200 else 96)) ∧
      (∀ w, s.freeSaddles die = 0 → pr = 0 → s.pickVictim die c = some w → w ≠ i →
        ∃ t, exec (.lease d b cls prio) s = .next t ∧ gives t ∧ s.records t die i c prio.toNat v 1 (some w) ∧
          (t.leaseOf die i).victim = some w ∧ (t.leaseOf die w).notice = some (s.now + 512, i) ∧ (t.leaseOf die w).state = (s.leaseOf die w).state) ∧
      (shut → pr ≠ 0 ∨ s.freeSaddles die ≠ 0 ∨ s.pickVictim die c = none → ∃ t, exec (.lease d b cls prio) s = .next t ∧ gives t ∧ s.records t die i c prio.toNat v 1 none ∧
        (t.leaseOf die i).victim = none ∧ ∀ u, t.engOf die u = s.engOf die u)))) ∧
  (∀ (d b : Reg) (die i : Nat) (s : State), s.settled b → s.here.empty = false → die < 4 → i < 4096 →
    let l := s.leaseOf die i
    l.cls < 7 → l.gen < 65536 →
    let h := BitVec.ofNat 64 (l.gen * 2 ^ 32 + l.cls * 2 ^ 14 + die * 2 ^ 12 + i)
    (s.val b = h → l.task = s.here.uid →
      (l.state = 2 ∨ l.state = 3 → l.notice = none → s.cmds (.tack die l.unit) = [] →
        ∃ t, exec (.unlease b) s = .next t ∧ t.cur = s.cur ∧ s.sameBytes t ∧ t.bays = s.bays ∧ t.pkg = s.pkg ∧
          (t.leaseOf die i).state = 0 ∧ (t.leaseOf die i).gen = (l.gen + 1) % 65536 ∧ (∀ j, j ≠ i → t.leaseOf die j = s.leaseOf die j) ∧
          (t.engOf die l.unit).lease = none ∧ (t.engOf die l.unit).power = 1 ∧ (t.engOf die l.unit).since = s.now ∧
          (t.engOf die l.unit).freeAt = s.now + 1 ∧ (t.engOf die l.unit).saddleAt = s.now + 1 ∧ ∀ u, u ≠ l.unit → t.engOf die u = s.engOf die u) ∧
      (l.state = 4 → ∃ t, exec (.unlease b) s = .next t ∧ t.bays = s.bays ∧ (t.leaseOf die i).state = 0 ∧
        (t.leaseOf die i).gen = (l.gen + 1) % 65536) ∧
      (l.state = 2 ∨ l.state = 3 → s.givesScalar (exec (.lstat d b) s) d 2
        (BitVec.ofNat 64 (l.state + (if l.reserved then 2 ^ 6 else 0) + (if l.notice.isSome then 2 ^ 7 else 0) +
          2 ^ 8 * ((s.cmds (.tack die l.unit)).filter fun c => !c.past).length)) 0) ∧
      (l.state = 1 → l.victim = none → l.aside = 0 → ∃ q, (s.leaseQueue die l.cls).getD q 0 = i ∧ s.givesScalar (exec (.lstat d b) s) d 2
        (BitVec.ofNat 64 (1 + (if l.notice.isSome then 2 ^ 7 else 0) + 2 ^ 8 * l.cmds.length + 2 ^ 32 * q)) 0) ∧
      (l.state = 4 → exec (.lstat d b) s = .next (s.raise ⟨0x0E, h, 1, 0, 0⟩))) ∧
    (handleDie (s.val b) = die → handleIndex (s.val b) = i → (l.state = 0 ∨ (s.val b).toNat / 2 ^ 32 % 2 ^ 16 ≠ l.gen) →
      exec (.unlease b) s = .next s) ∧
    (s.val b = h → l.state ≠ 0 → l.task ≠ s.here.uid → exec (.unlease b) s = .next (s.raise ⟨0x11, 0x0201, 0, 0, 0⟩) ∧
      exec (.lstat d b) s = .next (s.raise ⟨0x11, 0x0201, 0, 0, 0⟩)))

/-- LEASE_GRANT, LEASE_WAKE_COMPLETE, LEASE_DEADLINE_PASS and EVICTION_GRACE_END (R143, R148 to R150, R158): the queue head that a free
saddle and engine go to starts to wake; a lease whose bound is reached is READY and its engine awake; a queued lease whose deadline has
passed is FREE and its task takes the lease-late fault; at the end of its grace a victim without commands is EVICTED and its saddle passes
to the evicting lease.

DROWSY_HOLD_EXPIRE and RESERVED_ENGINE_DROWSY (R142, R147): an unreserved drowsy engine without a saddle is cold after DROWSYHOLD
cycles, and a cold engine that a reservation has taken is drowsy at its time; nothing else of the machine changes.

Exec answers a next state here for: leaseGrant, leaseWakeComplete, leaseDeadlinePass, evictionGraceEnd, drowsyHoldExpire,
reservedEngineDrowsy. -/
def Obligations.LeaseEvents : Prop :=
  (∀ (die i u : Nat) (s : State), die < 4 →
    let l := s.leaseOf die i
    ((s.die die).grantAt ≤ s.now → s.nextGrant die = some (i, u) → ∃ t, exec (.leaseGrant die) s = .next t ∧ (t.leaseOf die i).state = 2 ∧
      (t.leaseOf die i).unit = u ∧ (t.leaseOf die i).granted = s.now ∧ (t.engOf die u).lease = some i ∧
      (t.engOf die u).cmds = (s.engOf die u).cmds ++ l.cmds ∧
      (l.aside ≠ 2 → (t.leaseOf die i).readyAt = s.now + (if (s.engOf die u).power = 0 then 3200 else 96)) ∧
      (l.aside = 2 → (t.leaseOf die i).reserved = true ∧ s.now + 96 ≤ (t.leaseOf die i).readyAt) ∧ t.bays = s.bays ∧ s.sameBytes t) ∧
    (l.state = 2 → l.readyAt ≤ s.now → ∃ t, exec (.leaseWakeComplete die i) s = .next t ∧ (t.leaseOf die i) = { l with state := 3 } ∧
      (t.engOf die l.unit) = { s.engOf die l.unit with power := 2 } ∧ t.bays = s.bays ∧ s.sameBytes t) ∧
    (∀ k, l.state = 1 → l.victim = none → l.aside = 0 → l.deadline = some k → k < s.now → l.cmds = [] → ∃ t q,
      exec (.leaseDeadlinePass die i) s = .next t ∧ (t.leaseOf die i).state = 0 ∧ (t.leaseOf die i).gen = (l.gen + 1) % 65536 ∧
      t.pkg.outbox = s.pkg.outbox ++ [⟨l.bay, l.task, ⟨0x0F, handleOf die i l, 1,
        BitVec.ofNat 64 (k - (s.part (s.partOfDie die)).formed), BitVec.ofNat 64 q⟩, false, 0⟩] ∧
      t.bays = s.bays ∧ s.sameBytes t) ∧
    (∀ k j, l.notice = some (k, j) → k ≤ s.now → j ≠ i → s.cmds (.tack die l.unit) = [] → (s.engOf die l.unit).closing = false →
      l.cls = l.unit / 16 → l.cls = (s.leaseOf die j).cls → ∃ t w, exec (.evictionGraceEnd die i) s = .next t ∧ (t.leaseOf die i).state = 4 ∧
        (t.leaseOf die i).notice = none ∧ (t.leaseOf die j).state = 2 ∧ (t.leaseOf die j).unit = w ∧ (t.engOf die w).lease = some j ∧
        (t.leaseOf die j).readyAt = s.now + 96 ∧ t.bays = s.bays ∧ s.sameBytes t)) ∧
  (∀ (die u : Nat) (s : State), die < 4 → u < 112 →
    let x := s.engOf die u
    let becomes (o : Out) (y : Eng) : Prop := ∃ t, o = .next t ∧ t.engOf die u = y ∧ (∀ k, k ≠ u → t.engOf die k = s.engOf die k) ∧
      (∀ k, k ≠ die → t.die k = s.die k) ∧ (t.die die).leases = (s.die die).leases ∧ t.bays = s.bays ∧ t.pkg = s.pkg ∧ s.sameBytes t
    (x.power = 1 → x.reserved = none → x.lease = none → x.closing = false → x.since + (s.die die).drowsyhold.toNat ≤ s.now →
      becomes (exec (.drowsyHoldExpire die u) s) { x with power := 0 }) ∧
    (x.power = 0 → x.reserved.isSome → x.since ≤ s.now →
      becomes (exec (.reservedEngineDrowsy die u) s) { x with power := 1, since := s.now }))

/-! ## Engine commands (R104, R116, R118, R153 to R155, R160 to R163, R296 to R308) -/

/-- The task of the bundle may give commands, and their completion word is an aligned word of own scratch (R154, R297). -/
def Sys2Proof.Machine.State.commands (s : State) (o : EOp) : Prop :=
  s.here.empty = false ∧ s.here.phaseOn = false ∧ s.here.det = false ∧ o.wg = false ∧ s.settled o.b ∧ s.settled o.c ∧ s.ownScratch 8 8 (s.val o.c)

/-- A command is accepted at issue (R153, R297): it carries what it read and its flags; the registers and memories stand. -/
def Sys2Proof.Machine.State.accepts (s u : State) (c : Cmd) (o : EOp) (k : CmdKind) (par lease : Nat) : Prop :=
  c.kind = k ∧ c.id = s.here.opCount + 1 ∧ c.bay = s.cur.bay ∧ c.task = s.here.uid ∧ c.issued = s.now ∧ c.abs = s.now ∧ c.acq = o.acq ∧ c.rel = o.rel ∧
    c.wg = false ∧ c.scope = (pfxStream o.p).2 ∧ c.par = par ∧ c.lease = lease ∧ c.word = s.val o.c ∧ c.started = none ∧ c.result = none ∧
    u.cur = s.cur ∧ u.here.opCount = s.here.opCount + 1 ∧ (∀ h r, u.here.scalar h r = s.here.scalar h r) ∧ u.here.holds = s.here.holds ∧
    u.here.pends = s.here.pends ∧ u.pkg = s.pkg ∧ u.now = s.now ∧ s.sameBytes u

/-- n bytes from an address stay in their space, and the space is one of R161. -/
def Sys2Proof.Machine.State.reaches (s : State) (a : SAddr) (n : Nat) : Prop :=
  a.space ≤ 5 ∧ match a.space with
  | 1 => a.addr + n ≤ 2 ^ 20
  | 2 => a.addr < 2 ^ 28 ∧ s.partOf (a.addr / 2 ^ 20) = s.partOf s.cur.bay ∧ a.addr % 2 ^ 20 + n ≤ 2 ^ 20
  | 3 => a.addr + n ≤ 2 ^ 22
  | 5 => a.addr / 2 ^ 30 = s.cur.bay ∧ a.addr % 2 ^ 21 + n ≤ 1536 * 1024
  | _ => True

/-- Rows of beat memory and accumulators move whole: with one of the spaces 3 and 5, addresses and length are multiples of 128. -/
def Sys2Proof.Machine.rowsWhole (a b : SAddr) (n : Nat) : Prop :=
  (a.space = 3 ∨ a.space = 5 ∨ b.space = 3 ∨ b.space = 5) → a.addr % 128 = 0 ∧ b.addr % 128 = 0 ∧ n % 128 = 0

/-- The commands of tack engines with the class that serves each (R141), in both their lengths. -/
noncomputable def Sys2Proof.Machine.tackCommands : List ((EOp → Instr) × (EOp → BitVec 16 → Instr) × CmdKind × Nat) :=
  [(.xsolv, .xsolv64, .xsolv, 0), (.xsrt, .xsrt64, .xsrt, 1), (.xmrg, .xmrg64, .xmrg, 1), (.xred, .xred64, .xred, 2),
   (.xqnt, .xqnt64, .xqnt, 3), (.xcoll, .xcoll64, .xcoll, 4), (.xatt, .xatt64, .xatt, 5), (.xkvt, .xkvt64, .xkvt, 5),
   (.xsplc, .xsplc64, .xsplc, 5), (.xcmp, .xcmp64, .xcmp, 6), (.xdcmp, .xdcmp64, .xdcmp, 6)]

/-- XCPY, XGTH, XSCT and SPAWN in both their lengths, and XPUSH (R153, R160, R163, R299 to R301, R308): a command whose operands are legal
joins the timetable of its channel, in the order of its cycle, while that holds fewer than 64; with 64 it is refused and only its completion
word is still written, with STATUS 5. That SPAWN joins such a list of its own, with the same bound, is the model's choice (log entry 58). XPUSH appends sb[31:0] to the index queue of its channel, which holds 256.

The commands of tack engines (R141, R146, R153, R296, R297, R302 to R307): with a handle of the task for a lease of the command's
class and an aligned parameter block in own scratch, the command joins the timetable of its engine, or the record of a lease that is still
queued; each holds 16. XSPLC_DONE names a splice record. Of another class the command raises a protection fault, detail 0x0202; of an
EVICTED lease the lease-lost fault.

Exec answers a next state here for: xcpy, xcpy64, xgth, xgth64, xsct, xsct64, xpush, xred, xred64, xsrt, xsrt64, xmrg, xmrg64, xsolv,
xsolv64, xcoll, xcoll64, xqnt, xqnt64, xcmp, xcmp64, xdcmp, xdcmp64, xatt, xatt64, xkvt, xkvt64, xsplc, xsplc64, xsplcDone, xsplcDone64,
spawn, spawn64. -/
def Obligations.EngineCommands : Prop :=
  (∀ (ch : BitVec 3) (nm1 : BitVec 8) (o : EOp) (stamp : BitVec 16) (s : State) (x y : SAddr) (len rows : Nat), s.commands o →
    s.settled (o.b + 1) → s.settled (o.b + 2) →
    let goes (i : Instr) (k : CmdKind) (e : Nat) : Prop :=
      ((s.cmds (.btx s.cur.bay e)).length < 64 → ∃ u c, exec i s = .next u ∧ s.accepts u c o k 0 0 ∧
        u.cmds (.btx s.cur.bay e) = joinCmds c (s.cmds (.btx s.cur.bay e))) ∧
      (64 ≤ (s.cmds (.btx s.cur.bay e)).length → ∃ u c, exec i s = .next u ∧ u.cmds (.btx s.cur.bay e) = s.cmds (.btx s.cur.bay e) ∧
        c.kind = k ∧ c.result = some (5, 0) ∧ c.word = s.val o.c ∧ u.cmds (.btx s.cur.bay 9) = s.cmds (.btx s.cur.bay 9) ++ [c])
    let n := nm1.toNat + 1
    (s.val o.b = BitVec.ofNat 64 x.addr → x.addr < 2 ^ 64 → s.val (o.b + 1) = BitVec.ofNat 64 y.addr → y.addr < 2 ^ 64 → 1 ≤ len →
      (len < 2 ^ 32 → (s.val (o.b + 2)).toNat = len + 2 ^ 32 * x.space + 2 ^ 35 * y.space → s.reaches x len → s.reaches y len →
        rowsWhole x y len → goes (.xcpy ch o) (.xcpy x y len) ch.toNat ∧ goes (.xcpy64 ch o stamp) (.xcpy x y len) ch.toNat) ∧
      (len < 2 ^ 16 → 1 ≤ rows → rows < 2 ^ 32 → (s.val (o.b + 2)).toNat = len + 2 ^ 16 * y.space + 2 ^ 19 * x.space + 2 ^ 32 * rows →
        s.reaches x (len * n) → s.reaches y (len * rows) → rowsWhole x y len →
        goes (.xgth ch nm1 o) (.xgth x y len rows n) ch.toNat ∧ goes (.xgth64 ch nm1 o stamp) (.xgth x y len rows n) ch.toNat ∧
        goes (.xsct ch nm1 o) (.xsct x y len rows n) ch.toNat ∧ goes (.xsct64 ch nm1 o stamp) (.xsct x y len rows n) ch.toNat)) ∧
    ((s.val o.b).toNat % 64 = 0 → goes (.spawn o) (.spawn (s.val o.b)) 8 ∧ goes (.spawn64 o stamp) (.spawn (s.val o.b)) 8) ∧
    (let q := (Tbl.get Channel.reset s.here.btx ch.toNat).queue
     q.length < 256 → ∃ t, exec (.xpush ch o.b) s = .next t ∧ t.cur = s.cur ∧ s.sameBut s.cur.bay t ∧
       Tbl.get Channel.reset t.here.btx ch.toNat =
         { Tbl.get Channel.reset s.here.btx ch.toNat with queue := q ++ [((s.val o.b).toNat % 2 ^ 32, s.now)] } ∧
       (∀ k, k ≠ ch.toNat → Tbl.get Channel.reset t.here.btx k = Tbl.get Channel.reset s.here.btx k) ∧
       { t.here with btx := s.here.btx } = s.here)) ∧
  (∀ (o : EOp) (stamp : BitVec 16) (die i : Nat) (s : State), s.commands o → s.settled o.a → die < 4 → i < 4096 →
    let l := s.leaseOf die i
    let h := BitVec.ofNat 64 (l.gen * 2 ^ 32 + l.cls * 2 ^ 14 + die * 2 ^ 12 + i)
    l.cls < 7 → l.gen < 65536 → s.val o.a = h → l.task = s.here.uid →
    let goes (j : Instr) (k : CmdKind) (par : Nat) : Prop :=
      (l.state = 2 ∨ l.state = 3 → (s.cmds (.tack die l.unit)).length < 16 → ∃ u c, exec j s = .next u ∧ s.accepts u c o k par i ∧
        u.cmds (.tack die l.unit) = joinCmds c (s.cmds (.tack die l.unit)) ∧ ∀ r, u.leaseOf die r = s.leaseOf die r) ∧
      (l.state = 1 → l.cmds.length < 16 → ∃ u c, exec j s = .next u ∧ s.accepts u c o k par i ∧
        (u.leaseOf die i).cmds = insertBy (·.abs) c l.cmds)
    (∀ x ∈ tackCommands, ∀ j ∈ [x.1 o, x.2.1 o stamp],
      (l.cls = x.2.2.2 → (s.val o.b).toNat < 2 ^ 20 → (s.val o.b).toNat % 8 = 0 → goes j x.2.2.1 (s.val o.b).toNat) ∧
      (l.cls ≠ x.2.2.2 → 1 ≤ l.state → l.state ≤ 3 → exec j s = .next (s.raise ⟨0x11, 0x0202, 0, 0, 0⟩)) ∧
      (l.state = 4 → exec j s = .next (s.raise ⟨0x0E, h, 1, 0, 0⟩))) ∧
    (l.cls = 5 → (s.val o.b).toNat < 16 → ∀ j ∈ [Instr.xsplcDone o, .xsplcDone64 o stamp], goes j (.xsplcDone (s.val o.b).toNat) 0))

/-- The completion word of R154. -/
def Sys2Proof.Machine.completionWord (count cause status : Nat) : List Byte :=
  leBytes 1 status ++ leBytes 1 cause ++ leBytes 2 0 ++ leBytes 4 count

/-- ENGINE_CMD_START and ENGINE_ACCESS_PERFORM (R118, R155, R161): a command that may start reads its parameter block from own scratch;
a running one that may act performs the read or the write of own scratch at the head of its list.

ENGINE_CMD_FINISH and INDEX_POP_TIMEOUT (R154, R155, R163): a finished command leaves its timetable and its completion word is
written to own scratch on this cycle, in the class of engine writes; a gather whose next index is not present within 256 cycles fails with
a missed-operand fault.

Exec answers a next state here for: engineCmdStart, engineAccessPerform, engineCmdFinish, indexPopTimeout. -/
def Obligations.EngineSteps : Prop :=
  (∀ (e : Engine) (c : Cmd) (s : State),
    (s.startable e = some c → s.pkg.poisonScratch = [] → (s.bay c.bay).lent = false →
      (c.kind.blockLen = 0 ∨ (s.bay c.bay).btx = []) → c.kind ≠ .xmrg → c.kind ≠ .xred →
      ∃ t x, exec (.engineCmdStart e) s = .next t ∧ (t.cmds e).head? = some x ∧ x.kind = c.kind ∧ x.started = some s.now ∧
        x.params = s.scratchBytes c.bay c.par c.kind.blockLen ∧ x.result = none ∧ s.sameBytes t ∧ t.pkg = s.pkg) ∧
    (∀ a n rest, s.performable e = some c → c.pinned = [] → c.tail = false → c.todo = .read ⟨1, a⟩ n :: rest → s.pkg.poisonScratch = [] → (s.bay c.bay).lent = false →
      (s.absent c.bay a n c = false) → (∃ bay ch, e = .btx bay ch ∧ ch ≠ 9) →
      ∃ t x, exec (.engineAccessPerform e) s = .next t ∧ (t.cmds e).head? = some x ∧ x.buf = c.buf ++ s.scratchBytes c.bay a n ∧
        x.todo = rest ∧ s.now < x.next ∧ s.sameBytes t ∧ t.pkg = s.pkg) ∧
    (∀ a data rest, s.performable e = some c → c.pinned = [] → c.tail = false → c.todo = .write ⟨1, a⟩ data none :: rest → (s.bay c.bay).lent = false →
      (∃ bay ch, e = .btx bay ch ∧ ch ≠ 9) →
      ∃ t x, exec (.engineAccessPerform e) s = .next t ∧ (t.cmds e).head? = some x ∧ x.todo = rest ∧ s.now < x.next ∧
        (t.bay c.bay).swrites = (s.bay c.bay).swrites ++ [⟨s.now, 0, 0, a, data⟩] ∧ s.sameBytes t ∧ t.pkg = s.pkg)) ∧
  ((∀ (e : Engine) (c : Cmd) (st cause : Nat) (s : State), s.finishable e = some c → c.wg = false → c.result = some (st, cause) →
    c.pinned = [] → st < 256 → cause < 256 →
    ∃ t, exec (.engineCmdFinish e) s = .next t ∧
      (t.bay c.bay).swrites = (s.bay c.bay).swrites ++ [⟨s.now, 0, 0, c.word.toNat, completionWord c.count cause st⟩] ∧
      t.cmds e = (s.cmds e).filter (fun x => !(x.id == c.id && x.bay == c.bay)) ∧ s.sameBytes t ∧ t.pkg = s.pkg) ∧
  (∀ (bay ch : Nat) (c : Cmd) (rest : List Cmd) (s : State), bay < 256 → ch < 8 → s.cmds (.btx bay ch) = c :: rest → c.todo.head? = some .pop →
    c.started.isSome → c.pinned = [] → c.late = [] → c.popped + 256 < s.now → (Tbl.get Channel.reset (s.bay bay).btx ch).queue = [] →
    ∃ t x, exec (.indexPopTimeout bay ch) s = .next t ∧ (t.cmds (.btx bay ch)).head? = some x ∧ x.result = some (4, 7) ∧ x.todo = [] ∧
      t.pkg.outbox = s.pkg.outbox ++ [⟨c.bay, c.task, ⟨0x07, 0, 0, 0, 0⟩, false, 0⟩] ∧ s.sameBytes t))

/-- ATTN_ENTRY_SAMPLE and ATTN_TRIPLE_ARRIVE (R167, R168, R173): a running attention command samples its next block-table entry from own
scratch (address, rope base, valid slots), an entry with a reserved bit or more than 64 slots fails it as illegal, and the triples of a
slice arrive.

Exec answers a next state here for: attnEntrySample, attnTripleArrive. -/
def Obligations.AttentionSteps : Prop :=
  ∀ (e : Engine) (c : Cmd) (g : KvGen) (b due : Nat) (s : State), s.headCmd e = some c →
    (s.nextEntry e = some (c, g, b, due) → due ≤ s.now → s.pkg.poisonScratch = [] → (s.bay c.bay).lent = false → (∃ die u, e = .tack die u) →
      g.tbl + 16 * b + 16 ≤ 2 ^ 20 → s.absent c.bay (g.tbl + 16 * b) 16 c = false →
      let w0 := s.scratchNum c.bay (g.tbl + 16 * b) 8
      let w1 := s.scratchNum c.bay (g.tbl + 16 * b + 8) 8
      ∃ t x, exec (.attnEntrySample e) s = .next t ∧ (t.cmds e).head? = some x ∧
        (w1 < 2 ^ 39 → w1 / 2 ^ 32 ≤ 64 → s.sameBytes t ∧ t.pkg = s.pkg ∧
          x.att.entries = c.att.entries ++ [⟨b, BitVec.ofNat 64 w0, w1 % 2 ^ 32, w1 / 2 ^ 32⟩] ∧ x.result = c.result) ∧
        (2 ^ 39 ≤ w1 ∨ 64 < w1 / 2 ^ 32 % 2 ^ 7 → c.late = [] → x.result = some (4, 1))) ∧
    (∀ k, (s.awaited e).contains k = true → (∃ die u, e = .tack die u) →
      ∃ t x, exec (.attnTripleArrive e k) s = .next t ∧ (t.cmds e).head? = some x ∧ x.att.arrived = c.att.arrived ++ [k] ∧ s.now < x.next ∧
        s.sameBytes t ∧ t.pkg = s.pkg)

/-! ## Beats (R48 to R70, R271, R286, R310 to R314) -/

/-- BEAT_QUEUE_ARRIVAL (R56 to R58): an entry on its way reaches the queue of its target while its beat has not closed and the queue
holds fewer than 512; a load, or any entry of a strict task, that comes after its beat has closed is reported as a late arrival.

BEAT_LOAD_SERVE and REMOTE_LOAD_LAND (R54, R97, R310): a served load of the own bay puts the rows that beat memory or the
accumulators held at the close of the last compute beat into its tile rows, and its hold ends on that cycle; a served store waits for the
close with its hold ended; the rows of a load from another bay land as they were served. That BEAT_LOAD_SERVE serves stores too is the
model's reading (log entry 38). No byte of memory changes.

Exec answers a next state here for: beatQueueArrival, beatLoadServe, remoteLoadLand. -/
def Obligations.BeatService : Prop :=
  (∀ (bay target : Nat) (e : BEntry) (s : State), bay < 256 → target < 256 → target ≠ bay → (s.bay bay).transit = [e] → e.bay = bay →
    e.op.target = target → e.op.isArray = false →
    let n := (s.part (s.partOf target)).beatno
    ((n : Int) ≤ e.beat → (s.bay target).unserved.length < 512 →
      ∃ t x, exec (.beatQueueArrival bay e.id) s = .next t ∧ (t.bay bay).transit = [] ∧ (t.bay target).bq = (s.bay target).bq ++ [x] ∧
        { x with next := e.next } = e ∧ s.sameBytes t ∧ t.pkg = s.pkg) ∧
    (e.beat < n → e.strict = true ∨ e.op.isWrite = false →
      ∃ t, exec (.beatQueueArrival bay e.id) s = .next t ∧ (t.bay bay).transit = [] ∧ (t.bay target).bq = (s.bay target).bq ∧
        t.pkg.outbox = s.pkg.outbox ++ [⟨bay, e.task, ⟨0x09, if e.op.isWrite then 0 else 1, BitVec.ofNat 64 (e.tag + n % 2 ^ 48 * 2 ^ 16),
          BitVec.ofNat 64 e.where_, 0⟩, false, 0⟩] ∧ s.sameBytes t) ∧
    (e.beat < n → e.strict = false → (∃ pa rows, e.op = .store false pa rows) →
      ∃ t x, exec (.beatQueueArrival bay e.id) s = .next t ∧ (t.bay target).bq = (s.bay target).bq ++ [x] ∧ x.carried = true ∧ x.served = true ∧
        x.beat = max (e.beat + 2) (n + n % 2 : Nat) ∧ x.op = e.op ∧ t.pkg = s.pkg ∧ s.sameBytes t)) ∧
  ((∀ (bay : Nat) (e : BEntry) (s : State), bay < 256 → (s.bay bay).bq.find? (fun x => x.id == e.id && s.servable bay x) = some e → e.bay = bay →
    e.task = (s.bay bay).uid →
    (∀ acc pa rows, e.op = .load acc pa rows → rows.Nodup → s.snapPoison (s.partOf bay) acc pa (128 * rows.length) = none →
      let x := s.part (s.partOf bay)
      ∃ t, exec (.beatLoadServe bay e.id) s = .next t ∧ s.sameBytes t ∧ { t.pkg with poisonTile := s.pkg.poisonTile } = s.pkg ∧
        (t.bay bay).holds = ((s.bay bay).endHold s.now e.hold).holds ∧ (∀ n ∈ rows, t.tilePoison bay n = none) ∧
        (∀ j, j < rows.length → (t.bay bay).row (rows.getD j 0) = rowOf ((if acc then x.snapAcc else x.snapBeat).bytes (pa + 128 * j) 128)) ∧
        (∀ n, n ∉ rows → (t.bay bay).row n = (s.bay bay).row n) ∧ (∀ h r, (t.bay bay).scalar h r = (s.bay bay).scalar h r) ∧
        ∀ x ∈ (t.bay bay).bq, ¬ (x.id = e.id ∧ x.bay = bay)) ∧
    (∀ acc pa data, e.op = .store acc pa data →
      ∃ t, exec (.beatLoadServe bay e.id) s = .next t ∧ s.sameBytes t ∧ t.pkg = s.pkg ∧
        (t.bay bay).holds = ((s.bay bay).endHold s.now e.hold).holds ∧ (∀ n, (t.bay bay).row n = (s.bay bay).row n) ∧
        ∀ x ∈ (t.bay bay).bq, x.id = e.id → x.bay = bay → x.served = true)) ∧
  (∀ (bay : Nat) (x : RemoteLand) (s : State), bay < 256 → (s.bay bay).landing.find? (fun y => y.id == x.id) = some x → x.task = (s.bay bay).uid → (x.rows.map (·.1)).Nodup →
    ∃ t, exec (.remoteLoadLand bay x.id) s = .next t ∧ s.sameBytes t ∧ { t.pkg with poisonTile := s.pkg.poisonTile } = s.pkg ∧
      (t.bay bay).holds = ((s.bay bay).endHold s.now x.hold).holds ∧
      (∀ y ∈ x.rows, (t.bay bay).row y.1 = y.2 ∧ t.tilePoison bay y.1 = none) ∧
      ∀ n, n ∉ x.rows.map (·.1) → (t.bay bay).row n = (s.bay bay).row n))

/-- ARRAY_OP_START, ARRAY_COMMIT_POINT and ARRAY_OP_COMPLETE (R54, R63, R73, R266, R312, R369, R373): the first waiting operation of the
open beat starts on a bay with none running; one that a save froze resumes ahead of it, with the passes that it had made, but not while
FRZ or a save stops the bay's work; each commit point of an AZERO zeroes one accumulator row of every bank and touches no other byte; one
that was abandoned stops at its next commit point; past its last one the operation leaves its queue, the rows that it has formed land, its flags are set and its holds end; an operation that
was abandoned writes no row, and one that commits only as a whole sets no flag either.

AWRITE_PIECE_SAMPLE (R70, R271): the AWRITE of the bay whose piece is due samples the next 128 bytes of own scratch; after its last
piece its hold ends and it waits for its close.

Exec answers a next state here for: arrayOpStart, arrayCommitPoint, arrayOpComplete, awritePieceSample. -/
def Obligations.ArrayWork : Prop :=
  (∀ (bay : Nat) (s : State), bay < 256 →
    (∀ e, (s.bay bay).running = none → (s.die (bay / 64)).rfend ≤ s.now → (s.bay bay).frozen = [] → s.nextArray bay = some e →
      ∃ t, exec (.arrayOpStart bay) s = .next t ∧ (t.bay bay).running = some { entry := e, start := s.now } ∧ s.sameBut bay t ∧
        { t.bay bay with running := none } = s.bay bay) ∧
    (∀ r rest, (s.bay bay).running = none → (s.die (bay / 64)).rfend ≤ s.now → (s.bay bay).frozen = r :: rest →
      r.entry.beat = ((s.part (s.partOf bay)).beatno : Int) →
      ((s.bay bay).save = none → (s.bay bay).frozenAt = none → (s.bay bay).empty = false →
        ∃ t, exec (.arrayOpStart bay) s = .next t ∧ (t.bay bay).running = some { r with start := s.now - r.start } ∧ (t.bay bay).frozen = rest ∧
          (t.bay bay).bq = (s.bay bay).bq ++ [r.entry] ∧ s.sameBut bay t) ∧
      ((s.bay bay).save.isSome ∨ (s.bay bay).frozenAt.isSome → s.nextArray bay = none → exec (.arrayOpStart bay) s = .next s)) ∧
    (∀ r b0 nb arow cnt, (s.bay bay).running = some r → r.entry.op = .array (.azero b0 nb arow cnt) → s.commitDue bay = true → b0 + nb ≤ 256 →
      arow + cnt ≤ 16 → r.stop = false →
      ∃ t, exec (.arrayCommitPoint bay) s = .next t ∧ (t.bay bay).running = some { r with done := r.done + 1 } ∧
        (∀ k, b0 ≤ k → k < b0 + nb → ∀ i, i < 1024 → t.acc.byte (bay * 2 ^ 30 + k * 2 ^ 22 + (arow + r.done) * 2 ^ 10 + i) = 0) ∧
        (∀ a, (∀ k i, b0 ≤ k → k < b0 + nb → i < 1024 → a ≠ bay * 2 ^ 30 + k * 2 ^ 22 + (arow + r.done) * 2 ^ 10 + i) → t.acc.byte a = s.acc.byte a) ∧
        t.beat = s.beat ∧ t.scratch = s.scratch ∧ t.host = s.host ∧ t.expander = s.expander) ∧
    (∀ r b0 nb arow cnt, (s.bay bay).running = some r → r.entry.op = .array (.azero b0 nb arow cnt) → s.commitDue bay = true → r.stop = true →
      ∃ t x, exec (.arrayCommitPoint bay) s = .next t ∧ (t.bay bay).running = some x ∧ x.done = cnt) ∧
    (∀ r o, (s.bay bay).running = some r → r.entry.op = .array o → o.steps ≤ r.done → r.entry.task = (s.bay bay).uid →
      let rows := if r.stop then [] else o.results r.out
      ∃ t, exec (.arrayOpComplete bay) s = .next t ∧ (t.bay bay).running = none ∧ s.sameBytes t ∧
        { t.pkg with poisonTile := s.pkg.poisonTile } = s.pkg ∧ (t.bay bay).holds = ((s.bay bay).endHold s.now r.entry.hold).holds ∧
        (t.bay bay).stat = (s.bay bay).stat ||| (if r.stop = true ∧ o.allOrNothing = true then 0 else r.flags) ∧
        ((rows.map (·.1)).Nodup → ∀ x ∈ rows, (t.bay bay).row x.1 = x.2) ∧
        (∀ n, n ∉ rows.map (·.1) → (t.bay bay).row n = (s.bay bay).row n) ∧
        ∀ x ∈ (t.bay bay).bq, ¬ (x.id = r.entry.id ∧ x.bay = r.entry.bay))) ∧
  (∀ (bay src b0 nb row nrow : Nat) (e : BEntry) (s : State), bay < 256 → s.awriteDue bay = some e → e.op = .awrite src b0 nb row nrow →
    s.pkg.poisonScratch = [] → e.bay = bay → (s.bay bay).bq = [e] → e.task = (s.bay bay).uid →
    ∃ t x, exec (.awritePieceSample bay) s = .next t ∧ (t.bay bay).bq = [x] ∧ x.got = e.got ++ s.scratchBytes bay (src + e.got.length) 128 ∧
      x.next = s.now + 1 ∧ s.sameBytes t ∧ t.pkg = s.pkg ∧ (x.served = true ↔ nb * nrow * 8 ≤ (e.got.length + 128) / 128) ∧
      (x.served = true → (t.bay bay).holds = ((s.bay bay).endHold s.now e.hold).holds) ∧
      (x.served = false → (t.bay bay).holds = (s.bay bay).holds))

/-- BPLAN in both its lengths and BPLAN_TABLE_SAMPLE (R60, R61, R286): the offset goes to be sampled two cycles after issue, and a table
without a fault gives the planned lengths of its beats, from the one that its tag names on, for the beats that have not opened; a length
below 32 is an illegal field, reported with its offset, and the plan stays. The table of a task that has left the bay gives no plan (R61).

Exec answers a next state here for: bplanTableSample, bplan, bplan64. -/
def Obligations.BeatPlans : Prop :=
  (∀ (b : Reg) (off : BitVec 20) (s : State), s.settled b → s.here.lent = false →
    let goes (i : Instr) (o : Nat) : Prop := o % 8 = 0 → o + 8 ≤ 2 ^ 20 →
      ∃ t, exec i s = .next t ∧ t.cur = s.cur ∧ s.sameBut s.cur.bay t ∧
        t.here.plans = s.here.plans ++ [(o, s.now, (s.part (s.partOf s.cur.bay)).beatno, s.here.uid)] ∧ { t.here with plans := s.here.plans } = s.here
    goes (.bplan b) (s.val b).toNat ∧ goes (.bplan64 off) off.toNat ∧
      (off.toNat % 8 ≠ 0 → exec (.bplan64 off) s = .next (s.addrFault 0x12 (BitVec.ofNat 64 off.toNat))) ∧
      (2 ^ 20 ≤ (s.val b).toNat → exec (.bplan b) s = .next (s.illegal b.toNat))) ∧
  (∀ (bay off at_ n first k : Nat) (lens : List Nat) (s : State), bay < 256 → (s.bay bay).plans = [(off, at_, n, (s.bay bay).uid)] → at_ + 2 ≤ s.now →
    lens.length = k + 1 → k < 32 → off + 8 + 2 * lens.length ≤ 2 ^ 20 → s.pkg.poisonScratch = [] → (s.bay bay).beatoff = 0 → n ≤ first → first < n + 2 ^ 15 →
    s.scratchNum bay off 8 = first % 2 ^ 16 + 2 ^ 16 * k → (∀ i, i ≤ k → s.scratchNum bay (off + 8 + 2 * i) 2 = lens.getD i 0) →
    let open_ := (s.part (s.partOf bay)).beatno
    ((∀ l ∈ lens, 32 ≤ l) → ∃ t, exec (.bplanTableSample bay) s = .next t ∧ s.sameBut bay t ∧ (t.bay bay).plans = [] ∧
      (t.bay bay).planAt = at_ ∧
      ∀ i, i ≤ k → ((t.bay bay).plan.find? (fun x => x.1 == first + i)).map (·.2) = if open_ < first + i then some (lens.getD i 0) else none) ∧
    (∀ i, i ≤ k → lens.getD i 0 < 32 → (∀ j, j < i → 32 ≤ lens.getD j 0) → ∃ t m, exec (.bplanTableSample bay) s = .next t ∧
      (t.bay bay).plan = (s.bay bay).plan ∧ t.pkg.outbox = s.pkg.outbox ++ [m] ∧ m.bay = bay ∧ m.task = (s.bay bay).uid ∧
      m.rep = ⟨0x01, 0x0101, BitVec.ofNat 64 (off + 8 + 2 * i), 0, 0⟩ ∧ s.now < m.from_)) ∧
  (∀ (bay off at_ n uid : Nat) (s : State), bay < 256 → (s.bay bay).plans = [(off, at_, n, uid)] → at_ + 2 ≤ s.now → uid ≠ (s.bay bay).uid →
    ∃ t, exec (.bplanTableSample bay) s = .next t ∧ (t.bay bay).plans = [] ∧ (t.bay bay).plan = (s.bay bay).plan ∧ s.sameBytes t)

/-- BEAT_CLOSE (R50, R54, R55, R60, R62, R66, R69, R270): beat n + 1 opens on the cycle on which beat n closes, with the planned length
that PLANDEF gives an unplanned beat. The close of a compute beat changes no byte; the close of an access beat applies the served stores
of its beat, no other byte changing, and exchanges the sides of the banks of its ASWAPs, carried and tagged ones making one exchange
together (log entry 143). An access beat that opens runs every owed refresh
window first, and RFDEBT returns to 0.

BEAT_OVERRUN (R63, R314): with no operation running, the entries of the open beat that are not served are abandoned, those served
stay, and the task of the bay takes the overrun with their number; no byte of memory changes.

REFRESH_DUE and REFRESH_WINDOW_END (R64 to R67): each due time sets the next, 8,192 cycles on or 4,096 above 85 °C. In an access beat
the window runs its 64 cycles, after any that runs; in a compute beat it is owed, up to four, and a fifth is forced, with the passes of the
die delayed by it.

Exec answers a next state here for: beatClose, beatOverrun, refreshDue, refreshWindowEnd. -/
def Obligations.BeatBoundaries : Prop :=
  (∀ (p bay : Nat) (s : State), p < 4 → s.closable p = true → s.partOf bay = p → (s.part p).engWrites = [] → (s.part p).hostWrites = [] →
    (s.part p).hostReads = [] → (∀ k, k ≠ bay → (s.bay k).bq = []) → (∀ k, (s.bay k).plan = []) →
    let n := (s.part p).beatno
    ∃ t, exec (.beatClose p) s = .next t ∧ (t.part p).beatno = n + 1 ∧ (t.part p).opened = s.now ∧
      (t.part p).planned = max 32 ((s.part p).plandef.toNat % 2 ^ 16) ∧ t.scratch = s.scratch ∧ t.host = s.host ∧ t.expander = s.expander ∧
      (∀ d, d < 4 → s.partOfDie d = p → (t.die d).forced = 0 ∧
        (n % 2 = 1 → (t.die d).rfdebt = 0 ∧ (0 < (s.die d).rfdebt → (t.die d).rfend = s.now + 64 * (s.die d).rfdebt)) ∧
        (n % 2 = 0 → (t.die d).rfdebt = (s.die d).rfdebt)) ∧
      (n % 2 = 1 → t.beat = s.beat ∧ t.acc = s.acc ∧ (t.part p).snapBeat = s.beat ∧ (t.part p).snapAcc = s.acc) ∧
      (∀ e pa data, n % 2 = 0 → (s.bay bay).bq = [e] → e.served = true → e.beat = (n : Int) → e.op = .store false pa data →
        (t.bay bay).bq = [] ∧ t.acc = s.acc ∧ (t.bay bay).wornB = (s.bay bay).wornB ∧
        ∀ a, t.beat.byte a = if pa ≤ a ∧ a < pa + (data.flatMap rowBytes).length then (data.flatMap rowBytes).getD (a - pa) 0 else s.beat.byte a) ∧
      (∀ es b0 nb, n % 2 = 0 → (s.bay bay).bq = es → es ≠ [] → (∀ e ∈ es, e.served = true ∧ e.beat = (n : Int) ∧ e.op = .aswap b0 nb) →
        (t.bay bay).bq = [] ∧ t.acc = s.acc ∧ t.beat = s.beat ∧
        ∀ k, k ∈ (t.bay bay).wornB ↔ if b0 ≤ k ∧ k < b0 + nb then k ∉ (s.bay bay).wornB else k ∈ (s.bay bay).wornB)) ∧
  (∀ (bay : Nat) (s : State), bay < 256 → (s.bay bay).running = none → (s.bay bay).task.isSome → s.overrunDue bay = true →
    let n := (s.part (s.partOf bay)).beatno
    let gone := (s.bay bay).bq.filter fun e => !e.served && e.beat == (n : Int)
    ∃ t, exec (.beatOverrun bay) s = .next t ∧ (t.bay bay).bq = (s.bay bay).bq.filter (fun e => e.served || e.beat != (n : Int)) ∧ gone ≠ [] ∧
      t.pkg.outbox = s.pkg.outbox ++ [⟨bay, (s.bay bay).uid, ⟨0x08, BitVec.ofNat 64 (n % 65536), BitVec.ofNat 64 gone.length, 0, 0⟩, false, 0⟩] ∧
      s.sameBytes t) ∧
  (∀ (d : Nat) (s : State), d < 4 →
    let x := s.die d
    let odd : Prop := (s.part (s.partOfDie d)).beatno % 2 = 1
    let next := x.rfnext + (if 1360 < x.temp then 4096 else 8192)
    (x.rfnext ≤ s.now → ∃ t, exec (.refreshDue d) s = .next t ∧ (t.die d).rfnext = next ∧ s.sameBytes t ∧ t.pkg = s.pkg ∧ t.parts = s.parts ∧
      (odd → x.rfdebt < 4 → (t.die d).rfdebt = x.rfdebt + 1 ∧ (t.die d).rfend = x.rfend ∧ t.bays = s.bays) ∧
      (odd → 4 ≤ x.rfdebt → (t.die d).rfdebt = x.rfdebt ∧ (t.die d).rfend = max x.rfend s.now + 64 ∧ (t.die d).forced = x.forced + 1 ∧
        ∀ b r, b / 64 = d → (s.bay b).running = some r → (t.bay b).running = some { r with start := r.start + 64 }) ∧
      (¬ odd → (t.die d).rfdebt = x.rfdebt ∧ (t.die d).rfend = max x.rfend s.now + 64 ∧ t.bays = s.bays)) ∧
    (x.rfend ≤ s.now → ∃ t, exec (.refreshWindowEnd d) s = .next t ∧ (t.die d) = { x with rfend := 0 } ∧ t.bays = s.bays ∧ s.sameBytes t))

/-! ## Traps, reports and context switch (R282, R362 to R375, R348, R397, R398) -/

/-- Two states hold the same outside the bay b and the bundle record, but that the deadlines of the bay's task which stand still since
step 2 of a save go on, at the distance from FC that they had (R144). -/
def Sys2Proof.Machine.State.sameButResumed (b : Nat) (s t : State) : Prop :=
  ({ s with dies := t.dies } : State).sameBut b t ∧
    (∀ d, t.die d = { s.die d with leases := (t.die d).leases }) ∧
    ∀ d i, t.leaseOf d i = match (s.leaseOf d i).paused with
      | some k => if (d, i) ∈ s.leasesOf (s.bay b).uid then
          { s.leaseOf d i with deadline := some ((s.bay b).fb + k).toNat, paused := none } else s.leaseOf d i
      | none => s.leaseOf d i

/-- TRAP_TAKE and REPORT_ARRIVE (R364, R366, R367): a report joins the pending list of its task, up to 64, and a further one is lost. At a
boundary in task mode the oldest report is taken, then a preemption request, with cause 0x19. A trap that the bundle itself raised in
handler mode is a double trap: the bay stops for good.

ERET (R363, R371, R282): a task that has not ended goes on in task mode at TRAPPC from the next cycle; one that has ended issues
nothing more; on a bay that CTXSV has emptied the bay is given back. The registers of the task stand; lease deadlines that a save of the
handler has stopped, and no CTXSV has carried away, go on (R144), and a FRZ of the handler is undone.

Exec answers a next state here for: trapTake, reportArrive, eret. -/
def Obligations.Traps : Prop :=
  (∀ (bay : Nat) (s : State), bay < 256 →
    let b := s.bay bay
    let pc := match b.ended with
      | some a => a
      | none => b.pc
    (b.task.isSome → b.stopped = false → b.save = none →
      (b.due = none → b.handler = false → ∀ r rest, b.reports = r :: rest →
        ∃ t, exec (.trapTake bay) s = .next t ∧ s.trapped t bay r pc ∧ (t.bay bay).reports = rest) ∧
      (b.due = none → b.handler = false → b.reports = [] → b.preempt = true → b.ended = none →
        ∃ t, exec (.trapTake bay) s = .next t ∧ s.trapped t bay ⟨0x19, 0, 0, 0, 0⟩ pc ∧ (t.bay bay).preempt = false) ∧
      (b.due = none → b.handler = true → exec (.trapTake bay) s = .next s) ∧
      (∀ r, b.due = some r → b.handler = true → ∃ t, exec (.trapTake bay) s = .next t ∧ (t.bay bay).stopped = true ∧ (t.bay bay).handler = true ∧
        t.mayIssue bay = false)) ∧
    (∀ (t : Task) (r : Report), b.task = some t → b.empty = false → b.stopped = false → b.handler = false → s.pkg.outbox = [⟨bay, t.uid, r, false, 0⟩] →
      ∃ u, exec (.reportArrive bay r) s = .next u ∧ s.sameBytes u ∧ u.pkg = { s.pkg with outbox := [] } ∧
        (b.reports.length < 64 → (u.bay bay).reports = b.reports ++ [r] ∧ (u.bay bay).lost = b.lost) ∧
        (64 ≤ b.reports.length → (u.bay bay).reports = b.reports ∧ (u.bay bay).lost = true))) ∧
  (∀ (s : State),
    (s.here.empty = false → s.here.cause.getLsbD 10 = false → ∃ t, exec .eret s = .next t ∧ s.sameButResumed s.cur.bay t ∧
      t.cur = { s.cur with next := some s.here.trappc.toNat } ∧ t.here.handler = false ∧ t.here.pc = s.here.trappc.toNat ∧
      t.here.checkTarget = true ∧ t.here.nextAt = max (s.now + 1) s.here.stopTo ∧ t.here.frozenAt = none ∧ t.here.sreg = s.here.sreg ∧ t.here.hreg = s.here.hreg ∧
      t.here.tiles = s.here.tiles ∧ t.here.cause = s.here.cause ∧ Bay.sameSpecial s.here t.here) ∧
    (s.here.empty = false → s.here.cause.getLsbD 10 = true → ∃ t, exec .eret s = .next t ∧ s.sameButResumed s.cur.bay t ∧ t.cur = s.cur ∧
      t.here.handler = false ∧ t.here.frozenAt = none ∧ t.here.ended.isSome ∧ t.mayIssue s.cur.bay = false) ∧
    (s.here.empty = true → s.here.task.isSome → ∃ t, exec .eret s = .next t ∧ (t.bay s.cur.bay).task = none ∧ (t.bay s.cur.bay).lent = true ∧
      (t.bay s.cur.bay).empty = false))

/-- Every page of a context image may be accessed as the instruction accesses it (R369, R373). -/
def Sys2Proof.Machine.State.imagePages (s : State) (acc : Acc) (a : Nat) : Prop :=
  a % 4096 = 0 ∧ ∀ va, a ≤ va → va < a + 2 ^ 20 →
    ∃ l pa, (s.translate acc (s.partOf s.cur.bay) s.here.asid true va 0).1 = .ok l pa

/-- The image of a bay's task at an address can be accessed by the part: all its pages are mapped, and its home and the tables of its walk
hold its lines, to be written or read (R336, R381). -/
def Sys2Proof.Machine.State.imageAt (s : State) (p asid a : Nat) (wr : Bool) : Prop :=
  s.imageGaps p asid a = [] ∧ s.imageHeld p asid a wr = false

/-- FRZ, CTXSV and CONTEXT_DRAIN_EXPIRE (R369 to R371): a save begins; no bundle issues while it lasts; once every short result has landed
the beat work of the task leaves the queues, FC and BEATNO are taken as they stand, and the deadlines of its leases stand still (R144);
after FRZ the handler then goes on; 8,192 cycles after that step the save of CTXSV ends, and the bay then holds no task context: its scalar
registers, its special registers and its holds read as zero. The image is written once its pages are mapped and its home holds its lines
(R336, R381).

PREEMPT_SAVE (R336): every task of the victim gang that is on its bay is saved by the part to SAVE + TASKID × 0x10_0000, within 2,048
cycles of its freeze. A task whose handler has issued FRZ stays frozen from its step 2, and its image goes to SAVE all the same: that is
the model's choice (log entries 71 and 153; R336, R369 and R370 do not say it).

Exec answers a next state here for: contextDrainExpire, preemptSave, ctxsv, frz. -/
def Obligations.ContextSave : Prop :=
  ((∀ (b : Reg) (s : State), s.settled b → s.here.empty = false → s.here.frozenAt = none → s.imagePages .store (s.val b).toNat →
    ∀ x ∈ [(Instr.frz b, 0, true), (Instr.ctxsv b, 8192, false)], ∃ t f, exec x.1 s = .next t ∧ t.cur = s.cur ∧ s.sameBut s.cur.bay t ∧
      t.here.save = some ⟨s.val b, f, x.2.1, false, false, x.2.2, false⟩ ∧ s.now ≤ f ∧ (∀ p ∈ s.here.pends, p.due ≤ f) ∧
      t.mayIssue s.cur.bay = false ∧ (∀ h r, t.here.scalar h r = s.here.scalar h r)) ∧
  (∀ (bay : Nat) (v : Save) (s : State), bay < 256 → (s.bay bay).save = some v →
    (v.froze = false → v.frz = false → v.f ≤ s.now → (s.bay bay).running = none → ∃ t, exec (.contextDrainExpire bay) s = .next t ∧
      (t.bay bay).save = some { v with froze := true } ∧ (t.bay bay).transit = [] ∧
      ((s.bay bay).throttled ≤ s.now → (t.bay bay).fcSaved = if (s.bay bay).fresh then 0 else s.now - (s.bay bay).fb) ∧
      (t.bay bay).beatSaved = (s.part (s.partOf bay)).beatno ∧ (t.bay bay).frozenFrom = s.now ∧
      (∀ d i k, (d, i) ∈ s.leasesOf (s.bay bay).uid → (s.leaseOf d i).deadline = some k →
        (t.leaseOf d i).deadline = none ∧ (t.leaseOf d i).paused = some (k - (s.bay bay).fb)) ∧
      (∀ e ∈ (t.bay bay).bq, ¬ (e.bay = bay ∧ e.task = (s.bay bay).uid)) ∧ s.sameBytes t) ∧
    (v.froze = false → v.frz = true → v.f ≤ s.now → s.imageAt (s.partOf bay) (s.bay bay).asid v.addr.toNat true → ∃ t, exec (.contextDrainExpire bay) s = .next t ∧
      (t.bay bay).save = none ∧ (t.bay bay).frozenAt = some v.addr ∧ (t.bay bay).frozenFrom = s.now ∧ (t.bay bay).task = (s.bay bay).task) ∧
    (v.froze = true → v.own = false → v.leave = false → v.f + v.w ≤ s.now → s.imageAt (s.partOf bay) (s.bay bay).asid v.addr.toNat true →
      ∃ t, exec (.contextDrainExpire bay) s = .next t ∧ (t.bay bay).save = none ∧
      (t.bay bay).empty = true ∧ (t.bay bay).holds = [] ∧ (∀ r, (t.bay bay).scalar false r = 0) ∧ (t.bay bay).stat = 0 ∧ (t.bay bay).fmt = 0 ∧
      (t.bay bay).replay = [] ∧ t.beat = s.beat))) ∧
  (∀ (leaf gang bay : Nat) (n : Node) (t : Task) (s : State), s.node leaf = some n → (n.gangOf gang).state = 2 → n.dying = false →
    (s.bay bay).task = some t → t.node = leaf → t.gang = gang → (s.bay bay).save = none → (s.bay bay).empty = false →
    ∃ u f, exec (.preemptSave leaf gang) s = .next u ∧ s.sameBytes u ∧ ((s.bay bay).frozenAt = none → s.now ≤ f) ∧
      ((s.bay bay).frozenAt.isSome → f = (s.bay bay).frozenFrom) ∧
      (u.bay bay).save = some ⟨BitVec.ofNat 64 (n.save + t.taskid * 2 ^ 20), f, 2048, true, (s.bay bay).frozenAt.isSome, false, false⟩ ∧
      u.mayIssue bay = false)

/-- The registers of a task restored from an image at an address (R372, R373), with its beat offset moved by delta (R374). STAT.PHASE
follows the phase table and is kept apart. -/
def Sys2Proof.Machine.State.restored (s t : State) (bay p asid addr : Nat) (delta : Int) : Prop :=
  let w (off : Nat) : Word := BitVec.ofNat 64 (s.imageWord p asid addr off)
  let b := t.bay bay
  (∀ r, 1 ≤ r → r < 32 → b.scalar false r = w (0x40 + 8 * r)) ∧ (∀ r, 24 ≤ r → r < 32 → b.scalar true r = w (0x200 + 8 * (r - 24))) ∧
    b.fmt = w 0x180 ∧ b.stat = w 0x188 &&& ~~~0x100 ∧ b.dbeat = w 0x190 ∧ b.beatctl = w 0x198 ∧ b.rqpos = w 0x1A8 ∧ b.rqposc = w 0x1B0 ∧
    b.cause = w 0x1C0 ∧ b.trappc = w 0x1C8 ∧ b.hstat = w 0x240 ∧ b.hfmt = w 0x248 ∧ b.empty = false ∧ b.holds = [] ∧
    b.beatoff = signed 64 (s.imageWord p asid addr 32) + delta

/-- The number of beats by which a restore moves a task whose image was saved in beat n: the smallest even one that carries it past the
open beat (R374). -/
def Sys2Proof.Machine.movesBy (n beatno : Nat) (delta : Int) : Prop :=
  delta % 2 = 0 ∧ (beatno : Int) + 1 ≤ n + delta ∧ ∀ k : Int, k % 2 = 0 → (beatno : Int) + 1 ≤ n + k → delta ≤ k

/-- CONTEXT_RESTORE and CTXLD (R336, R373, R374): an image that passes the checks gives the task its registers back, on the same bay; the
gang is placed again. The images are read once their pages are mapped and their homes hold their lines, and hold no poisoned word.

Three choices of the model: CTXLD on a bay that holds a context is a protection fault (log entry 73); after CTXLD of an image that was saved
in task mode the handler goes on, and the task at its ERET (log entry 74; step 7 of R373 speaks of task mode); a task that CTXLD restores
alone moves by its own saved beat (log entry 173).

Exec answers a next state here for: contextRestore, ctxld. -/
def Obligations.ContextRestore : Prop :=
  (∀ (leaf gang bay tid : Nat) (n n' : Node) (s : State), s.node leaf = some n → (n.gangOf gang).state = 4 → n.dying = false →
    (n.gangOf gang).bays = [bay] → n.members gang = [tid] → (n.gangOf gang).ended = [] → (s.bay bay).isFree s.now 0 = true →
    s.imageAt n.part n.asid (n.save + tid * 2 ^ 20) false → s.imagePoison bay n.part n.asid (n.save + tid * 2 ^ 20) = none →
    s.checkImage n.part n.asid (n.save + tid * 2 ^ 20) bay = .ok (leaf, n', tid) →
    ∃ t delta, exec (.contextRestore leaf gang) s = .next t ∧ (t.bay bay).uid = 2 ^ 32 * leaf + tid ∧ ((t.node leaf).map fun x => (x.gangOf gang).state) = some 1 ∧
      movesBy (s.imageWord n.part n.asid (n.save + tid * 2 ^ 20) 24) (s.part n.part).beatno delta ∧
      s.restored t bay n.part n.asid (n.save + tid * 2 ^ 20) delta) ∧
  (∀ (b : Reg) (s : State), s.settled b →
    let p := s.partOf s.cur.bay
    let a := (s.val b).toNat
    (s.here.empty = false → exec (.ctxld b) s = .next s.protect) ∧
    (∀ id n tid, s.here.empty = true → s.imagePages .load a → s.imageHeld p s.here.asid a false = false → s.imagePoison s.cur.bay p s.here.asid a = none →
      s.checkImage p s.here.asid a s.cur.bay = .ok (id, n, tid) → n.members (tid / max 1 n.gangSize) = [tid] →
      ∃ t delta, exec (.ctxld b) s = .next t ∧ (t.bay s.cur.bay).uid = 2 ^ 32 * id + tid ∧ (t.bay s.cur.bay).handler = true ∧
        movesBy (s.imageWord p s.here.asid a 24) (s.part p).beatno delta ∧ s.restored t s.cur.bay p s.here.asid a delta ∧
        t.cur.next = if (s.imageWord p s.here.asid a 8).testBit 48 then some (s.imageWord p s.here.asid a 0x1F0 % 2 ^ 64) else s.cur.next))

/-- CINV, CINV.llc and CWB (R294): a range of 1 to 2^32 bytes inside global memory is accepted; CINV drops the core's copies of every line
of the range that is mapped, and no other; CINV.llc and CWB keep the next bundle until the task's stores to the range are performed. A
length of 0 or above 2^32 is an illegal operand. No byte of memory changes.

TLBINV (R295, R348): the cached translations of the partition that the operands select go, leaves and table entries, by address and ASID or
for every one of either; no other goes, and nothing else changes but that the next bundle waits for the beat accesses and the commands that
use such a page without a pin: for each queued access of the partition's bays that came by one and is not a load already served. A
reserved bit of sB is an illegal operand.

Exec answers a next state here for: cinv, cinvLlc, cwb, tlbinv. -/
def Obligations.CacheRanges : Prop :=
  (∀ (b c : Reg) (s : State), s.settled b → s.settled c →
    let a := (s.val b).toNat
    let n := (s.val c).toNat
    let leaf (x : Nat × Nat) (l : Leaf) : Prop := s.walk (s.partOf s.cur.bay) s.here.asid x.1 = .leaf l
    let inPart (x : Nat × Nat) (l : Leaf) (y : Line) : Prop :=
      y.1 = (l.tgt == 1) ∧ (l.pa + x.1 % l.size) / 64 ≤ y.2 ∧ 64 * y.2 < l.pa + x.1 % l.size + (x.2 - x.1)
    (n = 0 ∨ 2 ^ 32 < n → ∀ i ∈ [Instr.cinv b c, .cinvLlc b c, .cwb b c], exec i s = .next (s.illegal c.toNat)) ∧
    (1 ≤ n → n ≤ 2 ^ 32 → a + n ≤ 2 ^ 57 → (∀ x ∈ pageParts a n, ∀ l, leaf x l → l.tgt ≠ 2) →
      (∃ t, exec (.cinv b c) s = .next t ∧ t.cur = s.cur ∧ s.sameBut s.cur.bay t ∧
        (∀ y ∈ t.here.l1, y ∈ s.here.l1 ∧ ∀ x ∈ pageParts a n, ∀ l, leaf x l → ¬ inPart x l y) ∧
        (∀ y ∈ s.here.l1, (∀ x ∈ pageParts a n, ∀ l, leaf x l → ¬ inPart x l y) → y ∈ t.here.l1) ∧
        { t.here with l1 := s.here.l1, l1data := s.here.l1data, l1ext := s.here.l1ext } = s.here) ∧
      (∀ x ∈ [(Instr.cinvLlc b c, true), (Instr.cwb b c, false)], ∃ t, exec x.1 s = .next t ∧ t.cur = s.cur ∧ s.sameBut s.cur.bay t ∧
        t.here.cacheWait = some (s.here.opCount + 1, a, n, x.2) ∧ { t.here with cacheWait := s.here.cacheWait } = s.here ∧
        ∀ e ∈ s.here.entries, ∀ d, e.op = .store d → e.id ≤ s.here.opCount → e.va.toNat < a + n → a < e.va.toNat + d.length →
          t.mayIssue s.cur.bay = false))) ∧
  (∀ (b c : Reg) (s : State), s.settled b → s.settled c →
    let w := (s.val c).toNat
    let hits (e : TlbEntry) : Prop := e.part = s.partOf s.cur.bay ∧ (w.testBit 13 = true ∨ e.asid = w % 2 ^ 12) ∧
      (w.testBit 12 = true ∨ e.page * 2 ^ 16 / e.leaf.size = (s.val b).toNat / e.leaf.size)
    let passes (e : TableEntry) : Prop := e.part = s.partOf s.cur.bay ∧ (w.testBit 13 = true ∨ e.asid = w % 2 ^ 12) ∧
      (w.testBit 12 = true ∨ e.tag = (s.val b).toNat / 2 ^ levelLow e.level)
    (2 ^ 14 ≤ w → exec (.tlbinv b c) s = .next (s.illegal c.toNat)) ∧
    (w < 2 ^ 14 → ∃ t, exec (.tlbinv b c) s = .next t ∧ t.cur = s.cur ∧ (∀ e, e ∈ t.tlb ↔ e ∈ s.tlb ∧ ¬ hits e) ∧
      (∀ e, e ∈ t.tables ↔ e ∈ s.tables ∧ ¬ passes e) ∧ (∀ k, k ≠ s.cur.bay → t.bay k = s.bay k) ∧
      { t.here with tlbWait := s.here.tlbWait, tlbCmds := s.here.tlbCmds } = s.here ∧ s.sameBytes t ∧ t.pkg = s.pkg ∧ t.dies = s.dies ∧
      (∀ k, s.partOf k = s.partOf s.cur.bay → ∀ e ∈ (s.bay k).bq ++ (s.bay k).transit, ∀ asid page, e.use = some (asid, page) →
        (w.testBit 13 = true ∨ asid = w % 2 ^ 12) → (w.testBit 12 = true ∨ page = (s.val b).toNat / 2 ^ 16) →
        e.served = false ∨ e.op.isWrite = true → (e.bay, e.id) ∈ t.here.tlbWait) ∧
      ((∀ x ∈ s.bays, ∀ e ∈ x.2.bq ++ x.2.transit, e.use = none) → t.here.tlbWait = []) ∧ (s.cmdsOfPart (s.partOf s.cur.bay) = [] → t.here.tlbCmds = [])))

/-- TIME_PERIOD_BOUNDARY and THERMAL_T3_ENTRY (R397, R398): at a period boundary every die of the partition moves to the next thermal state by its
temperature and the power of the package; at 115 °C a die enters T3 and its partition stops: its anchor's region is killed, and once no node
of the partition is live STOP and CAUSE are set and MSI-X vector 0 is raised, in that order (R389).

Exec answers a next state here for: timePeriodBoundary, thermalT3Entry. -/
def Obligations.ThermalStates : Prop :=
  (∀ (p d : Nat) (s : State), p < 4 → d < 4 → s.partOfDie d = p → s.periodDue p = true →
    let x := s.die d
    ∃ t, exec (.timePeriodBoundary p) s = .next t ∧ (t.die d).periodSeen = (s.now - (s.part p).formed) / 1024 ∧ s.sameBytes t ∧
      t.parts = s.parts ∧
      (let watts := t.pkg.pkgpwr.toNat
       (x.thermal = 0 → (t.die d).thermal = if 1600 ≤ x.temp ∨ 2400 < watts then 1 else 0) ∧
       (x.thermal = 1 → (t.die d).thermal =
         if 1680 ≤ x.temp then 2 else if x.temp < 1520 ∧ watts ≤ 2300 ∧ 15 ≤ x.coolPeriods then 0 else 1) ∧
       (x.thermal = 2 → (t.die d).thermal = if x.temp < 1600 then 1 else 2))) ∧
  (∀ (d : Nat) (s : State), d < 4 → 1840 ≤ (s.die d).temp → (s.die d).thermal ≠ 3 →
    let p := s.partOfDie d
    ∃ t, exec (.thermalT3Entry d) s = .next t ∧ (t.die d).thermal = 3 ∧ t.placeDue d = false ∧
      (s.peopled p = false → (t.part p).stopped = true ∧ t.pkg.partstat / 2 ^ (16 * p) % 256 = 0xFF) ∧
      (∀ n, s.node p = some n → n.live = true → n.part = p → ((t.node p).map (·.dying)) = some true ∧
        ((s.part p).stopping = none → (t.part p).stopping = some 0xFF))) ∧
  (∀ (p c : Nat) (s : State), p < 4 → s.pkg.poweron = false → takeInput s.now Instr.early s.inputs = none → s.replayBay = none → s.depsDue = false →
    (s.part p).stopping = some c → s.peopled p = false →
    ∃ t, step s = .next t ∧ (t.part p).stopped = true ∧ (t.part p).stopping = none ∧ t.pkg.partstat / 2 ^ (16 * p) % 256 = c % 256 ∧
      (∃ l, l ≠ [] ∧ t.pkg.msix = s.pkg.msix ++ l ∧ ∀ x ∈ l, x = 0) ∧ s.sameBytes t)

/-! ## Regions (R319 to R340, R367) -/

/-- The shares of a child are free under its parent (R328): SADL of each class, BEATQ and RQS of its siblings that are READY or RUNNING, with
its own, stay within the parent's, and no sibling of a lower slot is HELD. -/
def Sys2Proof.Machine.State.sharesOpen (s : State) (id : Nat) (n : Node) : Prop :=
  ∀ q par, n.parent = some q → s.node q = some par →
    let kids := (s.children q).filter fun x => x.1 != id
    let total (f : Node → Nat) : Nat := ((kids.filter fun x => x.2.state == 3 || x.2.state == 4).map fun x => f x.2).sum + f n
    (∀ c, c < 7 → total (fun x => x.sadl / 16 ^ c % 16) ≤ par.sadl / 16 ^ c % 16) ∧ total (·.beatq) ≤ par.beatq ∧ total (·.rqs) ≤ par.rqs ∧
      ∀ x ∈ kids, x.2.state = 2 → n.slot ≤ x.2.slot

/-- SCHED_CHILD_SCAN (R322 to R325): the scan of a node's child table of one slot, whose word lies on an ordinary page of the host. A slot
with state bits 2 is ill formed and is cleared; one that is not posted is left alone; a posted one whose block passes the checks is
entered in the tree under its parent, live; one whose block cannot be read is kept, and its page is asked for once. On which die that page
request waits, and that it is asked for once, is the model's choice (log entry 64).

NODE_DEP_REACHED and NODE_COMPLETE (R326 to R329, R331): a waiting node whose DEP has been 0 or less, and a held one, becomes
READY as a leaf and joins the ready queue of its class on each die that has a gang of it, or RUNNING as an interior node, when its shares are
free, and else it is held; a node that is done takes DONE or KILLED, and no engine stays reserved for it. A move of the machine notes a
waiting node whose DEP stands at 0 or less, before any later access can raise it.

Exec answers a next state here for: schedChildScan, nodeDepReached, nodeComplete. -/
def Obligations.RegionNodes : Prop :=
  (∀ (id pa : Nat) (n : Node) (l : Leaf) (s : State), 4 ≤ id → s.node id = some n → n.ctabn = 1 → s.scanDue id = true →
    s.pkg.schedWrites = [] → s.pkg.hostOwns = [] → s.pkg.poisonLlc = [] → s.pkg.expDown = [] → s.newKids id n = [] →
    s.walkWaits n.part n.asid n.ctab = false → s.walk n.part n.asid n.ctab = .leaf l → l.tgt = 0 → l.w0.testBit 2 = false → l.w0.testBit 3 = false → pa = l.pa + n.ctab % l.size →
    (∀ k, pa / 64 ≤ k → k ≤ (pa + 7) / 64 → s.pkg.sliceOwns.contains k = true) →
    let v := s.host.num pa 8
    (v % 4 = 2 → ∃ t, exec (.schedChildScan id) s = .next t ∧ t.host.num pa 8 = v - 2 ∧ t.expander = s.expander ∧ t.beat = s.beat ∧
      (∀ a, a < pa ∨ pa + 8 ≤ a → t.host.byte a = s.host.byte a)) ∧
    (v % 4 = 0 → ∃ t, exec (.schedChildScan id) s = .next t ∧ s.sameBytes t ∧ t.bays = s.bays ∧
      ((t.node id).map fun x => (x.seen, x.stuck)) = some (s.postWord n, [])) ∧
    (let addr := v / 64 * 64
     let d := (s.diesOf n.part).headD 0
     v % 64 = 1 → v < 2 ^ 57 → s.posted n ≠ 0 → (∀ c ∈ s.children id, c.2.state ≠ 0) → s.unmapped n.part n.asid addr = true → n.asked = [] → (s.die d).groups = [] → (s.die d).parked = [] →
       ∃ t g, exec (.schedChildScan id) s = .next t ∧ s.sameBytes t ∧ ((t.node id).map fun x => (x.stuck, x.asked)) = some ([0], [addr / 65536]) ∧
         g.asid = n.asid ∧ g.page = addr / 65536 ∧ g.wr = false ∧ g.pasid = s.pasid (s.partOfDie d) n.asid ∧
         t.pkg.pageReqs = s.pkg.pageReqs ++ [g] ∧ (t.die d).groups = [g] ∧ ((t.die d).parked.map (·.what)) = [.sched id]) ∧
    (∀ ws, let addr := v / 64 * 64
     let u := (s.putSlot id n 0 3).schedPut ⟨id, n.part, s.blockAsid n, n.addr + 8, .add (-1)⟩
     let child := effective ws n.part addr 0 (some id) (some n)
     v % 64 = 1 → v < 2 ^ 57 → s.posted n ≠ 0 → n.state = 4 → s.readBlock n.part n.asid addr = some ws →
       u.refusal ws child n (u.closed n) = none → s.node (max 4 s.pkg.nodeCount) = none → id < max 4 s.pkg.nodeCount →
       ∃ t x, exec (.schedChildScan id) s = .next t ∧ t.node (max 4 s.pkg.nodeCount) = some x ∧ x.addr = addr ∧ x.parent = some id ∧ x.slot = 0 ∧
         x.live = true ∧ t.pkg.nodeCount = max 4 s.pkg.nodeCount + 1)) ∧
  (∀ (id : Nat) (n : Node) (s : State), s.node id = some n →
    (n.state = 1 → n.dying = false → n.met = false → s.depOf n ≤ 0 → s.pkg.poweron = false → takeInput s.now Instr.early s.inputs = none →
      s.replayBay = none → ∃ t, step s = .next t ∧ t.node id = some { n with met := true } ∧ s.sameBytes t ∧ t.bays = s.bays ∧ t.now = s.now) ∧
    ((n.state = 1 ∧ (n.met = true ∨ s.depOf n ≤ 0)) ∨ n.state = 2 → n.dying = false →
      ∃ t, exec (.nodeDepReached id) s = .next t ∧ t.beat = s.beat ∧ t.scratch = s.scratch ∧
        (¬ s.sharesOpen id n → ((t.node id).map (·.state)) = some 2) ∧
        (s.sharesOpen id n → n.leaf = true → ((t.node id).map (·.state)) = some 3 ∧
          ∀ d j, n.diesOf.findIdx? (· == d) = some j → j < n.gangCount → id ∈ Tbl.get [] (t.die d).ready n.prio ∧ (t.die d).sched = true) ∧
        (s.sharesOpen id n → n.leaf = false → ((t.node id).map (·.state)) = some 4 ∧ ∀ d k, Tbl.get [] (t.die d).ready k = Tbl.get [] (s.die d).ready k)) ∧
    (∀ q par, s.nodeDone id n = true → n.parent = some q → q ≠ id → s.node q = some par → (∀ c ∈ s.children q, c.2.state ≠ 2) →
      (∀ d u, id ∉ (s.engOf d u).lenders) →
      ∃ t, exec (.nodeComplete id) s = .next t ∧ t.beat = s.beat ∧ t.scratch = s.scratch ∧
        ((t.node id).map fun x => (x.state, x.cause)) = some (if n.dying then 6 else 5, n.cause) ∧
        (∀ d u, (t.engOf d u).reserved ≠ some id)))

/-- GANG_PLACE (R80, R86, R87, R331, R332): a leaf with one gang, alone in the queues of its die, is placed on the lowest free bays: each
member starts at ENTRY with its arguments in s1 up, the other scalar registers and every hold at 0, its TASKID, COORD and CTXBASE, and the
leaf runs.

TASK_END and CLASS0_PREEMPT (R282, R332, R335): the bay of a task that is over is free, and the scheduler of its die looks at its queues;
the victims of a waiting class-0 gang are to be saved, and no byte of memory changes.

Exec answers a next state here for: taskEnd, gangPlace, class0Preempt. -/
def Obligations.TaskPlacement : Prop :=
  (∀ (die id : Nat) (n : Node) (s : State), die < 4 → s.placeDue die = true → (s.part (s.partOfDie die)).rgnanch ≠ 0 → s.node id = some n → n.prio < 4 → n.diesOf = [die] → n.gangCount = 1 →
    n.gangs = [] → n.nextG = [] → n.state = 3 → 1 ≤ n.weight → (s.die die).deficit = [] →
    (∀ k, Tbl.get [] (s.die die).ready k = if k = n.prio then [id] else []) → s.withinBays id (n.members 0).length = true →
    (n.members 0).length ≤ (s.freeBays die n.prio).length →
    ∃ t, exec (.gangPlace die) s = .next t ∧ ((t.node id).map (·.state)) = some 4 ∧ Tbl.get [] (t.die die).ready n.prio = [] ∧
      ∀ x ∈ (n.members 0).zip (s.freeBays die n.prio), ∃ k, (t.bay x.2).task = some k ∧ k.taskid = x.1 ∧ k.node = id ∧ k.asid = n.asid ∧ k.d = n.d ∧
        k.coord = n.coord x.1 ∧ (t.bay x.2).pc = n.entry ∧ (t.bay x.2).handler = false ∧ (t.bay x.2).holds = [] ∧
        (t.bay x.2).ctxbase = BitVec.ofNat 64 (n.save + x.1 * 2 ^ 20) ∧ s.now < (t.bay x.2).nextAt ∧
        ∀ r, (t.bay x.2).scalar false r = if 1 ≤ r ∧ r ≤ n.args.length then BitVec.ofNat 64 (n.args.getD (r - 1) 0) else 0) ∧
  ((∀ (bay : Nat) (s : State), bay < 256 → s.taskOver bay = true → ∃ t, exec (.taskEnd bay) s = .next t ∧ (t.bay bay).task = none ∧
    (t.bay bay).handler = false ∧ (t.die (bay / 64)).sched = true ∧ s.sameBytes t ∧ (∀ k, k ≠ bay → t.bay k = s.bay k)) ∧
  (∀ (die id g : Nat) (n : Node) (s : State), die < 4 → s.preemptNow die = [(id, g, n)] → s.node id = some n →
    ∃ t, exec (.class0Preempt die) s = .next t ∧ ((t.node id).map fun x => (x.gangOf g).state) = some 2 ∧ s.sameBytes t ∧ t.bays = s.bays))

/-- PREEMPT_WRITE and RGNKILL_WRITE (R338, R339, R367): a write of PREEMPT that names a RUNNING leaf asks every task of it on a bay to
switch, but for one that has executed END; for any other leaf it is ignored. A write of RGNKILL that names a live node kills it with cause
0x1B: its tasks stop issuing.

Exec answers a next state here for: rgnkillWrite, preemptWrite. -/
def Obligations.PreemptAndKill : Prop :=
  ∀ (p id : Nat) (n : Node) (v : Word) (s : State), p < 4 → s.nodeAt p (v.toNat % 2 ^ 57 / 64 * 64) = some id → s.node id = some n → s.pkg.recovery = false →
    (n.leaf = true → n.state = 4 → ∃ t, exec (.preemptWrite p v) s = .next t ∧ s.sameBytes t ∧ t.pkg = s.pkg ∧ t.dies = s.dies ∧
      ∀ b, (s.bay b).task.isSome → t.bay b = { s.bay b with preempt := (s.bay b).preempt || ((s.bay b).ofNode id && (s.bay b).ended.isNone) }) ∧
    (¬ (n.leaf = true ∧ n.state = 4) → exec (.preemptWrite p v) s = .next s) ∧
    (n.dying = false → ∃ t, exec (.rgnkillWrite p v) s = .next t ∧ ((t.node id).map fun x => (x.dying, x.cause)) = some (true, 0x1B) ∧
      ∀ b, (s.bay b).ofNode id = true → (t.bay b).stopped = true ∧ t.mayIssue b = false) ∧
    (n.dying = true → exec (.rgnkillWrite p v) s = .next s)

/-! ## Phases, the outside of the machine and power (R103, R104, R117, R350, R351, R378 to R400) -/

/-- PHASE (R103, R104): a table of no agents ends the phase; a table of one agent and one range record is the phase from then on, and
issue stops for 16 + 4m cycles; a header or record that R103 forbids is an illegal encoding that names the offset of the bad field.

Exec answers a next state here for: phase. -/
def Obligations.PhaseSets : Prop :=
  ∀ (b : Reg) (s : State), s.settled b →
    let off := (s.val b).toNat % 2 ^ 20
    let w (k n : Nat) : Nat := s.scratchNum s.cur.bay (off + k) n
    s.ownScratch 8 32 (BitVec.ofNat 64 off) → s.pkg.poisonScratch = [] → s.cmdsOf s.cur.bay s.here.uid = [] → s.heldOf s.here.uid = [] →
    (w 0 8 = 0 → ∃ t, exec (.phase b) s = .next t ∧ s.sameBut s.cur.bay t ∧ t.cur = s.cur ∧ t.here.phase = [] ∧ t.here.phaseOn = false ∧
      t.here.nextAt = s.now + 17 ∧ { t.here with phase := s.here.phase, phaseOn := s.here.phaseOn, nextAt := s.here.nextAt } = s.here) ∧
    (∀ sp, w 0 8 = 1 → w 8 8 = 2 ^ 16 + 1 → w 24 4 ≠ 0 → sp ∈ [1, 2, 3, 5] → w 28 4 = 2 * sp + 1 →
      ∃ t, exec (.phase b) s = .next t ∧ s.sameBut s.cur.bay t ∧ t.here.phase = [⟨1, [⟨w 16 8, w 24 4, sp, true⟩]⟩] ∧ t.here.phaseOn = true ∧
        t.here.nextAt = s.now + 21) ∧
    (17 ≤ w 0 8 → exec (.phase b) s = .next (s.raise ⟨0x01, 0x0100, BitVec.ofNat 64 off, 0, 0⟩)) ∧
    (w 0 8 = 1 → w 8 8 = 2 ^ 16 + 1 → w 24 4 = 0 →
      exec (.phase b) s = .next (s.raise ⟨0x01, 0x0100, BitVec.ofNat 64 (off + 24), 0, 0⟩))

/-- The dies of a partition, under the PID fields of PARTCFG (R387). -/
def Sys2Proof.Machine.pidOf (pids d : Nat) : Nat := pids / 4 ^ d % 4

/-- PARTCFG_GO, REGISTER_WRITE and RASERR_READ (R387, R388, R394, R400): a forming gives each die its partition, and each partition whose
membership changes starts at beat 0 with its anchor, RGNANCH and ASIDTB cleared and its beat plans empty; the slices of its dies hold no
line of the host any more; beat memory keeps its contents. A
live node or a die that is not ready refuses it, and BUSY is set. A 1 written to STOP or BUSY clears the bit, and no write reaches CAUSE. A
read of RASERR clears CECNT alone.

Exec answers a next state here for: partcfgGo, raserrRead, registerWrite. -/
def Obligations.Partitions : Prop :=
  (∀ (v : Word) (s : State), s.pkg.recovery = false → s.pkg.pids < 256 →
    let new := v.toNat % 256
    let changes (d : Nat) : Prop := pidOf s.pkg.pids d ≠ pidOf new d
    ((s.pkg.nodes.any fun x => decide (4 ≤ x.1) && x.2.any (·.live)) = false → (∀ d, d < 4 → changes d → s.pkg.ready.testBit (4 + d) = true) →
      (∀ d e, d < 4 → e < 4 → changes d → pidOf s.pkg.pids e = pidOf s.pkg.pids d ∨ pidOf new e = pidOf new d → s.pkg.ready.testBit (4 + e) = true) →
      ∃ t, exec (.partcfgGo v) s = .next t ∧ t.pkg.partcfg = new ∧ s.sameBytes t ∧ (∀ d, d < 4 → t.partOfDie d = pidOf new d) ∧
        t.pkg.partstat = s.pkg.partstat ∧
        ∀ d, d < 4 → changes d → ∀ p ∈ [pidOf s.pkg.pids d, pidOf new d], (t.part p).beatno = 0 ∧ (t.part p).formed = s.now ∧
          (t.part p).rgnanch = 0 ∧ (t.part p).asidtb = 0 ∧ t.node p = none ∧ (∀ b, t.partOf b = p → (t.bay b).plan = [] ∧ (t.bay b).plans = []) ∧
          ∀ k ∈ t.pkg.sliceOwns ++ t.pkg.sliceShares, ∃ x ∈ s.pkg.llc, ¬ changes (x.1 / 32) ∧ ∃ l ∈ x.2, l.line = (false, k)) ∧
    (∀ d e p, d < 4 → e < 4 → changes d → p ∈ [pidOf s.pkg.pids d, pidOf new d] → pidOf s.pkg.pids e = p ∨ pidOf new e = p →
      s.pkg.ready.testBit (4 + e) = false →
      ∃ t, exec (.partcfgGo v) s = .next t ∧ t.pkg.partstat.testBit (16 * p + 14) = true ∧ t.pkg.pids = s.pkg.pids ∧ t.parts = s.parts ∧
        t.bays = s.bays ∧ t.dies = s.dies ∧ s.sameBytes t) ∧
    (∀ k n d, 4 ≤ k → s.node k = some n → n.live = true → d < 4 → changes d → n.part = pidOf s.pkg.pids d →
      ∃ t, exec (.partcfgGo v) s = .next t ∧ t.pkg.partstat.testBit (16 * n.part + 14) = true ∧ t.pkg.pids = s.pkg.pids ∧ t.parts = s.parts ∧
        t.bays = s.bays ∧ t.dies = s.dies ∧ s.sameBytes t)) ∧
  (∀ (v : Word) (s : State), s.pkg.recovery = false → s.pkg.partstat < 2 ^ 64 →
    ∃ t, exec (.registerWrite 0x1008 v) s = .next t ∧ s.sameBytes t ∧ t.bays = s.bays ∧
      ∀ p k, p < 4 → k < 16 → (t.registerRead 0x1008).getLsbD (16 * p + k) =
        ((s.registerRead 0x1008).getLsbD (16 * p + k) && !(decide (14 ≤ k) && v.getLsbD (16 * p + k)))) ∧
  (∀ (d : Nat) (s : State), d < 4 → s.pkg.recovery = false →
    ∃ t, exec (.raserrRead d) s = .next t ∧ t.pkg = { s.pkg with hostData := s.pkg.hostData ++ [(2, leBytes 8 (s.die d).raserr.toNat)] } ∧
      t.die d = { s.die d with raserr := BitVec.ofNat 64 ((s.die d).raserr.toNat / 2 ^ 32 * 2 ^ 32) } ∧
      (∀ k, k ≠ d → t.die k = s.die k) ∧ t.bays = s.bays ∧ t.parts = s.parts ∧ s.sameBytes t)

/-- The state after a reset: the machine at reset, with host and expander memory, the flash and what is to come from outside as they were. -/
def Sys2Proof.Machine.State.resetFrom (s t : State) : Prop :=
  t.bays = State.reset.bays ∧ t.dies = State.reset.dies ∧ t.parts = State.reset.parts ∧ t.beat = [] ∧ t.scratch = [] ∧ t.acc = [] ∧
    t.host = s.host ∧ t.expander = s.expander ∧ t.pkg.flash = s.pkg.flash ∧ t.pkg.flashWhole = s.pkg.flashWhole ∧ t.pkg.poweron = true ∧
    t.pkg.ready = 0 ∧ t.pkg.fwctl = 0 ∧ t.pkg.keys = [] ∧ t.pkg.partcfg = 0

/-- KEYCTL_GO and KEYCTL_ZAP (R391, R394): GO loads KEYDATA into the slot that INDEX names and zeroes KEYDATA, ZAP empties the slot; both
set at once, slot 0, equal halves of KEYDATA or KEYS clear refuse the write and set ERR. That a refused write leaves INDEX as it was, and
that a write with neither GO nor ZAP is refused on the same grounds, are the model's choices (log entries 107 and 108).

FWCTL_GO, FW_VERIFY_COMPLETE, FW_WRITE_COMPLETE, FWCTL_RECOVER, POWER_FAIL and POWER_ON_RESET (R395, R396): GO while an image is
verified or written is ignored, and while a node other than an anchor is live it is rejected; else the image is verified, and a valid one
is written to the flash, which holds no valid image until that is done. At power-on the ROM measures itself and the image and starts a
valid one; else it stays in recovery. Two choices of the model: that the image is read as it stands when its verification completes (log
entry 110), and what of the package a reset keeps (log entry 109).

Exec answers a next state here for: keyctlGo, keyctlZap, fwctlGo, fwctlRecover, fwWriteComplete, registerWrite, powerOnReset,
fwVerifyComplete, powerFail. -/
def Obligations.KeysAndFirmware : Prop :=
  (∀ (v : Word) (s : State), s.pkg.recovery = false →
    let idx := v.toNat % 512
    let half (k : Nat) : List Byte := Tbl.read 0 s.pkg.keydata (32 * k) 32
    let ok : Prop := idx ≠ 0 ∧ ¬ (v.getLsbD 9 = true ∧ v.getLsbD 10 = true) ∧ half 0 ≠ half 1 ∧ s.pkg.ready.testBit 11 = true
    let wide := leNat (Tbl.read (0 : Byte) s.pkg.keydata 0 64)
    (ok → ∃ t, exec (.keyctlGo v) s = .next t ∧ Tbl.get 0 t.pkg.keys idx = wide ∧ (∀ k, k ≠ idx → Tbl.get 0 t.pkg.keys k = Tbl.get 0 s.pkg.keys k) ∧
      t = { s with pkg := { s.pkg with keyctl := BitVec.ofNat 64 idx, keydata := [], keys := t.pkg.keys } }) ∧
    (ok → ∃ t, exec (.keyctlZap v) s = .next t ∧ Tbl.get 0 t.pkg.keys idx = 0 ∧ (∀ k, k ≠ idx → Tbl.get 0 t.pkg.keys k = Tbl.get 0 s.pkg.keys k) ∧
      t = { s with pkg := { s.pkg with keyctl := BitVec.ofNat 64 idx, keys := t.pkg.keys } }) ∧
    (ok → exec (.registerWrite 0x1020 v) s =
      .next { s with pkg := { s.pkg with keyctl := (s.pkg.keyctl &&& 0x800) ||| BitVec.ofNat 64 idx } }) ∧
    (¬ ok → ∀ i ∈ [Instr.keyctlGo v, .keyctlZap v, .registerWrite 0x1020 v],
      exec i s = .next { s with pkg := { s.pkg with keyctl := s.pkg.keyctl ||| 0x800 } })) ∧
  (∀ (s : State),
    let st (t : State) : Nat := t.pkg.fwctl.toNat / 16 % 8
    (∀ v : Word, st s = 1 ∨ st s = 2 → exec (.fwctlGo v) s = .next s) ∧
    (∀ v : Word, st s ≠ 1 → st s ≠ 2 → ∃ t, exec (.fwctlGo v) s = .next t ∧ t.pkg.flash = s.pkg.flash ∧ t.pkg.flashWhole = s.pkg.flashWhole ∧
      t.bays = s.bays ∧ s.sameBytes t ∧ t.pkg.fwctl.toNat / 2 ^ 12 = v.toNat % 2 ^ 57 / 2 ^ 12 ∧
      st t = if (s.pkg.nodes.any fun x => decide (4 ≤ x.1) && x.2.any (·.live)) then 4 else 1) ∧
    (∀ u, s.pkg.fwDue = some u → u ≤ s.now →
      (st s = 1 → Config.imageValid s.newImage = true → ∃ t, exec .fwVerifyComplete s = .next t ∧ st t = 2 ∧ t.pkg.flash = s.newImage ∧
        t.pkg.flashWhole = false ∧ t.pkg.fwDue.isSome) ∧
      (st s = 1 → Config.imageValid s.newImage = false → ∃ t, exec .fwVerifyComplete s = .next t ∧ st t = 4 ∧ t.pkg.flash = s.pkg.flash ∧
        t.pkg.flashWhole = s.pkg.flashWhole) ∧
      (st s = 2 → ∃ t, exec .fwWriteComplete s = .next t ∧ st t = 3 ∧ t.pkg.flash = s.pkg.flash ∧ t.pkg.flashWhole = true)) ∧
    (∀ v : Word, ∃ t, exec (.fwctlRecover v) s = .next t ∧ s.resetFrom t ∧ t.pkg.recovery = true) ∧
    (∃ t, exec .powerFail s = .next t ∧ s.resetFrom t ∧ t.pkg.recovery = false) ∧
    (s.pkg.poweron = true →
      let whole := s.pkg.flashWhole && Config.imageValid s.pkg.flash && !s.pkg.recovery
      ∃ t, exec .powerOnReset s = .next t ∧ t.pkg.poweron = false ∧ t.pkg.measureRom = Config.romDigest ∧ t.pkg.measureFw = sha512 s.pkg.flash ∧
        t.pkg.recovery = !whole ∧ t.pkg.ready.testBit 0 = true ∧ (whole = true → t.pkg.ready.testBit 1 = true) ∧ t.bays = s.bays ∧ s.sameBytes t))

/-- DIE_READY, EXPANDERS_READY, JEXVIK_TRAINED, KEYS_READY, HOST_PORT_UP, UPSTREAM_PORT_DOWN and DOWNSTREAM_PORT_DOWN (R379, R383, R393):
each readiness event sets its own bit of READY and no other; a die becomes ready with its beat memory zeroed; three expanders are used as
two; an upstream port comes up at 64 or 32 GT/s with 16 or 8 lanes in 256-byte flit mode, and else stays down (R378); HOST clears, the
writes that the host has not acknowledged are lost, and every partition stops, when the last upstream port goes down (a partition with live
nodes once they have been killed, R389); what is read from an expander behind a port that is down is poisoned.

Exec answers a next state here for: upstreamPortDown, hostPortUp, downstreamPortDown, dieReady, expandersReady, jexvikTrained,
keysReady. -/
def Obligations.Readiness : Prop :=
  ∀ (s : State),
    let sets (i : Instr) (k : Nat) : Prop := ∃ t, exec i s = .next t ∧ ∀ j, t.pkg.ready.testBit j = (s.pkg.ready.testBit j || decide (j = k))
    (∀ d, d < 4 → sets (.dieReady d) (4 + d) ∧ ∃ t, exec (.dieReady d) s = .next t ∧
      ∀ a, t.beat.byte a = if a / 2 ^ 36 = d then 0 else s.beat.byte a) ∧
    (∀ n, sets (.expandersReady n) 9 ∧ ∃ t, exec (.expandersReady n) s = .next t ∧ s.sameBytes t ∧ t.bays = s.bays ∧
      (n ∈ [1, 2, 4] → t.pkg.expanders = n) ∧ (n = 3 → t.pkg.expanders = 2)) ∧
    sets .jexvikTrained 10 ∧ sets .keysReady 11 ∧
    (∀ u : PortUp, u.port < 2 →
      let works : Prop := (u.gts = 64 ∨ u.gts = 32) ∧ (u.lanes = 16 ∨ u.lanes = 8) ∧ u.mode = .flit256
      (works → sets (.hostPortUp u) 8 ∧ ∃ t, exec (.hostPortUp u) s = .next t ∧ u.port ∈ t.pkg.ports ∧
        ∀ q, q ≠ u.port → (q ∈ t.pkg.ports ↔ q ∈ s.pkg.ports)) ∧
      (¬ works → exec (.hostPortUp u) s = .next s)) ∧
    (∀ p, p < 2 → s.pkg.ports = [0, 1] → s.bays = [] → s.dies = [] →
      ∃ t, exec (.upstreamPortDown p) s = .next t ∧ t.pkg = { s.pkg with ports := [1 - p] }) ∧
    (∀ p, p < 2 → s.pkg.ports = [p] →
      ∃ t, exec (.upstreamPortDown p) s = .next t ∧ t.pkg.ports = [] ∧ t.pkg.acks = [] ∧ t.pkg.ready.testBit 8 = false ∧
        (∀ d, d < 4 → s.peopled (s.partOfDie d) = false → (t.part (s.partOfDie d)).stopped = true) ∧
        (∀ d n, d < 4 → s.node (s.partOfDie d) = some n → n.live = true → n.part = s.partOfDie d →
          ((t.node (s.partOfDie d)).map (·.dying)) = some true ∧ (t.part (s.partOfDie d)).stopping.isSome)) ∧
    (∀ p x, p < 2 → s.pkg.ports = [p] → s.bays = [] → s.dies = [] → s.pkg.nodes = [] → s.pkg.acks = [x] → x.old.length = 64 →
      ∃ t, exec (.upstreamPortDown p) s = .next t ∧ ∀ a, t.host.byte a = if a / 64 = x.line then x.old.getD (a % 64) 0 else s.host.byte a) ∧
    (∀ p a, p < 4 → s.pkg.expanders ≠ 0 → a / 4096 % s.pkg.expanders = p →
      ∃ t, exec (.downstreamPortDown p) s = .next t ∧ t.poisoned true a = true ∧ s.sameBytes t)

/-- HOST_REQUEST_ARRIVE and PAGE_REQUEST_RESPONSE (R117, R350, R351, R380, R383, R394, R395): the first access beat that opens after its
arrival serves a request to beat memory; a hole, a die that is not ready, and what no HDM decoder opens, give poison and drop a write; a line
of the expander range is read or written at once, unless it is poisoned or, for a write, no expander answers for it; a line that is written
whole is no longer poisoned (R79, R399), and no copy of it stays in a core. The recovery ROM answers no request. The answer to a page request
leaves no entry of its group parked, and no other entry moves: what was parked arrives at its home from the next cycle on, and of a refused
group an entry is given up with a page fault.

Choices of the model: the host reads and writes expander lines under key slot 0 (log entry 111); a read makes the host the holder of the line
(log entry 112), and no access of the part arrives behind a request of the host on its cycle (log entry 112); expander memory ends at 8 TiB (R13,
log entry 140); what the decoders open is one extent of beat memory and a list of extents of expander memory (log entry 171).

Exec answers a next state here for: pageRequestResponse, hostRequestArrive. -/
def Obligations.HostRequests : Prop :=
  (∀ (a n : Nat) (d : BitVec 512) (s : State),
    let p := s.partOf (a / 2 ^ 30)
    let k := ((s.part p).beatno / 2 + 1) * 2
    let dead : Prop := 2 ^ 38 ≤ a ∨ 1536 ≤ a / 2 ^ 10 % 2 ^ 11 ∨ s.pkg.ready.testBit (4 + a / 2 ^ 36) = false ∨
      s.hdmOpen false a n = false
    (s.pkg.recovery = true → ∀ q, exec (.hostRequestArrive q) s = .next s) ∧ (s.pkg.recovery = false →
    (¬ dead → (∃ t, exec (.hostRequestArrive ⟨.beat, a, n, .write d⟩) s = .next t ∧ s.sameBytes t ∧ t.pkg = s.pkg ∧ t.bays = s.bays ∧
        (t.part p).hostWrites = (s.part p).hostWrites ++ [(k, a, leBytes n d.toNat)]) ∧
      (∃ t, exec (.hostRequestArrive ⟨.beat, a, n, .read⟩) s = .next t ∧ s.sameBytes t ∧ t.pkg = s.pkg ∧ t.bays = s.bays ∧
        (t.part p).hostReads = (s.part p).hostReads ++ [(k, ⟨.beat, a, n, .read⟩)])) ∧
    (dead → exec (.hostRequestArrive ⟨.beat, a, n, .write d⟩) s = .next s ∧
      exec (.hostRequestArrive ⟨.beat, a, n, .read⟩) s = .next { s with pkg := { s.pkg with hostData := s.pkg.hostData ++ [(1, [])] } }) ∧
    (s.poisoned true a = true ∨ s.hdmOpen true a n = false → exec (.hostRequestArrive ⟨.expander, a, n, .read⟩) s =
      .next { s with pkg := { s.pkg with hostServed := s.now + 1, hostData := s.pkg.hostData ++ [(1, [])] } }) ∧
    (s.unanswered true a = true ∨ s.hdmOpen true a n = false →
      exec (.hostRequestArrive ⟨.expander, a, n, .write d⟩) s = .next { s with pkg := { s.pkg with hostServed := s.now + 1 } }) ∧
    (s.poisoned true a = false → s.hdmOpen true a n = true →
      ∃ t, exec (.hostRequestArrive ⟨.expander, a, n, .read⟩) s = .next t ∧ s.sameBytes t ∧ (∀ b, (true, a / 64) ∉ (t.bay b).l1) ∧
      t.pkg.hostData = s.pkg.hostData ++ [(0, (List.range n).map fun i => s.expByte 0 (a + i))] ∧ a / 64 ∈ t.pkg.hostOwns ∧
      t.pkg.hostServed = s.now + 1) ∧
    (s.unanswered true a = false → s.hdmOpen true a n = true → n ≤ 64 → a % 64 + n ≤ 64 → a + n ≤ 2 ^ 43 →
      ∃ t, exec (.hostRequestArrive ⟨.expander, a, n, .write d⟩) s = .next t ∧ t.host = s.host ∧ (∀ b, (true, a / 64) ∉ (t.bay b).l1) ∧
      t.beat = s.beat ∧ (a % 64 = 0 → n = 64 → t.poisoned true a = false) ∧ (∀ i, i < n → t.expByte 0 (a + i) = BitVec.ofNat 8 (d.toNat / 2 ^ (8 * i))) ∧
      (∀ x, x < a / 64 * 64 ∨ a / 64 * 64 + 64 ≤ x → t.expander.byte x = s.expander.byte x)))) ∧
  (∀ (die asid page : Nat) (ok : Bool) (s : State), die < 4 →
    (((s.die die).parked.filter fun p => p.asid == asid && p.page == page) = [] →
      ∃ t, exec (.pageRequestResponse die asid page ok) s = .next t ∧ (t.die die).parked = (s.die die).parked ∧ s.sameBytes t ∧ t.bays = s.bays ∧
        (∀ g, g ∈ (t.die die).groups ↔ g ∈ (s.die die).groups ∧ ¬ (g.asid = asid ∧ g.page = page))) ∧
    (∀ e id c nd, (s.die die).parked = [⟨asid, page, nd, .cmd e id⟩] → s.findCmd e id = some c →
      let u := (s.onDie die fun d => { d with parked := [], groups := d.groups.filter fun g => !(g.asid == asid && g.page == page) }).setCmd e
        { c with owner := false, parked := none, next := s.now + 1 }
      exec (.pageRequestResponse die asid page true) s = .next u) ∧
    (∀ bay q id e nd, (s.die die).parked = [⟨asid, page, nd, .entry bay q id⟩] → s.findEntry bay q id = some e → s.stillAway bay e = false →
      ∃ t, exec (.pageRequestResponse die asid page true) s = .next t ∧ (t.die die).parked = [] ∧ s.sameBytes t ∧ t.pkg = s.pkg ∧
        (∀ k, k ≠ q → Tbl.get [] (t.bay bay).sq k = Tbl.get [] (s.bay bay).sq k) ∧
        ∀ x, x ∈ Tbl.get [] (s.bay bay).sq q →
          (if x.id = id then { x with stage := .queued, notBefore := s.now + 1 } else x) ∈ Tbl.get [] (t.bay bay).sq q) ∧
    (∀ bay q id e nd, (s.die die).parked = [⟨asid, page, nd, .entry bay q id⟩] → s.findEntry bay q id = some e →
      ∃ t r, exec (.pageRequestResponse die asid page false) s = .next t ∧ (t.die die).parked = [] ∧ s.sameBytes t ∧ r.cause = 0x10 ∧
        t.pkg.outbox = s.pkg.outbox ++ [⟨bay, (s.bay bay).uid, r, e.priv, 0⟩] ∧
        Tbl.get [] (t.bay bay).sq q = (Tbl.get [] (s.bay bay).sq q).filter (fun x => x.id != e.id) ∧
        (t.bay bay).holds = ((s.bay bay).endHold s.now e.hold).holds))

/-- JEXVIK_FLIT_RECEIVE, JEXVIK_REPLAY_TIMEOUT, COLL_CONTRIBUTION_ARRIVE and COLL_ROUND_TIMEOUT (R384, R386): each channel delivers its flits in
order and once; a flit whose CRC fails is asked for again, and a link that has not had its replay within 65,536 cycles goes down; what a flit
completes arrives at its round; a round commits when every contribution is in, one that is still open 16,000 cycles after its first is
abandoned, and so are those of a group whose ranks give different ROUND values.

Choices of the model: a round is open still at 16,000 cycles after its first contribution, and abandoned from the next cycle on (log entry
120); the numbers of the flits of a channel, and which of them make up a contribution (log entry 134); the polynomial of the CRC (log entry
172).

Exec answers a next state here for: jexvikFlitReceive, jexvikReplayTimeout, collContributionArrive, collRoundTimeout. -/
def Obligations.LinksAndRounds : Prop :=
  (∀ (k : Nat) (f : Flit) (s : State), k < 18 → f.vc < 8 →
    let l (t : State) : Link := Tbl.get Link.reset t.pkg.links k
    (l s).up = true →
    let got := Tbl.get [] (l s).parts f.vc ++ [(f.kind, f.payload)]
    (flitIntact f = false → ∃ t, exec (.jexvikFlitReceive k f) s = .next t ∧ (l t).expect = (l s).expect ∧ t.pkg.rounds = s.pkg.rounds ∧
      ∀ v, Tbl.get none (l t).replay v = if v = f.vc then (Tbl.get none (l s).replay v).or (some s.now) else Tbl.get none (l s).replay v) ∧
    (flitIntact f = true → f.seq ≠ Tbl.get 0 (l s).expect f.vc → exec (.jexvikFlitReceive k f) s = .next s) ∧
    (flitIntact f = true → f.seq = Tbl.get 0 (l s).expect f.vc → ∃ t, exec (.jexvikFlitReceive k f) s = .next t ∧
      (∀ v, Tbl.get 0 (l t).expect v = if v = f.vc then f.seq + 1 else Tbl.get 0 (l s).expect v) ∧
      (∀ v, Tbl.get none (l t).replay v = if v = f.vc then none else Tbl.get none (l s).replay v) ∧
      (l t).sent = (l s).sent.drop f.credit ∧ (l t).up = true ∧ s.sameBytes t ∧ t.bays = s.bays ∧
      (Config.contributionOf got = none → t.pkg.rounds = s.pkg.rounds ∧ Tbl.get [] (l t).parts f.vc = got) ∧
      (∀ c, Config.contributionOf got = some c → Tbl.get [] (l t).parts f.vc = [] ∧
        ∃ u, exec (.collContributionArrive c) s = .next u ∧ t.pkg.rounds = u.pkg.rounds)) ∧
    (∀ v c, (l s).replay = [(v, some c)] → ∃ t, exec (.jexvikReplayTimeout k) s = .next t ∧ (l t).up = decide (s.now < c + 65536))) ∧
  (∀ (c : Contribution) (s : State), s.pkg.rounds = [] → 1 ≤ c.nrank →
    ∃ t x, exec (.collContributionArrive c) s = .next t ∧ t.pkg.rounds = [x] ∧ x.group = c.group ∧ x.round = c.round ∧ x.first = s.now ∧ x.cons = [c] ∧
      (c.nrank = 1 → c.data.length * 4 ≤ 2 ^ 21 → x.state = 1) ∧ (2 ≤ c.nrank → c.data.length * 4 ≤ 2 ^ 21 → x.state = 0)) ∧
  (∀ (c : Contribution) (x : Round) (s : State), s.pkg.rounds = [x] → x.group = c.group → x.state = 0 → x.round ≠ c.round →
    (∀ y ∈ x.cons, y.rank ≠ c.rank) → ∃ t y, exec (.collContributionArrive c) s = .next t ∧ t.pkg.rounds = [{ x with state := 2 }, y] ∧
      y.group = c.group ∧ y.round = c.round ∧ y.state = 2) ∧
  (∀ (g : Nat) (s : State), ∃ t, exec (.collRoundTimeout g) s = .next t ∧ t.bays = s.bays ∧ s.sameBytes t ∧
    t.pkg.rounds = s.pkg.rounds.map fun x => if x.group = g ∧ x.state = 0 ∧ x.first + 16000 < s.now then { x with state := 2 } else x)

/-- ECC_UNCORRECTABLE and ECC_CORRECTED (R399, R400): an uncorrectable error is recorded when VALID is clear, with MSI-X vector 1; a further one
sets OVF, and one of the same cycle at a lower address takes the record; the data it names are poisoned, rows of beat memory and
accumulators also for the readers of the last snapshot. A corrected error only counts,
up to 0xFFFF_FFFF.

Exec answers a next state here for: eccUncorrectable, eccCorrected. -/
def Obligations.ErrorRecords : Prop :=
  ∀ (d u a : Nat) (s : State), d < 4 → u < 6 → a < 2 ^ 57 →
    let r := (s.die d).raserr
    let other (t : State) : Prop := (∀ k, k ≠ d → t.die k = s.die k) ∧ t.bays = s.bays ∧ s.sameBytes t ∧ ∀ p,
      { t.part p with snapPoisonBeat := (s.part p).snapPoisonBeat, snapPoisonAcc := (s.part p).snapPoisonAcc } = s.part p
    (∃ t, exec (.eccUncorrectable ⟨d, u, a⟩) s = .next t ∧ other t ∧
      (u = 0 → a / 1024 ∈ t.pkg.poisonBeat ∧ a / 1024 ∈ (t.part (s.partOfDie d)).snapPoisonBeat) ∧
      (u = 1 → a / 1024 ∈ t.pkg.poisonAcc ∧ a / 1024 ∈ (t.part (s.partOfDie d)).snapPoisonAcc) ∧ (u = 2 → a % 2 ^ 28 / 64 ∈ t.pkg.poisonScratch) ∧
      (u = 3 → (true, a / 64) ∈ t.pkg.poisonLlc) ∧ (u = 4 → a / 64 ∈ t.pkg.poisonTile) ∧ (u = 5 → t.poisoned true a = true) ∧
      (t.die d).raserr.getLsbD 63 = true ∧ (t.die d).raserr.toNat % 2 ^ 32 = r.toNat % 2 ^ 32 ∧
      (r.getLsbD 63 = false → (t.die d).rasaddr.toNat = a ∧ (t.die d).raserr.toNat / 2 ^ 58 % 16 = u ∧ (t.die d).raserr.getLsbD 62 = r.getLsbD 62 ∧
        t.pkg.msix = s.pkg.msix ++ [1]) ∧
      (r.getLsbD 63 = true → (t.die d).raserr.getLsbD 62 = true ∧ t.pkg.msix = s.pkg.msix ∧
        (if (s.die d).rasAt = s.now ∧ a < (s.die d).rasaddr.toNat then (t.die d).rasaddr.toNat = a ∧ (t.die d).raserr.toNat / 2 ^ 58 % 16 = u
         else (t.die d).rasaddr = (s.die d).rasaddr ∧ (t.die d).raserr.toNat / 2 ^ 58 % 16 = r.toNat / 2 ^ 58 % 16))) ∧
    (∃ t, exec (.eccCorrected ⟨d, u, a⟩) s = .next t ∧ other t ∧ t.pkg = s.pkg ∧
      (t.die d).raserr.toNat = if r.toNat % 2 ^ 32 = 2 ^ 32 - 1 then r.toNat else r.toNat + 1)

/-- GET_VERSION, GET_CAPABILITIES, NEGOTIATE_ALGORITHMS, GET_DIGESTS, GET_CERTIFICATE, CHALLENGE and GET_MEASUREMENTS (R392): only ECDSA on
P-521 with SHA-512 is negotiated, and what follows a negotiation is answered from the measurements and the certificate chain; the chain, the
ROM's digest and the signatures are free values of the machine. The codes of the answers and the order of the requests are the model's presumption of SPDM 1.2.

Exec answers a next state here for: getVersion, getCapabilities, negotiateAlgorithms, getDigests, getCertificate, challenge,
getMeasurements. -/
def Obligations.Attestation : Prop :=
  ∀ (q : SpdmReq) (s : State),
    let replies (i : Instr) (k : Nat) (bs : List Byte) (st : Nat) : Prop :=
      exec i s = .next { s with pkg := { s.pkg with hostData := s.pkg.hostData ++ [(256 + k, bs)], spdmState := st } }
    let chain := Config.certChain q.param
    let digest (bs : List Byte) : List Byte := (leBytes 64 (sha512 bs).toNat).reverse
    let sealed (bs : List Byte) : List Byte := bs ++ (leBytes 132 (Config.sign (sha512 bs) s.now).toNat).reverse
    replies (.getVersion q) 0x04 [0x12] 1 ∧
    (1 ≤ s.pkg.spdmState → replies (.getCapabilities q) 0x61 [0x12] (max 2 s.pkg.spdmState)) ∧
    (s.pkg.spdmState = 0 → replies (.getCapabilities q) 0x7F [] 0) ∧
    (2 ≤ s.pkg.spdmState → q.sigAlg.testBit 8 = true → q.hashAlg.testBit 2 = true →
      replies (.negotiateAlgorithms q) 0x63 [0, 1, 0, 0, 4, 0, 0, 0] 3) ∧
    (¬ (2 ≤ s.pkg.spdmState ∧ q.sigAlg.testBit 8 = true ∧ q.hashAlg.testBit 2 = true) →
      replies (.negotiateAlgorithms q) 0x7F [] (min 2 s.pkg.spdmState)) ∧
    (s.pkg.spdmState = 3 →
      replies (.getDigests q) 0x01 (digest chain) 3 ∧ replies (.getCertificate q) 0x02 ((chain.drop q.offset).take q.len) 3 ∧
      replies (.challenge q) 0x03 (sealed (digest chain ++ leBytes 32 q.nonce.toNat)) 3 ∧
      (q.param = 2 → replies (.getMeasurements q) 0x60 (sealed ((leBytes 64 s.pkg.measureFw.toNat).reverse ++ leBytes 32 q.nonce.toNat)) 3) ∧
      (q.param = 3 → replies (.getMeasurements q) 0x60 (sealed (digest (leBytes 8 s.pkg.partcfg ++ leBytes 8 s.pkg.grptab.toNat) ++
        leBytes 32 q.nonce.toNat)) 3)) ∧
    (s.pkg.spdmState ≠ 3 → ∀ i ∈ [Instr.getDigests q, .getCertificate q, .challenge q, .getMeasurements q], replies i 0x7F [] s.pkg.spdmState)

/-! ## Encodings, the step and reset (R111, R192 to R213, R393, R395) -/

/-- The encoder and the decoder agree (R192, R196, R199, R203, R204): every slot instruction that is well formed under its prefixes, and whose tag has
the parity of its kind, decodes from the words that the encoder gives it, with every operand as it was. -/
def Obligations.RoundTrip : Prop :=
  ∀ (i : Instr) (sl : Slot) (w : Word32) (q : Option Word32) (dbeat : BitVec 16), encode i = some (sl, w, q) → i.wf = true →
    beatBad i i.pfx dbeat = false → decodeSlot sl w q i.pfx dbeat = .ok i

/-- Prefix words one after the other, each of a class of its own (R201, R202). -/
def Sys2Proof.decodePrefixes (l : List Word32) : Option Pfx := l.foldl (fun p w => p.bind (decodePfx w)) (some .empty)

/-- The settings of the prefixes (R201, R202): a set of prefixes that the encodings allow is read back from its words, each class at most once
and at most two of them; a class that is given twice is refused. -/
def Obligations.PrefixWords : Prop :=
  (∀ p : Pfx, p.ok = true → decodePrefixes p.words = some p ∧ p.words.length ≤ 2 ∧ ∀ w ∈ p.words, w.toNat % 4 = 2) ∧
  (∀ (w : Word32) (p q : Pfx), decodePfx w p = some q → ∀ x : Word32, x.toNat / 4 % 8 = w.toNat / 4 % 8 → decodePfx x q = none)

/-- Words that the spec writes out decode to the instructions that they stand for, at least one of each group of slots: ADDI and LIH (R216), a
row of each worked table (R213's bundle: ADD and XATT; the tile words behind R253: TADD.t, TFMA.r, FEXPQ.r; the memory and array words behind
R277: LD, STB, STG, AMAC, CSNAP.LD; the control and engine words behind R308: LOOP, WAITC, LEASE), XCPY (R300) and FENCE (R293). -/
def Obligations.DecodedWords : Prop :=
  decodeSlot .s0 0xFFC0850C none .empty 0 = .ok (.addi 5 4 (-16)) ∧
  decodeSlot .s1 0x2AF006A4 none .empty 0 = .ok (.lih 6 0x0ABC) ∧
  decodeSlot .s0 0x0004C704 none .empty 0 = .ok (.add 7 6 1) ∧
  decodeSlot .v0 0x58882504 none .empty 0 = .ok (.taddT ⟨11, 0, 5, 1, 2, .empty⟩) ∧
  decodeSlot .v0 0x40082511 (some 0x00339062) .empty 0 = .ok (.tfmaR ⟨8, 0, 5, 1, 2, .empty⟩ ⟨0, 3, 7, 4, 3, 2⟩) ∧
  decodeSlot .f 0x4200462D (some 0) .empty 0 = .ok (.fexpqR ⟨8, 2, 6, 2, 0, .empty⟩ ⟨0, 0, 0, 0, 0, 0⟩) ∧
  decodeSlot .l 0x040C8604 none .empty 0 = .ok (.ld ⟨0, true, 4, 6⟩ 3) ∧
  decodeSlot .w 0x0000810D (some 4) .empty 0 = .ok (.stb64 false ⟨false, 0, 4, 1⟩ 0 4) ∧
  decodeSlot .w 0x5800D410 none .empty 0 = .ok (.stg true ⟨3, false, 6, 20⟩ 0 .empty) ∧
  decodeSlot .m 0x03C02404 none .empty 0 = .ok (.amac ⟨0, 15, 0, 2, 4⟩ .empty) ∧
  decodeSlot .m 0x00818834 none .empty 0 = .ok (.csnapLd 8 12 .empty) ∧
  decodeSlot .c 0xFFE8A024 none .empty 0 = .ok (.loop 5 (-6)) ∧
  decodeSlot .c 0x2140006C none .empty 0 = .ok (.waitcReg 133) ∧
  decodeSlot .c 0x60006070 none .empty 0 = .ok (.fence 3 3) ∧
  decodeSlot .e 0x00018A04 none .empty 0 = .ok (.lease 10 12 0 0) ∧
  decodeSlot .e 0x002CA020 none .empty 0 = .ok (.xcpy 0 ⟨false, false, false, 0, 5, 11, .empty⟩) ∧
  decodeSlot .e 0x80358A61 (some 0x100) .empty 0 = .ok (.xatt64 ⟨true, false, false, 10, 12, 13, .empty⟩ 0x100)

/-- One step runs the decoded instruction (R111, R195, R213, R288): when nothing else is due and the lowest bay at its issue point holds a
bundle of one slot word that decodes without a fault of the bundle, the step is exec of that instruction at the fetched bundle, settled by
the order of R213. When it finds no fault, and no hold stands against it, the bay then stands at the address that it has named, or
else behind the bundle. A wait whose condition does not hold keeps the bay where it is. -/
def Obligations.StepRunsDecoded : Prop :=
  ∀ (bay : Nat) (s t : State) (it : Item) (i : Instr), s.pkg.poweron = false → s.replayBay = none → s.depsDue = false → s.stopsDue = [] →
    s.homeMove = none → s.dueStep = none →
    takeInput s.now (fun _ => true) s.inputs = none → s.trapMove = none → s.issueBay = some bay → exec (.bundleIssue bay) s = .next t → t.cur.live = true → t.cur.items = [it] →
    t.cur.wordFault = none → decodeDoubled it.slot it.word it.pay it.pfx it.dup (t.here.dbeat.truncate 16) = .ok i → t.bundleFault [(it, i)] = none →
    let at_ := t.atSlot (it, i)
    (Instr.isWait i = false → Instr.stamp i = none →
      (∀ u, exec i at_ = .next u → step s = .next (t.settle (u.afterSlot at_ (it, i)) [(it, i)] none)) ∧
      (∀ r, exec i at_ = .fault r → step s = .fault r) ∧
      (∀ u held, exec i at_ = .next u → u.cur.fault = none → u.cur.late = none → u.cur.asked = [] →
        t.here.bundleHolds t.now t.here [((it, i), u.cur.holds)] = .ok held → u.cur.bay = bay → (u.bay bay).task.isSome →
        ∃ v, step s = .next v ∧ (v.bay bay).pc = (match u.cur.next with
            | some a => a
            | none => u.cur.pc + u.cur.len) ∧
          (v.bay bay).due = u.cur.after ∧ v.cur = {} ∧ (v.bay bay).sreg = (u.bay bay).sreg ∧ (v.bay bay).pends = (u.bay bay).pends ∧ v.now = u.now)) ∧
    (∀ u w, Instr.isWait i = true → t.here.heldFault t.now true (Instr.holdReads i) = none → exec i at_ = .next u → u.cur.fault = none →
      u.cur.wait = some w → step s = .next (u.keepWaiting w))

/-- BUNDLE_ISSUE (R111, R192 to R197): a bundle whose header names one slot is fetched from the page that its code address translates to, through
the instruction cache of the bay: the header, the slot word, and a closing header behind it; with a payload when the word's kind asks for one. A target that is no header is a bad branch target
when the bay has come by a branch. The first bundle of a task waits until the homes hold the lines of its code (R311, R381), and fixes FB to its
cycle (R86); a bundle of a handler that comes before it does not.

Exec answers a next state here for: bundleIssue. -/
def Obligations.BundleFetch : Prop :=
  (∀ (bay : Nat) (s : State), bay < 256 → s.mayIssue bay = true →
    ((s.bay bay).fresh = true → (s.bay bay).handler = false →
      (s.codeHeld bay = true → ∃ t, exec (.bundleIssue bay) s = .next t ∧ t.cur = {} ∧ t = { s.setBay bay { s.bay bay with nextAt := s.now + 1 } with cur := {} }) ∧
      (s.codeHeld bay = false → ∃ t, exec (.bundleIssue bay) s = .next t ∧ (t.bay bay).fb = s.now ∧
        (t.bay bay).fresh = (! t.cur.live) ∧ s.sameBytes t)) ∧
    ((s.bay bay).handler = true → ∃ t, exec (.bundleIssue bay) s = .next t ∧ (t.bay bay).fresh = (s.bay bay).fresh ∧
      (t.bay bay).fb = (s.bay bay).fb ∧ s.sameBytes t)) ∧
  ∀ (bay pa : Nat) (sl : Slot) (l : Leaf) (s : State), bay < 256 → s.mayIssue bay = true → s.tlb = [] → s.tables = [] → s.pkg.hostOwns = [] →
    let b := s.bay bay
    let va := b.pc
    s.walkWaits (s.partOf bay) b.asid va = false → s.poisonedOf (s.walkLines (s.partOf bay) b.asid va) = none →
    b.fresh = false → b.cacheWait = none → b.icache = [] → b.resident = some [] → l.pa % 64 = 0 →
    (∀ k, pa / 64 ≤ k → k ≤ (pa + 15) / 64 → s.pkg.sliceOwns.contains k = true) →
    va % 4 = 0 → va < 2 ^ 57 → va % 4096 + 16 ≤ 4096 → 4096 ∣ l.size → s.walk (s.partOf bay) b.asid va = .leaf l → l.tgt = 0 →
      l.w0.testBit 8 = true → l.w0.testBit 9 = false → l.w0.testBit 2 = false → l.w0.testBit 3 = false → pa = l.pa + va % l.size →
      s.pkg.poisonLlc = [] →
      let h := s.host.num pa 4
      let w := s.host.num (pa + 4) 4
      let c := s.host.num (pa + 8) 4
      (h = 2 ^ (sl.code + 2) + 3 → w % 4 = 0 → w ≠ 0 → c % 4 = 3 →
        ∃ t, exec (.bundleIssue bay) s = .next t ∧ s.sameBytes t ∧ t.cur.live = true ∧ t.cur.bay = bay ∧ t.cur.pc = va ∧ t.cur.len = 8 ∧
          t.cur.gap = 0 ∧ t.cur.items = [⟨sl, BitVec.ofNat 32 w, none, .empty, 4, false⟩] ∧ t.cur.wordFault = none ∧ (t.bay bay).pc = va ∧
          (t.bay bay).sreg = b.sreg) ∧
      (h = 2 ^ (sl.code + 2) + 3 → w % 4 = 1 → s.host.num (pa + 12) 4 % 4 = 3 →
        ∃ t, exec (.bundleIssue bay) s = .next t ∧ t.cur.live = true ∧ t.cur.len = 12 ∧
          t.cur.items = [⟨sl, BitVec.ofNat 32 w, some (BitVec.ofNat 32 c), .empty, 4, false⟩] ∧ t.cur.wordFault = none) ∧
      (h % 4 ≠ 3 → b.checkTarget = true → ∃ t, exec (.bundleIssue bay) s = .next t ∧ t.cur.live = true ∧
        t.cur.wordFault = some ⟨0x04, 0, BitVec.ofNat 64 b.from_, 0, 0⟩)

/-- Every step keeps the canonical form of every memory: addresses strictly rising, and no entry that equals what an unlisted address reads
as. -/
def Obligations.StepKeepsMemory : Prop :=
  ∀ (s t : State), s.memWf = true → step s = .next t → t.memWf = true

/-- The machine after reset: every register that the spec gives a reset value holds it (STAT, R85; fmt, R88; the step registers, R83; DBEAT, R53;
BEATCTL and LATECNT, R59; RQPOS and RQPOSC, R106; BEATNO, R50; PLANDEF, R60; RFNEXT and RFDEBT, R68; DROWSYHOLD, R142; the trap registers,
TRAPVEC, CTXBASE, FRZVER and BEATOFF, R368; RGNANCH, R321; ASIDTB, R342; HWTAB, R402; BFORM, R347; PINQ, R353; FPOOL, R357; GRPTAB, PARTCFG,
PARTSTAT and KEYCTL, R385 to R391; READY, FWCTL, the thermal states, PKGPWR, RASERR and RASADDR, R393 to R400), no
function is ready, no task stands on a bay, and memory lists nothing, in canonical form. That an unlisted byte of memory reads as zero is the
model's choice (log entry 2). -/
def Obligations.ResetState : Prop :=
  let r := State.reset
  r.memWf = true ∧ (∀ k, (r.bay k).task = none ∧ (r.bay k).stat = 0 ∧ (r.bay k).handler = false ∧ (r.bay k).cause = 0 ∧ (r.bay k).trappc = 0 ∧
      (r.bay k).info0 = 0 ∧ (r.bay k).info1 = 0 ∧ (r.bay k).info2 = 0 ∧ (r.bay k).info3 = 0 ∧ (r.bay k).ctxbase = 0 ∧
      (r.bay k).fmt = 0x14 * 32 + 0x0A ∧ (r.bay k).dbeat = 0 ∧ (r.bay k).beatctl = 0x1000 * 2 ^ 16 ∧ (r.bay k).latecnt = 0 ∧ (r.bay k).rqpos = 0 ∧
      (r.bay k).rqposc = 0 ∧ (∀ b ∈ [(r.bay k).b0, (r.bay k).b1, (r.bay k).b2, (r.bay k).b3], b = 0x3F800000 * 2 ^ 96) ∧ (r.bay k).beatoff = 0 ∧
      (r.bay k).bform = 0 ∧ ∀ f, Tbl.get 0 (r.bay k).forms f = 0) ∧ r.pkg.ready = 0 ∧ r.pkg.fwctl = 0 ∧
    r.pkg.partcfg = 0 ∧ r.pkg.partstat = 0 ∧ r.pkg.grptab = 0 ∧ r.pkg.keyctl = 0 ∧ r.pkg.keydata = [] ∧ r.pkg.pkgpwr = 0 ∧
    (∀ d, (r.die d).raserr = 0 ∧ (r.die d).rasaddr = 0 ∧ (r.die d).thermal = 0 ∧ (r.die d).rfnext = 0x2000 ∧ (r.die d).rfdebt = 0 ∧
      (r.die d).drowsyhold = 0x00010000 ∧ (r.die d).pinq = 0) ∧ (∀ d, r.partOfDie d = 0) ∧ (∀ p, (r.part p).trapvec = 0 ∧ (r.part p).beatno = 0 ∧ (r.part p).plandef = 0x0400 ∧ (r.part p).rgnanch = 0 ∧
      (r.part p).asidtb = 0 ∧ (r.part p).hwtab = 0 ∧ (r.part p).fpool = 0) ∧ r.pkg.frzver = 1

/-! ## Commit points (R63, R73 to R75, R134, R135, R137, R139, R140) -/

/-- An in-array operation of a bay has its next commit point due: it has not been abandoned, no row is in flight, and no row is poisoned. -/
def Sys2Proof.Machine.State.atPoint (s : State) (bay : Nat) (r : Running) (o : ArrayOp) : Prop :=
  bay < 256 ∧ (s.bay bay).running = some r ∧ r.entry.op = .array o ∧ r.stop = false ∧ s.commitDue bay = true ∧ (s.bay bay).pends = [] ∧
    s.pkg.poisonTile = [] ∧ s.pkg.poisonBeat = [] ∧ s.pkg.poisonAcc = []

/-- A commit point is made: what the bay holds apart from the operation in progress, every other bay, scratch, host and expander memory
stand. -/
def Sys2Proof.Machine.State.commits (s : State) (bay : Nat) (P : State → Running → Prop) : Prop :=
  ∃ t x, exec (.arrayCommitPoint bay) s = .next t ∧ (t.bay bay).running = some x ∧
    { t.bay bay with running := (s.bay bay).running } = s.bay bay ∧ (∀ k, k ≠ bay → t.bay k = s.bay k) ∧
    t.scratch = s.scratch ∧ t.host = s.host ∧ t.expander = s.expander ∧ P t x

/-- The operation goes on to its next commit point. -/
def Sys2Proof.Machine.Running.goesOn (r x : Running) : Prop :=
  x.entry = r.entry ∧ x.start = r.start ∧ x.done = r.done + 1 ∧ x.stop = false

/-- The address of an accumulator row and of a row of beat memory (R48, R261). -/
def Sys2Proof.Machine.accAt (bay bank row : Nat) : Nat := bay * 2 ^ 30 + bank * 2 ^ 22 + row * 2 ^ 10
/-- See `accAt`. -/
def Sys2Proof.Machine.beatAt (bay bank side row : Nat) : Nat := bay * 2 ^ 30 + bank * 2 ^ 22 + side * 2 ^ 21 + row * 2 ^ 10

/-- No byte of a memory differs outside n bytes from each of some addresses. -/
def Sys2Proof.Machine.sameOutside (m k : Memory) (at_ : Nat → Prop) (n : Nat) : Prop :=
  ∀ a, (∀ x, at_ x → a < x ∨ x + n ≤ a) → k.byte a = m.byte a

/-- The flags of an operation with those of results that a test names, bank by bank and element by element. -/
def Sys2Proof.Machine.joinFlags (r x : Running) (nb n : Nat) (f : Nat → Nat → Flags) : Prop :=
  ∀ i, x.flags.getLsbD i = (r.flags.getLsbD i || (List.range nb).any fun k => (List.range n).any fun e => (f k e).getLsbD i)

/-- The commit points of AMAC, AOP, ASUM and ADRAIN (R63, R73 to R75, R268, R269), bank by bank; every other byte stands.

ADRAIN copies one accumulator row to its beat row, as FP32 bits or rounded to BF16 into the chosen half, and then zeroes it where ZERO is
set. AOP forms one row of its destination from the same row of its sources. ASUM adds one beat row, widened, to its accumulator row. AMAC
does one block step: column c of each bank takes the 2w bytes of its mantissas and the two of its scale from the worn side, and adds the
partial of R73 to its accumulator, which counts as +0 for the first block of a vector under pfx.zero. -/
def Obligations.BankCommitPoints : Prop :=
  ∀ (s : State) (bay b0 nb : Nat) (r : Running), 1 ≤ nb → b0 + nb ≤ 256 →
    let bank (k : Nat) : Prop := b0 ≤ k ∧ k < b0 + nb
    let acc (m : Memory) (k row e : Nat) : Nat := m.num (accAt bay k row + 4 * e) 4
    (∀ (arow cnt brow side : Nat) (bf hi z : Bool), s.atPoint bay r (.adrain b0 nb arow cnt brow side bf hi z) → arow + cnt ≤ 16 →
      brow + cnt ≤ 1536 → side < 2 →
      let half : Nat := if bf && hi then 512 else 0
      let rounded (k e : Nat) : Nat × Flags := roundFV 10 ⟨0, false⟩ 0 (decodeF 8 (acc s.acc k (arow + r.done) e))
      s.commits bay fun t x => r.goesOn x ∧ x.out = r.out ∧ t.pkg = s.pkg ∧
        (∀ k, bank k → ∀ e, e < 256 →
          (bf = false → t.beat.num (beatAt bay k side (brow + r.done) + 4 * e) 4 = acc s.acc k (arow + r.done) e) ∧
          (bf = true → t.beat.num (beatAt bay k side (brow + r.done) + half + 2 * e) 2 = (rounded k e).1) ∧
          (z = true → acc t.acc k (arow + r.done) e = 0)) ∧
        sameOutside s.beat t.beat (fun a => ∃ k, bank k ∧ a = beatAt bay k side (brow + r.done) + half) (if bf then 512 else 1024) ∧
        sameOutside s.acc t.acc (fun a => z = true ∧ ∃ k, bank k ∧ a = accAt bay k (arow + r.done)) 1024 ∧
        joinFlags r x nb 256 (fun k e => if bf then (rounded (b0 + k) e).2 else 0)) ∧
    (∀ (ty op side d a b n c : Nat) (sat : Bool), s.atPoint bay r (.aop ty sat op b0 nb side d a b n c) → ty < 4 → op ≤ 6 → side < 2 →
      d + n ≤ 1536 → a + n ≤ 1536 → b + n ≤ 1536 →
      let w := aopWidth ty
      let elem (m : Memory) (k row e : Nat) : Nat := m.num (beatAt bay k side (row + r.done) + w / 8 * e) (w / 8)
      let exact (x y : Nat) : FV × Flags := match op with
        | 0 => addFV 0 (decodeF 10 x) (decodeF 10 y)
        | 1 => addFV 0 (decodeF 10 x) (decodeF 10 y).neg
        | 2 => mulFV (decodeF 10 x) (.fin false 1 c)
        | _ => mulFV (decodeF 10 x) (decodeF 10 (c % 2 ^ 16))
      let int (x y : Int) : Int := match op with
        | 0 => x + y
        | 1 => x - y
        | 2 => x * 2 ^ c
        | 3 => x * signed w c
        | _ => max x y
      let sated (v : Int) : Int := if sat then max (-2 ^ (w - 1)) (min (2 ^ (w - 1) - 1) v) else v
      let result (x y : Nat) : Nat × Flags :=
        if op = 5 then (x, 0) else if op = 6 then (c % 2 ^ w, 0)
        else if ty = 3 then
          if op = 4 then minMaxF 10 true x y
          else ((roundFV 10 ⟨0, sat⟩ 0 (exact x y).1).1, (exact x y).2 ||| (roundFV 10 ⟨0, sat⟩ 0 (exact x y).1).2)
        else ((sated (int (signed w x) (signed w y)) % 2 ^ w).toNat, 0)
      s.commits bay fun t x => r.goesOn x ∧ x.out = r.out ∧ t.pkg = s.pkg ∧ t.acc = s.acc ∧
        (∀ k, bank k → ∀ e, e < 8192 / w → elem t.beat k d e = (result (elem s.beat k a e) (elem s.beat k b e)).1) ∧
        sameOutside s.beat t.beat (fun y => ∃ k, bank k ∧ y = beatAt bay k side (d + r.done)) 1024 ∧
        joinFlags r x nb (8192 / w) (fun k e => (result (elem s.beat (b0 + k) a e) (elem s.beat (b0 + k) b e)).2)) ∧
    (∀ (arow n side row : Nat) (bf hi : Bool), s.atPoint bay r (.asum bf hi b0 nb arow n side row) → arow < 16 → row + n ≤ 1536 → side < 2 →
      let src (k e : Nat) : Nat × Flags :=
        if bf then widen32 10 (s.beat.num (beatAt bay k side (row + r.done) + (if hi then 512 else 0) + 2 * e) 2)
        else widen32 8 (s.beat.num (beatAt bay k side (row + r.done) + 4 * e) 4)
      let sum (k e : Nat) : Nat × Flags := add32 (acc s.acc k arow e) (src k e).1
      s.commits bay fun t x => r.goesOn x ∧ x.out = r.out ∧ t.pkg = s.pkg ∧ t.beat = s.beat ∧
        (∀ k, bank k → ∀ e, e < 256 → acc t.acc k arow e = (sum k e).1) ∧
        sameOutside s.acc t.acc (fun a => ∃ k, bank k ∧ a = accAt bay k arow) 1024 ∧
        joinFlags r x nb 256 (fun k e => (src (b0 + k) e).2 ||| (sum (b0 + k) e).2)) ∧
    (∀ (src n g wrow a0 sfmt wfmt scale : Nat) (zero : Bool), s.atPoint bay r (.amac src n g b0 nb wrow a0 sfmt wfmt scale zero) → 1 ≤ g →
      g ∣ n → sfmt ∈ [10, 11, 12, 13, 14, 15, 16, 18, 19, 20, 21, 22, 23, 24] → 18 ≤ wfmt → wfmt ≤ 24 →
      let perRow := blocksPerRow sfmt
      let B := g * perRow
      let w := wfmt - 16
      wrow + ceilDiv (B * w) 2 + ceilDiv B 2 ≤ 1536 → a0 + n / g ≤ 16 →
      let v := r.done / B
      let kb := r.done % B
      let nth := B * v + kb
      let scaleByte (i : Nat) : Nat := ((s.bay bay).row (scale + i / 128)).toNat / 256 ^ (i % 128) % 256
      let lanes := lanes (streamBlock sfmt (kb % perRow) ((s.bay bay).row (src + v * g + kb / perRow))
        (if isNBF sfmt then scaleByte (2 * nth) else if isMX sfmt then scaleByte (16 * nth / 32) else 0)
        (if isBLK sfmt then scaleByte (2 * nth + 1) else 0))
      let worn (k : Nat) : Nat := if (s.bay bay).wornB.contains k then 1 else 0
      let mant (k c : Nat) : Nat := s.beat.num (beatAt bay k (worn k) wrow + 2 * w * (256 * kb + c)) (2 * w)
      let scal (k c : Nat) : Nat := s.beat.num (beatAt bay k (worn k) (wrow + ceilDiv (B * w) 2) + 2 * (256 * kb + c)) 2
      let step (k c : Nat) : Nat × Flags := amacColumn lanes w (mant k c) (scal k c % 256) (scal k c / 256)
        (if zero ∧ kb = 0 then 0 else acc s.acc k (a0 + v) c)
      s.commits bay fun t x => r.goesOn x ∧ x.out = r.out ∧ t.pkg = s.pkg ∧ t.beat = s.beat ∧
        (∀ k, bank k → ∀ c, c < 256 → acc t.acc k (a0 + v) c = (step k c).1) ∧
        sameOutside s.acc t.acc (fun a => ∃ k, bank k ∧ a = accAt bay k (a0 + v)) 1024 ∧
        joinFlags r x nb 256 (fun k c => (step (b0 + k) c).2))

/-- The commit points of CRESP, COPA, COPA.C and CSNAP (R63, R134, R135, R137 to R140): no byte of beat memory or the accumulators
changes but those named.

Key t of COPA: S decays by α, the response y of each row is summed in ascending column order, the error is β × (V − y), and e × K joins S.
With DIVMODE a failing error ends the operation with its update made: TAINT is set, no error row is kept, and the task takes the divergence
trap. COPA.C checks the error of its key first, and does not apply a key that fails. Where the errors, and under DIVMODE 1 the new state,
keep to their limits the operation goes on. CRESP keeps the responses of its key and changes no byte; CSNAP copies one row of every tile
bank bit for bit. -/
def Obligations.CorrectingCommitPoints : Prop :=
  ∀ (s : State) (bay : Nat) (r : Running) (t : TileDesc), 1 ≤ t.nb → t.bank0 + t.nb ≤ 256 → t.arow + ceilDiv t.nrow t.nb ≤ 16 → 1 ≤ t.ncol →
    t.ncol ≤ 256 → 1 ≤ t.nrow →
    let k := r.done
    let word (row j : Nat) : Nat := ((s.bay bay).row (row + j / 32)).toNat / 2 ^ (32 * (j % 32)) % 2 ^ 32
    let place (i j : Nat) : Nat := accAt bay (t.bank0 + i % t.nb) (t.arow + i / t.nb) + 4 * j
    let S (i j : Nat) : Nat := s.acc.num (place i j) 4
    let tile (a : Nat) : Prop := ∃ i j, i < t.nrow ∧ j < t.ncol ∧ a = place i j
    let y (S1 : Nat → Nat → Nat) (K : Nat → Nat) (i : Nat) : Nat := (List.range t.ncol).foldl (fun y j => (fma32 (S1 i j) (K j) y).1) 0
    let diverges (u : State) (x : Running) (ins n how i : Nat) (e : Nat) : Prop :=
      x.stop = true ∧ x.done = n ∧ x.out = [] ∧ x.flags.getLsbD 6 = true ∧
        u.pkg = { s.pkg with outbox := s.pkg.outbox ++ [⟨r.entry.bay, r.entry.task,
          ⟨0x0D, BitVec.ofNat 64 (ins * 2 ^ 29 + (how + 2) * 2 ^ 26 + i * 2 ^ 10 + k), BitVec.ofNat 64 e, t.raw, BitVec.ofNat 64 r.entry.pc⟩,
          false, 0⟩] }
    (∀ (key val n : Nat) (b : BitVec 128) (err : Option Nat), s.atPoint bay r (.copa t key val n b err) → k < n → n ≤ 32 →
      let w := b.toNat
      let mode := w / 2 ^ 11 % 4
      let K := word (key + k * ceilDiv t.ncol 32)
      let β := if w.testBit 9 then word (32 * (w % 2 ^ 4) + w / 2 ^ 4 % 2 ^ 5) k else w / 2 ^ 64 % 2 ^ 32
      let S1 (i j : Nat) : Nat := if w.testBit 10 then (mul32 (w / 2 ^ 96 % 2 ^ 32) (S i j)).1 else S i j
      let e (i : Nat) : Nat := (mul32 β (sub32 (word (val + k * ceilDiv t.nrow 32) i) (y S1 K i)).1).1
      let new (i j : Nat) : Nat := (fma32 (e i) (K j) (S1 i j)).1
      s.commits bay fun u x => u.beat = s.beat ∧ sameOutside s.acc u.acc tile 4 ∧
        (∀ i j, i < t.nrow → j < t.ncol → u.acc.num (place i j) 4 = new i j) ∧
        (mode = 0 ∨ ((∀ i, i < t.nrow → failsLimit t.errlim (e i) = none) ∧
          (mode = 1 → ∀ i j, i < t.nrow → j < t.ncol → failsLimit t.divlim (new i j) = none)) →
          r.goesOn x ∧ x.out = r.out ++ [(List.range t.nrow).map e] ∧ u.pkg = s.pkg) ∧
        (∀ i how, mode ≠ 0 → i < t.nrow → failsLimit t.errlim (e i) = some how → (∀ j, j < i → failsLimit t.errlim (e j) = none) →
          diverges u x 0 (n + if mode = 2 then 1 else 0) how i (e i))) ∧
    (∀ (key err n mode : Nat), s.atPoint bay r (.copac t key err n mode) → k < n → n ≤ 32 →
      let K := word (key + k * ceilDiv t.ncol 32)
      let e := word (err + k * ceilDiv t.nrow 32)
      let new (i j : Nat) : Nat := (fma32 (e i) (K j) (S i j)).1
      s.commits bay fun u x => u.beat = s.beat ∧
        (mode = 0 ∨ (∀ i, i < t.nrow → failsLimit t.errlim (e i) = none) → sameOutside s.acc u.acc tile 4 ∧
          (∀ i j, i < t.nrow → j < t.ncol → u.acc.num (place i j) 4 = new i j) ∧
          ((mode = 1 → ∀ i j, i < t.nrow → j < t.ncol → failsLimit t.divlim (new i j) = none) → r.goesOn x ∧ x.out = r.out ∧ u.pkg = s.pkg)) ∧
        (∀ i how, mode ≠ 0 → i < t.nrow → failsLimit t.errlim (e i) = some how → (∀ j, j < i → failsLimit t.errlim (e j) = none) →
          u.acc = s.acc ∧ diverges u x 1 (n + if mode = 2 then 1 else 0) how i (e i))) ∧
    (∀ (key n dst : Nat), s.atPoint bay r (.cresp t key n dst) →
      s.commits bay fun u x => r.goesOn x ∧ u.beat = s.beat ∧ u.acc = s.acc ∧ u.pkg = s.pkg ∧
        x.out = r.out ++ [(List.range t.nrow).map (y S (word (key + k * ceilDiv t.ncol 32)))]) ∧
    (∀ (ld : Bool) (side rowb : Nat), s.atPoint bay r (.csnap ld t side rowb) → side < 2 → rowb + ceilDiv t.nrow t.nb ≤ 1536 →
      let bank (b : Nat) : Prop := t.bank0 ≤ b ∧ b < t.bank0 + min t.nb t.nrow
      let A (b : Nat) : Nat := accAt bay b (t.arow + k)
      let B (b : Nat) : Nat := beatAt bay b side (rowb + k)
      s.commits bay fun u x => r.goesOn x ∧ x.out = r.out ∧ x.flags = r.flags ∧ u.pkg = s.pkg ∧
        (ld = true → u.beat = s.beat ∧ sameOutside s.acc u.acc (fun a => ∃ b, bank b ∧ a = A b) 1024 ∧
          ∀ b i, bank b → i < 1024 → u.acc.byte (A b + i) = s.beat.byte (B b + i)) ∧
        (ld = false → u.acc = s.acc ∧ sameOutside s.beat u.beat (fun a => ∃ b, bank b ∧ a = B b) 1024 ∧
          ∀ b i, bank b → i < 1024 → u.beat.byte (B b + i) = s.acc.byte (A b + i)))
end

