-- ==== Sys2Proof/Laws/Table.lean ====
section
/-!
SUPPORT. Tables and memories: what a read gives after a write, and that every write keeps the canonical form.
-/

namespace Sys2Proof.Machine

variable {α : Type}

@[simp] theorem Tbl.get_nil (d : α) (k : Nat) : Tbl.get d [] k = d := rfl

theorem Tbl.get_cons (d : α) (k' k : Nat) (v : α) (t : Tbl α) :
    Tbl.get d ((k', v) :: t) k = if k' = k then v else Tbl.get d t k := rfl

theorem Tbl.get_append (d : α) (t u : Tbl α) (k : Nat) (h : ∀ e ∈ t, e.1 ≠ k) : Tbl.get d (t ++ u) k = Tbl.get d u k := by
  induction t with
  | nil => rfl
  | cons e t ih =>
    obtain ⟨k', v⟩ := e
    have he : k' ≠ k := h (k', v) (by simp)
    rw [List.cons_append, Tbl.get_cons, if_neg he]
    exact ih fun x hx => h x (by simp [hx])

theorem Tbl.get_append_right (d : α) (t u : Tbl α) (k : Nat) (h : ∀ e ∈ u, e.1 ≠ k) : Tbl.get d (t ++ u) k = Tbl.get d t k := by
  induction t with
  | nil =>
    have := Tbl.get_append d u [] k h
    simpa using this
  | cons e t ih =>
    obtain ⟨k', v⟩ := e
    rw [List.cons_append, Tbl.get_cons, Tbl.get_cons, ih]

theorem Tbl.get_filter (d : α) (t : Tbl α) (p : Nat × α → Bool) (k : Nat) (h : ∀ v, p (k, v) = true) :
    Tbl.get d (t.filter p) k = Tbl.get d t k := by
  induction t with
  | nil => rfl
  | cons e t ih =>
    obtain ⟨k', v⟩ := e
    by_cases hk : k' = k
    · subst hk; simp [h, Tbl.get_cons]
    · by_cases hp : p (k', v) = true
      · simp [hp, Tbl.get_cons, hk, ih]
      · simp [hp, Tbl.get_cons, hk, ih]

variable [DecidableEq α]

theorem Tbl.run_key (d : α) (a : Nat) (vs : List α) : ∀ e ∈ Tbl.run d a vs, a ≤ e.1 ∧ e.1 < a + vs.length := by
  induction vs generalizing a with
  | nil => simp [Tbl.run]
  | cons v vs ih =>
    intro e he
    simp only [Tbl.run] at he
    split at he
    · have := ih (a + 1) e he; simp only [List.length_cons]; omega
    · rcases List.mem_cons.1 he with rfl | he
      · simp
      · have := ih (a + 1) e he; simp only [List.length_cons]; omega

theorem Tbl.get_run (d : α) (a : Nat) (vs : List α) (i : Nat) : Tbl.get d (Tbl.run d a vs) (a + i) = vs.getD i d := by
  induction vs generalizing a i with
  | nil => simp [Tbl.run]
  | cons v vs ih =>
    simp only [Tbl.run]
    cases i with
    | zero =>
      split
      · next h =>
        rw [h]
        have := ih (a + 1)
        simp only [Nat.add_zero, List.getD_cons_zero]
        have hk : ∀ e ∈ Tbl.run d (a + 1) vs, e.1 ≠ a := fun e he => by have := Tbl.run_key d (a + 1) vs e he; omega
        have := Tbl.get_append d (Tbl.run d (a + 1) vs) [] a hk
        simpa using this
      · simp [Tbl.get_cons]
    | succ i =>
      have e : a + (i + 1) = a + 1 + i := by omega
      split
      · rw [e, ih]; simp
      · rw [Tbl.get_cons, if_neg (by omega), e, ih]; simp

/-- A read inside a write gives the value written. -/
theorem Tbl.get_write_in (d : α) (t : Tbl α) (a i : Nat) (vs : List α) (h : i < vs.length) :
    Tbl.get d (Tbl.write d t a vs) (a + i) = vs.getD i d := by
  unfold Tbl.write
  rw [Tbl.get_append_right, Tbl.get_append, Tbl.get_run]
  · intro e he; simp at he; omega
  · intro e he; simp at he; omega

/-- A read outside a write gives what it gave before. -/
theorem Tbl.get_write_out (d : α) (t : Tbl α) (a k : Nat) (vs : List α) (h : k < a ∨ a + vs.length ≤ k) :
    Tbl.get d (Tbl.write d t a vs) k = Tbl.get d t k := by
  unfold Tbl.write
  have hr : ∀ e ∈ Tbl.run d a vs, e.1 ≠ k := fun e he => by have := Tbl.run_key d a vs e he; omega
  rcases h with h | h
  · rw [Tbl.get_append_right, Tbl.get_append_right _ _ _ _ hr, Tbl.get_filter]
    · intro v; simp [h]
    · intro e he; simp at he; omega
  · rw [List.append_assoc, Tbl.get_append, Tbl.get_append _ _ _ _ hr, Tbl.get_filter]
    · intro v; simp [h]
    · intro e he; simp at he; omega

/-- A read after a change of one key. -/
theorem Tbl.get_set (d : α) (t : Tbl α) (a k : Nat) (v : α) :
    Tbl.get d (Tbl.set d t a v) k = if k = a then v else Tbl.get d t k := by
  unfold Tbl.set
  split
  · next h => subst h; simpa using Tbl.get_write_in d t k 0 [v] (by simp)
  · next h => exact Tbl.get_write_out d t a k [v] (by simp only [List.length_singleton]; omega)

@[simp] theorem Tbl.get_set_same (d : α) (t : Tbl α) (a : Nat) (v : α) : Tbl.get d (Tbl.set d t a v) a = v := by
  rw [Tbl.get_set, if_pos rfl]

theorem Tbl.get_set_other (d : α) (t : Tbl α) (a k : Nat) (v : α) (h : k ≠ a) :
    Tbl.get d (Tbl.set d t a v) k = Tbl.get d t k := by rw [Tbl.get_set, if_neg h]

/-! ## The canonical form -/

theorem Tbl.sorted_mono (d : α) (lo lo' : Nat) (t : Tbl α) (h : lo' ≤ lo) (hs : Tbl.sorted d lo t = true) :
    Tbl.sorted d lo' t = true := by
  cases t with
  | nil => rfl
  | cons e t =>
    obtain ⟨k, v⟩ := e
    simp only [Tbl.sorted, Bool.and_eq_true, decide_eq_true_eq] at hs ⊢
    exact ⟨⟨by omega, hs.1.2⟩, hs.2⟩

theorem Tbl.sorted_filter (d : α) (p : Nat × α → Bool) (lo : Nat) (t : Tbl α) (h : Tbl.sorted d lo t = true) :
    Tbl.sorted d lo (t.filter p) = true := by
  induction t generalizing lo with
  | nil => rfl
  | cons e t ih =>
    obtain ⟨k, v⟩ := e
    simp only [Tbl.sorted, Bool.and_eq_true, decide_eq_true_eq] at h
    rw [List.filter_cons]
    split
    · simp only [Tbl.sorted, Bool.and_eq_true, decide_eq_true_eq]
      exact ⟨h.1, ih _ h.2⟩
    · exact Tbl.sorted_mono d (k + 1) lo _ (by omega) (ih _ h.2)

theorem Tbl.sorted_filter_ge (d : α) (lo hi : Nat) (t : Tbl α) (h : Tbl.sorted d lo t = true) :
    Tbl.sorted d hi (t.filter fun e => decide (hi ≤ e.1)) = true := by
  induction t generalizing lo with
  | nil => rfl
  | cons e t ih =>
    obtain ⟨k, v⟩ := e
    simp only [Tbl.sorted, Bool.and_eq_true, decide_eq_true_eq] at h
    rw [List.filter_cons]
    split
    · next hk =>
      simp only [decide_eq_true_eq] at hk
      simp only [Tbl.sorted, Bool.and_eq_true, decide_eq_true_eq]
      exact ⟨⟨hk, h.1.2⟩, Tbl.sorted_filter d _ _ _ h.2⟩
    · exact ih (k + 1) h.2

theorem Tbl.sorted_run (d : α) (a : Nat) (vs : List α) : Tbl.sorted d a (Tbl.run d a vs) = true := by
  induction vs generalizing a with
  | nil => rfl
  | cons v vs ih =>
    simp only [Tbl.run]
    split
    · exact Tbl.sorted_mono d (a + 1) a _ (by omega) (ih _)
    · next h => simp only [Tbl.sorted, Bool.and_eq_true, decide_eq_true_eq]; exact ⟨⟨Nat.le_refl a, h⟩, ih _⟩

/-- Two canonical runs of entries, the second one above the first one, make one. -/
theorem Tbl.sorted_append (d : α) (lo mid : Nat) (t u : Tbl α) (ht : Tbl.sorted d lo t = true)
    (hu : Tbl.sorted d mid u = true) (hm : lo ≤ mid) (hk : ∀ e ∈ t, e.1 < mid) : Tbl.sorted d lo (t ++ u) = true := by
  induction t generalizing lo with
  | nil => exact Tbl.sorted_mono d mid lo u hm hu
  | cons e t ih =>
    obtain ⟨k, v⟩ := e
    simp only [Tbl.sorted, Bool.and_eq_true, decide_eq_true_eq, List.cons_append] at ht ⊢
    refine ⟨ht.1, ih _ ht.2 ?_ fun x hx => hk x (by simp [hx])⟩
    have := hk (k, v) (by simp)
    simp only at this; omega

/-- A write keeps the canonical form. -/
theorem Tbl.wf_write (d : α) (t : Tbl α) (a : Nat) (vs : List α) (h : Tbl.wf d t = true) : Tbl.wf d (Tbl.write d t a vs) = true := by
  unfold Tbl.wf at h ⊢
  unfold Tbl.write
  refine Tbl.sorted_append d 0 (a + vs.length) _ _ ?_ (Tbl.sorted_filter_ge d 0 _ t h) (Nat.zero_le _) ?_
  · refine Tbl.sorted_append d 0 a _ _ (Tbl.sorted_filter d _ 0 t h) (Tbl.sorted_run d a vs) (Nat.zero_le _) ?_
    intro e he; simpa using (List.mem_filter.1 he).2
  · intro e he
    rcases List.mem_append.1 he with he | he
    · have : e.1 < a := by simpa using (List.mem_filter.1 he).2
      omega
    · exact (Tbl.run_key d a vs e he).2

theorem Tbl.wf_set (d : α) (t : Tbl α) (a : Nat) (v : α) (h : Tbl.wf d t = true) : Tbl.wf d (Tbl.set d t a v) = true :=
  Tbl.wf_write d t a [v] h

/-- Entries left out keep the canonical form. -/
theorem Tbl.wf_filter (d : α) (t : Tbl α) (p : Nat × α → Bool) (h : Tbl.wf d t = true) : Tbl.wf d (t.filter p) = true :=
  Tbl.sorted_filter d p 0 t h

/-! ## Memories -/

@[simp] theorem Memory.wf_nil : Memory.wf [] = true := rfl

/-- A store keeps the canonical form. -/
theorem Memory.wf_store (m : Memory) (a : Nat) (bs : List Byte) (h : m.wf = true) : (m.store a bs).wf = true :=
  Tbl.wf_write _ m a bs h

theorem Memory.wf_filter (m : Memory) (p : Nat × Byte → Bool) (h : m.wf = true) : Memory.wf (m.filter p) = true :=
  Tbl.wf_filter _ m p h

/-- A byte of a store. -/
theorem Memory.byte_store_in (m : Memory) (a i : Nat) (bs : List Byte) (h : i < bs.length) :
    (m.store a bs).byte (a + i) = bs.getD i 0 := Tbl.get_write_in _ m a i bs h

/-- A byte outside a store. -/
theorem Memory.byte_store_out (m : Memory) (a k : Nat) (bs : List Byte) (h : k < a ∨ a + bs.length ≤ k) :
    (m.store a bs).byte k = m.byte k := Tbl.get_write_out _ m a k bs h

theorem leBytes_length (n v : Nat) : (leBytes n v).length = n := by
  induction n generalizing v with
  | zero => rfl
  | succ n ih => simp [leBytes, ih]

/-- The little-endian number of the bytes of a number. -/
theorem leNat_leBytes (n v : Nat) : leNat (leBytes n v) = v % 256 ^ n := by
  induction n generalizing v with
  | zero => simp [leBytes, leNat, Nat.mod_one]
  | succ n ih =>
    have e : (BitVec.ofNat 8 v).toNat = v % 256 := by simp
    simp only [leBytes, leNat, ih, e]
    rw [Nat.pow_succ', Nat.mod_mul]

end Sys2Proof.Machine
end

