-- ==== Sys2Proof/Laws/State.lean ====
section
/-!
SUPPORT. What each update of the state leaves alone: one lemma per field and update, so that no proof unfolds a record
update; and what a bay, die or partition reads as after it.
-/

namespace Sys2Proof.Machine

/-! ## State.setBay -/

@[simp] theorem State.setBay_now (s : State) (b : Nat) (x : Bay) : (s.setBay b x).now = s.now := rfl
@[simp] theorem State.setBay_dies (s : State) (b : Nat) (x : Bay) : (s.setBay b x).dies = s.dies := rfl
@[simp] theorem State.setBay_parts (s : State) (b : Nat) (x : Bay) : (s.setBay b x).parts = s.parts := rfl
@[simp] theorem State.setBay_pkg (s : State) (b : Nat) (x : Bay) : (s.setBay b x).pkg = s.pkg := rfl
@[simp] theorem State.setBay_scratch (s : State) (b : Nat) (x : Bay) : (s.setBay b x).scratch = s.scratch := rfl
@[simp] theorem State.setBay_beat (s : State) (b : Nat) (x : Bay) : (s.setBay b x).beat = s.beat := rfl
@[simp] theorem State.setBay_acc (s : State) (b : Nat) (x : Bay) : (s.setBay b x).acc = s.acc := rfl
@[simp] theorem State.setBay_host (s : State) (b : Nat) (x : Bay) : (s.setBay b x).host = s.host := rfl
@[simp] theorem State.setBay_expander (s : State) (b : Nat) (x : Bay) : (s.setBay b x).expander = s.expander := rfl
@[simp] theorem State.setBay_tlb (s : State) (b : Nat) (x : Bay) : (s.setBay b x).tlb = s.tlb := rfl
@[simp] theorem State.setBay_tables (s : State) (b : Nat) (x : Bay) : (s.setBay b x).tables = s.tables := rfl
@[simp] theorem State.setBay_cur (s : State) (b : Nat) (x : Bay) : (s.setBay b x).cur = s.cur := rfl
@[simp] theorem State.setBay_inputs (s : State) (b : Nat) (x : Bay) : (s.setBay b x).inputs = s.inputs := rfl
@[simp] theorem State.setBay_die (s : State) (b : Nat) (x : Bay) (k : Nat) : (s.setBay b x).die k = s.die k := rfl
@[simp] theorem State.setBay_part (s : State) (b : Nat) (x : Bay) (k : Nat) : (s.setBay b x).part k = s.part k := rfl

/-! ## State.setDie -/

@[simp] theorem State.setDie_now (s : State) (d : Nat) (x : Die) : (s.setDie d x).now = s.now := rfl
@[simp] theorem State.setDie_bays (s : State) (d : Nat) (x : Die) : (s.setDie d x).bays = s.bays := rfl
@[simp] theorem State.setDie_parts (s : State) (d : Nat) (x : Die) : (s.setDie d x).parts = s.parts := rfl
@[simp] theorem State.setDie_pkg (s : State) (d : Nat) (x : Die) : (s.setDie d x).pkg = s.pkg := rfl
@[simp] theorem State.setDie_scratch (s : State) (d : Nat) (x : Die) : (s.setDie d x).scratch = s.scratch := rfl
@[simp] theorem State.setDie_beat (s : State) (d : Nat) (x : Die) : (s.setDie d x).beat = s.beat := rfl
@[simp] theorem State.setDie_acc (s : State) (d : Nat) (x : Die) : (s.setDie d x).acc = s.acc := rfl
@[simp] theorem State.setDie_host (s : State) (d : Nat) (x : Die) : (s.setDie d x).host = s.host := rfl
@[simp] theorem State.setDie_expander (s : State) (d : Nat) (x : Die) : (s.setDie d x).expander = s.expander := rfl
@[simp] theorem State.setDie_tlb (s : State) (d : Nat) (x : Die) : (s.setDie d x).tlb = s.tlb := rfl
@[simp] theorem State.setDie_tables (s : State) (d : Nat) (x : Die) : (s.setDie d x).tables = s.tables := rfl
@[simp] theorem State.setDie_cur (s : State) (d : Nat) (x : Die) : (s.setDie d x).cur = s.cur := rfl
@[simp] theorem State.setDie_inputs (s : State) (d : Nat) (x : Die) : (s.setDie d x).inputs = s.inputs := rfl
@[simp] theorem State.setDie_bay (s : State) (d : Nat) (x : Die) (k : Nat) : (s.setDie d x).bay k = s.bay k := rfl
@[simp] theorem State.setDie_part (s : State) (d : Nat) (x : Die) (k : Nat) : (s.setDie d x).part k = s.part k := rfl

/-! ## State.setPart -/

@[simp] theorem State.setPart_now (s : State) (p : Nat) (x : Part) : (s.setPart p x).now = s.now := rfl
@[simp] theorem State.setPart_bays (s : State) (p : Nat) (x : Part) : (s.setPart p x).bays = s.bays := rfl
@[simp] theorem State.setPart_dies (s : State) (p : Nat) (x : Part) : (s.setPart p x).dies = s.dies := rfl
@[simp] theorem State.setPart_pkg (s : State) (p : Nat) (x : Part) : (s.setPart p x).pkg = s.pkg := rfl
@[simp] theorem State.setPart_scratch (s : State) (p : Nat) (x : Part) : (s.setPart p x).scratch = s.scratch := rfl
@[simp] theorem State.setPart_beat (s : State) (p : Nat) (x : Part) : (s.setPart p x).beat = s.beat := rfl
@[simp] theorem State.setPart_acc (s : State) (p : Nat) (x : Part) : (s.setPart p x).acc = s.acc := rfl
@[simp] theorem State.setPart_host (s : State) (p : Nat) (x : Part) : (s.setPart p x).host = s.host := rfl
@[simp] theorem State.setPart_expander (s : State) (p : Nat) (x : Part) : (s.setPart p x).expander = s.expander := rfl
@[simp] theorem State.setPart_tlb (s : State) (p : Nat) (x : Part) : (s.setPart p x).tlb = s.tlb := rfl
@[simp] theorem State.setPart_tables (s : State) (p : Nat) (x : Part) : (s.setPart p x).tables = s.tables := rfl
@[simp] theorem State.setPart_cur (s : State) (p : Nat) (x : Part) : (s.setPart p x).cur = s.cur := rfl
@[simp] theorem State.setPart_inputs (s : State) (p : Nat) (x : Part) : (s.setPart p x).inputs = s.inputs := rfl
@[simp] theorem State.setPart_bay (s : State) (p : Nat) (x : Part) (k : Nat) : (s.setPart p x).bay k = s.bay k := rfl
@[simp] theorem State.setPart_die (s : State) (p : Nat) (x : Part) (k : Nat) : (s.setPart p x).die k = s.die k := rfl

/-! ## State.upd -/

@[simp] theorem State.upd_now (s : State) (f : Bay → Bay) : (s.upd f).now = s.now := rfl
@[simp] theorem State.upd_dies (s : State) (f : Bay → Bay) : (s.upd f).dies = s.dies := rfl
@[simp] theorem State.upd_parts (s : State) (f : Bay → Bay) : (s.upd f).parts = s.parts := rfl
@[simp] theorem State.upd_pkg (s : State) (f : Bay → Bay) : (s.upd f).pkg = s.pkg := rfl
@[simp] theorem State.upd_scratch (s : State) (f : Bay → Bay) : (s.upd f).scratch = s.scratch := rfl
@[simp] theorem State.upd_beat (s : State) (f : Bay → Bay) : (s.upd f).beat = s.beat := rfl
@[simp] theorem State.upd_acc (s : State) (f : Bay → Bay) : (s.upd f).acc = s.acc := rfl
@[simp] theorem State.upd_host (s : State) (f : Bay → Bay) : (s.upd f).host = s.host := rfl
@[simp] theorem State.upd_expander (s : State) (f : Bay → Bay) : (s.upd f).expander = s.expander := rfl
@[simp] theorem State.upd_tlb (s : State) (f : Bay → Bay) : (s.upd f).tlb = s.tlb := rfl
@[simp] theorem State.upd_tables (s : State) (f : Bay → Bay) : (s.upd f).tables = s.tables := rfl
@[simp] theorem State.upd_cur (s : State) (f : Bay → Bay) : (s.upd f).cur = s.cur := rfl
@[simp] theorem State.upd_inputs (s : State) (f : Bay → Bay) : (s.upd f).inputs = s.inputs := rfl
@[simp] theorem State.upd_die (s : State) (f : Bay → Bay) (k : Nat) : (s.upd f).die k = s.die k := rfl
@[simp] theorem State.upd_part (s : State) (f : Bay → Bay) (k : Nat) : (s.upd f).part k = s.part k := rfl

/-! ## State.updCur -/

@[simp] theorem State.updCur_now (s : State) (f : Cur → Cur) : (s.updCur f).now = s.now := rfl
@[simp] theorem State.updCur_bays (s : State) (f : Cur → Cur) : (s.updCur f).bays = s.bays := rfl
@[simp] theorem State.updCur_dies (s : State) (f : Cur → Cur) : (s.updCur f).dies = s.dies := rfl
@[simp] theorem State.updCur_parts (s : State) (f : Cur → Cur) : (s.updCur f).parts = s.parts := rfl
@[simp] theorem State.updCur_pkg (s : State) (f : Cur → Cur) : (s.updCur f).pkg = s.pkg := rfl
@[simp] theorem State.updCur_scratch (s : State) (f : Cur → Cur) : (s.updCur f).scratch = s.scratch := rfl
@[simp] theorem State.updCur_beat (s : State) (f : Cur → Cur) : (s.updCur f).beat = s.beat := rfl
@[simp] theorem State.updCur_acc (s : State) (f : Cur → Cur) : (s.updCur f).acc = s.acc := rfl
@[simp] theorem State.updCur_host (s : State) (f : Cur → Cur) : (s.updCur f).host = s.host := rfl
@[simp] theorem State.updCur_expander (s : State) (f : Cur → Cur) : (s.updCur f).expander = s.expander := rfl
@[simp] theorem State.updCur_tlb (s : State) (f : Cur → Cur) : (s.updCur f).tlb = s.tlb := rfl
@[simp] theorem State.updCur_tables (s : State) (f : Cur → Cur) : (s.updCur f).tables = s.tables := rfl
@[simp] theorem State.updCur_inputs (s : State) (f : Cur → Cur) : (s.updCur f).inputs = s.inputs := rfl
@[simp] theorem State.updCur_bay (s : State) (f : Cur → Cur) (k : Nat) : (s.updCur f).bay k = s.bay k := rfl
@[simp] theorem State.updCur_die (s : State) (f : Cur → Cur) (k : Nat) : (s.updCur f).die k = s.die k := rfl
@[simp] theorem State.updCur_part (s : State) (f : Cur → Cur) (k : Nat) : (s.updCur f).part k = s.part k := rfl

/-! ## State.onBay -/

@[simp] theorem State.onBay_now (s : State) (b : Nat) (f : Bay → Bay) : (s.onBay b f).now = s.now := rfl
@[simp] theorem State.onBay_dies (s : State) (b : Nat) (f : Bay → Bay) : (s.onBay b f).dies = s.dies := rfl
@[simp] theorem State.onBay_parts (s : State) (b : Nat) (f : Bay → Bay) : (s.onBay b f).parts = s.parts := rfl
@[simp] theorem State.onBay_pkg (s : State) (b : Nat) (f : Bay → Bay) : (s.onBay b f).pkg = s.pkg := rfl
@[simp] theorem State.onBay_scratch (s : State) (b : Nat) (f : Bay → Bay) : (s.onBay b f).scratch = s.scratch := rfl
@[simp] theorem State.onBay_beat (s : State) (b : Nat) (f : Bay → Bay) : (s.onBay b f).beat = s.beat := rfl
@[simp] theorem State.onBay_acc (s : State) (b : Nat) (f : Bay → Bay) : (s.onBay b f).acc = s.acc := rfl
@[simp] theorem State.onBay_host (s : State) (b : Nat) (f : Bay → Bay) : (s.onBay b f).host = s.host := rfl
@[simp] theorem State.onBay_expander (s : State) (b : Nat) (f : Bay → Bay) : (s.onBay b f).expander = s.expander := rfl
@[simp] theorem State.onBay_tlb (s : State) (b : Nat) (f : Bay → Bay) : (s.onBay b f).tlb = s.tlb := rfl
@[simp] theorem State.onBay_tables (s : State) (b : Nat) (f : Bay → Bay) : (s.onBay b f).tables = s.tables := rfl
@[simp] theorem State.onBay_cur (s : State) (b : Nat) (f : Bay → Bay) : (s.onBay b f).cur = s.cur := rfl
@[simp] theorem State.onBay_inputs (s : State) (b : Nat) (f : Bay → Bay) : (s.onBay b f).inputs = s.inputs := rfl
@[simp] theorem State.onBay_die (s : State) (b : Nat) (f : Bay → Bay) (k : Nat) : (s.onBay b f).die k = s.die k := rfl
@[simp] theorem State.onBay_part (s : State) (b : Nat) (f : Bay → Bay) (k : Nat) : (s.onBay b f).part k = s.part k := rfl

/-! ## State.onDie -/

@[simp] theorem State.onDie_now (s : State) (d : Nat) (f : Die → Die) : (s.onDie d f).now = s.now := rfl
@[simp] theorem State.onDie_bays (s : State) (d : Nat) (f : Die → Die) : (s.onDie d f).bays = s.bays := rfl
@[simp] theorem State.onDie_parts (s : State) (d : Nat) (f : Die → Die) : (s.onDie d f).parts = s.parts := rfl
@[simp] theorem State.onDie_pkg (s : State) (d : Nat) (f : Die → Die) : (s.onDie d f).pkg = s.pkg := rfl
@[simp] theorem State.onDie_scratch (s : State) (d : Nat) (f : Die → Die) : (s.onDie d f).scratch = s.scratch := rfl
@[simp] theorem State.onDie_beat (s : State) (d : Nat) (f : Die → Die) : (s.onDie d f).beat = s.beat := rfl
@[simp] theorem State.onDie_acc (s : State) (d : Nat) (f : Die → Die) : (s.onDie d f).acc = s.acc := rfl
@[simp] theorem State.onDie_host (s : State) (d : Nat) (f : Die → Die) : (s.onDie d f).host = s.host := rfl
@[simp] theorem State.onDie_expander (s : State) (d : Nat) (f : Die → Die) : (s.onDie d f).expander = s.expander := rfl
@[simp] theorem State.onDie_tlb (s : State) (d : Nat) (f : Die → Die) : (s.onDie d f).tlb = s.tlb := rfl
@[simp] theorem State.onDie_tables (s : State) (d : Nat) (f : Die → Die) : (s.onDie d f).tables = s.tables := rfl
@[simp] theorem State.onDie_cur (s : State) (d : Nat) (f : Die → Die) : (s.onDie d f).cur = s.cur := rfl
@[simp] theorem State.onDie_inputs (s : State) (d : Nat) (f : Die → Die) : (s.onDie d f).inputs = s.inputs := rfl
@[simp] theorem State.onDie_bay (s : State) (d : Nat) (f : Die → Die) (k : Nat) : (s.onDie d f).bay k = s.bay k := rfl
@[simp] theorem State.onDie_part (s : State) (d : Nat) (f : Die → Die) (k : Nat) : (s.onDie d f).part k = s.part k := rfl

/-! ## State.onPart -/

@[simp] theorem State.onPart_now (s : State) (p : Nat) (f : Part → Part) : (s.onPart p f).now = s.now := rfl
@[simp] theorem State.onPart_bays (s : State) (p : Nat) (f : Part → Part) : (s.onPart p f).bays = s.bays := rfl
@[simp] theorem State.onPart_dies (s : State) (p : Nat) (f : Part → Part) : (s.onPart p f).dies = s.dies := rfl
@[simp] theorem State.onPart_pkg (s : State) (p : Nat) (f : Part → Part) : (s.onPart p f).pkg = s.pkg := rfl
@[simp] theorem State.onPart_scratch (s : State) (p : Nat) (f : Part → Part) : (s.onPart p f).scratch = s.scratch := rfl
@[simp] theorem State.onPart_beat (s : State) (p : Nat) (f : Part → Part) : (s.onPart p f).beat = s.beat := rfl
@[simp] theorem State.onPart_acc (s : State) (p : Nat) (f : Part → Part) : (s.onPart p f).acc = s.acc := rfl
@[simp] theorem State.onPart_host (s : State) (p : Nat) (f : Part → Part) : (s.onPart p f).host = s.host := rfl
@[simp] theorem State.onPart_expander (s : State) (p : Nat) (f : Part → Part) : (s.onPart p f).expander = s.expander := rfl
@[simp] theorem State.onPart_tlb (s : State) (p : Nat) (f : Part → Part) : (s.onPart p f).tlb = s.tlb := rfl
@[simp] theorem State.onPart_tables (s : State) (p : Nat) (f : Part → Part) : (s.onPart p f).tables = s.tables := rfl
@[simp] theorem State.onPart_cur (s : State) (p : Nat) (f : Part → Part) : (s.onPart p f).cur = s.cur := rfl
@[simp] theorem State.onPart_inputs (s : State) (p : Nat) (f : Part → Part) : (s.onPart p f).inputs = s.inputs := rfl
@[simp] theorem State.onPart_bay (s : State) (p : Nat) (f : Part → Part) (k : Nat) : (s.onPart p f).bay k = s.bay k := rfl
@[simp] theorem State.onPart_die (s : State) (p : Nat) (f : Part → Part) (k : Nat) : (s.onPart p f).die k = s.die k := rfl

/-! ## State.onPkg -/

@[simp] theorem State.onPkg_now (s : State) (f : Pkg → Pkg) : (s.onPkg f).now = s.now := rfl
@[simp] theorem State.onPkg_bays (s : State) (f : Pkg → Pkg) : (s.onPkg f).bays = s.bays := rfl
@[simp] theorem State.onPkg_dies (s : State) (f : Pkg → Pkg) : (s.onPkg f).dies = s.dies := rfl
@[simp] theorem State.onPkg_parts (s : State) (f : Pkg → Pkg) : (s.onPkg f).parts = s.parts := rfl
@[simp] theorem State.onPkg_scratch (s : State) (f : Pkg → Pkg) : (s.onPkg f).scratch = s.scratch := rfl
@[simp] theorem State.onPkg_beat (s : State) (f : Pkg → Pkg) : (s.onPkg f).beat = s.beat := rfl
@[simp] theorem State.onPkg_acc (s : State) (f : Pkg → Pkg) : (s.onPkg f).acc = s.acc := rfl
@[simp] theorem State.onPkg_host (s : State) (f : Pkg → Pkg) : (s.onPkg f).host = s.host := rfl
@[simp] theorem State.onPkg_expander (s : State) (f : Pkg → Pkg) : (s.onPkg f).expander = s.expander := rfl
@[simp] theorem State.onPkg_tlb (s : State) (f : Pkg → Pkg) : (s.onPkg f).tlb = s.tlb := rfl
@[simp] theorem State.onPkg_tables (s : State) (f : Pkg → Pkg) : (s.onPkg f).tables = s.tables := rfl
@[simp] theorem State.onPkg_cur (s : State) (f : Pkg → Pkg) : (s.onPkg f).cur = s.cur := rfl
@[simp] theorem State.onPkg_inputs (s : State) (f : Pkg → Pkg) : (s.onPkg f).inputs = s.inputs := rfl
@[simp] theorem State.onPkg_bay (s : State) (f : Pkg → Pkg) (k : Nat) : (s.onPkg f).bay k = s.bay k := rfl
@[simp] theorem State.onPkg_die (s : State) (f : Pkg → Pkg) (k : Nat) : (s.onPkg f).die k = s.die k := rfl
@[simp] theorem State.onPkg_part (s : State) (f : Pkg → Pkg) (k : Nat) : (s.onPkg f).part k = s.part k := rfl

/-! ## State.mapBays -/

@[simp] theorem State.mapBays_now (s : State) (f : Nat → Bay → Bay) : (s.mapBays f).now = s.now := rfl
@[simp] theorem State.mapBays_dies (s : State) (f : Nat → Bay → Bay) : (s.mapBays f).dies = s.dies := rfl
@[simp] theorem State.mapBays_parts (s : State) (f : Nat → Bay → Bay) : (s.mapBays f).parts = s.parts := rfl
@[simp] theorem State.mapBays_pkg (s : State) (f : Nat → Bay → Bay) : (s.mapBays f).pkg = s.pkg := rfl
@[simp] theorem State.mapBays_scratch (s : State) (f : Nat → Bay → Bay) : (s.mapBays f).scratch = s.scratch := rfl
@[simp] theorem State.mapBays_beat (s : State) (f : Nat → Bay → Bay) : (s.mapBays f).beat = s.beat := rfl
@[simp] theorem State.mapBays_acc (s : State) (f : Nat → Bay → Bay) : (s.mapBays f).acc = s.acc := rfl
@[simp] theorem State.mapBays_host (s : State) (f : Nat → Bay → Bay) : (s.mapBays f).host = s.host := rfl
@[simp] theorem State.mapBays_expander (s : State) (f : Nat → Bay → Bay) : (s.mapBays f).expander = s.expander := rfl
@[simp] theorem State.mapBays_tlb (s : State) (f : Nat → Bay → Bay) : (s.mapBays f).tlb = s.tlb := rfl
@[simp] theorem State.mapBays_tables (s : State) (f : Nat → Bay → Bay) : (s.mapBays f).tables = s.tables := rfl
@[simp] theorem State.mapBays_cur (s : State) (f : Nat → Bay → Bay) : (s.mapBays f).cur = s.cur := rfl
@[simp] theorem State.mapBays_inputs (s : State) (f : Nat → Bay → Bay) : (s.mapBays f).inputs = s.inputs := rfl
@[simp] theorem State.mapBays_die (s : State) (f : Nat → Bay → Bay) (k : Nat) : (s.mapBays f).die k = s.die k := rfl
@[simp] theorem State.mapBays_part (s : State) (f : Nat → Bay → Bay) (k : Nat) : (s.mapBays f).part k = s.part k := rfl

/-! ## State.mapDies -/

@[simp] theorem State.mapDies_now (s : State) (f : Nat → Die → Die) : (s.mapDies f).now = s.now := rfl
@[simp] theorem State.mapDies_bays (s : State) (f : Nat → Die → Die) : (s.mapDies f).bays = s.bays := rfl
@[simp] theorem State.mapDies_parts (s : State) (f : Nat → Die → Die) : (s.mapDies f).parts = s.parts := rfl
@[simp] theorem State.mapDies_pkg (s : State) (f : Nat → Die → Die) : (s.mapDies f).pkg = s.pkg := rfl
@[simp] theorem State.mapDies_scratch (s : State) (f : Nat → Die → Die) : (s.mapDies f).scratch = s.scratch := rfl
@[simp] theorem State.mapDies_beat (s : State) (f : Nat → Die → Die) : (s.mapDies f).beat = s.beat := rfl
@[simp] theorem State.mapDies_acc (s : State) (f : Nat → Die → Die) : (s.mapDies f).acc = s.acc := rfl
@[simp] theorem State.mapDies_host (s : State) (f : Nat → Die → Die) : (s.mapDies f).host = s.host := rfl
@[simp] theorem State.mapDies_expander (s : State) (f : Nat → Die → Die) : (s.mapDies f).expander = s.expander := rfl
@[simp] theorem State.mapDies_tlb (s : State) (f : Nat → Die → Die) : (s.mapDies f).tlb = s.tlb := rfl
@[simp] theorem State.mapDies_tables (s : State) (f : Nat → Die → Die) : (s.mapDies f).tables = s.tables := rfl
@[simp] theorem State.mapDies_cur (s : State) (f : Nat → Die → Die) : (s.mapDies f).cur = s.cur := rfl
@[simp] theorem State.mapDies_inputs (s : State) (f : Nat → Die → Die) : (s.mapDies f).inputs = s.inputs := rfl
@[simp] theorem State.mapDies_bay (s : State) (f : Nat → Die → Die) (k : Nat) : (s.mapDies f).bay k = s.bay k := rfl
@[simp] theorem State.mapDies_part (s : State) (f : Nat → Die → Die) (k : Nat) : (s.mapDies f).part k = s.part k := rfl

/-! ## Reading what was changed -/

/-- A bay after a change of one bay. -/
theorem State.setBay_bay (s : State) (b k : Nat) (x : Bay) : (s.setBay b x).bay k = if k = b then x else s.bay k :=
  Tbl.get_set _ _ _ _ _

@[simp] theorem State.setBay_bay_same (s : State) (b : Nat) (x : Bay) : (s.setBay b x).bay b = x := by
  rw [State.setBay_bay, if_pos rfl]

theorem State.setDie_die (s : State) (d k : Nat) (x : Die) : (s.setDie d x).die k = if k = d then x else s.die k :=
  Tbl.get_set _ _ _ _ _

@[simp] theorem State.setDie_die_same (s : State) (d : Nat) (x : Die) : (s.setDie d x).die d = x := by
  rw [State.setDie_die, if_pos rfl]

theorem State.setPart_part (s : State) (p k : Nat) (x : Part) : (s.setPart p x).part k = if k = p then x else s.part k :=
  Tbl.get_set _ _ _ _ _

@[simp] theorem State.setPart_part_same (s : State) (p : Nat) (x : Part) : (s.setPart p x).part p = x := by
  rw [State.setPart_part, if_pos rfl]

theorem State.onBay_bay (s : State) (b k : Nat) (f : Bay → Bay) :
    (s.onBay b f).bay k = if k = b then f (s.bay b) else s.bay k := State.setBay_bay s b k _

@[simp] theorem State.onBay_bay_same (s : State) (b : Nat) (f : Bay → Bay) : (s.onBay b f).bay b = f (s.bay b) := by
  rw [State.onBay_bay, if_pos rfl]

theorem State.onBay_bay_other (s : State) (b k : Nat) (f : Bay → Bay) (h : k ≠ b) : (s.onBay b f).bay k = s.bay k := by
  rw [State.onBay_bay, if_neg h]

theorem State.onDie_die (s : State) (d k : Nat) (f : Die → Die) :
    (s.onDie d f).die k = if k = d then f (s.die d) else s.die k := State.setDie_die s d k _

@[simp] theorem State.onDie_die_same (s : State) (d : Nat) (f : Die → Die) : (s.onDie d f).die d = f (s.die d) := by
  rw [State.onDie_die, if_pos rfl]

theorem State.onPart_part (s : State) (p k : Nat) (f : Part → Part) :
    (s.onPart p f).part k = if k = p then f (s.part p) else s.part k := State.setPart_part s p k _

@[simp] theorem State.onPart_part_same (s : State) (p : Nat) (f : Part → Part) : (s.onPart p f).part p = f (s.part p) := by
  rw [State.onPart_part, if_pos rfl]

@[simp] theorem State.onPkg_pkg (s : State) (f : Pkg → Pkg) : (s.onPkg f).pkg = f s.pkg := rfl

@[simp] theorem State.updCur_cur (s : State) (f : Cur → Cur) : (s.updCur f).cur = f s.cur := rfl

/-- The issuing bay after a change of it. -/
@[simp] theorem State.upd_here (s : State) (f : Bay → Bay) : (s.upd f).here = f s.here :=
  State.setBay_bay_same s s.cur.bay _

theorem State.upd_bay (s : State) (f : Bay → Bay) (k : Nat) :
    (s.upd f).bay k = if k = s.cur.bay then f s.here else s.bay k := State.setBay_bay s _ k _

theorem State.upd_bay_other (s : State) (f : Bay → Bay) (k : Nat) (h : k ≠ s.cur.bay) : (s.upd f).bay k = s.bay k := by
  rw [State.upd_bay, if_neg h]

/-! ## State.reset -/

@[simp] theorem State.reset_bay (k : Nat) : State.reset.bay k = Bay.reset := rfl
@[simp] theorem State.reset_die (k : Nat) : State.reset.die k = Die.reset := rfl
@[simp] theorem State.reset_part (k : Nat) : State.reset.part k = Part.reset := rfl

end Sys2Proof.Machine
end

