-- ==== Sys2Proof/Laws/Ops.lean ====
section
/-!
SUPPORT. What the shared operations over registers do: reading a source, a scalar result and its flags in flight and where
they land.
-/

namespace Sys2Proof.Machine

/-! ## Sources -/

theorem State.readS_zero (s : State) (i : Nat) : s.readS 0 i = 0 := rfl

/-- A settled source reads as its register. -/
theorem State.readS_settled (s : State) (r : Reg) (i : Nat) (h : s.settled r) : s.readS r i = s.val r := by
  unfold State.settled at h
  by_cases h0 : r.toNat = 0
  · simp [State.readS, State.val, Bay.scalar, h0]
  · simp [State.readS, State.val, h0, h]

/-! ## Single registers -/

theorem Bay.scalar_setScalar (b : Bay) (h h' : Bool) (r r' : Nat) (v : Word) (hd : r' ≠ r ∨ (24 ≤ r ∧ h' ≠ h)) :
    (b.setScalar h r v).scalar h' r' = b.scalar h' r' := by
  unfold Bay.setScalar Bay.scalar
  split
  · rfl
  · split <;> split <;> (try split) <;> first | rfl | (apply Tbl.get_set_other; intro e; subst e; cases h <;> cases h' <;> simp_all <;> omega)

theorem Bay.scalar_setScalar_same (b : Bay) (h : Bool) (r : Nat) (v : Word) (h0 : r ≠ 0) : (b.setScalar h r v).scalar h r = v := by
  unfold Bay.setScalar Bay.scalar
  rw [if_neg h0, if_neg h0]
  by_cases hc : h = true ∧ 24 ≤ r
  · rw [if_pos hc, if_pos hc]; exact Tbl.get_set_same _ _ _ _
  · rw [if_neg hc, if_neg hc]; exact Tbl.get_set_same _ _ _ _

/-- The bank flag of a register in the mode names the same register as the mode itself. -/
theorem Bay.setScalar_bank (b c : Bay) (r : Nat) (v : Word) : b.setScalar (c.bank r) r v = b.setScalar c.handler r v := by
  unfold Bay.setScalar Bay.bank
  by_cases h : c.handler = true <;> by_cases h' : 24 ≤ r <;> simp [h, h']

theorem Bay.scalar_bank (b c : Bay) (r : Nat) : b.scalar (c.bank r) r = b.scalar c.handler r := by
  unfold Bay.scalar Bay.bank
  by_cases h : c.handler = true <;> by_cases h' : 24 ≤ r <;> simp [h, h']

/-- Bits of a value under a full mask. -/
theorem blend_full (old : Nat) (v : Word) (h : old < 2 ^ 64) : blend old v.toNat (2 ^ 64 - 1) = v.toNat := by
  have hv : v.toNat < 2 ^ 64 := v.isLt
  unfold blend
  rw [Nat.and_two_pow_sub_one_of_lt_two_pow h, Nat.and_two_pow_sub_one_of_lt_two_pow hv, Nat.xor_self, Nat.zero_or]

/-! ## Two bays that differ in one scalar register -/

/-- Two states of a bay that agree outside one scalar register and outside what is in flight. -/
structure Bay.Apart (h : Bool) (d : Nat) (b c : Bay) : Prop where
  scalars : Bay.sameScalars b c h d
  rows : ∀ n, c.row n = b.row n
  special : Bay.sameSpecial b c
  stat : c.stat = b.stat
  hstat : c.hstat = b.hstat
  seed : c.tileSeed = b.tileSeed

theorem Bay.setRow_row (b : Bay) (n k : Nat) (r : Row) : (b.setRow n r).row k = if k = n then r else b.row k := by
  unfold Bay.setRow Bay.row
  simp only [Tbl.get_set]
  by_cases h : k = n <;> simp [h]

theorem Bay.writeSpecial_special (b c : Bay) (h : Bool) (n : Nat) (v : Word) (hs : Bay.sameSpecial b c) (ht : c.stat = b.stat)
    (hh : c.hstat = b.hstat) : Bay.sameSpecial (b.writeSpecial h n v) (c.writeSpecial h n v) ∧
      (c.writeSpecial h n v).stat = (b.writeSpecial h n v).stat ∧ (c.writeSpecial h n v).hstat = (b.writeSpecial h n v).hstat := by
  obtain ⟨h1, h2, h3, h4, h5, h6, h7, h8, h9, h10⟩ := hs
  have step : ∀ k, c.step k = b.step k := by
    intro k; unfold Bay.step; split <;> assumption
  have setStep : ∀ k w, Bay.sameSpecial (b.setStep k w) (c.setStep k w) ∧ (c.setStep k w).stat = (b.setStep k w).stat ∧
      (c.setStep k w).hstat = (b.setStep k w).hstat := by
    intro k w; unfold Bay.setStep; split <;> simp [Bay.sameSpecial, *]
  unfold Bay.writeSpecial
  split <;> (try split) <;> (try simp [Bay.sameSpecial, *] <;> done)
  · simp only [step]
    split <;> exact setStep _ _

theorem Bay.writeSpecial_scalar (b : Bay) (h h' : Bool) (n r : Nat) (v : Word) : (b.writeSpecial h n v).scalar h' r = b.scalar h' r := by
  have hs : ∀ k w, (b.setStep k w).scalar h' r = b.scalar h' r := by intro k w; unfold Bay.setStep; split <;> rfl
  unfold Bay.writeSpecial
  split <;> (try split) <;> (try rfl)
  simp only []
  split <;> exact hs _ _

theorem Bay.writeSpecial_row (b : Bay) (h : Bool) (n k : Nat) (v : Word) : (b.writeSpecial h n v).row k = b.row k := by
  have hs : ∀ j w, (b.setStep j w).row k = b.row k := by intro j w; unfold Bay.setStep; split <;> rfl
  unfold Bay.writeSpecial
  split <;> (try split) <;> (try rfl)
  simp only []
  split <;> exact hs _ _

theorem Bay.writeSpecial_seed (b : Bay) (h : Bool) (n : Nat) (v : Word) : (b.writeSpecial h n v).tileSeed = b.tileSeed := by
  have hs : ∀ j w, (b.setStep j w).tileSeed = b.tileSeed := by intro j w; unfold Bay.setStep; split <;> rfl
  unfold Bay.writeSpecial
  split <;> (try split) <;> (try rfl)
  simp only []
  split <;> exact hs _ _

theorem Bay.scalar_setRow (b : Bay) (n : Nat) (r : Row) (h : Bool) (k : Nat) : (b.setRow n r).scalar h k = b.scalar h k := rfl

/-- The same result lands in both. -/
theorem Bay.Apart.landOne {h : Bool} {d : Nat} {b c : Bay} (a : Bay.Apart h d b c) (p : Pend) :
    Bay.Apart h d (b.landOne p) (c.landOne p) := by
  cases p with
  | mk dest issued due val mask soft job =>
  have special : ∀ n k v, Bay.Apart h d (b.writeSpecial k n v) (c.writeSpecial k n v) := by
    intro n k v
    have w := Bay.writeSpecial_special b c k n v a.special a.stat a.hstat
    refine ⟨?_, ?_, w.1, w.2.1, w.2.2, ?_⟩
    · intro h' r hr; rw [Bay.writeSpecial_scalar, Bay.writeSpecial_scalar]; exact a.scalars h' r hr
    · intro m; rw [Bay.writeSpecial_row, Bay.writeSpecial_row]; exact a.rows m
    · rw [Bay.writeSpecial_seed, Bay.writeSpecial_seed]; exact a.seed
  cases dest with
  | scalar r k =>
    have other : ∀ (x : Bay) v, (x.setScalar k r v).tiles = x.tiles ∧ (x.setScalar k r v).tileSeed = x.tileSeed ∧
        (x.setScalar k r v).stat = x.stat ∧ (x.setScalar k r v).hstat = x.hstat ∧ Bay.sameSpecial x (x.setScalar k r v) := by
      intro x v; unfold Bay.setScalar Bay.sameSpecial; split <;> (try split) <;> simp
    have row : ∀ (x : Bay) v n, (x.setScalar k r v).row n = x.row n := by
      intro x v n; unfold Bay.row; rw [(other x v).1, (other x v).2.1]
    simp only [Bay.landOne]
    refine ⟨?_, ?_, ?_, ?_, ?_, ?_⟩
    · intro h' r' hr
      by_cases e : r' ≠ r ∨ (24 ≤ r ∧ h' ≠ k)
      · rw [Bay.scalar_setScalar _ _ _ _ _ _ e, Bay.scalar_setScalar _ _ _ _ _ _ e]; exact a.scalars h' r' hr
      · have e1 : r' = r := by by_contra x; exact e (.inl x)
        subst e1
        have hk : h' = k ∨ r' < 24 := by
          by_cases x : h' = k
          · exact .inl x
          · exact .inr (by by_contra y; exact e (.inr ⟨by omega, x⟩))
        have bankfree : ∀ (x : Bay) v, (x.setScalar k r' v).scalar h' r' = (x.setScalar k r' v).scalar k r' := by
          intro x v
          rcases hk with hk | hk
          · rw [hk]
          · unfold Bay.scalar; simp [show ¬ 24 ≤ r' by omega]
        have bankfree' : ∀ (x : Bay), x.scalar h' r' = x.scalar k r' := by
          intro x
          rcases hk with hk | hk
          · rw [hk]
          · unfold Bay.scalar; simp [show ¬ 24 ≤ r' by omega]
        by_cases h0 : r' = 0
        · subst h0; simp [Bay.scalar]
        · rw [bankfree, bankfree, Bay.scalar_setScalar_same _ _ _ _ h0, Bay.scalar_setScalar_same _ _ _ _ h0]
          have := a.scalars h' r' hr
          rw [bankfree', bankfree'] at this
          rw [this]
    · intro n; rw [row, row]; exact a.rows n
    · obtain ⟨-, -, -, -, s1⟩ := other b (BitVec.ofNat 64 (blend (b.scalar k r).toNat val mask))
      obtain ⟨-, -, -, -, s2⟩ := other c (BitVec.ofNat 64 (blend (c.scalar k r).toNat val mask))
      have s0 := a.special
      simp only [Bay.sameSpecial] at *
      simp [*]
    · rw [(other _ _).2.2.1, (other _ _).2.2.1]; exact a.stat
    · rw [(other _ _).2.2.2.1, (other _ _).2.2.2.1]; exact a.hstat
    · rw [(other _ _).2.1, (other _ _).2.1]; exact a.seed
  | row n =>
    simp only [Bay.landOne]
    split
    · exact a
    · rw [a.rows n]
      refine ⟨fun h' r' hr => a.scalars h' r' hr, fun m => ?_, a.special, a.stat, a.hstat, a.seed⟩
      rw [Bay.setRow_row, Bay.setRow_row, a.rows m]
  | special n k =>
    have fmt : c.fmtReg k = b.fmtReg k := by
      obtain ⟨h1, h2, -⟩ := a.special; unfold Bay.fmtReg; rw [h1, h2]
    unfold Bay.landOne
    simp only []
    split
    · rename_i e; cases e
    · rename_i e; cases e
    · rename_i e; cases e; rw [fmt]; exact special _ _ _
    · rename_i e; cases e; exact special _ _ _
    · rename_i e; cases e
  | stat k =>
    simp only [Bay.landOne]
    split
    · exact ⟨a.scalars, a.rows, a.special, a.stat, by simp [a.hstat], a.seed⟩
    · exact ⟨a.scalars, a.rows, a.special, by simp [a.stat], a.hstat, a.seed⟩

theorem Bay.Apart.refl (h : Bool) (d : Nat) (b : Bay) : Bay.Apart h d b b :=
  ⟨fun _ _ _ => rfl, fun _ => rfl, ⟨rfl, rfl, rfl, rfl, rfl, rfl, rfl, rfl, rfl, rfl⟩, rfl, rfl, rfl⟩

/-- Results for the scalar register that is left out change nothing else. -/
theorem Bay.Apart.landHere {h : Bool} {d : Nat} {b c : Bay} (a : Bay.Apart h d b c) (k : Bool) (e : h = k ∨ ¬ 24 ≤ d)
    (v w : Word) : Bay.Apart h d (b.setScalar k d v) (c.setScalar k d w) := by
  have other : ∀ (x : Bay) v, (x.setScalar k d v).tiles = x.tiles ∧ (x.setScalar k d v).tileSeed = x.tileSeed ∧
      (x.setScalar k d v).stat = x.stat ∧ (x.setScalar k d v).hstat = x.hstat ∧ Bay.sameSpecial x (x.setScalar k d v) := by
    intro x v; unfold Bay.setScalar Bay.sameSpecial; split <;> (try split) <;> simp
  have row : ∀ (x : Bay) v n, (x.setScalar k d v).row n = x.row n := by
    intro x v n; unfold Bay.row; rw [(other x v).1, (other x v).2.1]
  refine ⟨?_, ?_, ?_, ?_, ?_, ?_⟩
  · intro h' r hr
    have e' : r ≠ d ∨ (24 ≤ d ∧ h' ≠ k) := by
      rcases hr with x | x
      · exact .inl x
      · rcases e with y | y
        · exact .inr (y ▸ x)
        · exact absurd x.1 y
    rw [Bay.scalar_setScalar _ _ _ _ _ _ e', Bay.scalar_setScalar _ _ _ _ _ _ e']; exact a.scalars h' r hr
  · intro n; rw [row, row]; exact a.rows n
  · obtain ⟨-, -, -, -, s1⟩ := other b v
    obtain ⟨-, -, -, -, s2⟩ := other c w
    have s0 := a.special
    simp only [Bay.sameSpecial] at *
    simp [*]
  · rw [(other _ _).2.2.1, (other _ _).2.2.1]; exact a.stat
  · rw [(other _ _).2.2.2.1, (other _ _).2.2.2.1]; exact a.hstat
  · rw [(other _ _).2.1, (other _ _).2.1]; exact a.seed

/-- A scalar result changes its own register only. -/
theorem Bay.Apart.setOne {h : Bool} {d : Nat} {b c : Bay} (a : Bay.Apart h d b c) (k : Bool) (e : h = k ∨ ¬ 24 ≤ d) (w : Word) :
    Bay.Apart h d b (c.setScalar k d w) := by
  have t := Bay.Apart.landHere a k e (b.scalar k d) w
  have other : ∀ (x : Bay) v, (x.setScalar k d v).tiles = x.tiles ∧ (x.setScalar k d v).tileSeed = x.tileSeed ∧
      (x.setScalar k d v).stat = x.stat ∧ (x.setScalar k d v).hstat = x.hstat ∧ Bay.sameSpecial x (x.setScalar k d v) := by
    intro x v; unfold Bay.setScalar Bay.sameSpecial; split <;> (try split) <;> simp
  obtain ⟨o1, o2, o3, o4, o5⟩ := other b (b.scalar k d)
  refine ⟨?_, ?_, ?_, ?_, ?_, ?_⟩
  · intro h' r hr
    have e' : r ≠ d ∨ (24 ≤ d ∧ h' ≠ k) := by
      rcases hr with x | x
      · exact .inl x
      · rcases e with y | y
        · exact .inr (y ▸ x)
        · exact absurd x.1 y
    rw [t.scalars h' r hr, Bay.scalar_setScalar _ _ _ _ _ _ e']
  · intro n; rw [t.rows n]; unfold Bay.row; rw [o1, o2]
  · obtain ⟨s1, s2, s3, s4, s5, s6, s7, s8, s9, s10⟩ := t.special
    obtain ⟨q1, q2, q3, q4, q5, q6, q7, q8, q9, q10⟩ := o5
    exact ⟨s1.trans q1, s2.trans q2, s3.trans q3, s4.trans q4, s5.trans q5, s6.trans q6, s7.trans q7, s8.trans q8,
      s9.trans q9, s10.trans q10⟩
  · rw [t.stat, o3]
  · rw [t.hstat, o4]
  · rw [t.seed, o2]

/-- What `addPend` does to the older results of a scalar register. -/
def olderOf (d : Dest) (mask : Nat) (q : Pend) : Pend :=
  if q.dest = d ∧ !q.soft then { q with mask := q.mask ^^^ (q.mask &&& mask) } else q

theorem olderOf_dest (d : Dest) (m : Nat) (q : Pend) : (olderOf d m q).dest = q.dest := by unfold olderOf; split <;> rfl
theorem olderOf_due (d : Dest) (m : Nat) (q : Pend) : (olderOf d m q).due = q.due := by unfold olderOf; split <;> rfl
theorem olderOf_flag (d : Dest) (m : Nat) (q : Pend) : (olderOf d m q).isFlag = q.isFlag := by
  unfold Pend.isFlag; rw [olderOf_dest]

/-- Landing a list of results, and landing it with the older results of one scalar register masked. -/
theorem Bay.Apart.fold {h : Bool} {d : Nat} (k : Bool) (e : h = k ∨ ¬ 24 ≤ d) (m : Nat) (ps : List Pend) :
    ∀ {b c : Bay}, Bay.Apart h d b c →
      Bay.Apart h d (ps.foldl Bay.landOne b) ((ps.map (olderOf (.scalar d k) m)).foldl Bay.landOne c) := by
  induction ps with
  | nil => intro b c a; exact a
  | cons p ps ih =>
    intro b c a
    simp only [List.map_cons, List.foldl_cons]
    apply ih
    by_cases x : p.dest = .scalar d k
    · obtain ⟨dest, issued, due, val, mask, soft, job⟩ := p
      simp only at x
      subst x
      unfold olderOf
      split
      · simp only [Bay.landOne]; exact Bay.Apart.landHere a k e _ _
      · exact a.landOne _
    · have : olderOf (.scalar d k) m p = p := by unfold olderOf; rw [if_neg (fun y => x y.1)]
      rw [this]; exact a.landOne p

theorem Bay.foldFlags_apart {h : Bool} {d : Nat} (ps : List Pend) :
    ∀ {b c : Bay}, Bay.Apart h d b c → Bay.Apart h d (ps.foldl Bay.landOne b) (ps.foldl Bay.landOne c) := by
  induction ps with
  | nil => intro b c a; exact a
  | cons p ps ih => intro b c a; exact ih (a.landOne p)

/-- A discarded result changes no register. -/
theorem Bay.land_outlast (h : Bool) (d : Nat) (b : Bay) (u N : Nat) : Bay.Apart h d (b.land N) ((b.outlast u).land N) :=
  Bay.foldFlags_apart _ (Bay.foldFlags_apart _
    ⟨fun _ _ _ => rfl, fun _ => rfl, ⟨rfl, rfl, rfl, rfl, rfl, rfl, rfl, rfl, rfl, rfl⟩, rfl, rfl, rfl⟩)

theorem Bay.foldFlags_scalar (h : Bool) (r : Nat) (ps : List Pend) (hp : ∀ p ∈ ps, p.isFlag = true) :
    ∀ (b : Bay), (ps.foldl Bay.landOne b).scalar h r = b.scalar h r := by
  induction ps with
  | nil => intro b; rfl
  | cons p ps ih =>
    intro b
    rw [List.foldl_cons, ih (fun q hq => hp q (List.mem_cons_of_mem _ hq))]
    have := hp p List.mem_cons_self
    obtain ⟨dest, issued, due, val, mask, soft, job⟩ := p
    cases dest <;> simp [Pend.isFlag] at this
    simp only [Bay.landOne]; split <;> rfl

theorem Bay.landOne_pends (b : Bay) (p : Pend) : (b.landOne p).pends = b.pends := by
  have hs : ∀ j (x : Bay) w, (x.setStep j w).pends = x.pends := by intro j x w; unfold Bay.setStep; split <;> rfl
  have hw : ∀ h n v (x : Bay), (x.writeSpecial h n v).pends = x.pends := by
    intro h n v x
    unfold Bay.writeSpecial
    split <;> (try split) <;> (try rfl)
    simp only []
    split <;> exact hs _ _ _
  have hc : ∀ h n v (x : Bay), (x.setScalar h n v).pends = x.pends := by
    intro h n v x; unfold Bay.setScalar; split <;> (try split) <;> rfl
  unfold Bay.landOne
  split
  · exact hc _ _ _ _
  · split <;> rfl
  · exact hw _ _ _ _
  · exact hw _ _ _ _
  · split <;> rfl

theorem Bay.foldLand_pends (ps : List Pend) : ∀ b : Bay, (ps.foldl Bay.landOne b).pends = b.pends := by
  induction ps with
  | nil => intro b; rfl
  | cons p ps ih => intro b; rw [List.foldl_cons, ih, Bay.landOne_pends]

theorem Bay.land_pends (b : Bay) (n : Nat) : (b.land n).pends = b.pends.filter fun p => decide (n < p.due) := by
  unfold Bay.land; simp only [Bay.foldLand_pends]

/-! ## A scalar result -/

theorem Bay.addPend_scalar (b : Bay) (r : Nat) (k : Bool) (now due val mask job : Nat) :
    b.addPend ⟨.scalar r k, now, due, val, mask, false, job⟩ =
      { b with pends := b.pends.map (olderOf (.scalar r k) mask) ++ [⟨.scalar r k, now, due, val, mask, false, job⟩]
               drainAt := max b.drainAt due } := by
  unfold Bay.addPend olderOf
  simp

/-- The registers after a scalar result has been issued. -/
theorem Bay.land_scalar (b : Bay) (r : Nat) (k : Bool) (now due : Nat) (v : Word) (h : Bool) (e : h = k ∨ ¬ 24 ≤ r)
    (h0 : r ≠ 0) (N : Nat) :
    let c := b.addPend ⟨.scalar r k, now, due, v.toNat, 2 ^ 64 - 1, false, 0⟩
    Bay.Apart h r (b.land N) (c.land N) ∧ (due ≤ N → (c.land N).scalar h r = v) := by
  simp only [Bay.addPend_scalar]
  have fl : ∀ (l : List Pend) (P : Pend → Bool), (∀ q, P (olderOf (.scalar r k) (2 ^ 64 - 1) q) = P q) →
      (l.map (olderOf (.scalar r k) (2 ^ 64 - 1))).filter P = (l.filter P).map (olderOf (.scalar r k) (2 ^ 64 - 1)) := by
    intro l P hP
    rw [List.filter_map]
    congr 1
    exact List.filter_congr (fun x _ => hP x)
  have bankeq : ∀ (x : Bay) w, (x.setScalar k r w).scalar h r = w := by
    intro x w
    rcases e with e | e
    · rw [e]; exact Bay.scalar_setScalar_same x k r w h0
    · have := Bay.scalar_setScalar_same x k r w h0
      unfold Bay.scalar at this ⊢
      simpa [e] using this
  have same : ∀ (l : List Pend), (∀ q ∈ l, q.isFlag = true) → l.map (olderOf (.scalar r k) (2 ^ 64 - 1)) = l := by
    intro l hl
    refine (List.map_congr_left (g := id) fun q hq => ?_).trans (List.map_id _)
    have := hl q hq
    unfold olderOf
    rw [if_neg]; · rfl
    rintro ⟨x, -⟩
    simp [Pend.isFlag, x] at this
  have isf : ∀ q ∈ (b.pends.filter fun p => decide (p.due ≤ N)).filter fun p => p.isFlag, q.isFlag = true :=
    fun q hq => (List.mem_filter.mp hq).2
  have base : ∀ x y : Bay, Bay.Apart h r x y → Bay.Apart h r
      (((b.pends.filter fun p => decide (p.due ≤ N)).filter fun p => !p.isFlag).foldl Bay.landOne x)
      ((((b.pends.filter fun p => decide (p.due ≤ N)).filter fun p => !p.isFlag).map (olderOf (.scalar r k) (2 ^ 64 - 1))).foldl
        Bay.landOne y) := fun x y a => Bay.Apart.fold k e _ _ a
  have start : ∀ x y : List Pend, ∀ z, Bay.Apart h r { b with pends := x } { b with pends := y, drainAt := z } := fun _ _ _ =>
    ⟨fun _ _ _ => rfl, fun _ => rfl, ⟨rfl, rfl, rfl, rfl, rfl, rfl, rfl, rfl, rfl, rfl⟩, rfl, rfl, rfl⟩
  unfold Bay.land
  simp only [List.filter_append, fl _ (fun p => decide (p.due ≤ N)) (fun q => by simp only [olderOf_due]),
    fl _ (fun p => decide (N < p.due)) (fun q => by simp only [olderOf_due]),
    fl _ (fun p => !p.isFlag) (fun q => by simp only [olderOf_flag]),
    fl _ (fun p => p.isFlag) (fun q => by simp only [olderOf_flag]), List.foldl_append, same _ isf]
  by_cases x : due ≤ N
  · have y : ¬ N < due := by omega
    have pf : Pend.isFlag ⟨.scalar r k, now, due, v.toNat, 2 ^ 64 - 1, false, 0⟩ = false := rfl
    simp only [List.filter_cons, x, decide_true, if_true, List.filter_nil, pf, Bool.not_false, y, decide_false,
      Bool.false_eq_true, if_false, List.foldl_cons, List.foldl_nil, Bay.landOne]
    constructor
    · exact Bay.foldFlags_apart _ ((base _ _ (start _ _ _)).setOne k e _)
    · intro _
      rw [Bay.foldFlags_scalar h r _ isf, bankeq, blend_full _ _ (BitVec.isLt _)]
      simp
  · have y : N < due := by omega
    simp only [List.filter_cons, x, decide_true, if_true, List.filter_nil, y, decide_false,
      Bool.false_eq_true, if_false, List.foldl_nil]
    exact ⟨Bay.foldFlags_apart _ (base _ _ (start _ _ _)), fun z => z.elim⟩

/-- Flags in flight: they join STAT from their cycle on, and nothing else changes. -/
theorem Bay.land_flags (b : Bay) (k : Bool) (now due : Nat) (f : Flags) (h : Bool) (d N : Nat) :
    let c := b.addPend ⟨.stat k, now, due, f.toNat, 0x7F, false, 0⟩
    Bay.sameScalars (b.land N) (c.land N) h d ∧ (∀ r, (c.land N).scalar h r = (b.land N).scalar h r) ∧
      (∀ n, (c.land N).row n = (b.land N).row n) ∧ Bay.sameSpecial (b.land N) (c.land N) ∧
      Bay.gainsFlags (b.land N) (c.land N) k (if due ≤ N then f else 0) := by
  have add : b.addPend ⟨.stat k, now, due, f.toNat, 0x7F, false, 0⟩ =
      { b with pends := b.pends ++ [⟨.stat k, now, due, f.toNat, 0x7F, false, 0⟩], drainAt := max b.drainAt due } := by
    unfold Bay.addPend; simp
  have start : ∀ x y : List Pend, ∀ z, Bay.Apart h 0 { b with pends := x } { b with pends := y, drainAt := z } := fun _ _ _ =>
    ⟨fun _ _ _ => rfl, fun _ => rfl, ⟨rfl, rfl, rfl, rfl, rfl, rfl, rfl, rfl, rfl, rfl⟩, rfl, rfl, rfl⟩
  have all : ∀ x y : Bay, Bay.Apart h 0 x y → ∀ h' r, y.scalar h' r = x.scalar h' r := by
    intro x y a h' r
    by_cases e : r = 0
    · subst e; simp [Bay.scalar]
    · exact a.scalars h' r (.inl e)
  have pf : Pend.isFlag ⟨.stat k, now, due, f.toNat, 0x7F, false, 0⟩ = true := rfl
  have base : ∀ x y z, Bay.Apart h 0
      (((b.pends.filter fun p => decide (p.due ≤ N)).filter fun p => p.isFlag).foldl Bay.landOne
        (((b.pends.filter fun p => decide (p.due ≤ N)).filter fun p => !p.isFlag).foldl Bay.landOne { b with pends := x }))
      (((b.pends.filter fun p => decide (p.due ≤ N)).filter fun p => p.isFlag).foldl Bay.landOne
        (((b.pends.filter fun p => decide (p.due ≤ N)).filter fun p => !p.isFlag).foldl Bay.landOne
          { b with pends := y, drainAt := z })) := fun x y z => Bay.foldFlags_apart _ (Bay.foldFlags_apart _ (start x y z))
  rw [add]
  unfold Bay.land
  by_cases x : due ≤ N
  · have y : ¬ N < due := by omega
    simp only [List.filter_append, List.filter_cons, x, decide_true, if_true, List.filter_nil, pf, Bool.not_true, y, decide_false,
      Bool.false_eq_true, if_false, List.foldl_append, List.foldl_cons, List.foldl_nil, List.append_nil]
    have a := base (b.pends.filter fun p => decide (N < p.due)) (b.pends.filter fun p => decide (N < p.due)) (max b.drainAt due)
    refine ⟨?_, ?_, ?_, ?_, ?_⟩
    · intro h' r _; simp only [Bay.landOne]; split <;> exact all _ _ a h' r
    · intro r; simp only [Bay.landOne]; split <;> exact all _ _ a h r
    · intro n; simp only [Bay.landOne]; split <;> exact a.rows n
    · simp only [Bay.landOne]; split <;> exact a.special
    · simp only [Bay.landOne, BitVec.ofNat_toNat, BitVec.setWidth_eq]
      unfold Bay.gainsFlags
      cases k
      · exact ⟨congrArg (· ||| f) a.stat, a.hstat⟩
      · exact ⟨a.stat, congrArg (· ||| f) a.hstat⟩
  · have y : N < due := by omega
    simp only [List.filter_append, List.filter_cons, x, decide_true, if_true, List.filter_nil, y, decide_false,
      Bool.false_eq_true, if_false, List.append_nil]
    have a := base (b.pends.filter fun p => decide (N < p.due))
      ((b.pends.filter fun p => decide (N < p.due)) ++ [⟨.stat k, now, due, f.toNat, 0x7F, false, 0⟩]) (max b.drainAt due)
    refine ⟨fun h' r _ => all _ _ a h' r, fun r => all _ _ a h r, a.rows, a.special, ?_⟩
    unfold Bay.gainsFlags
    cases k
    · exact ⟨a.stat.trans (BitVec.or_zero).symm, a.hstat⟩
    · exact ⟨a.stat, a.hstat.trans (BitVec.or_zero).symm⟩

theorem Bay.addPend_handler (b : Bay) (p : Pend) : (b.addPend p).handler = b.handler := rfl

theorem Bay.addPend_sameButFlight (b : Bay) (p : Pend) : Bay.sameButFlight b (b.addPend p) := rfl

theorem Bay.outlast_sameButFlight (b : Bay) (u : Nat) : Bay.sameButFlight b (b.outlast u) := rfl

theorem Bay.same_sameButFlight (b : Bay) : Bay.sameButFlight b b := rfl

theorem Bay.sameButFlight.trans_flight {b c d : Bay} (h : b.sameButFlight c) (k : c.sameButFlight d) : b.sameButFlight d := by
  unfold Bay.sameButFlight at *
  exact (congrArg (fun x : Bay => { x with pends := b.pends, drainAt := b.drainAt }) k).trans h

/-- A drain waits for a result that is issued (R195). -/
theorem Bay.addPend_drain (b : Bay) (p : Pend) (h : p.soft = false) : (b.addPend p).drainAt = max b.drainAt p.due := by
  unfold Bay.addPend; rw [h]; rfl

theorem State.upd_sameBut (s : State) (f : Bay → Bay) : s.sameBut s.cur.bay (s.upd f) :=
  by
  refine ⟨rfl, fun k hk => State.upd_bay_other s f k hk, ?_⟩
  repeat (first | exact rfl | refine ⟨rfl, ?_⟩)

/-- What a scalar result with flags does. -/
theorem State.givesScalar_writeS (s : State) (d : Reg) (L : Nat) (v : Word) (f : Flags) :
    s.givesScalar (.next ((s.writeS d L v).raiseFlags L f)) d L v f := by
  -- the two results in flight, as changes of the bay
  let F : Bay → Bay := fun b => if d.toNat = 0 then b.outlast (s.now + L) else b.addPend ⟨.scalar d.toNat (b.bank d.toNat), s.now, s.now + L, v.toNat, 2 ^ 64 - 1, false, 0⟩
  let G : Bay → Bay := fun b => if f = 0 then b else b.addPend ⟨.stat b.handler, s.now, s.now + L, f.toNat, 0x7F, false, 0⟩
  have h0 : d = 0 ↔ d.toNat = 0 := by
    constructor
    · intro e; subst e; rfl
    · intro e; exact BitVec.eq_of_toNat_eq (by simpa using e)
  have cur : ((s.writeS d L v).raiseFlags L f).cur = s.cur := by
    unfold State.raiseFlags State.writeS; split <;> split <;> rfl
  have here : ((s.writeS d L v).raiseFlags L f).here = G (F s.here) := by
    unfold State.raiseFlags State.writeS
    simp only [F, G]
    split <;> split <;> simp
  have but : s.sameBut s.cur.bay ((s.writeS d L v).raiseFlags L f) := by
    unfold State.raiseFlags State.writeS
    refine ⟨?_, ?_, ?_⟩
    · split <;> split <;> rfl
    · intro k hk
      have e1 : ∀ (u : State) (g : Bay → Bay), u.cur = s.cur → (u.upd g).bay k = u.bay k := fun u g e =>
        State.upd_bay_other _ _ _ (e ▸ hk)
      split <;> split <;> first | rfl | exact e1 _ _ rfl | exact (e1 (s.upd _) _ rfl).trans (e1 s _ rfl)
    split <;> split <;> repeat (first | exact rfl | refine ⟨rfl, ?_⟩)
  refine ⟨_, rfl, cur, but, ?_, ?_, ?_, ?_⟩
  · have flightF : s.here.sameButFlight (F s.here) := by
      simp only [F]; split
      · exact Bay.outlast_sameButFlight _ _
      · exact Bay.addPend_sameButFlight _ _
    have flightG : (F s.here).sameButFlight (G (F s.here)) := by
      simp only [G]; split
      · exact Bay.same_sameButFlight _
      · exact Bay.addPend_sameButFlight _ _
    rw [here]; exact flightF.trans_flight flightG
  · have drainF : s.now + L ≤ (F s.here).drainAt := by
      simp only [F]; split
      · exact Nat.le_max_right _ _
      · rw [Bay.addPend_drain _ _ rfl]; exact Nat.le_max_right _ _
    have drainG : (F s.here).drainAt ≤ (G (F s.here)).drainAt := by
      simp only [G]; split
      · exact Nat.le_refl _
      · rw [Bay.addPend_drain _ _ rfl]; exact Nat.le_max_left _ _
    rw [here]; exact Nat.le_trans drainF drainG
  · intro e e'; subst e; subst e'; rw [here]; rfl
  · intro N
    simp only [here]
    have bankH : s.here.handler = s.here.bank d.toNat ∨ ¬ 24 ≤ d.toNat := by
      unfold Bay.bank; by_cases x : 24 ≤ d.toNat
      · exact .inl (by simp [x])
      · exact .inr x
    have hF : Bay.Apart s.here.handler d.toNat (s.here.land N) ((F s.here).land N) ∧
        (d ≠ 0 → s.now + L ≤ N → ((F s.here).land N).scalar s.here.handler d.toNat = v) := by
      simp only [F]
      split
      · rename_i e; exact ⟨Bay.land_outlast _ _ _ _ _, fun x => absurd (h0.mpr e) x⟩
      · rename_i e
        have := Bay.land_scalar s.here d.toNat (s.here.bank d.toNat) s.now (s.now + L) v s.here.handler bankH e N
        exact ⟨this.1, fun _ => this.2⟩
    have hh : (F s.here).handler = s.here.handler := by simp only [F]; split <;> rfl
    have hG : Bay.sameScalars ((F s.here).land N) ((G (F s.here)).land N) s.here.handler d.toNat ∧
        (∀ r, ((G (F s.here)).land N).scalar s.here.handler r = ((F s.here).land N).scalar s.here.handler r) ∧
        (∀ n, ((G (F s.here)).land N).row n = ((F s.here).land N).row n) ∧
        Bay.sameSpecial ((F s.here).land N) ((G (F s.here)).land N) ∧
        Bay.gainsFlags ((F s.here).land N) ((G (F s.here)).land N) s.here.handler (if s.now + L ≤ N then f else 0) := by
      simp only [G]
      split
      · rename_i e
        subst e
        refine ⟨fun _ _ _ => rfl, fun _ => rfl, fun _ => rfl, by unfold Bay.sameSpecial; simp, ?_⟩
        unfold Bay.gainsFlags; simp
      · rw [hh]; exact Bay.land_flags _ _ _ _ _ _ _ _
    obtain ⟨g1, g2, g3, g4, g5⟩ := hG
    refine ⟨?_, ?_, ?_, ?_, ?_, ?_⟩
    · intro h' r hr; rw [g1 h' r hr]; exact hF.1.scalars h' r hr
    · intro n; rw [g3, hF.1.rows]
    · obtain ⟨s1, s2, s3, s4, s5, s6, s7, s8, s9, s10⟩ := g4
      obtain ⟨q1, q2, q3, q4, q5, q6, q7, q8, q9, q10⟩ := hF.1.special
      exact ⟨s1.trans q1, s2.trans q2, s3.trans q3, s4.trans q4, s5.trans q5, s6.trans q6, s7.trans q7, s8.trans q8,
        s9.trans q9, s10.trans q10⟩
    · unfold Bay.gainsFlags at g5 ⊢; rw [hF.1.stat, hF.1.hstat] at g5; exact g5
    · intro x y; rw [g2]; exact hF.2 x y
    · intro x y z
      have x' : ¬ d.toNat = 0 := fun e => x (h0.mpr e)
      have mem : (⟨.scalar d.toNat (s.here.bank d.toNat), s.now, s.now + L, v.toNat, 2 ^ 64 - 1, false, 0⟩ : Pend) ∈
          (G (F s.here)).pends := by
        simp only [F, G, x', if_false]
        split
        · rw [Bay.addPend_scalar]; simp
        · unfold Bay.addPend; simp
      unfold Bay.inWindow
      rw [Bay.land_pends, List.any_eq_true]
      refine ⟨_, List.mem_filter.mpr ⟨mem, by simpa using z⟩, by simpa using y⟩

/-- A scalar result without flags. -/
theorem State.givesScalar_plain (s : State) (d : Reg) (L : Nat) (v : Word) : s.givesScalar (.next (s.writeS d L v)) d L v 0 :=
  State.givesScalar_writeS s d L v 0

end Sys2Proof.Machine
end

