-- ==== Sys2Proof/Laws/Word.lean ====
section
/-!
SUPPORT. Fields of words that are put together from fields: the lemmas by which a decoder reads what an encoder wrote.
-/

namespace Sys2Proof

/-- A field inside the low part of two words put together. -/
theorem ext_lo {n m : Nat} (x : BitVec n) (y : BitVec m) (s k : Nat) (h : s + k ≤ m) :
    (x ++ y).extractLsb' s k = y.extractLsb' s k := by
  apply BitVec.eq_of_getLsbD_eq; intro i hi
  simp only [BitVec.getLsbD_extractLsb', BitVec.getLsbD_append]
  simp [show s + i < m by omega]

/-- A field inside the high part. -/
theorem ext_hi {n m : Nat} (x : BitVec n) (y : BitVec m) (s k : Nat) (h : m ≤ s) :
    (x ++ y).extractLsb' s k = x.extractLsb' (s - m) k := by
  apply BitVec.eq_of_getLsbD_eq; intro i hi
  simp only [BitVec.getLsbD_extractLsb', BitVec.getLsbD_append]
  simp [show ¬ s + i < m by omega, show s + i - m = s - m + i by omega]

/-- The whole word as a field. -/
theorem ext_all {n : Nat} (x : BitVec n) : x.extractLsb' 0 n = x := by simp

/-- A bit of the low part. -/
theorem get_lo {n m : Nat} (x : BitVec n) (y : BitVec m) (i : Nat) (h : i < m) : (x ++ y).getLsbD i = y.getLsbD i := by
  simp [BitVec.getLsbD_append, h]

/-- A bit of the high part. -/
theorem get_hi {n m : Nat} (x : BitVec n) (y : BitVec m) (i : Nat) (h : m ≤ i) : (x ++ y).getLsbD i = x.getLsbD (i - m) := by
  simp [BitVec.getLsbD_append, show ¬ i < m by omega]

/-- A flag as a bit and back. -/
theorem b1_get (x : Bool) : (b1 x).getLsbD 0 = x := by cases x <;> rfl



theorem span_frame (x : BitVec 9) : (x ++ (0 : BitVec 5) ++ (0 : BitVec 5) ++ (0 : BitVec 5)).extractLsb' 0 15 = 0 := by
  apply BitVec.eq_of_getLsbD_eq; intro i hi
  simp only [BitVec.getLsbD_extractLsb', BitVec.getLsbD_append]
  interval_cases i <;> simp

theorem span_eword (x y z : BitVec 1) (d : BitVec 1) : (x ++ y ++ z ++ 0#5 ++ d).extractLsb' 1 5 = 0 := by
  apply BitVec.eq_of_getLsbD_eq; intro i hi
  simp only [BitVec.getLsbD_extractLsb', BitVec.getLsbD_append]
  interval_cases i <;> simp

theorem span_eword0 (x y z : BitVec 1) : (x ++ y ++ z ++ 0#5 ++ (0 : BitVec 1)).extractLsb' 0 6 = 0 := by
  apply BitVec.eq_of_getLsbD_eq; intro i hi
  simp only [BitVec.getLsbD_extractLsb', BitVec.getLsbD_append]
  interval_cases i <;> simp

theorem span_xpush (ch : BitVec 3) : (0#3 ++ ch ++ 0#3 ++ (0 : BitVec 5)).extractLsb' 0 8 = 0 := by
  apply BitVec.eq_of_getLsbD_eq; intro i hi
  simp only [BitVec.getLsbD_extractLsb', BitVec.getLsbD_append]
  interval_cases i <;> simp

theorem join_count (n : BitVec 8) : n.extractLsb' 5 3 ++ n.extractLsb' 0 5 = n := by
  apply BitVec.eq_of_getLsbD_eq; intro i hi
  simp only [BitVec.getLsbD_extractLsb', BitVec.getLsbD_append]
  have hi' : i < 8 := hi
  interval_cases i <;> simp

theorem Bad.rsv_of_first {x : Bad} (h : x.first = none) : x.rsv = false := by
  unfold Bad.first at h
  by_contra hr
  cases hf : x.form <;> cases hu : x.func <;> cases ht : x.tile <;> simp_all

theorem EOp.a_zero {o : EOp} (h : o.badTriple.first = none) : o.a = 0 := by
  have := Bad.rsv_of_first h
  simpa [EOp.badTriple] using this

end Sys2Proof
end

