-- ==== Sys2Proof/Laws/PerInstr.lean ====
section
/-!
SUPPORT. The family RoundTrip: for each instruction, the opcode map of its slot reads the word that the encoder wrote back
as that instruction, with no fault of the raw bits, when its operands are those the encoding admits.
-/

set_option linter.unusedSimpArgs false
set_option linter.unusedTactic false
set_option linter.unreachableTactic false

namespace Sys2Proof

/-- The map of the instruction's slot reads its encoding back. -/
def Laws.RoundTrip.Statement (i : Instr) : Prop :=
  ∀ sl w q, encode i = some (sl, w, q) → i.bad.first = none → pick sl w q i.pfx = some (i, {})

theorem Laws.RoundTrip.bundleIssue (bay : Nat) : Laws.RoundTrip.Statement (.bundleIssue bay) := by
  intro _ _ _ h; cases h

theorem Laws.RoundTrip.shortOpLand (bay : Nat) : Laws.RoundTrip.Statement (.shortOpLand bay) := by
  intro _ _ _ h; cases h

theorem Laws.RoundTrip.scratchWriteApply (bay : Nat) : Laws.RoundTrip.Statement (.scratchWriteApply bay) := by
  intro _ _ _ h; cases h

theorem Laws.RoundTrip.scratchLoadSample (bay : Nat) : Laws.RoundTrip.Statement (.scratchLoadSample bay) := by
  intro _ _ _ h; cases h

theorem Laws.RoundTrip.streamDeliver (bay : Nat) (q : Nat) : Laws.RoundTrip.Statement (.streamDeliver bay q) := by
  intro _ _ _ h; cases h

theorem Laws.RoundTrip.fenceMarkerLeave (bay : Nat) : Laws.RoundTrip.Statement (.fenceMarkerLeave bay) := by
  intro _ _ _ h; cases h

theorem Laws.RoundTrip.hostAck (line : Nat) : Laws.RoundTrip.Statement (.hostAck line) := by
  intro _ _ _ h; cases h

theorem Laws.RoundTrip.beatQueueArrival (bay : Nat) (id : Nat) : Laws.RoundTrip.Statement (.beatQueueArrival bay id) := by
  intro _ _ _ h; cases h

theorem Laws.RoundTrip.beatLoadServe (bay : Nat) (id : Nat) : Laws.RoundTrip.Statement (.beatLoadServe bay id) := by
  intro _ _ _ h; cases h

theorem Laws.RoundTrip.remoteLoadLand (bay : Nat) (id : Nat) : Laws.RoundTrip.Statement (.remoteLoadLand bay id) := by
  intro _ _ _ h; cases h

theorem Laws.RoundTrip.beatClose (part : Nat) : Laws.RoundTrip.Statement (.beatClose part) := by
  intro _ _ _ h; cases h

theorem Laws.RoundTrip.beatOverrun (bay : Nat) : Laws.RoundTrip.Statement (.beatOverrun bay) := by
  intro _ _ _ h; cases h

theorem Laws.RoundTrip.refreshDue (die : Nat) : Laws.RoundTrip.Statement (.refreshDue die) := by
  intro _ _ _ h; cases h

theorem Laws.RoundTrip.refreshWindowEnd (die : Nat) : Laws.RoundTrip.Statement (.refreshWindowEnd die) := by
  intro _ _ _ h; cases h

theorem Laws.RoundTrip.arrayOpStart (bay : Nat) : Laws.RoundTrip.Statement (.arrayOpStart bay) := by
  intro _ _ _ h; cases h

theorem Laws.RoundTrip.arrayCommitPoint (bay : Nat) : Laws.RoundTrip.Statement (.arrayCommitPoint bay) := by
  intro _ _ _ h; cases h

theorem Laws.RoundTrip.arrayOpComplete (bay : Nat) : Laws.RoundTrip.Statement (.arrayOpComplete bay) := by
  intro _ _ _ h; cases h

theorem Laws.RoundTrip.awritePieceSample (bay : Nat) : Laws.RoundTrip.Statement (.awritePieceSample bay) := by
  intro _ _ _ h; cases h

theorem Laws.RoundTrip.tmmaComplete (bay : Nat) : Laws.RoundTrip.Statement (.tmmaComplete bay) := by
  intro _ _ _ h; cases h

theorem Laws.RoundTrip.bplanTableSample (bay : Nat) : Laws.RoundTrip.Statement (.bplanTableSample bay) := by
  intro _ _ _ h; cases h

theorem Laws.RoundTrip.engineCmdStart (eng : Engine) : Laws.RoundTrip.Statement (.engineCmdStart eng) := by
  intro _ _ _ h; cases h

theorem Laws.RoundTrip.engineAccessPerform (eng : Engine) : Laws.RoundTrip.Statement (.engineAccessPerform eng) := by
  intro _ _ _ h; cases h

theorem Laws.RoundTrip.engineCmdFinish (eng : Engine) : Laws.RoundTrip.Statement (.engineCmdFinish eng) := by
  intro _ _ _ h; cases h

theorem Laws.RoundTrip.indexPopTimeout (bay : Nat) (ch : Nat) : Laws.RoundTrip.Statement (.indexPopTimeout bay ch) := by
  intro _ _ _ h; cases h

theorem Laws.RoundTrip.attnEntrySample (eng : Engine) : Laws.RoundTrip.Statement (.attnEntrySample eng) := by
  intro _ _ _ h; cases h

theorem Laws.RoundTrip.attnTripleArrive (eng : Engine) (slice : Nat) : Laws.RoundTrip.Statement (.attnTripleArrive eng slice) := by
  intro _ _ _ h; cases h

theorem Laws.RoundTrip.leaseGrant (die : Nat) : Laws.RoundTrip.Statement (.leaseGrant die) := by
  intro _ _ _ h; cases h

theorem Laws.RoundTrip.leaseWakeComplete (die : Nat) (lease : Nat) : Laws.RoundTrip.Statement (.leaseWakeComplete die lease) := by
  intro _ _ _ h; cases h

theorem Laws.RoundTrip.leaseDeadlinePass (die : Nat) (lease : Nat) : Laws.RoundTrip.Statement (.leaseDeadlinePass die lease) := by
  intro _ _ _ h; cases h

theorem Laws.RoundTrip.evictionGraceEnd (die : Nat) (lease : Nat) : Laws.RoundTrip.Statement (.evictionGraceEnd die lease) := by
  intro _ _ _ h; cases h

theorem Laws.RoundTrip.drowsyHoldExpire (die : Nat) (unit : Nat) : Laws.RoundTrip.Statement (.drowsyHoldExpire die unit) := by
  intro _ _ _ h; cases h

theorem Laws.RoundTrip.taskEnd (bay : Nat) : Laws.RoundTrip.Statement (.taskEnd bay) := by
  intro _ _ _ h; cases h

theorem Laws.RoundTrip.trapTake (bay : Nat) : Laws.RoundTrip.Statement (.trapTake bay) := by
  intro _ _ _ h; cases h

theorem Laws.RoundTrip.reportArrive (bay : Nat) (rep : Report) : Laws.RoundTrip.Statement (.reportArrive bay rep) := by
  intro _ _ _ h; cases h

theorem Laws.RoundTrip.timePeriodBoundary (part : Nat) : Laws.RoundTrip.Statement (.timePeriodBoundary part) := by
  intro _ _ _ h; cases h

theorem Laws.RoundTrip.thermalT3Entry (die : Nat) : Laws.RoundTrip.Statement (.thermalT3Entry die) := by
  intro _ _ _ h; cases h

theorem Laws.RoundTrip.contextDrainExpire (bay : Nat) : Laws.RoundTrip.Statement (.contextDrainExpire bay) := by
  intro _ _ _ h; cases h

theorem Laws.RoundTrip.preemptSave (leaf : Nat) (gang : Nat) : Laws.RoundTrip.Statement (.preemptSave leaf gang) := by
  intro _ _ _ h; cases h

theorem Laws.RoundTrip.contextRestore (leaf : Nat) (gang : Nat) : Laws.RoundTrip.Statement (.contextRestore leaf gang) := by
  intro _ _ _ h; cases h

theorem Laws.RoundTrip.schedChildScan (node : Nat) : Laws.RoundTrip.Statement (.schedChildScan node) := by
  intro _ _ _ h; cases h

theorem Laws.RoundTrip.nodeDepReached (node : Nat) : Laws.RoundTrip.Statement (.nodeDepReached node) := by
  intro _ _ _ h; cases h

theorem Laws.RoundTrip.nodeComplete (node : Nat) : Laws.RoundTrip.Statement (.nodeComplete node) := by
  intro _ _ _ h; cases h

theorem Laws.RoundTrip.gangPlace (die : Nat) : Laws.RoundTrip.Statement (.gangPlace die) := by
  intro _ _ _ h; cases h

theorem Laws.RoundTrip.class0Preempt (die : Nat) : Laws.RoundTrip.Statement (.class0Preempt die) := by
  intro _ _ _ h; cases h

theorem Laws.RoundTrip.rgnkillWrite (part : Nat) (v : Word) : Laws.RoundTrip.Statement (.rgnkillWrite part v) := by
  intro _ _ _ h; cases h

theorem Laws.RoundTrip.preemptWrite (part : Nat) (v : Word) : Laws.RoundTrip.Statement (.preemptWrite part v) := by
  intro _ _ _ h; cases h

theorem Laws.RoundTrip.partcfgGo (v : Word) : Laws.RoundTrip.Statement (.partcfgGo v) := by
  intro _ _ _ h; cases h

theorem Laws.RoundTrip.keyctlGo (v : Word) : Laws.RoundTrip.Statement (.keyctlGo v) := by
  intro _ _ _ h; cases h

theorem Laws.RoundTrip.keyctlZap (v : Word) : Laws.RoundTrip.Statement (.keyctlZap v) := by
  intro _ _ _ h; cases h

theorem Laws.RoundTrip.fwctlGo (v : Word) : Laws.RoundTrip.Statement (.fwctlGo v) := by
  intro _ _ _ h; cases h

theorem Laws.RoundTrip.fwctlRecover (v : Word) : Laws.RoundTrip.Statement (.fwctlRecover v) := by
  intro _ _ _ h; cases h

theorem Laws.RoundTrip.fwWriteComplete : Laws.RoundTrip.Statement (.fwWriteComplete) := by
  intro _ _ _ h; cases h

theorem Laws.RoundTrip.bformWrite (bay : Nat) (v : Word) : Laws.RoundTrip.Statement (.bformWrite bay v) := by
  intro _ _ _ h; cases h

theorem Laws.RoundTrip.raserrRead (die : Nat) : Laws.RoundTrip.Statement (.raserrRead die) := by
  intro _ _ _ h; cases h

theorem Laws.RoundTrip.registerWrite (off : Nat) (v : Word) : Laws.RoundTrip.Statement (.registerWrite off v) := by
  intro _ _ _ h; cases h

theorem Laws.RoundTrip.pageRequestResponse (die : Nat) (asid : Nat) (page : Nat) (ok : Bool) : Laws.RoundTrip.Statement (.pageRequestResponse die asid page ok) := by
  intro _ _ _ h; cases h

theorem Laws.RoundTrip.hostRequestArrive (req : HostReq) : Laws.RoundTrip.Statement (.hostRequestArrive req) := by
  intro _ _ _ h; cases h

theorem Laws.RoundTrip.hostSnoop (line : Nat) : Laws.RoundTrip.Statement (.hostSnoop line) := by
  intro _ _ _ h; cases h

theorem Laws.RoundTrip.backInvalidateResponse (line : Nat) (data : Option (BitVec 512)) : Laws.RoundTrip.Statement (.backInvalidateResponse line data) := by
  intro _ _ _ h; cases h

theorem Laws.RoundTrip.upstreamPortDown (port : Nat) : Laws.RoundTrip.Statement (.upstreamPortDown port) := by
  intro _ _ _ h; cases h

theorem Laws.RoundTrip.hostPortUp (up : PortUp) : Laws.RoundTrip.Statement (.hostPortUp up) := by
  intro _ _ _ h; cases h

theorem Laws.RoundTrip.downstreamPortDown (port : Nat) : Laws.RoundTrip.Statement (.downstreamPortDown port) := by
  intro _ _ _ h; cases h

theorem Laws.RoundTrip.jexvikFlitReceive (link : Nat) (flit : Flit) : Laws.RoundTrip.Statement (.jexvikFlitReceive link flit) := by
  intro _ _ _ h; cases h

theorem Laws.RoundTrip.jexvikReplayTimeout (link : Nat) : Laws.RoundTrip.Statement (.jexvikReplayTimeout link) := by
  intro _ _ _ h; cases h

theorem Laws.RoundTrip.collContributionArrive (con : Contribution) : Laws.RoundTrip.Statement (.collContributionArrive con) := by
  intro _ _ _ h; cases h

theorem Laws.RoundTrip.collRoundTimeout (group : Nat) : Laws.RoundTrip.Statement (.collRoundTimeout group) := by
  intro _ _ _ h; cases h

theorem Laws.RoundTrip.getVersion (req : SpdmReq) : Laws.RoundTrip.Statement (.getVersion req) := by
  intro _ _ _ h; cases h

theorem Laws.RoundTrip.getCapabilities (req : SpdmReq) : Laws.RoundTrip.Statement (.getCapabilities req) := by
  intro _ _ _ h; cases h

theorem Laws.RoundTrip.negotiateAlgorithms (req : SpdmReq) : Laws.RoundTrip.Statement (.negotiateAlgorithms req) := by
  intro _ _ _ h; cases h

theorem Laws.RoundTrip.getDigests (req : SpdmReq) : Laws.RoundTrip.Statement (.getDigests req) := by
  intro _ _ _ h; cases h

theorem Laws.RoundTrip.getCertificate (req : SpdmReq) : Laws.RoundTrip.Statement (.getCertificate req) := by
  intro _ _ _ h; cases h

theorem Laws.RoundTrip.challenge (req : SpdmReq) : Laws.RoundTrip.Statement (.challenge req) := by
  intro _ _ _ h; cases h

theorem Laws.RoundTrip.getMeasurements (req : SpdmReq) : Laws.RoundTrip.Statement (.getMeasurements req) := by
  intro _ _ _ h; cases h

theorem Laws.RoundTrip.powerOnReset : Laws.RoundTrip.Statement (.powerOnReset) := by
  intro _ _ _ h; cases h

theorem Laws.RoundTrip.dieReady (die : Nat) : Laws.RoundTrip.Statement (.dieReady die) := by
  intro _ _ _ h; cases h

theorem Laws.RoundTrip.expandersReady (ports : Nat) : Laws.RoundTrip.Statement (.expandersReady ports) := by
  intro _ _ _ h; cases h

theorem Laws.RoundTrip.jexvikTrained : Laws.RoundTrip.Statement (.jexvikTrained) := by
  intro _ _ _ h; cases h

theorem Laws.RoundTrip.keysReady : Laws.RoundTrip.Statement (.keysReady) := by
  intro _ _ _ h; cases h

theorem Laws.RoundTrip.eccUncorrectable (err : EccError) : Laws.RoundTrip.Statement (.eccUncorrectable err) := by
  intro _ _ _ h; cases h

theorem Laws.RoundTrip.eccCorrected (err : EccError) : Laws.RoundTrip.Statement (.eccCorrected err) := by
  intro _ _ _ h; cases h

theorem Laws.RoundTrip.fwVerifyComplete : Laws.RoundTrip.Statement (.fwVerifyComplete) := by
  intro _ _ _ h; cases h

theorem Laws.RoundTrip.powerFail : Laws.RoundTrip.Statement (.powerFail) := by
  intro _ _ _ h; cases h

theorem Laws.RoundTrip.hostCxlCacheResponse (line : LineAnswer) :
    Laws.RoundTrip.Statement (.hostCxlCacheResponse line) := by
  intro _ _ _ h; cases h

theorem Laws.RoundTrip.reservedEngineDrowsy (die : Nat) (unit : Nat) : Laws.RoundTrip.Statement (.reservedEngineDrowsy die unit) := by
  intro _ _ _ h; cases h

theorem Laws.RoundTrip.add (d : Reg) (b : Reg) (c : Reg) : Laws.RoundTrip.Statement (.add d b c) := by
  intro sl w q h hw
  cases h
  unfold pick
  dsimp only
  unfold pickS
  have hop : (BitVec.extractLsb' 2 6 (word 0 c b d 0x01 false)).toNat = 1 := by
    simp (disch := omega) only [word, wordImm, word24, encA, encB, encC, encCorr, encAmac, encCchk, encAop, encAsum, encTmma, eword, btxWord, Stamp.word, VRow.word, ext_lo, ext_hi, Nat.reduceSub, ext_all]; rfl
  rw [hop]
  dsimp only
  simp (disch := omega) only [word, wordImm, word24, encA, encB, encC, encCorr, encAmac, encCchk, encAop, encAsum, encTmma, eword, btxWord, Stamp.word, VRow.word, memA, memB, memC, corrOp, hi16, ext_lo, ext_hi, Nat.reduceSub, ext_all, get_lo, get_hi, b1_get]
  first
    | rfl
    | (simp only [Nat.reduceAdd, Nat.reduceSub, ext_all]; rfl)
    | (simp only [span_frame, span_eword, span_eword0, span_xpush]; rfl)
    | (have ha := EOp.a_zero hw; rcases o with ⟨_, _, _, _, _, _, _⟩; cases ha; rfl)
    | (simp only [join_count]; have ha := EOp.a_zero hw; rcases o with ⟨_, _, _, _, _, _, _⟩; cases ha; rfl)

theorem Laws.RoundTrip.sub (d : Reg) (b : Reg) (c : Reg) : Laws.RoundTrip.Statement (.sub d b c) := by
  intro sl w q h hw
  cases h
  unfold pick
  dsimp only
  unfold pickS
  have hop : (BitVec.extractLsb' 2 6 (word 0 c b d 0x02 false)).toNat = 2 := by
    simp (disch := omega) only [word, wordImm, word24, encA, encB, encC, encCorr, encAmac, encCchk, encAop, encAsum, encTmma, eword, btxWord, Stamp.word, VRow.word, ext_lo, ext_hi, Nat.reduceSub, ext_all]; rfl
  rw [hop]
  dsimp only
  simp (disch := omega) only [word, wordImm, word24, encA, encB, encC, encCorr, encAmac, encCchk, encAop, encAsum, encTmma, eword, btxWord, Stamp.word, VRow.word, memA, memB, memC, corrOp, hi16, ext_lo, ext_hi, Nat.reduceSub, ext_all, get_lo, get_hi, b1_get]
  first
    | rfl
    | (simp only [Nat.reduceAdd, Nat.reduceSub, ext_all]; rfl)
    | (simp only [span_frame, span_eword, span_eword0, span_xpush]; rfl)
    | (have ha := EOp.a_zero hw; rcases o with ⟨_, _, _, _, _, _, _⟩; cases ha; rfl)
    | (simp only [join_count]; have ha := EOp.a_zero hw; rcases o with ⟨_, _, _, _, _, _, _⟩; cases ha; rfl)

theorem Laws.RoundTrip.addi (d : Reg) (b : Reg) (i : BitVec 14) : Laws.RoundTrip.Statement (.addi d b i) := by
  intro sl w q h hw
  cases h
  unfold pick
  dsimp only
  unfold pickS
  have hop : (BitVec.extractLsb' 2 6 (wordImm i b d 0x03 false)).toNat = 3 := by
    simp (disch := omega) only [word, wordImm, word24, encA, encB, encC, encCorr, encAmac, encCchk, encAop, encAsum, encTmma, eword, btxWord, Stamp.word, VRow.word, ext_lo, ext_hi, Nat.reduceSub, ext_all]; rfl
  rw [hop]
  dsimp only
  simp (disch := omega) only [word, wordImm, word24, encA, encB, encC, encCorr, encAmac, encCchk, encAop, encAsum, encTmma, eword, btxWord, Stamp.word, VRow.word, memA, memB, memC, corrOp, hi16, ext_lo, ext_hi, Nat.reduceSub, ext_all, get_lo, get_hi, b1_get]
  first
    | rfl
    | (simp only [Nat.reduceAdd, Nat.reduceSub, ext_all]; rfl)
    | (simp only [span_frame, span_eword, span_eword0, span_xpush]; rfl)
    | (have ha := EOp.a_zero hw; rcases o with ⟨_, _, _, _, _, _, _⟩; cases ha; rfl)
    | (simp only [join_count]; have ha := EOp.a_zero hw; rcases o with ⟨_, _, _, _, _, _, _⟩; cases ha; rfl)

theorem Laws.RoundTrip.addi64 (d : Reg) (b : Reg) (q : BitVec 32) : Laws.RoundTrip.Statement (.addi64 d b q) := by
  intro sl w q h hw
  cases h
  unfold pick
  dsimp only
  unfold pickS
  have hop : (BitVec.extractLsb' 2 6 (word 0 0 b d 0x03 true)).toNat = 3 := by
    simp (disch := omega) only [word, wordImm, word24, encA, encB, encC, encCorr, encAmac, encCchk, encAop, encAsum, encTmma, eword, btxWord, Stamp.word, VRow.word, ext_lo, ext_hi, Nat.reduceSub, ext_all]; rfl
  rw [hop]
  dsimp only
  simp (disch := omega) only [word, wordImm, word24, encA, encB, encC, encCorr, encAmac, encCchk, encAop, encAsum, encTmma, eword, btxWord, Stamp.word, VRow.word, memA, memB, memC, corrOp, hi16, ext_lo, ext_hi, Nat.reduceSub, ext_all, get_lo, get_hi, b1_get]
  first
    | rfl
    | (simp only [Nat.reduceAdd, Nat.reduceSub, ext_all]; rfl)
    | (simp only [span_frame, span_eword, span_eword0, span_xpush]; rfl)
    | (have ha := EOp.a_zero hw; rcases o with ⟨_, _, _, _, _, _, _⟩; cases ha; rfl)
    | (simp only [join_count]; have ha := EOp.a_zero hw; rcases o with ⟨_, _, _, _, _, _, _⟩; cases ha; rfl)

theorem Laws.RoundTrip.addsh (d : Reg) (b : Reg) (c : Reg) (k : BitVec 3) : Laws.RoundTrip.Statement (.addsh d b c k) := by
  intro sl w q h hw
  cases h
  unfold pick
  dsimp only
  unfold pickS
  have hop : (BitVec.extractLsb' 2 6 (word (0#6 ++ k) c b d 0x04 false)).toNat = 4 := by
    simp (disch := omega) only [word, wordImm, word24, encA, encB, encC, encCorr, encAmac, encCchk, encAop, encAsum, encTmma, eword, btxWord, Stamp.word, VRow.word, ext_lo, ext_hi, Nat.reduceSub, ext_all]; rfl
  rw [hop]
  dsimp only
  simp (disch := omega) only [word, wordImm, word24, encA, encB, encC, encCorr, encAmac, encCchk, encAop, encAsum, encTmma, eword, btxWord, Stamp.word, VRow.word, memA, memB, memC, corrOp, hi16, ext_lo, ext_hi, Nat.reduceSub, ext_all, get_lo, get_hi, b1_get]
  first
    | rfl
    | (simp only [Nat.reduceAdd, Nat.reduceSub, ext_all]; rfl)
    | (simp only [span_frame, span_eword, span_eword0, span_xpush]; rfl)
    | (have ha := EOp.a_zero hw; rcases o with ⟨_, _, _, _, _, _, _⟩; cases ha; rfl)
    | (simp only [join_count]; have ha := EOp.a_zero hw; rcases o with ⟨_, _, _, _, _, _, _⟩; cases ha; rfl)

theorem Laws.RoundTrip.mul (d : Reg) (b : Reg) (c : Reg) : Laws.RoundTrip.Statement (.mul d b c) := by
  intro sl w q h hw
  cases h
  unfold pick
  dsimp only
  unfold pickS
  have hop : (BitVec.extractLsb' 2 6 (word 0 c b d 0x05 false)).toNat = 5 := by
    simp (disch := omega) only [word, wordImm, word24, encA, encB, encC, encCorr, encAmac, encCchk, encAop, encAsum, encTmma, eword, btxWord, Stamp.word, VRow.word, ext_lo, ext_hi, Nat.reduceSub, ext_all]; rfl
  rw [hop]
  dsimp only
  simp (disch := omega) only [word, wordImm, word24, encA, encB, encC, encCorr, encAmac, encCchk, encAop, encAsum, encTmma, eword, btxWord, Stamp.word, VRow.word, memA, memB, memC, corrOp, hi16, ext_lo, ext_hi, Nat.reduceSub, ext_all, get_lo, get_hi, b1_get]
  first
    | rfl
    | (simp only [Nat.reduceAdd, Nat.reduceSub, ext_all]; rfl)
    | (simp only [span_frame, span_eword, span_eword0, span_xpush]; rfl)
    | (have ha := EOp.a_zero hw; rcases o with ⟨_, _, _, _, _, _, _⟩; cases ha; rfl)
    | (simp only [join_count]; have ha := EOp.a_zero hw; rcases o with ⟨_, _, _, _, _, _, _⟩; cases ha; rfl)

theorem Laws.RoundTrip.mulh (d : Reg) (b : Reg) (c : Reg) : Laws.RoundTrip.Statement (.mulh d b c) := by
  intro sl w q h hw
  cases h
  unfold pick
  dsimp only
  unfold pickS
  have hop : (BitVec.extractLsb' 2 6 (word 0 c b d 0x06 false)).toNat = 6 := by
    simp (disch := omega) only [word, wordImm, word24, encA, encB, encC, encCorr, encAmac, encCchk, encAop, encAsum, encTmma, eword, btxWord, Stamp.word, VRow.word, ext_lo, ext_hi, Nat.reduceSub, ext_all]; rfl
  rw [hop]
  dsimp only
  simp (disch := omega) only [word, wordImm, word24, encA, encB, encC, encCorr, encAmac, encCchk, encAop, encAsum, encTmma, eword, btxWord, Stamp.word, VRow.word, memA, memB, memC, corrOp, hi16, ext_lo, ext_hi, Nat.reduceSub, ext_all, get_lo, get_hi, b1_get]
  first
    | rfl
    | (simp only [Nat.reduceAdd, Nat.reduceSub, ext_all]; rfl)
    | (simp only [span_frame, span_eword, span_eword0, span_xpush]; rfl)
    | (have ha := EOp.a_zero hw; rcases o with ⟨_, _, _, _, _, _, _⟩; cases ha; rfl)
    | (simp only [join_count]; have ha := EOp.a_zero hw; rcases o with ⟨_, _, _, _, _, _, _⟩; cases ha; rfl)

theorem Laws.RoundTrip.mulhn (d : Reg) (b : Reg) (c : Reg) : Laws.RoundTrip.Statement (.mulhn d b c) := by
  intro sl w q h hw
  cases h
  unfold pick
  dsimp only
  unfold pickS
  have hop : (BitVec.extractLsb' 2 6 (word 0 c b d 0x07 false)).toNat = 7 := by
    simp (disch := omega) only [word, wordImm, word24, encA, encB, encC, encCorr, encAmac, encCchk, encAop, encAsum, encTmma, eword, btxWord, Stamp.word, VRow.word, ext_lo, ext_hi, Nat.reduceSub, ext_all]; rfl
  rw [hop]
  dsimp only
  simp (disch := omega) only [word, wordImm, word24, encA, encB, encC, encCorr, encAmac, encCchk, encAop, encAsum, encTmma, eword, btxWord, Stamp.word, VRow.word, memA, memB, memC, corrOp, hi16, ext_lo, ext_hi, Nat.reduceSub, ext_all, get_lo, get_hi, b1_get]
  first
    | rfl
    | (simp only [Nat.reduceAdd, Nat.reduceSub, ext_all]; rfl)
    | (simp only [span_frame, span_eword, span_eword0, span_xpush]; rfl)
    | (have ha := EOp.a_zero hw; rcases o with ⟨_, _, _, _, _, _, _⟩; cases ha; rfl)
    | (simp only [join_count]; have ha := EOp.a_zero hw; rcases o with ⟨_, _, _, _, _, _, _⟩; cases ha; rfl)

theorem Laws.RoundTrip.div (d : Reg) (b : Reg) (c : Reg) : Laws.RoundTrip.Statement (.div d b c) := by
  intro sl w q h hw
  cases h
  unfold pick
  dsimp only
  unfold pickS
  have hop : (BitVec.extractLsb' 2 6 (word 0 c b d 0x08 false)).toNat = 8 := by
    simp (disch := omega) only [word, wordImm, word24, encA, encB, encC, encCorr, encAmac, encCchk, encAop, encAsum, encTmma, eword, btxWord, Stamp.word, VRow.word, ext_lo, ext_hi, Nat.reduceSub, ext_all]; rfl
  rw [hop]
  dsimp only
  simp (disch := omega) only [word, wordImm, word24, encA, encB, encC, encCorr, encAmac, encCchk, encAop, encAsum, encTmma, eword, btxWord, Stamp.word, VRow.word, memA, memB, memC, corrOp, hi16, ext_lo, ext_hi, Nat.reduceSub, ext_all, get_lo, get_hi, b1_get]
  first
    | rfl
    | (simp only [Nat.reduceAdd, Nat.reduceSub, ext_all]; rfl)
    | (simp only [span_frame, span_eword, span_eword0, span_xpush]; rfl)
    | (have ha := EOp.a_zero hw; rcases o with ⟨_, _, _, _, _, _, _⟩; cases ha; rfl)
    | (simp only [join_count]; have ha := EOp.a_zero hw; rcases o with ⟨_, _, _, _, _, _, _⟩; cases ha; rfl)

theorem Laws.RoundTrip.divn (d : Reg) (b : Reg) (c : Reg) : Laws.RoundTrip.Statement (.divn d b c) := by
  intro sl w q h hw
  cases h
  unfold pick
  dsimp only
  unfold pickS
  have hop : (BitVec.extractLsb' 2 6 (word 0 c b d 0x09 false)).toNat = 9 := by
    simp (disch := omega) only [word, wordImm, word24, encA, encB, encC, encCorr, encAmac, encCchk, encAop, encAsum, encTmma, eword, btxWord, Stamp.word, VRow.word, ext_lo, ext_hi, Nat.reduceSub, ext_all]; rfl
  rw [hop]
  dsimp only
  simp (disch := omega) only [word, wordImm, word24, encA, encB, encC, encCorr, encAmac, encCchk, encAop, encAsum, encTmma, eword, btxWord, Stamp.word, VRow.word, memA, memB, memC, corrOp, hi16, ext_lo, ext_hi, Nat.reduceSub, ext_all, get_lo, get_hi, b1_get]
  first
    | rfl
    | (simp only [Nat.reduceAdd, Nat.reduceSub, ext_all]; rfl)
    | (simp only [span_frame, span_eword, span_eword0, span_xpush]; rfl)
    | (have ha := EOp.a_zero hw; rcases o with ⟨_, _, _, _, _, _, _⟩; cases ha; rfl)
    | (simp only [join_count]; have ha := EOp.a_zero hw; rcases o with ⟨_, _, _, _, _, _, _⟩; cases ha; rfl)

theorem Laws.RoundTrip.rem (d : Reg) (b : Reg) (c : Reg) : Laws.RoundTrip.Statement (.rem d b c) := by
  intro sl w q h hw
  cases h
  unfold pick
  dsimp only
  unfold pickS
  have hop : (BitVec.extractLsb' 2 6 (word 0 c b d 0x0A false)).toNat = 10 := by
    simp (disch := omega) only [word, wordImm, word24, encA, encB, encC, encCorr, encAmac, encCchk, encAop, encAsum, encTmma, eword, btxWord, Stamp.word, VRow.word, ext_lo, ext_hi, Nat.reduceSub, ext_all]; rfl
  rw [hop]
  dsimp only
  simp (disch := omega) only [word, wordImm, word24, encA, encB, encC, encCorr, encAmac, encCchk, encAop, encAsum, encTmma, eword, btxWord, Stamp.word, VRow.word, memA, memB, memC, corrOp, hi16, ext_lo, ext_hi, Nat.reduceSub, ext_all, get_lo, get_hi, b1_get]
  first
    | rfl
    | (simp only [Nat.reduceAdd, Nat.reduceSub, ext_all]; rfl)
    | (simp only [span_frame, span_eword, span_eword0, span_xpush]; rfl)
    | (have ha := EOp.a_zero hw; rcases o with ⟨_, _, _, _, _, _, _⟩; cases ha; rfl)
    | (simp only [join_count]; have ha := EOp.a_zero hw; rcases o with ⟨_, _, _, _, _, _, _⟩; cases ha; rfl)

theorem Laws.RoundTrip.remn (d : Reg) (b : Reg) (c : Reg) : Laws.RoundTrip.Statement (.remn d b c) := by
  intro sl w q h hw
  cases h
  unfold pick
  dsimp only
  unfold pickS
  have hop : (BitVec.extractLsb' 2 6 (word 0 c b d 0x0B false)).toNat = 11 := by
    simp (disch := omega) only [word, wordImm, word24, encA, encB, encC, encCorr, encAmac, encCchk, encAop, encAsum, encTmma, eword, btxWord, Stamp.word, VRow.word, ext_lo, ext_hi, Nat.reduceSub, ext_all]; rfl
  rw [hop]
  dsimp only
  simp (disch := omega) only [word, wordImm, word24, encA, encB, encC, encCorr, encAmac, encCchk, encAop, encAsum, encTmma, eword, btxWord, Stamp.word, VRow.word, memA, memB, memC, corrOp, hi16, ext_lo, ext_hi, Nat.reduceSub, ext_all, get_lo, get_hi, b1_get]
  first
    | rfl
    | (simp only [Nat.reduceAdd, Nat.reduceSub, ext_all]; rfl)
    | (simp only [span_frame, span_eword, span_eword0, span_xpush]; rfl)
    | (have ha := EOp.a_zero hw; rcases o with ⟨_, _, _, _, _, _, _⟩; cases ha; rfl)
    | (simp only [join_count]; have ha := EOp.a_zero hw; rcases o with ⟨_, _, _, _, _, _, _⟩; cases ha; rfl)

theorem Laws.RoundTrip.min (d : Reg) (b : Reg) (c : Reg) : Laws.RoundTrip.Statement (.min d b c) := by
  intro sl w q h hw
  cases h
  unfold pick
  dsimp only
  unfold pickS
  have hop : (BitVec.extractLsb' 2 6 (word 0 c b d 0x0C false)).toNat = 12 := by
    simp (disch := omega) only [word, wordImm, word24, encA, encB, encC, encCorr, encAmac, encCchk, encAop, encAsum, encTmma, eword, btxWord, Stamp.word, VRow.word, ext_lo, ext_hi, Nat.reduceSub, ext_all]; rfl
  rw [hop]
  dsimp only
  simp (disch := omega) only [word, wordImm, word24, encA, encB, encC, encCorr, encAmac, encCchk, encAop, encAsum, encTmma, eword, btxWord, Stamp.word, VRow.word, memA, memB, memC, corrOp, hi16, ext_lo, ext_hi, Nat.reduceSub, ext_all, get_lo, get_hi, b1_get]
  first
    | rfl
    | (simp only [Nat.reduceAdd, Nat.reduceSub, ext_all]; rfl)
    | (simp only [span_frame, span_eword, span_eword0, span_xpush]; rfl)
    | (have ha := EOp.a_zero hw; rcases o with ⟨_, _, _, _, _, _, _⟩; cases ha; rfl)
    | (simp only [join_count]; have ha := EOp.a_zero hw; rcases o with ⟨_, _, _, _, _, _, _⟩; cases ha; rfl)

theorem Laws.RoundTrip.max (d : Reg) (b : Reg) (c : Reg) : Laws.RoundTrip.Statement (.max d b c) := by
  intro sl w q h hw
  cases h
  unfold pick
  dsimp only
  unfold pickS
  have hop : (BitVec.extractLsb' 2 6 (word 0 c b d 0x0D false)).toNat = 13 := by
    simp (disch := omega) only [word, wordImm, word24, encA, encB, encC, encCorr, encAmac, encCchk, encAop, encAsum, encTmma, eword, btxWord, Stamp.word, VRow.word, ext_lo, ext_hi, Nat.reduceSub, ext_all]; rfl
  rw [hop]
  dsimp only
  simp (disch := omega) only [word, wordImm, word24, encA, encB, encC, encCorr, encAmac, encCchk, encAop, encAsum, encTmma, eword, btxWord, Stamp.word, VRow.word, memA, memB, memC, corrOp, hi16, ext_lo, ext_hi, Nat.reduceSub, ext_all, get_lo, get_hi, b1_get]
  first
    | rfl
    | (simp only [Nat.reduceAdd, Nat.reduceSub, ext_all]; rfl)
    | (simp only [span_frame, span_eword, span_eword0, span_xpush]; rfl)
    | (have ha := EOp.a_zero hw; rcases o with ⟨_, _, _, _, _, _, _⟩; cases ha; rfl)
    | (simp only [join_count]; have ha := EOp.a_zero hw; rcases o with ⟨_, _, _, _, _, _, _⟩; cases ha; rfl)

theorem Laws.RoundTrip.minn (d : Reg) (b : Reg) (c : Reg) : Laws.RoundTrip.Statement (.minn d b c) := by
  intro sl w q h hw
  cases h
  unfold pick
  dsimp only
  unfold pickS
  have hop : (BitVec.extractLsb' 2 6 (word 0 c b d 0x0E false)).toNat = 14 := by
    simp (disch := omega) only [word, wordImm, word24, encA, encB, encC, encCorr, encAmac, encCchk, encAop, encAsum, encTmma, eword, btxWord, Stamp.word, VRow.word, ext_lo, ext_hi, Nat.reduceSub, ext_all]; rfl
  rw [hop]
  dsimp only
  simp (disch := omega) only [word, wordImm, word24, encA, encB, encC, encCorr, encAmac, encCchk, encAop, encAsum, encTmma, eword, btxWord, Stamp.word, VRow.word, memA, memB, memC, corrOp, hi16, ext_lo, ext_hi, Nat.reduceSub, ext_all, get_lo, get_hi, b1_get]
  first
    | rfl
    | (simp only [Nat.reduceAdd, Nat.reduceSub, ext_all]; rfl)
    | (simp only [span_frame, span_eword, span_eword0, span_xpush]; rfl)
    | (have ha := EOp.a_zero hw; rcases o with ⟨_, _, _, _, _, _, _⟩; cases ha; rfl)
    | (simp only [join_count]; have ha := EOp.a_zero hw; rcases o with ⟨_, _, _, _, _, _, _⟩; cases ha; rfl)

theorem Laws.RoundTrip.maxn (d : Reg) (b : Reg) (c : Reg) : Laws.RoundTrip.Statement (.maxn d b c) := by
  intro sl w q h hw
  cases h
  unfold pick
  dsimp only
  unfold pickS
  have hop : (BitVec.extractLsb' 2 6 (word 0 c b d 0x0F false)).toNat = 15 := by
    simp (disch := omega) only [word, wordImm, word24, encA, encB, encC, encCorr, encAmac, encCchk, encAop, encAsum, encTmma, eword, btxWord, Stamp.word, VRow.word, ext_lo, ext_hi, Nat.reduceSub, ext_all]; rfl
  rw [hop]
  dsimp only
  simp (disch := omega) only [word, wordImm, word24, encA, encB, encC, encCorr, encAmac, encCchk, encAop, encAsum, encTmma, eword, btxWord, Stamp.word, VRow.word, memA, memB, memC, corrOp, hi16, ext_lo, ext_hi, Nat.reduceSub, ext_all, get_lo, get_hi, b1_get]
  first
    | rfl
    | (simp only [Nat.reduceAdd, Nat.reduceSub, ext_all]; rfl)
    | (simp only [span_frame, span_eword, span_eword0, span_xpush]; rfl)
    | (have ha := EOp.a_zero hw; rcases o with ⟨_, _, _, _, _, _, _⟩; cases ha; rfl)
    | (simp only [join_count]; have ha := EOp.a_zero hw; rcases o with ⟨_, _, _, _, _, _, _⟩; cases ha; rfl)

theorem Laws.RoundTrip.and (d : Reg) (b : Reg) (c : Reg) : Laws.RoundTrip.Statement (.and d b c) := by
  intro sl w q h hw
  cases h
  unfold pick
  dsimp only
  unfold pickS
  have hop : (BitVec.extractLsb' 2 6 (word 0 c b d 0x10 false)).toNat = 16 := by
    simp (disch := omega) only [word, wordImm, word24, encA, encB, encC, encCorr, encAmac, encCchk, encAop, encAsum, encTmma, eword, btxWord, Stamp.word, VRow.word, ext_lo, ext_hi, Nat.reduceSub, ext_all]; rfl
  rw [hop]
  dsimp only
  simp (disch := omega) only [word, wordImm, word24, encA, encB, encC, encCorr, encAmac, encCchk, encAop, encAsum, encTmma, eword, btxWord, Stamp.word, VRow.word, memA, memB, memC, corrOp, hi16, ext_lo, ext_hi, Nat.reduceSub, ext_all, get_lo, get_hi, b1_get]
  first
    | rfl
    | (simp only [Nat.reduceAdd, Nat.reduceSub, ext_all]; rfl)
    | (simp only [span_frame, span_eword, span_eword0, span_xpush]; rfl)
    | (have ha := EOp.a_zero hw; rcases o with ⟨_, _, _, _, _, _, _⟩; cases ha; rfl)
    | (simp only [join_count]; have ha := EOp.a_zero hw; rcases o with ⟨_, _, _, _, _, _, _⟩; cases ha; rfl)

theorem Laws.RoundTrip.andi (d : Reg) (b : Reg) (i : BitVec 14) : Laws.RoundTrip.Statement (.andi d b i) := by
  intro sl w q h hw
  cases h
  unfold pick
  dsimp only
  unfold pickS
  have hop : (BitVec.extractLsb' 2 6 (wordImm i b d 0x11 false)).toNat = 17 := by
    simp (disch := omega) only [word, wordImm, word24, encA, encB, encC, encCorr, encAmac, encCchk, encAop, encAsum, encTmma, eword, btxWord, Stamp.word, VRow.word, ext_lo, ext_hi, Nat.reduceSub, ext_all]; rfl
  rw [hop]
  dsimp only
  simp (disch := omega) only [word, wordImm, word24, encA, encB, encC, encCorr, encAmac, encCchk, encAop, encAsum, encTmma, eword, btxWord, Stamp.word, VRow.word, memA, memB, memC, corrOp, hi16, ext_lo, ext_hi, Nat.reduceSub, ext_all, get_lo, get_hi, b1_get]
  first
    | rfl
    | (simp only [Nat.reduceAdd, Nat.reduceSub, ext_all]; rfl)
    | (simp only [span_frame, span_eword, span_eword0, span_xpush]; rfl)
    | (have ha := EOp.a_zero hw; rcases o with ⟨_, _, _, _, _, _, _⟩; cases ha; rfl)
    | (simp only [join_count]; have ha := EOp.a_zero hw; rcases o with ⟨_, _, _, _, _, _, _⟩; cases ha; rfl)

theorem Laws.RoundTrip.andi64 (d : Reg) (b : Reg) (q : BitVec 32) : Laws.RoundTrip.Statement (.andi64 d b q) := by
  intro sl w q h hw
  cases h
  unfold pick
  dsimp only
  unfold pickS
  have hop : (BitVec.extractLsb' 2 6 (word 0 0 b d 0x11 true)).toNat = 17 := by
    simp (disch := omega) only [word, wordImm, word24, encA, encB, encC, encCorr, encAmac, encCchk, encAop, encAsum, encTmma, eword, btxWord, Stamp.word, VRow.word, ext_lo, ext_hi, Nat.reduceSub, ext_all]; rfl
  rw [hop]
  dsimp only
  simp (disch := omega) only [word, wordImm, word24, encA, encB, encC, encCorr, encAmac, encCchk, encAop, encAsum, encTmma, eword, btxWord, Stamp.word, VRow.word, memA, memB, memC, corrOp, hi16, ext_lo, ext_hi, Nat.reduceSub, ext_all, get_lo, get_hi, b1_get]
  first
    | rfl
    | (simp only [Nat.reduceAdd, Nat.reduceSub, ext_all]; rfl)
    | (simp only [span_frame, span_eword, span_eword0, span_xpush]; rfl)
    | (have ha := EOp.a_zero hw; rcases o with ⟨_, _, _, _, _, _, _⟩; cases ha; rfl)
    | (simp only [join_count]; have ha := EOp.a_zero hw; rcases o with ⟨_, _, _, _, _, _, _⟩; cases ha; rfl)

theorem Laws.RoundTrip.or (d : Reg) (b : Reg) (c : Reg) : Laws.RoundTrip.Statement (.or d b c) := by
  intro sl w q h hw
  cases h
  unfold pick
  dsimp only
  unfold pickS
  have hop : (BitVec.extractLsb' 2 6 (word 0 c b d 0x12 false)).toNat = 18 := by
    simp (disch := omega) only [word, wordImm, word24, encA, encB, encC, encCorr, encAmac, encCchk, encAop, encAsum, encTmma, eword, btxWord, Stamp.word, VRow.word, ext_lo, ext_hi, Nat.reduceSub, ext_all]; rfl
  rw [hop]
  dsimp only
  simp (disch := omega) only [word, wordImm, word24, encA, encB, encC, encCorr, encAmac, encCchk, encAop, encAsum, encTmma, eword, btxWord, Stamp.word, VRow.word, memA, memB, memC, corrOp, hi16, ext_lo, ext_hi, Nat.reduceSub, ext_all, get_lo, get_hi, b1_get]
  first
    | rfl
    | (simp only [Nat.reduceAdd, Nat.reduceSub, ext_all]; rfl)
    | (simp only [span_frame, span_eword, span_eword0, span_xpush]; rfl)
    | (have ha := EOp.a_zero hw; rcases o with ⟨_, _, _, _, _, _, _⟩; cases ha; rfl)
    | (simp only [join_count]; have ha := EOp.a_zero hw; rcases o with ⟨_, _, _, _, _, _, _⟩; cases ha; rfl)

theorem Laws.RoundTrip.ori (d : Reg) (b : Reg) (i : BitVec 14) : Laws.RoundTrip.Statement (.ori d b i) := by
  intro sl w q h hw
  cases h
  unfold pick
  dsimp only
  unfold pickS
  have hop : (BitVec.extractLsb' 2 6 (wordImm i b d 0x13 false)).toNat = 19 := by
    simp (disch := omega) only [word, wordImm, word24, encA, encB, encC, encCorr, encAmac, encCchk, encAop, encAsum, encTmma, eword, btxWord, Stamp.word, VRow.word, ext_lo, ext_hi, Nat.reduceSub, ext_all]; rfl
  rw [hop]
  dsimp only
  simp (disch := omega) only [word, wordImm, word24, encA, encB, encC, encCorr, encAmac, encCchk, encAop, encAsum, encTmma, eword, btxWord, Stamp.word, VRow.word, memA, memB, memC, corrOp, hi16, ext_lo, ext_hi, Nat.reduceSub, ext_all, get_lo, get_hi, b1_get]
  first
    | rfl
    | (simp only [Nat.reduceAdd, Nat.reduceSub, ext_all]; rfl)
    | (simp only [span_frame, span_eword, span_eword0, span_xpush]; rfl)
    | (have ha := EOp.a_zero hw; rcases o with ⟨_, _, _, _, _, _, _⟩; cases ha; rfl)
    | (simp only [join_count]; have ha := EOp.a_zero hw; rcases o with ⟨_, _, _, _, _, _, _⟩; cases ha; rfl)

theorem Laws.RoundTrip.ori64 (d : Reg) (b : Reg) (q : BitVec 32) : Laws.RoundTrip.Statement (.ori64 d b q) := by
  intro sl w q h hw
  cases h
  unfold pick
  dsimp only
  unfold pickS
  have hop : (BitVec.extractLsb' 2 6 (word 0 0 b d 0x13 true)).toNat = 19 := by
    simp (disch := omega) only [word, wordImm, word24, encA, encB, encC, encCorr, encAmac, encCchk, encAop, encAsum, encTmma, eword, btxWord, Stamp.word, VRow.word, ext_lo, ext_hi, Nat.reduceSub, ext_all]; rfl
  rw [hop]
  dsimp only
  simp (disch := omega) only [word, wordImm, word24, encA, encB, encC, encCorr, encAmac, encCchk, encAop, encAsum, encTmma, eword, btxWord, Stamp.word, VRow.word, memA, memB, memC, corrOp, hi16, ext_lo, ext_hi, Nat.reduceSub, ext_all, get_lo, get_hi, b1_get]
  first
    | rfl
    | (simp only [Nat.reduceAdd, Nat.reduceSub, ext_all]; rfl)
    | (simp only [span_frame, span_eword, span_eword0, span_xpush]; rfl)
    | (have ha := EOp.a_zero hw; rcases o with ⟨_, _, _, _, _, _, _⟩; cases ha; rfl)
    | (simp only [join_count]; have ha := EOp.a_zero hw; rcases o with ⟨_, _, _, _, _, _, _⟩; cases ha; rfl)

theorem Laws.RoundTrip.xor (d : Reg) (b : Reg) (c : Reg) : Laws.RoundTrip.Statement (.xor d b c) := by
  intro sl w q h hw
  cases h
  unfold pick
  dsimp only
  unfold pickS
  have hop : (BitVec.extractLsb' 2 6 (word 0 c b d 0x14 false)).toNat = 20 := by
    simp (disch := omega) only [word, wordImm, word24, encA, encB, encC, encCorr, encAmac, encCchk, encAop, encAsum, encTmma, eword, btxWord, Stamp.word, VRow.word, ext_lo, ext_hi, Nat.reduceSub, ext_all]; rfl
  rw [hop]
  dsimp only
  simp (disch := omega) only [word, wordImm, word24, encA, encB, encC, encCorr, encAmac, encCchk, encAop, encAsum, encTmma, eword, btxWord, Stamp.word, VRow.word, memA, memB, memC, corrOp, hi16, ext_lo, ext_hi, Nat.reduceSub, ext_all, get_lo, get_hi, b1_get]
  first
    | rfl
    | (simp only [Nat.reduceAdd, Nat.reduceSub, ext_all]; rfl)
    | (simp only [span_frame, span_eword, span_eword0, span_xpush]; rfl)
    | (have ha := EOp.a_zero hw; rcases o with ⟨_, _, _, _, _, _, _⟩; cases ha; rfl)
    | (simp only [join_count]; have ha := EOp.a_zero hw; rcases o with ⟨_, _, _, _, _, _, _⟩; cases ha; rfl)

theorem Laws.RoundTrip.xori (d : Reg) (b : Reg) (i : BitVec 14) : Laws.RoundTrip.Statement (.xori d b i) := by
  intro sl w q h hw
  cases h
  unfold pick
  dsimp only
  unfold pickS
  have hop : (BitVec.extractLsb' 2 6 (wordImm i b d 0x15 false)).toNat = 21 := by
    simp (disch := omega) only [word, wordImm, word24, encA, encB, encC, encCorr, encAmac, encCchk, encAop, encAsum, encTmma, eword, btxWord, Stamp.word, VRow.word, ext_lo, ext_hi, Nat.reduceSub, ext_all]; rfl
  rw [hop]
  dsimp only
  simp (disch := omega) only [word, wordImm, word24, encA, encB, encC, encCorr, encAmac, encCchk, encAop, encAsum, encTmma, eword, btxWord, Stamp.word, VRow.word, memA, memB, memC, corrOp, hi16, ext_lo, ext_hi, Nat.reduceSub, ext_all, get_lo, get_hi, b1_get]
  first
    | rfl
    | (simp only [Nat.reduceAdd, Nat.reduceSub, ext_all]; rfl)
    | (simp only [span_frame, span_eword, span_eword0, span_xpush]; rfl)
    | (have ha := EOp.a_zero hw; rcases o with ⟨_, _, _, _, _, _, _⟩; cases ha; rfl)
    | (simp only [join_count]; have ha := EOp.a_zero hw; rcases o with ⟨_, _, _, _, _, _, _⟩; cases ha; rfl)

theorem Laws.RoundTrip.xori64 (d : Reg) (b : Reg) (q : BitVec 32) : Laws.RoundTrip.Statement (.xori64 d b q) := by
  intro sl w q h hw
  cases h
  unfold pick
  dsimp only
  unfold pickS
  have hop : (BitVec.extractLsb' 2 6 (word 0 0 b d 0x15 true)).toNat = 21 := by
    simp (disch := omega) only [word, wordImm, word24, encA, encB, encC, encCorr, encAmac, encCchk, encAop, encAsum, encTmma, eword, btxWord, Stamp.word, VRow.word, ext_lo, ext_hi, Nat.reduceSub, ext_all]; rfl
  rw [hop]
  dsimp only
  simp (disch := omega) only [word, wordImm, word24, encA, encB, encC, encCorr, encAmac, encCchk, encAop, encAsum, encTmma, eword, btxWord, Stamp.word, VRow.word, memA, memB, memC, corrOp, hi16, ext_lo, ext_hi, Nat.reduceSub, ext_all, get_lo, get_hi, b1_get]
  first
    | rfl
    | (simp only [Nat.reduceAdd, Nat.reduceSub, ext_all]; rfl)
    | (simp only [span_frame, span_eword, span_eword0, span_xpush]; rfl)
    | (have ha := EOp.a_zero hw; rcases o with ⟨_, _, _, _, _, _, _⟩; cases ha; rfl)
    | (simp only [join_count]; have ha := EOp.a_zero hw; rcases o with ⟨_, _, _, _, _, _, _⟩; cases ha; rfl)

theorem Laws.RoundTrip.andn (d : Reg) (b : Reg) (c : Reg) : Laws.RoundTrip.Statement (.andn d b c) := by
  intro sl w q h hw
  cases h
  unfold pick
  dsimp only
  unfold pickS
  have hop : (BitVec.extractLsb' 2 6 (word 0 c b d 0x16 false)).toNat = 22 := by
    simp (disch := omega) only [word, wordImm, word24, encA, encB, encC, encCorr, encAmac, encCchk, encAop, encAsum, encTmma, eword, btxWord, Stamp.word, VRow.word, ext_lo, ext_hi, Nat.reduceSub, ext_all]; rfl
  rw [hop]
  dsimp only
  simp (disch := omega) only [word, wordImm, word24, encA, encB, encC, encCorr, encAmac, encCchk, encAop, encAsum, encTmma, eword, btxWord, Stamp.word, VRow.word, memA, memB, memC, corrOp, hi16, ext_lo, ext_hi, Nat.reduceSub, ext_all, get_lo, get_hi, b1_get]
  first
    | rfl
    | (simp only [Nat.reduceAdd, Nat.reduceSub, ext_all]; rfl)
    | (simp only [span_frame, span_eword, span_eword0, span_xpush]; rfl)
    | (have ha := EOp.a_zero hw; rcases o with ⟨_, _, _, _, _, _, _⟩; cases ha; rfl)
    | (simp only [join_count]; have ha := EOp.a_zero hw; rcases o with ⟨_, _, _, _, _, _, _⟩; cases ha; rfl)

theorem Laws.RoundTrip.sel (d : Reg) (k : Reg) (b : Reg) (c : Reg) : Laws.RoundTrip.Statement (.sel d k b c) := by
  intro sl w q h hw
  cases h
  unfold pick
  dsimp only
  unfold pickS
  have hop : (BitVec.extractLsb' 2 6 (word (0#4 ++ k) c b d 0x17 false)).toNat = 23 := by
    simp (disch := omega) only [word, wordImm, word24, encA, encB, encC, encCorr, encAmac, encCchk, encAop, encAsum, encTmma, eword, btxWord, Stamp.word, VRow.word, ext_lo, ext_hi, Nat.reduceSub, ext_all]; rfl
  rw [hop]
  dsimp only
  simp (disch := omega) only [word, wordImm, word24, encA, encB, encC, encCorr, encAmac, encCchk, encAop, encAsum, encTmma, eword, btxWord, Stamp.word, VRow.word, memA, memB, memC, corrOp, hi16, ext_lo, ext_hi, Nat.reduceSub, ext_all, get_lo, get_hi, b1_get]
  first
    | rfl
    | (simp only [Nat.reduceAdd, Nat.reduceSub, ext_all]; rfl)
    | (simp only [span_frame, span_eword, span_eword0, span_xpush]; rfl)
    | (have ha := EOp.a_zero hw; rcases o with ⟨_, _, _, _, _, _, _⟩; cases ha; rfl)
    | (simp only [join_count]; have ha := EOp.a_zero hw; rcases o with ⟨_, _, _, _, _, _, _⟩; cases ha; rfl)

theorem Laws.RoundTrip.shl (d : Reg) (b : Reg) (c : Reg) : Laws.RoundTrip.Statement (.shl d b c) := by
  intro sl w q h hw
  cases h
  unfold pick
  dsimp only
  unfold pickS
  have hop : (BitVec.extractLsb' 2 6 (word 0 c b d 0x18 false)).toNat = 24 := by
    simp (disch := omega) only [word, wordImm, word24, encA, encB, encC, encCorr, encAmac, encCchk, encAop, encAsum, encTmma, eword, btxWord, Stamp.word, VRow.word, ext_lo, ext_hi, Nat.reduceSub, ext_all]; rfl
  rw [hop]
  dsimp only
  simp (disch := omega) only [word, wordImm, word24, encA, encB, encC, encCorr, encAmac, encCchk, encAop, encAsum, encTmma, eword, btxWord, Stamp.word, VRow.word, memA, memB, memC, corrOp, hi16, ext_lo, ext_hi, Nat.reduceSub, ext_all, get_lo, get_hi, b1_get]
  first
    | rfl
    | (simp only [Nat.reduceAdd, Nat.reduceSub, ext_all]; rfl)
    | (simp only [span_frame, span_eword, span_eword0, span_xpush]; rfl)
    | (have ha := EOp.a_zero hw; rcases o with ⟨_, _, _, _, _, _, _⟩; cases ha; rfl)
    | (simp only [join_count]; have ha := EOp.a_zero hw; rcases o with ⟨_, _, _, _, _, _, _⟩; cases ha; rfl)

theorem Laws.RoundTrip.shli (d : Reg) (b : Reg) (i : BitVec 14) : Laws.RoundTrip.Statement (.shli d b i) := by
  intro sl w q h hw
  cases h
  unfold pick
  dsimp only
  unfold pickS
  have hop : (BitVec.extractLsb' 2 6 (wordImm i b d 0x19 false)).toNat = 25 := by
    simp (disch := omega) only [word, wordImm, word24, encA, encB, encC, encCorr, encAmac, encCchk, encAop, encAsum, encTmma, eword, btxWord, Stamp.word, VRow.word, ext_lo, ext_hi, Nat.reduceSub, ext_all]; rfl
  rw [hop]
  dsimp only
  simp (disch := omega) only [word, wordImm, word24, encA, encB, encC, encCorr, encAmac, encCchk, encAop, encAsum, encTmma, eword, btxWord, Stamp.word, VRow.word, memA, memB, memC, corrOp, hi16, ext_lo, ext_hi, Nat.reduceSub, ext_all, get_lo, get_hi, b1_get]
  first
    | rfl
    | (simp only [Nat.reduceAdd, Nat.reduceSub, ext_all]; rfl)
    | (simp only [span_frame, span_eword, span_eword0, span_xpush]; rfl)
    | (have ha := EOp.a_zero hw; rcases o with ⟨_, _, _, _, _, _, _⟩; cases ha; rfl)
    | (simp only [join_count]; have ha := EOp.a_zero hw; rcases o with ⟨_, _, _, _, _, _, _⟩; cases ha; rfl)

theorem Laws.RoundTrip.shli64 (d : Reg) (b : Reg) (q : BitVec 32) : Laws.RoundTrip.Statement (.shli64 d b q) := by
  intro sl w q h hw
  cases h
  unfold pick
  dsimp only
  unfold pickS
  have hop : (BitVec.extractLsb' 2 6 (word 0 0 b d 0x19 true)).toNat = 25 := by
    simp (disch := omega) only [word, wordImm, word24, encA, encB, encC, encCorr, encAmac, encCchk, encAop, encAsum, encTmma, eword, btxWord, Stamp.word, VRow.word, ext_lo, ext_hi, Nat.reduceSub, ext_all]; rfl
  rw [hop]
  dsimp only
  simp (disch := omega) only [word, wordImm, word24, encA, encB, encC, encCorr, encAmac, encCchk, encAop, encAsum, encTmma, eword, btxWord, Stamp.word, VRow.word, memA, memB, memC, corrOp, hi16, ext_lo, ext_hi, Nat.reduceSub, ext_all, get_lo, get_hi, b1_get]
  first
    | rfl
    | (simp only [Nat.reduceAdd, Nat.reduceSub, ext_all]; rfl)
    | (simp only [span_frame, span_eword, span_eword0, span_xpush]; rfl)
    | (have ha := EOp.a_zero hw; rcases o with ⟨_, _, _, _, _, _, _⟩; cases ha; rfl)
    | (simp only [join_count]; have ha := EOp.a_zero hw; rcases o with ⟨_, _, _, _, _, _, _⟩; cases ha; rfl)

theorem Laws.RoundTrip.shrl (d : Reg) (b : Reg) (c : Reg) : Laws.RoundTrip.Statement (.shrl d b c) := by
  intro sl w q h hw
  cases h
  unfold pick
  dsimp only
  unfold pickS
  have hop : (BitVec.extractLsb' 2 6 (word 0 c b d 0x1A false)).toNat = 26 := by
    simp (disch := omega) only [word, wordImm, word24, encA, encB, encC, encCorr, encAmac, encCchk, encAop, encAsum, encTmma, eword, btxWord, Stamp.word, VRow.word, ext_lo, ext_hi, Nat.reduceSub, ext_all]; rfl
  rw [hop]
  dsimp only
  simp (disch := omega) only [word, wordImm, word24, encA, encB, encC, encCorr, encAmac, encCchk, encAop, encAsum, encTmma, eword, btxWord, Stamp.word, VRow.word, memA, memB, memC, corrOp, hi16, ext_lo, ext_hi, Nat.reduceSub, ext_all, get_lo, get_hi, b1_get]
  first
    | rfl
    | (simp only [Nat.reduceAdd, Nat.reduceSub, ext_all]; rfl)
    | (simp only [span_frame, span_eword, span_eword0, span_xpush]; rfl)
    | (have ha := EOp.a_zero hw; rcases o with ⟨_, _, _, _, _, _, _⟩; cases ha; rfl)
    | (simp only [join_count]; have ha := EOp.a_zero hw; rcases o with ⟨_, _, _, _, _, _, _⟩; cases ha; rfl)

theorem Laws.RoundTrip.shrli (d : Reg) (b : Reg) (i : BitVec 14) : Laws.RoundTrip.Statement (.shrli d b i) := by
  intro sl w q h hw
  cases h
  unfold pick
  dsimp only
  unfold pickS
  have hop : (BitVec.extractLsb' 2 6 (wordImm i b d 0x1B false)).toNat = 27 := by
    simp (disch := omega) only [word, wordImm, word24, encA, encB, encC, encCorr, encAmac, encCchk, encAop, encAsum, encTmma, eword, btxWord, Stamp.word, VRow.word, ext_lo, ext_hi, Nat.reduceSub, ext_all]; rfl
  rw [hop]
  dsimp only
  simp (disch := omega) only [word, wordImm, word24, encA, encB, encC, encCorr, encAmac, encCchk, encAop, encAsum, encTmma, eword, btxWord, Stamp.word, VRow.word, memA, memB, memC, corrOp, hi16, ext_lo, ext_hi, Nat.reduceSub, ext_all, get_lo, get_hi, b1_get]
  first
    | rfl
    | (simp only [Nat.reduceAdd, Nat.reduceSub, ext_all]; rfl)
    | (simp only [span_frame, span_eword, span_eword0, span_xpush]; rfl)
    | (have ha := EOp.a_zero hw; rcases o with ⟨_, _, _, _, _, _, _⟩; cases ha; rfl)
    | (simp only [join_count]; have ha := EOp.a_zero hw; rcases o with ⟨_, _, _, _, _, _, _⟩; cases ha; rfl)

theorem Laws.RoundTrip.shrli64 (d : Reg) (b : Reg) (q : BitVec 32) : Laws.RoundTrip.Statement (.shrli64 d b q) := by
  intro sl w q h hw
  cases h
  unfold pick
  dsimp only
  unfold pickS
  have hop : (BitVec.extractLsb' 2 6 (word 0 0 b d 0x1B true)).toNat = 27 := by
    simp (disch := omega) only [word, wordImm, word24, encA, encB, encC, encCorr, encAmac, encCchk, encAop, encAsum, encTmma, eword, btxWord, Stamp.word, VRow.word, ext_lo, ext_hi, Nat.reduceSub, ext_all]; rfl
  rw [hop]
  dsimp only
  simp (disch := omega) only [word, wordImm, word24, encA, encB, encC, encCorr, encAmac, encCchk, encAop, encAsum, encTmma, eword, btxWord, Stamp.word, VRow.word, memA, memB, memC, corrOp, hi16, ext_lo, ext_hi, Nat.reduceSub, ext_all, get_lo, get_hi, b1_get]
  first
    | rfl
    | (simp only [Nat.reduceAdd, Nat.reduceSub, ext_all]; rfl)
    | (simp only [span_frame, span_eword, span_eword0, span_xpush]; rfl)
    | (have ha := EOp.a_zero hw; rcases o with ⟨_, _, _, _, _, _, _⟩; cases ha; rfl)
    | (simp only [join_count]; have ha := EOp.a_zero hw; rcases o with ⟨_, _, _, _, _, _, _⟩; cases ha; rfl)

theorem Laws.RoundTrip.shra (d : Reg) (b : Reg) (c : Reg) : Laws.RoundTrip.Statement (.shra d b c) := by
  intro sl w q h hw
  cases h
  unfold pick
  dsimp only
  unfold pickS
  have hop : (BitVec.extractLsb' 2 6 (word 0 c b d 0x1C false)).toNat = 28 := by
    simp (disch := omega) only [word, wordImm, word24, encA, encB, encC, encCorr, encAmac, encCchk, encAop, encAsum, encTmma, eword, btxWord, Stamp.word, VRow.word, ext_lo, ext_hi, Nat.reduceSub, ext_all]; rfl
  rw [hop]
  dsimp only
  simp (disch := omega) only [word, wordImm, word24, encA, encB, encC, encCorr, encAmac, encCchk, encAop, encAsum, encTmma, eword, btxWord, Stamp.word, VRow.word, memA, memB, memC, corrOp, hi16, ext_lo, ext_hi, Nat.reduceSub, ext_all, get_lo, get_hi, b1_get]
  first
    | rfl
    | (simp only [Nat.reduceAdd, Nat.reduceSub, ext_all]; rfl)
    | (simp only [span_frame, span_eword, span_eword0, span_xpush]; rfl)
    | (have ha := EOp.a_zero hw; rcases o with ⟨_, _, _, _, _, _, _⟩; cases ha; rfl)
    | (simp only [join_count]; have ha := EOp.a_zero hw; rcases o with ⟨_, _, _, _, _, _, _⟩; cases ha; rfl)

theorem Laws.RoundTrip.shrai (d : Reg) (b : Reg) (i : BitVec 14) : Laws.RoundTrip.Statement (.shrai d b i) := by
  intro sl w q h hw
  cases h
  unfold pick
  dsimp only
  unfold pickS
  have hop : (BitVec.extractLsb' 2 6 (wordImm i b d 0x1D false)).toNat = 29 := by
    simp (disch := omega) only [word, wordImm, word24, encA, encB, encC, encCorr, encAmac, encCchk, encAop, encAsum, encTmma, eword, btxWord, Stamp.word, VRow.word, ext_lo, ext_hi, Nat.reduceSub, ext_all]; rfl
  rw [hop]
  dsimp only
  simp (disch := omega) only [word, wordImm, word24, encA, encB, encC, encCorr, encAmac, encCchk, encAop, encAsum, encTmma, eword, btxWord, Stamp.word, VRow.word, memA, memB, memC, corrOp, hi16, ext_lo, ext_hi, Nat.reduceSub, ext_all, get_lo, get_hi, b1_get]
  first
    | rfl
    | (simp only [Nat.reduceAdd, Nat.reduceSub, ext_all]; rfl)
    | (simp only [span_frame, span_eword, span_eword0, span_xpush]; rfl)
    | (have ha := EOp.a_zero hw; rcases o with ⟨_, _, _, _, _, _, _⟩; cases ha; rfl)
    | (simp only [join_count]; have ha := EOp.a_zero hw; rcases o with ⟨_, _, _, _, _, _, _⟩; cases ha; rfl)

theorem Laws.RoundTrip.shrai64 (d : Reg) (b : Reg) (q : BitVec 32) : Laws.RoundTrip.Statement (.shrai64 d b q) := by
  intro sl w q h hw
  cases h
  unfold pick
  dsimp only
  unfold pickS
  have hop : (BitVec.extractLsb' 2 6 (word 0 0 b d 0x1D true)).toNat = 29 := by
    simp (disch := omega) only [word, wordImm, word24, encA, encB, encC, encCorr, encAmac, encCchk, encAop, encAsum, encTmma, eword, btxWord, Stamp.word, VRow.word, ext_lo, ext_hi, Nat.reduceSub, ext_all]; rfl
  rw [hop]
  dsimp only
  simp (disch := omega) only [word, wordImm, word24, encA, encB, encC, encCorr, encAmac, encCchk, encAop, encAsum, encTmma, eword, btxWord, Stamp.word, VRow.word, memA, memB, memC, corrOp, hi16, ext_lo, ext_hi, Nat.reduceSub, ext_all, get_lo, get_hi, b1_get]
  first
    | rfl
    | (simp only [Nat.reduceAdd, Nat.reduceSub, ext_all]; rfl)
    | (simp only [span_frame, span_eword, span_eword0, span_xpush]; rfl)
    | (have ha := EOp.a_zero hw; rcases o with ⟨_, _, _, _, _, _, _⟩; cases ha; rfl)
    | (simp only [join_count]; have ha := EOp.a_zero hw; rcases o with ⟨_, _, _, _, _, _, _⟩; cases ha; rfl)

theorem Laws.RoundTrip.rotl (d : Reg) (b : Reg) (c : Reg) : Laws.RoundTrip.Statement (.rotl d b c) := by
  intro sl w q h hw
  cases h
  unfold pick
  dsimp only
  unfold pickS
  have hop : (BitVec.extractLsb' 2 6 (word 0 c b d 0x1E false)).toNat = 30 := by
    simp (disch := omega) only [word, wordImm, word24, encA, encB, encC, encCorr, encAmac, encCchk, encAop, encAsum, encTmma, eword, btxWord, Stamp.word, VRow.word, ext_lo, ext_hi, Nat.reduceSub, ext_all]; rfl
  rw [hop]
  dsimp only
  simp (disch := omega) only [word, wordImm, word24, encA, encB, encC, encCorr, encAmac, encCchk, encAop, encAsum, encTmma, eword, btxWord, Stamp.word, VRow.word, memA, memB, memC, corrOp, hi16, ext_lo, ext_hi, Nat.reduceSub, ext_all, get_lo, get_hi, b1_get]
  first
    | rfl
    | (simp only [Nat.reduceAdd, Nat.reduceSub, ext_all]; rfl)
    | (simp only [span_frame, span_eword, span_eword0, span_xpush]; rfl)
    | (have ha := EOp.a_zero hw; rcases o with ⟨_, _, _, _, _, _, _⟩; cases ha; rfl)
    | (simp only [join_count]; have ha := EOp.a_zero hw; rcases o with ⟨_, _, _, _, _, _, _⟩; cases ha; rfl)

theorem Laws.RoundTrip.cmp (cc : BitVec 3) (d : Reg) (b : Reg) (c : Reg) : Laws.RoundTrip.Statement (.cmp cc d b c) := by
  intro sl w q h hw
  cases h
  unfold pick
  dsimp only
  unfold pickS
  have hop : (BitVec.extractLsb' 2 6 (word (0#6 ++ cc) c b d 0x1F false)).toNat = 31 := by
    simp (disch := omega) only [word, wordImm, word24, encA, encB, encC, encCorr, encAmac, encCchk, encAop, encAsum, encTmma, eword, btxWord, Stamp.word, VRow.word, ext_lo, ext_hi, Nat.reduceSub, ext_all]; rfl
  rw [hop]
  dsimp only
  simp (disch := omega) only [word, wordImm, word24, encA, encB, encC, encCorr, encAmac, encCchk, encAop, encAsum, encTmma, eword, btxWord, Stamp.word, VRow.word, memA, memB, memC, corrOp, hi16, ext_lo, ext_hi, Nat.reduceSub, ext_all, get_lo, get_hi, b1_get]
  first
    | rfl
    | (simp only [Nat.reduceAdd, Nat.reduceSub, ext_all]; rfl)
    | (simp only [span_frame, span_eword, span_eword0, span_xpush]; rfl)
    | (have ha := EOp.a_zero hw; rcases o with ⟨_, _, _, _, _, _, _⟩; cases ha; rfl)
    | (simp only [join_count]; have ha := EOp.a_zero hw; rcases o with ⟨_, _, _, _, _, _, _⟩; cases ha; rfl)

theorem Laws.RoundTrip.clz (d : Reg) (b : Reg) : Laws.RoundTrip.Statement (.clz d b) := by
  intro sl w q h hw
  cases h
  unfold pick
  dsimp only
  unfold pickS
  have hop : (BitVec.extractLsb' 2 6 (word 0 0 b d 0x20 false)).toNat = 32 := by
    simp (disch := omega) only [word, wordImm, word24, encA, encB, encC, encCorr, encAmac, encCchk, encAop, encAsum, encTmma, eword, btxWord, Stamp.word, VRow.word, ext_lo, ext_hi, Nat.reduceSub, ext_all]; rfl
  rw [hop]
  dsimp only
  simp (disch := omega) only [word, wordImm, word24, encA, encB, encC, encCorr, encAmac, encCchk, encAop, encAsum, encTmma, eword, btxWord, Stamp.word, VRow.word, memA, memB, memC, corrOp, hi16, ext_lo, ext_hi, Nat.reduceSub, ext_all, get_lo, get_hi, b1_get]
  first
    | rfl
    | (simp only [Nat.reduceAdd, Nat.reduceSub, ext_all]; rfl)
    | (simp only [span_frame, span_eword, span_eword0, span_xpush]; rfl)
    | (have ha := EOp.a_zero hw; rcases o with ⟨_, _, _, _, _, _, _⟩; cases ha; rfl)
    | (simp only [join_count]; have ha := EOp.a_zero hw; rcases o with ⟨_, _, _, _, _, _, _⟩; cases ha; rfl)

theorem Laws.RoundTrip.ctz (d : Reg) (b : Reg) : Laws.RoundTrip.Statement (.ctz d b) := by
  intro sl w q h hw
  cases h
  unfold pick
  dsimp only
  unfold pickS
  have hop : (BitVec.extractLsb' 2 6 (word 0 0 b d 0x21 false)).toNat = 33 := by
    simp (disch := omega) only [word, wordImm, word24, encA, encB, encC, encCorr, encAmac, encCchk, encAop, encAsum, encTmma, eword, btxWord, Stamp.word, VRow.word, ext_lo, ext_hi, Nat.reduceSub, ext_all]; rfl
  rw [hop]
  dsimp only
  simp (disch := omega) only [word, wordImm, word24, encA, encB, encC, encCorr, encAmac, encCchk, encAop, encAsum, encTmma, eword, btxWord, Stamp.word, VRow.word, memA, memB, memC, corrOp, hi16, ext_lo, ext_hi, Nat.reduceSub, ext_all, get_lo, get_hi, b1_get]
  first
    | rfl
    | (simp only [Nat.reduceAdd, Nat.reduceSub, ext_all]; rfl)
    | (simp only [span_frame, span_eword, span_eword0, span_xpush]; rfl)
    | (have ha := EOp.a_zero hw; rcases o with ⟨_, _, _, _, _, _, _⟩; cases ha; rfl)
    | (simp only [join_count]; have ha := EOp.a_zero hw; rcases o with ⟨_, _, _, _, _, _, _⟩; cases ha; rfl)

theorem Laws.RoundTrip.popc (d : Reg) (b : Reg) : Laws.RoundTrip.Statement (.popc d b) := by
  intro sl w q h hw
  cases h
  unfold pick
  dsimp only
  unfold pickS
  have hop : (BitVec.extractLsb' 2 6 (word 0 0 b d 0x22 false)).toNat = 34 := by
    simp (disch := omega) only [word, wordImm, word24, encA, encB, encC, encCorr, encAmac, encCchk, encAop, encAsum, encTmma, eword, btxWord, Stamp.word, VRow.word, ext_lo, ext_hi, Nat.reduceSub, ext_all]; rfl
  rw [hop]
  dsimp only
  simp (disch := omega) only [word, wordImm, word24, encA, encB, encC, encCorr, encAmac, encCchk, encAop, encAsum, encTmma, eword, btxWord, Stamp.word, VRow.word, memA, memB, memC, corrOp, hi16, ext_lo, ext_hi, Nat.reduceSub, ext_all, get_lo, get_hi, b1_get]
  first
    | rfl
    | (simp only [Nat.reduceAdd, Nat.reduceSub, ext_all]; rfl)
    | (simp only [span_frame, span_eword, span_eword0, span_xpush]; rfl)
    | (have ha := EOp.a_zero hw; rcases o with ⟨_, _, _, _, _, _, _⟩; cases ha; rfl)
    | (simp only [join_count]; have ha := EOp.a_zero hw; rcases o with ⟨_, _, _, _, _, _, _⟩; cases ha; rfl)

theorem Laws.RoundTrip.brev (d : Reg) (b : Reg) : Laws.RoundTrip.Statement (.brev d b) := by
  intro sl w q h hw
  cases h
  unfold pick
  dsimp only
  unfold pickS
  have hop : (BitVec.extractLsb' 2 6 (word 0 0 b d 0x23 false)).toNat = 35 := by
    simp (disch := omega) only [word, wordImm, word24, encA, encB, encC, encCorr, encAmac, encCchk, encAop, encAsum, encTmma, eword, btxWord, Stamp.word, VRow.word, ext_lo, ext_hi, Nat.reduceSub, ext_all]; rfl
  rw [hop]
  dsimp only
  simp (disch := omega) only [word, wordImm, word24, encA, encB, encC, encCorr, encAmac, encCchk, encAop, encAsum, encTmma, eword, btxWord, Stamp.word, VRow.word, memA, memB, memC, corrOp, hi16, ext_lo, ext_hi, Nat.reduceSub, ext_all, get_lo, get_hi, b1_get]
  first
    | rfl
    | (simp only [Nat.reduceAdd, Nat.reduceSub, ext_all]; rfl)
    | (simp only [span_frame, span_eword, span_eword0, span_xpush]; rfl)
    | (have ha := EOp.a_zero hw; rcases o with ⟨_, _, _, _, _, _, _⟩; cases ha; rfl)
    | (simp only [join_count]; have ha := EOp.a_zero hw; rcases o with ⟨_, _, _, _, _, _, _⟩; cases ha; rfl)

theorem Laws.RoundTrip.bswap (d : Reg) (b : Reg) : Laws.RoundTrip.Statement (.bswap d b) := by
  intro sl w q h hw
  cases h
  unfold pick
  dsimp only
  unfold pickS
  have hop : (BitVec.extractLsb' 2 6 (word 0 0 b d 0x24 false)).toNat = 36 := by
    simp (disch := omega) only [word, wordImm, word24, encA, encB, encC, encCorr, encAmac, encCchk, encAop, encAsum, encTmma, eword, btxWord, Stamp.word, VRow.word, ext_lo, ext_hi, Nat.reduceSub, ext_all]; rfl
  rw [hop]
  dsimp only
  simp (disch := omega) only [word, wordImm, word24, encA, encB, encC, encCorr, encAmac, encCchk, encAop, encAsum, encTmma, eword, btxWord, Stamp.word, VRow.word, memA, memB, memC, corrOp, hi16, ext_lo, ext_hi, Nat.reduceSub, ext_all, get_lo, get_hi, b1_get]
  first
    | rfl
    | (simp only [Nat.reduceAdd, Nat.reduceSub, ext_all]; rfl)
    | (simp only [span_frame, span_eword, span_eword0, span_xpush]; rfl)
    | (have ha := EOp.a_zero hw; rcases o with ⟨_, _, _, _, _, _, _⟩; cases ha; rfl)
    | (simp only [join_count]; have ha := EOp.a_zero hw; rcases o with ⟨_, _, _, _, _, _, _⟩; cases ha; rfl)

theorem Laws.RoundTrip.extb (sx : Bool) (d : Reg) (b : Reg) (c : Reg) : Laws.RoundTrip.Statement (.extb sx d b c) := by
  intro sl w q h hw
  cases h
  unfold pick
  dsimp only
  unfold pickS
  have hop : (BitVec.extractLsb' 2 6 (word (0#8 ++ b1 sx) c b d 0x25 false)).toNat = 37 := by
    simp (disch := omega) only [word, wordImm, word24, encA, encB, encC, encCorr, encAmac, encCchk, encAop, encAsum, encTmma, eword, btxWord, Stamp.word, VRow.word, ext_lo, ext_hi, Nat.reduceSub, ext_all]; rfl
  rw [hop]
  dsimp only
  simp (disch := omega) only [word, wordImm, word24, encA, encB, encC, encCorr, encAmac, encCchk, encAop, encAsum, encTmma, eword, btxWord, Stamp.word, VRow.word, memA, memB, memC, corrOp, hi16, ext_lo, ext_hi, Nat.reduceSub, ext_all, get_lo, get_hi, b1_get]
  first
    | rfl
    | (simp only [Nat.reduceAdd, Nat.reduceSub, ext_all]; rfl)
    | (simp only [span_frame, span_eword, span_eword0, span_xpush]; rfl)
    | (have ha := EOp.a_zero hw; rcases o with ⟨_, _, _, _, _, _, _⟩; cases ha; rfl)
    | (simp only [join_count]; have ha := EOp.a_zero hw; rcases o with ⟨_, _, _, _, _, _, _⟩; cases ha; rfl)

theorem Laws.RoundTrip.insb (d : Reg) (b : Reg) (c : Reg) : Laws.RoundTrip.Statement (.insb d b c) := by
  intro sl w q h hw
  cases h
  unfold pick
  dsimp only
  unfold pickS
  have hop : (BitVec.extractLsb' 2 6 (word 0 c b d 0x26 false)).toNat = 38 := by
    simp (disch := omega) only [word, wordImm, word24, encA, encB, encC, encCorr, encAmac, encCchk, encAop, encAsum, encTmma, eword, btxWord, Stamp.word, VRow.word, ext_lo, ext_hi, Nat.reduceSub, ext_all]; rfl
  rw [hop]
  dsimp only
  simp (disch := omega) only [word, wordImm, word24, encA, encB, encC, encCorr, encAmac, encCchk, encAop, encAsum, encTmma, eword, btxWord, Stamp.word, VRow.word, memA, memB, memC, corrOp, hi16, ext_lo, ext_hi, Nat.reduceSub, ext_all, get_lo, get_hi, b1_get]
  first
    | rfl
    | (simp only [Nat.reduceAdd, Nat.reduceSub, ext_all]; rfl)
    | (simp only [span_frame, span_eword, span_eword0, span_xpush]; rfl)
    | (have ha := EOp.a_zero hw; rcases o with ⟨_, _, _, _, _, _, _⟩; cases ha; rfl)
    | (simp only [join_count]; have ha := EOp.a_zero hw; rcases o with ⟨_, _, _, _, _, _, _⟩; cases ha; rfl)

theorem Laws.RoundTrip.li (d : Reg) (i : BitVec 14) : Laws.RoundTrip.Statement (.li d i) := by
  intro sl w q h hw
  cases h
  unfold pick
  dsimp only
  unfold pickS
  have hop : (BitVec.extractLsb' 2 6 (wordImm i 0 d 0x28 false)).toNat = 40 := by
    simp (disch := omega) only [word, wordImm, word24, encA, encB, encC, encCorr, encAmac, encCchk, encAop, encAsum, encTmma, eword, btxWord, Stamp.word, VRow.word, ext_lo, ext_hi, Nat.reduceSub, ext_all]; rfl
  rw [hop]
  dsimp only
  simp (disch := omega) only [word, wordImm, word24, encA, encB, encC, encCorr, encAmac, encCchk, encAop, encAsum, encTmma, eword, btxWord, Stamp.word, VRow.word, memA, memB, memC, corrOp, hi16, ext_lo, ext_hi, Nat.reduceSub, ext_all, get_lo, get_hi, b1_get]
  first
    | rfl
    | (simp only [Nat.reduceAdd, Nat.reduceSub, ext_all]; rfl)
    | (simp only [span_frame, span_eword, span_eword0, span_xpush]; rfl)
    | (have ha := EOp.a_zero hw; rcases o with ⟨_, _, _, _, _, _, _⟩; cases ha; rfl)
    | (simp only [join_count]; have ha := EOp.a_zero hw; rcases o with ⟨_, _, _, _, _, _, _⟩; cases ha; rfl)

theorem Laws.RoundTrip.li64 (d : Reg) (q : BitVec 32) : Laws.RoundTrip.Statement (.li64 d q) := by
  intro sl w q h hw
  cases h
  unfold pick
  dsimp only
  unfold pickS
  have hop : (BitVec.extractLsb' 2 6 (word 0 0 0 d 0x28 true)).toNat = 40 := by
    simp (disch := omega) only [word, wordImm, word24, encA, encB, encC, encCorr, encAmac, encCchk, encAop, encAsum, encTmma, eword, btxWord, Stamp.word, VRow.word, ext_lo, ext_hi, Nat.reduceSub, ext_all]; rfl
  rw [hop]
  dsimp only
  simp (disch := omega) only [word, wordImm, word24, encA, encB, encC, encCorr, encAmac, encCchk, encAop, encAsum, encTmma, eword, btxWord, Stamp.word, VRow.word, memA, memB, memC, corrOp, hi16, ext_lo, ext_hi, Nat.reduceSub, ext_all, get_lo, get_hi, b1_get]
  first
    | rfl
    | (simp only [Nat.reduceAdd, Nat.reduceSub, ext_all]; rfl)
    | (simp only [span_frame, span_eword, span_eword0, span_xpush]; rfl)
    | (have ha := EOp.a_zero hw; rcases o with ⟨_, _, _, _, _, _, _⟩; cases ha; rfl)
    | (simp only [join_count]; have ha := EOp.a_zero hw; rcases o with ⟨_, _, _, _, _, _, _⟩; cases ha; rfl)

theorem Laws.RoundTrip.lih (d : Reg) (i : BitVec 14) : Laws.RoundTrip.Statement (.lih d i) := by
  intro sl w q h hw
  cases h
  unfold pick
  dsimp only
  unfold pickS
  have hop : (BitVec.extractLsb' 2 6 (wordImm i 0 d 0x29 false)).toNat = 41 := by
    simp (disch := omega) only [word, wordImm, word24, encA, encB, encC, encCorr, encAmac, encCchk, encAop, encAsum, encTmma, eword, btxWord, Stamp.word, VRow.word, ext_lo, ext_hi, Nat.reduceSub, ext_all]; rfl
  rw [hop]
  dsimp only
  simp (disch := omega) only [word, wordImm, word24, encA, encB, encC, encCorr, encAmac, encCchk, encAop, encAsum, encTmma, eword, btxWord, Stamp.word, VRow.word, memA, memB, memC, corrOp, hi16, ext_lo, ext_hi, Nat.reduceSub, ext_all, get_lo, get_hi, b1_get]
  first
    | rfl
    | (simp only [Nat.reduceAdd, Nat.reduceSub, ext_all]; rfl)
    | (simp only [span_frame, span_eword, span_eword0, span_xpush]; rfl)
    | (have ha := EOp.a_zero hw; rcases o with ⟨_, _, _, _, _, _, _⟩; cases ha; rfl)
    | (simp only [join_count]; have ha := EOp.a_zero hw; rcases o with ⟨_, _, _, _, _, _, _⟩; cases ha; rfl)

theorem Laws.RoundTrip.lih64 (d : Reg) (q : BitVec 32) : Laws.RoundTrip.Statement (.lih64 d q) := by
  intro sl w q h hw
  cases h
  unfold pick
  dsimp only
  unfold pickS
  have hop : (BitVec.extractLsb' 2 6 (word 0 0 0 d 0x29 true)).toNat = 41 := by
    simp (disch := omega) only [word, wordImm, word24, encA, encB, encC, encCorr, encAmac, encCchk, encAop, encAsum, encTmma, eword, btxWord, Stamp.word, VRow.word, ext_lo, ext_hi, Nat.reduceSub, ext_all]; rfl
  rw [hop]
  dsimp only
  simp (disch := omega) only [word, wordImm, word24, encA, encB, encC, encCorr, encAmac, encCchk, encAop, encAsum, encTmma, eword, btxWord, Stamp.word, VRow.word, memA, memB, memC, corrOp, hi16, ext_lo, ext_hi, Nat.reduceSub, ext_all, get_lo, get_hi, b1_get]
  first
    | rfl
    | (simp only [Nat.reduceAdd, Nat.reduceSub, ext_all]; rfl)
    | (simp only [span_frame, span_eword, span_eword0, span_xpush]; rfl)
    | (have ha := EOp.a_zero hw; rcases o with ⟨_, _, _, _, _, _, _⟩; cases ha; rfl)
    | (simp only [join_count]; have ha := EOp.a_zero hw; rcases o with ⟨_, _, _, _, _, _, _⟩; cases ha; rfl)

theorem Laws.RoundTrip.mov (d : Reg) (b : Reg) : Laws.RoundTrip.Statement (.mov d b) := by
  intro sl w q h hw
  cases h
  unfold pick
  dsimp only
  unfold pickS
  have hop : (BitVec.extractLsb' 2 6 (word 0 0 b d 0x2A false)).toNat = 42 := by
    simp (disch := omega) only [word, wordImm, word24, encA, encB, encC, encCorr, encAmac, encCchk, encAop, encAsum, encTmma, eword, btxWord, Stamp.word, VRow.word, ext_lo, ext_hi, Nat.reduceSub, ext_all]; rfl
  rw [hop]
  dsimp only
  simp (disch := omega) only [word, wordImm, word24, encA, encB, encC, encCorr, encAmac, encCchk, encAop, encAsum, encTmma, eword, btxWord, Stamp.word, VRow.word, memA, memB, memC, corrOp, hi16, ext_lo, ext_hi, Nat.reduceSub, ext_all, get_lo, get_hi, b1_get]
  first
    | rfl
    | (simp only [Nat.reduceAdd, Nat.reduceSub, ext_all]; rfl)
    | (simp only [span_frame, span_eword, span_eword0, span_xpush]; rfl)
    | (have ha := EOp.a_zero hw; rcases o with ⟨_, _, _, _, _, _, _⟩; cases ha; rfl)
    | (simp only [join_count]; have ha := EOp.a_zero hw; rcases o with ⟨_, _, _, _, _, _, _⟩; cases ha; rfl)

theorem Laws.RoundTrip.fadd (d : Reg) (b : Reg) (c : Reg) (p : Pfx) : Laws.RoundTrip.Statement (.fadd d b c p) := by
  intro sl w q h hw
  cases h
  unfold pick
  dsimp only
  unfold pickS
  have hop : (BitVec.extractLsb' 2 6 (word 0 c b d 0x30 false)).toNat = 48 := by
    simp (disch := omega) only [word, wordImm, word24, encA, encB, encC, encCorr, encAmac, encCchk, encAop, encAsum, encTmma, eword, btxWord, Stamp.word, VRow.word, ext_lo, ext_hi, Nat.reduceSub, ext_all]; rfl
  rw [hop]
  dsimp only
  simp (disch := omega) only [word, wordImm, word24, encA, encB, encC, encCorr, encAmac, encCchk, encAop, encAsum, encTmma, eword, btxWord, Stamp.word, VRow.word, memA, memB, memC, corrOp, hi16, ext_lo, ext_hi, Nat.reduceSub, ext_all, get_lo, get_hi, b1_get]
  first
    | rfl
    | (simp only [Nat.reduceAdd, Nat.reduceSub, ext_all]; rfl)
    | (simp only [span_frame, span_eword, span_eword0, span_xpush]; rfl)
    | (have ha := EOp.a_zero hw; rcases o with ⟨_, _, _, _, _, _, _⟩; cases ha; rfl)
    | (simp only [join_count]; have ha := EOp.a_zero hw; rcases o with ⟨_, _, _, _, _, _, _⟩; cases ha; rfl)

theorem Laws.RoundTrip.fsub (d : Reg) (b : Reg) (c : Reg) (p : Pfx) : Laws.RoundTrip.Statement (.fsub d b c p) := by
  intro sl w q h hw
  cases h
  unfold pick
  dsimp only
  unfold pickS
  have hop : (BitVec.extractLsb' 2 6 (word 0 c b d 0x31 false)).toNat = 49 := by
    simp (disch := omega) only [word, wordImm, word24, encA, encB, encC, encCorr, encAmac, encCchk, encAop, encAsum, encTmma, eword, btxWord, Stamp.word, VRow.word, ext_lo, ext_hi, Nat.reduceSub, ext_all]; rfl
  rw [hop]
  dsimp only
  simp (disch := omega) only [word, wordImm, word24, encA, encB, encC, encCorr, encAmac, encCchk, encAop, encAsum, encTmma, eword, btxWord, Stamp.word, VRow.word, memA, memB, memC, corrOp, hi16, ext_lo, ext_hi, Nat.reduceSub, ext_all, get_lo, get_hi, b1_get]
  first
    | rfl
    | (simp only [Nat.reduceAdd, Nat.reduceSub, ext_all]; rfl)
    | (simp only [span_frame, span_eword, span_eword0, span_xpush]; rfl)
    | (have ha := EOp.a_zero hw; rcases o with ⟨_, _, _, _, _, _, _⟩; cases ha; rfl)
    | (simp only [join_count]; have ha := EOp.a_zero hw; rcases o with ⟨_, _, _, _, _, _, _⟩; cases ha; rfl)

theorem Laws.RoundTrip.fmul (d : Reg) (b : Reg) (c : Reg) (p : Pfx) : Laws.RoundTrip.Statement (.fmul d b c p) := by
  intro sl w q h hw
  cases h
  unfold pick
  dsimp only
  unfold pickS
  have hop : (BitVec.extractLsb' 2 6 (word 0 c b d 0x32 false)).toNat = 50 := by
    simp (disch := omega) only [word, wordImm, word24, encA, encB, encC, encCorr, encAmac, encCchk, encAop, encAsum, encTmma, eword, btxWord, Stamp.word, VRow.word, ext_lo, ext_hi, Nat.reduceSub, ext_all]; rfl
  rw [hop]
  dsimp only
  simp (disch := omega) only [word, wordImm, word24, encA, encB, encC, encCorr, encAmac, encCchk, encAop, encAsum, encTmma, eword, btxWord, Stamp.word, VRow.word, memA, memB, memC, corrOp, hi16, ext_lo, ext_hi, Nat.reduceSub, ext_all, get_lo, get_hi, b1_get]
  first
    | rfl
    | (simp only [Nat.reduceAdd, Nat.reduceSub, ext_all]; rfl)
    | (simp only [span_frame, span_eword, span_eword0, span_xpush]; rfl)
    | (have ha := EOp.a_zero hw; rcases o with ⟨_, _, _, _, _, _, _⟩; cases ha; rfl)
    | (simp only [join_count]; have ha := EOp.a_zero hw; rcases o with ⟨_, _, _, _, _, _, _⟩; cases ha; rfl)

theorem Laws.RoundTrip.ffma (d : Reg) (b : Reg) (c : Reg) (e : Reg) (p : Pfx) : Laws.RoundTrip.Statement (.ffma d b c e p) := by
  intro sl w q h hw
  cases h
  unfold pick
  dsimp only
  unfold pickS
  have hop : (BitVec.extractLsb' 2 6 (word (0#4 ++ e) c b d 0x33 false)).toNat = 51 := by
    simp (disch := omega) only [word, wordImm, word24, encA, encB, encC, encCorr, encAmac, encCchk, encAop, encAsum, encTmma, eword, btxWord, Stamp.word, VRow.word, ext_lo, ext_hi, Nat.reduceSub, ext_all]; rfl
  rw [hop]
  dsimp only
  simp (disch := omega) only [word, wordImm, word24, encA, encB, encC, encCorr, encAmac, encCchk, encAop, encAsum, encTmma, eword, btxWord, Stamp.word, VRow.word, memA, memB, memC, corrOp, hi16, ext_lo, ext_hi, Nat.reduceSub, ext_all, get_lo, get_hi, b1_get]
  first
    | rfl
    | (simp only [Nat.reduceAdd, Nat.reduceSub, ext_all]; rfl)
    | (simp only [span_frame, span_eword, span_eword0, span_xpush]; rfl)
    | (have ha := EOp.a_zero hw; rcases o with ⟨_, _, _, _, _, _, _⟩; cases ha; rfl)
    | (simp only [join_count]; have ha := EOp.a_zero hw; rcases o with ⟨_, _, _, _, _, _, _⟩; cases ha; rfl)

theorem Laws.RoundTrip.fmin (d : Reg) (b : Reg) (c : Reg) : Laws.RoundTrip.Statement (.fmin d b c) := by
  intro sl w q h hw
  cases h
  unfold pick
  dsimp only
  unfold pickS
  have hop : (BitVec.extractLsb' 2 6 (word 0 c b d 0x34 false)).toNat = 52 := by
    simp (disch := omega) only [word, wordImm, word24, encA, encB, encC, encCorr, encAmac, encCchk, encAop, encAsum, encTmma, eword, btxWord, Stamp.word, VRow.word, ext_lo, ext_hi, Nat.reduceSub, ext_all]; rfl
  rw [hop]
  dsimp only
  simp (disch := omega) only [word, wordImm, word24, encA, encB, encC, encCorr, encAmac, encCchk, encAop, encAsum, encTmma, eword, btxWord, Stamp.word, VRow.word, memA, memB, memC, corrOp, hi16, ext_lo, ext_hi, Nat.reduceSub, ext_all, get_lo, get_hi, b1_get]
  first
    | rfl
    | (simp only [Nat.reduceAdd, Nat.reduceSub, ext_all]; rfl)
    | (simp only [span_frame, span_eword, span_eword0, span_xpush]; rfl)
    | (have ha := EOp.a_zero hw; rcases o with ⟨_, _, _, _, _, _, _⟩; cases ha; rfl)
    | (simp only [join_count]; have ha := EOp.a_zero hw; rcases o with ⟨_, _, _, _, _, _, _⟩; cases ha; rfl)

theorem Laws.RoundTrip.fmax (d : Reg) (b : Reg) (c : Reg) : Laws.RoundTrip.Statement (.fmax d b c) := by
  intro sl w q h hw
  cases h
  unfold pick
  dsimp only
  unfold pickS
  have hop : (BitVec.extractLsb' 2 6 (word 0 c b d 0x35 false)).toNat = 53 := by
    simp (disch := omega) only [word, wordImm, word24, encA, encB, encC, encCorr, encAmac, encCchk, encAop, encAsum, encTmma, eword, btxWord, Stamp.word, VRow.word, ext_lo, ext_hi, Nat.reduceSub, ext_all]; rfl
  rw [hop]
  dsimp only
  simp (disch := omega) only [word, wordImm, word24, encA, encB, encC, encCorr, encAmac, encCchk, encAop, encAsum, encTmma, eword, btxWord, Stamp.word, VRow.word, memA, memB, memC, corrOp, hi16, ext_lo, ext_hi, Nat.reduceSub, ext_all, get_lo, get_hi, b1_get]
  first
    | rfl
    | (simp only [Nat.reduceAdd, Nat.reduceSub, ext_all]; rfl)
    | (simp only [span_frame, span_eword, span_eword0, span_xpush]; rfl)
    | (have ha := EOp.a_zero hw; rcases o with ⟨_, _, _, _, _, _, _⟩; cases ha; rfl)
    | (simp only [join_count]; have ha := EOp.a_zero hw; rcases o with ⟨_, _, _, _, _, _, _⟩; cases ha; rfl)

theorem Laws.RoundTrip.fcmp (cc : BitVec 3) (d : Reg) (b : Reg) (c : Reg) : Laws.RoundTrip.Statement (.fcmp cc d b c) := by
  intro sl w q h hw
  cases h
  unfold pick
  dsimp only
  unfold pickS
  have hop : (BitVec.extractLsb' 2 6 (word (0#6 ++ cc) c b d 0x36 false)).toNat = 54 := by
    simp (disch := omega) only [word, wordImm, word24, encA, encB, encC, encCorr, encAmac, encCchk, encAop, encAsum, encTmma, eword, btxWord, Stamp.word, VRow.word, ext_lo, ext_hi, Nat.reduceSub, ext_all]; rfl
  rw [hop]
  dsimp only
  simp (disch := omega) only [word, wordImm, word24, encA, encB, encC, encCorr, encAmac, encCchk, encAop, encAsum, encTmma, eword, btxWord, Stamp.word, VRow.word, memA, memB, memC, corrOp, hi16, ext_lo, ext_hi, Nat.reduceSub, ext_all, get_lo, get_hi, b1_get]
  first
    | rfl
    | (simp only [Nat.reduceAdd, Nat.reduceSub, ext_all]; rfl)
    | (simp only [span_frame, span_eword, span_eword0, span_xpush]; rfl)
    | (have ha := EOp.a_zero hw; rcases o with ⟨_, _, _, _, _, _, _⟩; cases ha; rfl)
    | (simp only [join_count]; have ha := EOp.a_zero hw; rcases o with ⟨_, _, _, _, _, _, _⟩; cases ha; rfl)

theorem Laws.RoundTrip.fcvt (x : BitVec 4) (y : BitVec 4) (d : Reg) (b : Reg) (p : Pfx) : Laws.RoundTrip.Statement (.fcvt x y d b p) := by
  intro sl w q h hw
  cases h
  unfold pick
  dsimp only
  unfold pickS
  have hop : (BitVec.extractLsb' 2 6 (word (x ++ y ++ 0#1) 0 b d 0x37 false)).toNat = 55 := by
    simp (disch := omega) only [word, wordImm, word24, encA, encB, encC, encCorr, encAmac, encCchk, encAop, encAsum, encTmma, eword, btxWord, Stamp.word, VRow.word, ext_lo, ext_hi, Nat.reduceSub, ext_all]; rfl
  rw [hop]
  dsimp only
  simp (disch := omega) only [word, wordImm, word24, encA, encB, encC, encCorr, encAmac, encCchk, encAop, encAsum, encTmma, eword, btxWord, Stamp.word, VRow.word, memA, memB, memC, corrOp, hi16, ext_lo, ext_hi, Nat.reduceSub, ext_all, get_lo, get_hi, b1_get]
  first
    | rfl
    | (simp only [Nat.reduceAdd, Nat.reduceSub, ext_all]; rfl)
    | (simp only [span_frame, span_eword, span_eword0, span_xpush]; rfl)
    | (have ha := EOp.a_zero hw; rcases o with ⟨_, _, _, _, _, _, _⟩; cases ha; rfl)
    | (simp only [join_count]; have ha := EOp.a_zero hw; rcases o with ⟨_, _, _, _, _, _, _⟩; cases ha; rfl)

theorem Laws.RoundTrip.fclass (f : BitVec 4) (d : Reg) (b : Reg) : Laws.RoundTrip.Statement (.fclass f d b) := by
  intro sl w q h hw
  cases h
  unfold pick
  dsimp only
  unfold pickS
  have hop : (BitVec.extractLsb' 2 6 (word (f ++ 0#5) 0 b d 0x38 false)).toNat = 56 := by
    simp (disch := omega) only [word, wordImm, word24, encA, encB, encC, encCorr, encAmac, encCchk, encAop, encAsum, encTmma, eword, btxWord, Stamp.word, VRow.word, ext_lo, ext_hi, Nat.reduceSub, ext_all]; rfl
  rw [hop]
  dsimp only
  simp (disch := omega) only [word, wordImm, word24, encA, encB, encC, encCorr, encAmac, encCchk, encAop, encAsum, encTmma, eword, btxWord, Stamp.word, VRow.word, memA, memB, memC, corrOp, hi16, ext_lo, ext_hi, Nat.reduceSub, ext_all, get_lo, get_hi, b1_get]
  first
    | rfl
    | (simp only [Nat.reduceAdd, Nat.reduceSub, ext_all]; rfl)
    | (simp only [span_frame, span_eword, span_eword0, span_xpush]; rfl)
    | (have ha := EOp.a_zero hw; rcases o with ⟨_, _, _, _, _, _, _⟩; cases ha; rfl)
    | (simp only [join_count]; have ha := EOp.a_zero hw; rcases o with ⟨_, _, _, _, _, _, _⟩; cases ha; rfl)

theorem Laws.RoundTrip.rds (n : BitVec 9) (d : Reg) : Laws.RoundTrip.Statement (.rds n d) := by
  intro sl w q h hw
  cases h
  unfold pick
  dsimp only
  unfold pickS
  have hop : (BitVec.extractLsb' 2 6 (word n 0 0 d 0x39 false)).toNat = 57 := by
    simp (disch := omega) only [word, wordImm, word24, encA, encB, encC, encCorr, encAmac, encCchk, encAop, encAsum, encTmma, eword, btxWord, Stamp.word, VRow.word, ext_lo, ext_hi, Nat.reduceSub, ext_all]; rfl
  rw [hop]
  dsimp only
  simp (disch := omega) only [word, wordImm, word24, encA, encB, encC, encCorr, encAmac, encCchk, encAop, encAsum, encTmma, eword, btxWord, Stamp.word, VRow.word, memA, memB, memC, corrOp, hi16, ext_lo, ext_hi, Nat.reduceSub, ext_all, get_lo, get_hi, b1_get]
  first
    | rfl
    | (simp only [Nat.reduceAdd, Nat.reduceSub, ext_all]; rfl)
    | (simp only [span_frame, span_eword, span_eword0, span_xpush]; rfl)
    | (have ha := EOp.a_zero hw; rcases o with ⟨_, _, _, _, _, _, _⟩; cases ha; rfl)
    | (simp only [join_count]; have ha := EOp.a_zero hw; rcases o with ⟨_, _, _, _, _, _, _⟩; cases ha; rfl)

theorem Laws.RoundTrip.wrs (n : BitVec 9) (b : Reg) : Laws.RoundTrip.Statement (.wrs n b) := by
  intro sl w q h hw
  cases h
  unfold pick
  dsimp only
  unfold pickS
  have hop : (BitVec.extractLsb' 2 6 (word n 0 b 0 0x3A false)).toNat = 58 := by
    simp (disch := omega) only [word, wordImm, word24, encA, encB, encC, encCorr, encAmac, encCchk, encAop, encAsum, encTmma, eword, btxWord, Stamp.word, VRow.word, ext_lo, ext_hi, Nat.reduceSub, ext_all]; rfl
  rw [hop]
  dsimp only
  simp (disch := omega) only [word, wordImm, word24, encA, encB, encC, encCorr, encAmac, encCchk, encAop, encAsum, encTmma, eword, btxWord, Stamp.word, VRow.word, memA, memB, memC, corrOp, hi16, ext_lo, ext_hi, Nat.reduceSub, ext_all, get_lo, get_hi, b1_get]
  first
    | rfl
    | (simp only [Nat.reduceAdd, Nat.reduceSub, ext_all]; rfl)
    | (simp only [span_frame, span_eword, span_eword0, span_xpush]; rfl)
    | (have ha := EOp.a_zero hw; rcases o with ⟨_, _, _, _, _, _, _⟩; cases ha; rfl)
    | (simp only [join_count]; have ha := EOp.a_zero hw; rcases o with ⟨_, _, _, _, _, _, _⟩; cases ha; rfl)

theorem Laws.RoundTrip.taddT (o : VOp) : Laws.RoundTrip.Statement (.taddT o) := by
  intro sl w q h hw
  cases h
  show pickVF vKindV (word (o.ty ++ o.var ++ b1 true) o.c o.b o.a 1#6 false) none o.p = _
  unfold pickVF
  have hop : (BitVec.extractLsb' 2 6 (word (o.ty ++ o.var ++ b1 true) o.c o.b o.a 1#6 false)).toNat = 1 := by
    simp (disch := omega) only [word, ext_lo, ext_hi, Nat.reduceSub, ext_all]; rfl
  rw [hop]
  dsimp only [vKindV]
  simp (disch := omega) only [word, VRow.word, ext_lo, ext_hi, Nat.reduceSub, ext_all, get_lo, get_hi, b1_get]
  rfl

theorem Laws.RoundTrip.taddR (o : VOp) (r : VRow) : Laws.RoundTrip.Statement (.taddR o r) := by
  intro sl w q h hw
  cases h
  show pickVF vKindV (word (o.ty ++ o.var ++ b1 false) o.c o.b o.a 1#6 true) (some r.word) o.p = _
  unfold pickVF
  have hop : (BitVec.extractLsb' 2 6 (word (o.ty ++ o.var ++ b1 false) o.c o.b o.a 1#6 true)).toNat = 1 := by
    simp (disch := omega) only [word, ext_lo, ext_hi, Nat.reduceSub, ext_all]; rfl
  rw [hop]
  dsimp only [vKindV]
  simp (disch := omega) only [word, VRow.word, ext_lo, ext_hi, Nat.reduceSub, ext_all, get_lo, get_hi, b1_get]
  rfl

theorem Laws.RoundTrip.tsubT (o : VOp) : Laws.RoundTrip.Statement (.tsubT o) := by
  intro sl w q h hw
  cases h
  show pickVF vKindV (word (o.ty ++ o.var ++ b1 true) o.c o.b o.a 2#6 false) none o.p = _
  unfold pickVF
  have hop : (BitVec.extractLsb' 2 6 (word (o.ty ++ o.var ++ b1 true) o.c o.b o.a 2#6 false)).toNat = 2 := by
    simp (disch := omega) only [word, ext_lo, ext_hi, Nat.reduceSub, ext_all]; rfl
  rw [hop]
  dsimp only [vKindV]
  simp (disch := omega) only [word, VRow.word, ext_lo, ext_hi, Nat.reduceSub, ext_all, get_lo, get_hi, b1_get]
  rfl

theorem Laws.RoundTrip.tsubR (o : VOp) (r : VRow) : Laws.RoundTrip.Statement (.tsubR o r) := by
  intro sl w q h hw
  cases h
  show pickVF vKindV (word (o.ty ++ o.var ++ b1 false) o.c o.b o.a 2#6 true) (some r.word) o.p = _
  unfold pickVF
  have hop : (BitVec.extractLsb' 2 6 (word (o.ty ++ o.var ++ b1 false) o.c o.b o.a 2#6 true)).toNat = 2 := by
    simp (disch := omega) only [word, ext_lo, ext_hi, Nat.reduceSub, ext_all]; rfl
  rw [hop]
  dsimp only [vKindV]
  simp (disch := omega) only [word, VRow.word, ext_lo, ext_hi, Nat.reduceSub, ext_all, get_lo, get_hi, b1_get]
  rfl

theorem Laws.RoundTrip.tmulT (o : VOp) : Laws.RoundTrip.Statement (.tmulT o) := by
  intro sl w q h hw
  cases h
  show pickVF vKindV (word (o.ty ++ o.var ++ b1 true) o.c o.b o.a 3#6 false) none o.p = _
  unfold pickVF
  have hop : (BitVec.extractLsb' 2 6 (word (o.ty ++ o.var ++ b1 true) o.c o.b o.a 3#6 false)).toNat = 3 := by
    simp (disch := omega) only [word, ext_lo, ext_hi, Nat.reduceSub, ext_all]; rfl
  rw [hop]
  dsimp only [vKindV]
  simp (disch := omega) only [word, VRow.word, ext_lo, ext_hi, Nat.reduceSub, ext_all, get_lo, get_hi, b1_get]
  rfl

theorem Laws.RoundTrip.tmulR (o : VOp) (r : VRow) : Laws.RoundTrip.Statement (.tmulR o r) := by
  intro sl w q h hw
  cases h
  show pickVF vKindV (word (o.ty ++ o.var ++ b1 false) o.c o.b o.a 3#6 true) (some r.word) o.p = _
  unfold pickVF
  have hop : (BitVec.extractLsb' 2 6 (word (o.ty ++ o.var ++ b1 false) o.c o.b o.a 3#6 true)).toNat = 3 := by
    simp (disch := omega) only [word, ext_lo, ext_hi, Nat.reduceSub, ext_all]; rfl
  rw [hop]
  dsimp only [vKindV]
  simp (disch := omega) only [word, VRow.word, ext_lo, ext_hi, Nat.reduceSub, ext_all, get_lo, get_hi, b1_get]
  rfl

theorem Laws.RoundTrip.tfmaT (o : VOp) (r : VRow) : Laws.RoundTrip.Statement (.tfmaT o r) := by
  intro sl w q h hw
  cases h
  show pickVF vKindV (word (o.ty ++ o.var ++ b1 true) o.c o.b o.a 4#6 true) (some r.word) o.p = _
  unfold pickVF
  have hop : (BitVec.extractLsb' 2 6 (word (o.ty ++ o.var ++ b1 true) o.c o.b o.a 4#6 true)).toNat = 4 := by
    simp (disch := omega) only [word, ext_lo, ext_hi, Nat.reduceSub, ext_all]; rfl
  rw [hop]
  dsimp only [vKindV]
  simp (disch := omega) only [word, VRow.word, ext_lo, ext_hi, Nat.reduceSub, ext_all, get_lo, get_hi, b1_get]
  rfl

theorem Laws.RoundTrip.tfmaR (o : VOp) (r : VRow) : Laws.RoundTrip.Statement (.tfmaR o r) := by
  intro sl w q h hw
  cases h
  show pickVF vKindV (word (o.ty ++ o.var ++ b1 false) o.c o.b o.a 4#6 true) (some r.word) o.p = _
  unfold pickVF
  have hop : (BitVec.extractLsb' 2 6 (word (o.ty ++ o.var ++ b1 false) o.c o.b o.a 4#6 true)).toNat = 4 := by
    simp (disch := omega) only [word, ext_lo, ext_hi, Nat.reduceSub, ext_all]; rfl
  rw [hop]
  dsimp only [vKindV]
  simp (disch := omega) only [word, VRow.word, ext_lo, ext_hi, Nat.reduceSub, ext_all, get_lo, get_hi, b1_get]
  rfl

theorem Laws.RoundTrip.tfmsT (o : VOp) (r : VRow) : Laws.RoundTrip.Statement (.tfmsT o r) := by
  intro sl w q h hw
  cases h
  show pickVF vKindV (word (o.ty ++ o.var ++ b1 true) o.c o.b o.a 5#6 true) (some r.word) o.p = _
  unfold pickVF
  have hop : (BitVec.extractLsb' 2 6 (word (o.ty ++ o.var ++ b1 true) o.c o.b o.a 5#6 true)).toNat = 5 := by
    simp (disch := omega) only [word, ext_lo, ext_hi, Nat.reduceSub, ext_all]; rfl
  rw [hop]
  dsimp only [vKindV]
  simp (disch := omega) only [word, VRow.word, ext_lo, ext_hi, Nat.reduceSub, ext_all, get_lo, get_hi, b1_get]
  rfl

theorem Laws.RoundTrip.tfmsR (o : VOp) (r : VRow) : Laws.RoundTrip.Statement (.tfmsR o r) := by
  intro sl w q h hw
  cases h
  show pickVF vKindV (word (o.ty ++ o.var ++ b1 false) o.c o.b o.a 5#6 true) (some r.word) o.p = _
  unfold pickVF
  have hop : (BitVec.extractLsb' 2 6 (word (o.ty ++ o.var ++ b1 false) o.c o.b o.a 5#6 true)).toNat = 5 := by
    simp (disch := omega) only [word, ext_lo, ext_hi, Nat.reduceSub, ext_all]; rfl
  rw [hop]
  dsimp only [vKindV]
  simp (disch := omega) only [word, VRow.word, ext_lo, ext_hi, Nat.reduceSub, ext_all, get_lo, get_hi, b1_get]
  rfl

theorem Laws.RoundTrip.tminT (o : VOp) : Laws.RoundTrip.Statement (.tminT o) := by
  intro sl w q h hw
  cases h
  show pickVF vKindV (word (o.ty ++ o.var ++ b1 true) o.c o.b o.a 6#6 false) none o.p = _
  unfold pickVF
  have hop : (BitVec.extractLsb' 2 6 (word (o.ty ++ o.var ++ b1 true) o.c o.b o.a 6#6 false)).toNat = 6 := by
    simp (disch := omega) only [word, ext_lo, ext_hi, Nat.reduceSub, ext_all]; rfl
  rw [hop]
  dsimp only [vKindV]
  simp (disch := omega) only [word, VRow.word, ext_lo, ext_hi, Nat.reduceSub, ext_all, get_lo, get_hi, b1_get]
  rfl

theorem Laws.RoundTrip.tminR (o : VOp) (r : VRow) : Laws.RoundTrip.Statement (.tminR o r) := by
  intro sl w q h hw
  cases h
  show pickVF vKindV (word (o.ty ++ o.var ++ b1 false) o.c o.b o.a 6#6 true) (some r.word) o.p = _
  unfold pickVF
  have hop : (BitVec.extractLsb' 2 6 (word (o.ty ++ o.var ++ b1 false) o.c o.b o.a 6#6 true)).toNat = 6 := by
    simp (disch := omega) only [word, ext_lo, ext_hi, Nat.reduceSub, ext_all]; rfl
  rw [hop]
  dsimp only [vKindV]
  simp (disch := omega) only [word, VRow.word, ext_lo, ext_hi, Nat.reduceSub, ext_all, get_lo, get_hi, b1_get]
  rfl

theorem Laws.RoundTrip.tmaxT (o : VOp) : Laws.RoundTrip.Statement (.tmaxT o) := by
  intro sl w q h hw
  cases h
  show pickVF vKindV (word (o.ty ++ o.var ++ b1 true) o.c o.b o.a 7#6 false) none o.p = _
  unfold pickVF
  have hop : (BitVec.extractLsb' 2 6 (word (o.ty ++ o.var ++ b1 true) o.c o.b o.a 7#6 false)).toNat = 7 := by
    simp (disch := omega) only [word, ext_lo, ext_hi, Nat.reduceSub, ext_all]; rfl
  rw [hop]
  dsimp only [vKindV]
  simp (disch := omega) only [word, VRow.word, ext_lo, ext_hi, Nat.reduceSub, ext_all, get_lo, get_hi, b1_get]
  rfl

theorem Laws.RoundTrip.tmaxR (o : VOp) (r : VRow) : Laws.RoundTrip.Statement (.tmaxR o r) := by
  intro sl w q h hw
  cases h
  show pickVF vKindV (word (o.ty ++ o.var ++ b1 false) o.c o.b o.a 7#6 true) (some r.word) o.p = _
  unfold pickVF
  have hop : (BitVec.extractLsb' 2 6 (word (o.ty ++ o.var ++ b1 false) o.c o.b o.a 7#6 true)).toNat = 7 := by
    simp (disch := omega) only [word, ext_lo, ext_hi, Nat.reduceSub, ext_all]; rfl
  rw [hop]
  dsimp only [vKindV]
  simp (disch := omega) only [word, VRow.word, ext_lo, ext_hi, Nat.reduceSub, ext_all, get_lo, get_hi, b1_get]
  rfl

theorem Laws.RoundTrip.tabsT (o : VOp) : Laws.RoundTrip.Statement (.tabsT o) := by
  intro sl w q h hw
  cases h
  show pickVF vKindV (word (o.ty ++ o.var ++ b1 true) o.c o.b o.a 8#6 false) none o.p = _
  unfold pickVF
  have hop : (BitVec.extractLsb' 2 6 (word (o.ty ++ o.var ++ b1 true) o.c o.b o.a 8#6 false)).toNat = 8 := by
    simp (disch := omega) only [word, ext_lo, ext_hi, Nat.reduceSub, ext_all]; rfl
  rw [hop]
  dsimp only [vKindV]
  simp (disch := omega) only [word, VRow.word, ext_lo, ext_hi, Nat.reduceSub, ext_all, get_lo, get_hi, b1_get]
  rfl

theorem Laws.RoundTrip.tabsR (o : VOp) (r : VRow) : Laws.RoundTrip.Statement (.tabsR o r) := by
  intro sl w q h hw
  cases h
  show pickVF vKindV (word (o.ty ++ o.var ++ b1 false) o.c o.b o.a 8#6 true) (some r.word) o.p = _
  unfold pickVF
  have hop : (BitVec.extractLsb' 2 6 (word (o.ty ++ o.var ++ b1 false) o.c o.b o.a 8#6 true)).toNat = 8 := by
    simp (disch := omega) only [word, ext_lo, ext_hi, Nat.reduceSub, ext_all]; rfl
  rw [hop]
  dsimp only [vKindV]
  simp (disch := omega) only [word, VRow.word, ext_lo, ext_hi, Nat.reduceSub, ext_all, get_lo, get_hi, b1_get]
  rfl

theorem Laws.RoundTrip.tnegT (o : VOp) : Laws.RoundTrip.Statement (.tnegT o) := by
  intro sl w q h hw
  cases h
  show pickVF vKindV (word (o.ty ++ o.var ++ b1 true) o.c o.b o.a 9#6 false) none o.p = _
  unfold pickVF
  have hop : (BitVec.extractLsb' 2 6 (word (o.ty ++ o.var ++ b1 true) o.c o.b o.a 9#6 false)).toNat = 9 := by
    simp (disch := omega) only [word, ext_lo, ext_hi, Nat.reduceSub, ext_all]; rfl
  rw [hop]
  dsimp only [vKindV]
  simp (disch := omega) only [word, VRow.word, ext_lo, ext_hi, Nat.reduceSub, ext_all, get_lo, get_hi, b1_get]
  rfl

theorem Laws.RoundTrip.tnegR (o : VOp) (r : VRow) : Laws.RoundTrip.Statement (.tnegR o r) := by
  intro sl w q h hw
  cases h
  show pickVF vKindV (word (o.ty ++ o.var ++ b1 false) o.c o.b o.a 9#6 true) (some r.word) o.p = _
  unfold pickVF
  have hop : (BitVec.extractLsb' 2 6 (word (o.ty ++ o.var ++ b1 false) o.c o.b o.a 9#6 true)).toNat = 9 := by
    simp (disch := omega) only [word, ext_lo, ext_hi, Nat.reduceSub, ext_all]; rfl
  rw [hop]
  dsimp only [vKindV]
  simp (disch := omega) only [word, VRow.word, ext_lo, ext_hi, Nat.reduceSub, ext_all, get_lo, get_hi, b1_get]
  rfl

theorem Laws.RoundTrip.tandT (o : VOp) : Laws.RoundTrip.Statement (.tandT o) := by
  intro sl w q h hw
  cases h
  show pickVF vKindV (word (o.ty ++ o.var ++ b1 true) o.c o.b o.a 10#6 false) none o.p = _
  unfold pickVF
  have hop : (BitVec.extractLsb' 2 6 (word (o.ty ++ o.var ++ b1 true) o.c o.b o.a 10#6 false)).toNat = 10 := by
    simp (disch := omega) only [word, ext_lo, ext_hi, Nat.reduceSub, ext_all]; rfl
  rw [hop]
  dsimp only [vKindV]
  simp (disch := omega) only [word, VRow.word, ext_lo, ext_hi, Nat.reduceSub, ext_all, get_lo, get_hi, b1_get]
  rfl

theorem Laws.RoundTrip.tandR (o : VOp) (r : VRow) : Laws.RoundTrip.Statement (.tandR o r) := by
  intro sl w q h hw
  cases h
  show pickVF vKindV (word (o.ty ++ o.var ++ b1 false) o.c o.b o.a 10#6 true) (some r.word) o.p = _
  unfold pickVF
  have hop : (BitVec.extractLsb' 2 6 (word (o.ty ++ o.var ++ b1 false) o.c o.b o.a 10#6 true)).toNat = 10 := by
    simp (disch := omega) only [word, ext_lo, ext_hi, Nat.reduceSub, ext_all]; rfl
  rw [hop]
  dsimp only [vKindV]
  simp (disch := omega) only [word, VRow.word, ext_lo, ext_hi, Nat.reduceSub, ext_all, get_lo, get_hi, b1_get]
  rfl

theorem Laws.RoundTrip.torT (o : VOp) : Laws.RoundTrip.Statement (.torT o) := by
  intro sl w q h hw
  cases h
  show pickVF vKindV (word (o.ty ++ o.var ++ b1 true) o.c o.b o.a 11#6 false) none o.p = _
  unfold pickVF
  have hop : (BitVec.extractLsb' 2 6 (word (o.ty ++ o.var ++ b1 true) o.c o.b o.a 11#6 false)).toNat = 11 := by
    simp (disch := omega) only [word, ext_lo, ext_hi, Nat.reduceSub, ext_all]; rfl
  rw [hop]
  dsimp only [vKindV]
  simp (disch := omega) only [word, VRow.word, ext_lo, ext_hi, Nat.reduceSub, ext_all, get_lo, get_hi, b1_get]
  rfl

theorem Laws.RoundTrip.torR (o : VOp) (r : VRow) : Laws.RoundTrip.Statement (.torR o r) := by
  intro sl w q h hw
  cases h
  show pickVF vKindV (word (o.ty ++ o.var ++ b1 false) o.c o.b o.a 11#6 true) (some r.word) o.p = _
  unfold pickVF
  have hop : (BitVec.extractLsb' 2 6 (word (o.ty ++ o.var ++ b1 false) o.c o.b o.a 11#6 true)).toNat = 11 := by
    simp (disch := omega) only [word, ext_lo, ext_hi, Nat.reduceSub, ext_all]; rfl
  rw [hop]
  dsimp only [vKindV]
  simp (disch := omega) only [word, VRow.word, ext_lo, ext_hi, Nat.reduceSub, ext_all, get_lo, get_hi, b1_get]
  rfl

theorem Laws.RoundTrip.txorT (o : VOp) : Laws.RoundTrip.Statement (.txorT o) := by
  intro sl w q h hw
  cases h
  show pickVF vKindV (word (o.ty ++ o.var ++ b1 true) o.c o.b o.a 12#6 false) none o.p = _
  unfold pickVF
  have hop : (BitVec.extractLsb' 2 6 (word (o.ty ++ o.var ++ b1 true) o.c o.b o.a 12#6 false)).toNat = 12 := by
    simp (disch := omega) only [word, ext_lo, ext_hi, Nat.reduceSub, ext_all]; rfl
  rw [hop]
  dsimp only [vKindV]
  simp (disch := omega) only [word, VRow.word, ext_lo, ext_hi, Nat.reduceSub, ext_all, get_lo, get_hi, b1_get]
  rfl

theorem Laws.RoundTrip.txorR (o : VOp) (r : VRow) : Laws.RoundTrip.Statement (.txorR o r) := by
  intro sl w q h hw
  cases h
  show pickVF vKindV (word (o.ty ++ o.var ++ b1 false) o.c o.b o.a 12#6 true) (some r.word) o.p = _
  unfold pickVF
  have hop : (BitVec.extractLsb' 2 6 (word (o.ty ++ o.var ++ b1 false) o.c o.b o.a 12#6 true)).toNat = 12 := by
    simp (disch := omega) only [word, ext_lo, ext_hi, Nat.reduceSub, ext_all]; rfl
  rw [hop]
  dsimp only [vKindV]
  simp (disch := omega) only [word, VRow.word, ext_lo, ext_hi, Nat.reduceSub, ext_all, get_lo, get_hi, b1_get]
  rfl

theorem Laws.RoundTrip.tshlT (o : VOp) : Laws.RoundTrip.Statement (.tshlT o) := by
  intro sl w q h hw
  cases h
  show pickVF vKindV (word (o.ty ++ o.var ++ b1 true) o.c o.b o.a 13#6 false) none o.p = _
  unfold pickVF
  have hop : (BitVec.extractLsb' 2 6 (word (o.ty ++ o.var ++ b1 true) o.c o.b o.a 13#6 false)).toNat = 13 := by
    simp (disch := omega) only [word, ext_lo, ext_hi, Nat.reduceSub, ext_all]; rfl
  rw [hop]
  dsimp only [vKindV]
  simp (disch := omega) only [word, VRow.word, ext_lo, ext_hi, Nat.reduceSub, ext_all, get_lo, get_hi, b1_get]
  rfl

theorem Laws.RoundTrip.tshlR (o : VOp) (r : VRow) : Laws.RoundTrip.Statement (.tshlR o r) := by
  intro sl w q h hw
  cases h
  show pickVF vKindV (word (o.ty ++ o.var ++ b1 false) o.c o.b o.a 13#6 true) (some r.word) o.p = _
  unfold pickVF
  have hop : (BitVec.extractLsb' 2 6 (word (o.ty ++ o.var ++ b1 false) o.c o.b o.a 13#6 true)).toNat = 13 := by
    simp (disch := omega) only [word, ext_lo, ext_hi, Nat.reduceSub, ext_all]; rfl
  rw [hop]
  dsimp only [vKindV]
  simp (disch := omega) only [word, VRow.word, ext_lo, ext_hi, Nat.reduceSub, ext_all, get_lo, get_hi, b1_get]
  rfl

theorem Laws.RoundTrip.tshrT (o : VOp) : Laws.RoundTrip.Statement (.tshrT o) := by
  intro sl w q h hw
  cases h
  show pickVF vKindV (word (o.ty ++ o.var ++ b1 true) o.c o.b o.a 14#6 false) none o.p = _
  unfold pickVF
  have hop : (BitVec.extractLsb' 2 6 (word (o.ty ++ o.var ++ b1 true) o.c o.b o.a 14#6 false)).toNat = 14 := by
    simp (disch := omega) only [word, ext_lo, ext_hi, Nat.reduceSub, ext_all]; rfl
  rw [hop]
  dsimp only [vKindV]
  simp (disch := omega) only [word, VRow.word, ext_lo, ext_hi, Nat.reduceSub, ext_all, get_lo, get_hi, b1_get]
  rfl

theorem Laws.RoundTrip.tshrR (o : VOp) (r : VRow) : Laws.RoundTrip.Statement (.tshrR o r) := by
  intro sl w q h hw
  cases h
  show pickVF vKindV (word (o.ty ++ o.var ++ b1 false) o.c o.b o.a 14#6 true) (some r.word) o.p = _
  unfold pickVF
  have hop : (BitVec.extractLsb' 2 6 (word (o.ty ++ o.var ++ b1 false) o.c o.b o.a 14#6 true)).toNat = 14 := by
    simp (disch := omega) only [word, ext_lo, ext_hi, Nat.reduceSub, ext_all]; rfl
  rw [hop]
  dsimp only [vKindV]
  simp (disch := omega) only [word, VRow.word, ext_lo, ext_hi, Nat.reduceSub, ext_all, get_lo, get_hi, b1_get]
  rfl

theorem Laws.RoundTrip.tshraT (o : VOp) : Laws.RoundTrip.Statement (.tshraT o) := by
  intro sl w q h hw
  cases h
  show pickVF vKindV (word (o.ty ++ o.var ++ b1 true) o.c o.b o.a 15#6 false) none o.p = _
  unfold pickVF
  have hop : (BitVec.extractLsb' 2 6 (word (o.ty ++ o.var ++ b1 true) o.c o.b o.a 15#6 false)).toNat = 15 := by
    simp (disch := omega) only [word, ext_lo, ext_hi, Nat.reduceSub, ext_all]; rfl
  rw [hop]
  dsimp only [vKindV]
  simp (disch := omega) only [word, VRow.word, ext_lo, ext_hi, Nat.reduceSub, ext_all, get_lo, get_hi, b1_get]
  rfl

theorem Laws.RoundTrip.tshraR (o : VOp) (r : VRow) : Laws.RoundTrip.Statement (.tshraR o r) := by
  intro sl w q h hw
  cases h
  show pickVF vKindV (word (o.ty ++ o.var ++ b1 false) o.c o.b o.a 15#6 true) (some r.word) o.p = _
  unfold pickVF
  have hop : (BitVec.extractLsb' 2 6 (word (o.ty ++ o.var ++ b1 false) o.c o.b o.a 15#6 true)).toNat = 15 := by
    simp (disch := omega) only [word, ext_lo, ext_hi, Nat.reduceSub, ext_all]; rfl
  rw [hop]
  dsimp only [vKindV]
  simp (disch := omega) only [word, VRow.word, ext_lo, ext_hi, Nat.reduceSub, ext_all, get_lo, get_hi, b1_get]
  rfl

theorem Laws.RoundTrip.tcmpT (o : VOp) : Laws.RoundTrip.Statement (.tcmpT o) := by
  intro sl w q h hw
  cases h
  show pickVF vKindV (word (o.ty ++ o.var ++ b1 true) o.c o.b o.a 16#6 false) none o.p = _
  unfold pickVF
  have hop : (BitVec.extractLsb' 2 6 (word (o.ty ++ o.var ++ b1 true) o.c o.b o.a 16#6 false)).toNat = 16 := by
    simp (disch := omega) only [word, ext_lo, ext_hi, Nat.reduceSub, ext_all]; rfl
  rw [hop]
  dsimp only [vKindV]
  simp (disch := omega) only [word, VRow.word, ext_lo, ext_hi, Nat.reduceSub, ext_all, get_lo, get_hi, b1_get]
  rfl

theorem Laws.RoundTrip.tcmpR (o : VOp) (r : VRow) : Laws.RoundTrip.Statement (.tcmpR o r) := by
  intro sl w q h hw
  cases h
  show pickVF vKindV (word (o.ty ++ o.var ++ b1 false) o.c o.b o.a 16#6 true) (some r.word) o.p = _
  unfold pickVF
  have hop : (BitVec.extractLsb' 2 6 (word (o.ty ++ o.var ++ b1 false) o.c o.b o.a 16#6 true)).toNat = 16 := by
    simp (disch := omega) only [word, ext_lo, ext_hi, Nat.reduceSub, ext_all]; rfl
  rw [hop]
  dsimp only [vKindV]
  simp (disch := omega) only [word, VRow.word, ext_lo, ext_hi, Nat.reduceSub, ext_all, get_lo, get_hi, b1_get]
  rfl

theorem Laws.RoundTrip.tselT (o : VOp) (r : VRow) : Laws.RoundTrip.Statement (.tselT o r) := by
  intro sl w q h hw
  cases h
  show pickVF vKindV (word (o.ty ++ o.var ++ b1 true) o.c o.b o.a 17#6 true) (some r.word) o.p = _
  unfold pickVF
  have hop : (BitVec.extractLsb' 2 6 (word (o.ty ++ o.var ++ b1 true) o.c o.b o.a 17#6 true)).toNat = 17 := by
    simp (disch := omega) only [word, ext_lo, ext_hi, Nat.reduceSub, ext_all]; rfl
  rw [hop]
  dsimp only [vKindV]
  simp (disch := omega) only [word, VRow.word, ext_lo, ext_hi, Nat.reduceSub, ext_all, get_lo, get_hi, b1_get]
  rfl

theorem Laws.RoundTrip.tselR (o : VOp) (r : VRow) : Laws.RoundTrip.Statement (.tselR o r) := by
  intro sl w q h hw
  cases h
  show pickVF vKindV (word (o.ty ++ o.var ++ b1 false) o.c o.b o.a 17#6 true) (some r.word) o.p = _
  unfold pickVF
  have hop : (BitVec.extractLsb' 2 6 (word (o.ty ++ o.var ++ b1 false) o.c o.b o.a 17#6 true)).toNat = 17 := by
    simp (disch := omega) only [word, ext_lo, ext_hi, Nat.reduceSub, ext_all]; rfl
  rw [hop]
  dsimp only [vKindV]
  simp (disch := omega) only [word, VRow.word, ext_lo, ext_hi, Nat.reduceSub, ext_all, get_lo, get_hi, b1_get]
  rfl

theorem Laws.RoundTrip.tcvtT (o : VOp) (r : VRow) : Laws.RoundTrip.Statement (.tcvtT o r) := by
  intro sl w q h hw
  cases h
  show pickVF vKindV (word (o.ty ++ o.var ++ b1 true) o.c o.b o.a 18#6 true) (some r.word) o.p = _
  unfold pickVF
  have hop : (BitVec.extractLsb' 2 6 (word (o.ty ++ o.var ++ b1 true) o.c o.b o.a 18#6 true)).toNat = 18 := by
    simp (disch := omega) only [word, ext_lo, ext_hi, Nat.reduceSub, ext_all]; rfl
  rw [hop]
  dsimp only [vKindV]
  simp (disch := omega) only [word, VRow.word, ext_lo, ext_hi, Nat.reduceSub, ext_all, get_lo, get_hi, b1_get]
  rfl

theorem Laws.RoundTrip.tcvtR (o : VOp) (r : VRow) : Laws.RoundTrip.Statement (.tcvtR o r) := by
  intro sl w q h hw
  cases h
  show pickVF vKindV (word (o.ty ++ o.var ++ b1 false) o.c o.b o.a 18#6 true) (some r.word) o.p = _
  unfold pickVF
  have hop : (BitVec.extractLsb' 2 6 (word (o.ty ++ o.var ++ b1 false) o.c o.b o.a 18#6 true)).toNat = 18 := by
    simp (disch := omega) only [word, ext_lo, ext_hi, Nat.reduceSub, ext_all]; rfl
  rw [hop]
  dsimp only [vKindV]
  simp (disch := omega) only [word, VRow.word, ext_lo, ext_hi, Nat.reduceSub, ext_all, get_lo, get_hi, b1_get]
  rfl

theorem Laws.RoundTrip.tqntT (o : VOp) (r : VRow) : Laws.RoundTrip.Statement (.tqntT o r) := by
  intro sl w q h hw
  cases h
  show pickVF vKindV (word (o.ty ++ o.var ++ b1 true) o.c o.b o.a 19#6 true) (some r.word) o.p = _
  unfold pickVF
  have hop : (BitVec.extractLsb' 2 6 (word (o.ty ++ o.var ++ b1 true) o.c o.b o.a 19#6 true)).toNat = 19 := by
    simp (disch := omega) only [word, ext_lo, ext_hi, Nat.reduceSub, ext_all]; rfl
  rw [hop]
  dsimp only [vKindV]
  simp (disch := omega) only [word, VRow.word, ext_lo, ext_hi, Nat.reduceSub, ext_all, get_lo, get_hi, b1_get]
  rfl

theorem Laws.RoundTrip.tqntR (o : VOp) (r : VRow) : Laws.RoundTrip.Statement (.tqntR o r) := by
  intro sl w q h hw
  cases h
  show pickVF vKindV (word (o.ty ++ o.var ++ b1 false) o.c o.b o.a 19#6 true) (some r.word) o.p = _
  unfold pickVF
  have hop : (BitVec.extractLsb' 2 6 (word (o.ty ++ o.var ++ b1 false) o.c o.b o.a 19#6 true)).toNat = 19 := by
    simp (disch := omega) only [word, ext_lo, ext_hi, Nat.reduceSub, ext_all]; rfl
  rw [hop]
  dsimp only [vKindV]
  simp (disch := omega) only [word, VRow.word, ext_lo, ext_hi, Nat.reduceSub, ext_all, get_lo, get_hi, b1_get]
  rfl

theorem Laws.RoundTrip.tdqT (o : VOp) (r : VRow) : Laws.RoundTrip.Statement (.tdqT o r) := by
  intro sl w q h hw
  cases h
  show pickVF vKindV (word (o.ty ++ o.var ++ b1 true) o.c o.b o.a 20#6 true) (some r.word) o.p = _
  unfold pickVF
  have hop : (BitVec.extractLsb' 2 6 (word (o.ty ++ o.var ++ b1 true) o.c o.b o.a 20#6 true)).toNat = 20 := by
    simp (disch := omega) only [word, ext_lo, ext_hi, Nat.reduceSub, ext_all]; rfl
  rw [hop]
  dsimp only [vKindV]
  simp (disch := omega) only [word, VRow.word, ext_lo, ext_hi, Nat.reduceSub, ext_all, get_lo, get_hi, b1_get]
  rfl

theorem Laws.RoundTrip.tdqR (o : VOp) (r : VRow) : Laws.RoundTrip.Statement (.tdqR o r) := by
  intro sl w q h hw
  cases h
  show pickVF vKindV (word (o.ty ++ o.var ++ b1 false) o.c o.b o.a 20#6 true) (some r.word) o.p = _
  unfold pickVF
  have hop : (BitVec.extractLsb' 2 6 (word (o.ty ++ o.var ++ b1 false) o.c o.b o.a 20#6 true)).toNat = 20 := by
    simp (disch := omega) only [word, ext_lo, ext_hi, Nat.reduceSub, ext_all]; rfl
  rw [hop]
  dsimp only [vKindV]
  simp (disch := omega) only [word, VRow.word, ext_lo, ext_hi, Nat.reduceSub, ext_all, get_lo, get_hi, b1_get]
  rfl

theorem Laws.RoundTrip.tredT (o : VOp) : Laws.RoundTrip.Statement (.tredT o) := by
  intro sl w q h hw
  cases h
  show pickVF vKindV (word (o.ty ++ o.var ++ b1 true) o.c o.b o.a 21#6 false) none o.p = _
  unfold pickVF
  have hop : (BitVec.extractLsb' 2 6 (word (o.ty ++ o.var ++ b1 true) o.c o.b o.a 21#6 false)).toNat = 21 := by
    simp (disch := omega) only [word, ext_lo, ext_hi, Nat.reduceSub, ext_all]; rfl
  rw [hop]
  dsimp only [vKindV]
  simp (disch := omega) only [word, VRow.word, ext_lo, ext_hi, Nat.reduceSub, ext_all, get_lo, get_hi, b1_get]
  rfl

theorem Laws.RoundTrip.tredR (o : VOp) (r : VRow) : Laws.RoundTrip.Statement (.tredR o r) := by
  intro sl w q h hw
  cases h
  show pickVF vKindV (word (o.ty ++ o.var ++ b1 false) o.c o.b o.a 21#6 true) (some r.word) o.p = _
  unfold pickVF
  have hop : (BitVec.extractLsb' 2 6 (word (o.ty ++ o.var ++ b1 false) o.c o.b o.a 21#6 true)).toNat = 21 := by
    simp (disch := omega) only [word, ext_lo, ext_hi, Nat.reduceSub, ext_all]; rfl
  rw [hop]
  dsimp only [vKindV]
  simp (disch := omega) only [word, VRow.word, ext_lo, ext_hi, Nat.reduceSub, ext_all, get_lo, get_hi, b1_get]
  rfl

theorem Laws.RoundTrip.tscanT (o : VOp) : Laws.RoundTrip.Statement (.tscanT o) := by
  intro sl w q h hw
  cases h
  show pickVF vKindV (word (o.ty ++ o.var ++ b1 true) o.c o.b o.a 22#6 false) none o.p = _
  unfold pickVF
  have hop : (BitVec.extractLsb' 2 6 (word (o.ty ++ o.var ++ b1 true) o.c o.b o.a 22#6 false)).toNat = 22 := by
    simp (disch := omega) only [word, ext_lo, ext_hi, Nat.reduceSub, ext_all]; rfl
  rw [hop]
  dsimp only [vKindV]
  simp (disch := omega) only [word, VRow.word, ext_lo, ext_hi, Nat.reduceSub, ext_all, get_lo, get_hi, b1_get]
  rfl

theorem Laws.RoundTrip.tscanR (o : VOp) (r : VRow) : Laws.RoundTrip.Statement (.tscanR o r) := by
  intro sl w q h hw
  cases h
  show pickVF vKindV (word (o.ty ++ o.var ++ b1 false) o.c o.b o.a 22#6 true) (some r.word) o.p = _
  unfold pickVF
  have hop : (BitVec.extractLsb' 2 6 (word (o.ty ++ o.var ++ b1 false) o.c o.b o.a 22#6 true)).toNat = 22 := by
    simp (disch := omega) only [word, ext_lo, ext_hi, Nat.reduceSub, ext_all]; rfl
  rw [hop]
  dsimp only [vKindV]
  simp (disch := omega) only [word, VRow.word, ext_lo, ext_hi, Nat.reduceSub, ext_all, get_lo, get_hi, b1_get]
  rfl

theorem Laws.RoundTrip.tbcstT (o : VOp) : Laws.RoundTrip.Statement (.tbcstT o) := by
  intro sl w q h hw
  cases h
  show pickVF vKindV (word (o.ty ++ o.var ++ b1 true) o.c o.b o.a 23#6 false) none o.p = _
  unfold pickVF
  have hop : (BitVec.extractLsb' 2 6 (word (o.ty ++ o.var ++ b1 true) o.c o.b o.a 23#6 false)).toNat = 23 := by
    simp (disch := omega) only [word, ext_lo, ext_hi, Nat.reduceSub, ext_all]; rfl
  rw [hop]
  dsimp only [vKindV]
  simp (disch := omega) only [word, VRow.word, ext_lo, ext_hi, Nat.reduceSub, ext_all, get_lo, get_hi, b1_get]
  rfl

theorem Laws.RoundTrip.tbcstR (o : VOp) (r : VRow) : Laws.RoundTrip.Statement (.tbcstR o r) := by
  intro sl w q h hw
  cases h
  show pickVF vKindV (word (o.ty ++ o.var ++ b1 false) o.c o.b o.a 23#6 true) (some r.word) o.p = _
  unfold pickVF
  have hop : (BitVec.extractLsb' 2 6 (word (o.ty ++ o.var ++ b1 false) o.c o.b o.a 23#6 true)).toNat = 23 := by
    simp (disch := omega) only [word, ext_lo, ext_hi, Nat.reduceSub, ext_all]; rfl
  rw [hop]
  dsimp only [vKindV]
  simp (disch := omega) only [word, VRow.word, ext_lo, ext_hi, Nat.reduceSub, ext_all, get_lo, get_hi, b1_get]
  rfl

theorem Laws.RoundTrip.tinsR (o : VOp) (r : VRow) : Laws.RoundTrip.Statement (.tinsR o r) := by
  intro sl w q h hw
  cases h
  show pickVF vKindV (word (o.ty ++ o.var ++ b1 false) o.c o.b o.a 24#6 true) (some r.word) o.p = _
  unfold pickVF
  have hop : (BitVec.extractLsb' 2 6 (word (o.ty ++ o.var ++ b1 false) o.c o.b o.a 24#6 true)).toNat = 24 := by
    simp (disch := omega) only [word, ext_lo, ext_hi, Nat.reduceSub, ext_all]; rfl
  rw [hop]
  dsimp only [vKindV]
  simp (disch := omega) only [word, VRow.word, ext_lo, ext_hi, Nat.reduceSub, ext_all, get_lo, get_hi, b1_get]
  rfl

theorem Laws.RoundTrip.textT (o : VOp) : Laws.RoundTrip.Statement (.textT o) := by
  intro sl w q h hw
  cases h
  show pickVF vKindV (word (o.ty ++ o.var ++ b1 true) o.c o.b o.a 25#6 false) none o.p = _
  unfold pickVF
  have hop : (BitVec.extractLsb' 2 6 (word (o.ty ++ o.var ++ b1 true) o.c o.b o.a 25#6 false)).toNat = 25 := by
    simp (disch := omega) only [word, ext_lo, ext_hi, Nat.reduceSub, ext_all]; rfl
  rw [hop]
  dsimp only [vKindV]
  simp (disch := omega) only [word, VRow.word, ext_lo, ext_hi, Nat.reduceSub, ext_all, get_lo, get_hi, b1_get]
  rfl

theorem Laws.RoundTrip.textR (o : VOp) (r : VRow) : Laws.RoundTrip.Statement (.textR o r) := by
  intro sl w q h hw
  cases h
  show pickVF vKindV (word (o.ty ++ o.var ++ b1 false) o.c o.b o.a 25#6 true) (some r.word) o.p = _
  unfold pickVF
  have hop : (BitVec.extractLsb' 2 6 (word (o.ty ++ o.var ++ b1 false) o.c o.b o.a 25#6 true)).toNat = 25 := by
    simp (disch := omega) only [word, ext_lo, ext_hi, Nat.reduceSub, ext_all]; rfl
  rw [hop]
  dsimp only [vKindV]
  simp (disch := omega) only [word, VRow.word, ext_lo, ext_hi, Nat.reduceSub, ext_all, get_lo, get_hi, b1_get]
  rfl

theorem Laws.RoundTrip.tpermT (o : VOp) : Laws.RoundTrip.Statement (.tpermT o) := by
  intro sl w q h hw
  cases h
  show pickVF vKindV (word (o.ty ++ o.var ++ b1 true) o.c o.b o.a 26#6 false) none o.p = _
  unfold pickVF
  have hop : (BitVec.extractLsb' 2 6 (word (o.ty ++ o.var ++ b1 true) o.c o.b o.a 26#6 false)).toNat = 26 := by
    simp (disch := omega) only [word, ext_lo, ext_hi, Nat.reduceSub, ext_all]; rfl
  rw [hop]
  dsimp only [vKindV]
  simp (disch := omega) only [word, VRow.word, ext_lo, ext_hi, Nat.reduceSub, ext_all, get_lo, get_hi, b1_get]
  rfl

theorem Laws.RoundTrip.tpermR (o : VOp) (r : VRow) : Laws.RoundTrip.Statement (.tpermR o r) := by
  intro sl w q h hw
  cases h
  show pickVF vKindV (word (o.ty ++ o.var ++ b1 false) o.c o.b o.a 26#6 true) (some r.word) o.p = _
  unfold pickVF
  have hop : (BitVec.extractLsb' 2 6 (word (o.ty ++ o.var ++ b1 false) o.c o.b o.a 26#6 true)).toNat = 26 := by
    simp (disch := omega) only [word, ext_lo, ext_hi, Nat.reduceSub, ext_all]; rfl
  rw [hop]
  dsimp only [vKindV]
  simp (disch := omega) only [word, VRow.word, ext_lo, ext_hi, Nat.reduceSub, ext_all, get_lo, get_hi, b1_get]
  rfl

theorem Laws.RoundTrip.ttrnT (o : VOp) : Laws.RoundTrip.Statement (.ttrnT o) := by
  intro sl w q h hw
  cases h
  show pickVF vKindV (word (o.ty ++ o.var ++ b1 true) o.c o.b o.a 27#6 false) none o.p = _
  unfold pickVF
  have hop : (BitVec.extractLsb' 2 6 (word (o.ty ++ o.var ++ b1 true) o.c o.b o.a 27#6 false)).toNat = 27 := by
    simp (disch := omega) only [word, ext_lo, ext_hi, Nat.reduceSub, ext_all]; rfl
  rw [hop]
  dsimp only [vKindV]
  simp (disch := omega) only [word, VRow.word, ext_lo, ext_hi, Nat.reduceSub, ext_all, get_lo, get_hi, b1_get]
  rfl

theorem Laws.RoundTrip.ttrnR (o : VOp) (r : VRow) : Laws.RoundTrip.Statement (.ttrnR o r) := by
  intro sl w q h hw
  cases h
  show pickVF vKindV (word (o.ty ++ o.var ++ b1 false) o.c o.b o.a 27#6 true) (some r.word) o.p = _
  unfold pickVF
  have hop : (BitVec.extractLsb' 2 6 (word (o.ty ++ o.var ++ b1 false) o.c o.b o.a 27#6 true)).toNat = 27 := by
    simp (disch := omega) only [word, ext_lo, ext_hi, Nat.reduceSub, ext_all]; rfl
  rw [hop]
  dsimp only [vKindV]
  simp (disch := omega) only [word, VRow.word, ext_lo, ext_hi, Nat.reduceSub, ext_all, get_lo, get_hi, b1_get]
  rfl

theorem Laws.RoundTrip.tzeroT (o : VOp) : Laws.RoundTrip.Statement (.tzeroT o) := by
  intro sl w q h hw
  cases h
  show pickVF vKindV (word (o.ty ++ o.var ++ b1 true) o.c o.b o.a 28#6 false) none o.p = _
  unfold pickVF
  have hop : (BitVec.extractLsb' 2 6 (word (o.ty ++ o.var ++ b1 true) o.c o.b o.a 28#6 false)).toNat = 28 := by
    simp (disch := omega) only [word, ext_lo, ext_hi, Nat.reduceSub, ext_all]; rfl
  rw [hop]
  dsimp only [vKindV]
  simp (disch := omega) only [word, VRow.word, ext_lo, ext_hi, Nat.reduceSub, ext_all, get_lo, get_hi, b1_get]
  rfl

theorem Laws.RoundTrip.tzeroR (o : VOp) (r : VRow) : Laws.RoundTrip.Statement (.tzeroR o r) := by
  intro sl w q h hw
  cases h
  show pickVF vKindV (word (o.ty ++ o.var ++ b1 false) o.c o.b o.a 28#6 true) (some r.word) o.p = _
  unfold pickVF
  have hop : (BitVec.extractLsb' 2 6 (word (o.ty ++ o.var ++ b1 false) o.c o.b o.a 28#6 true)).toNat = 28 := by
    simp (disch := omega) only [word, ext_lo, ext_hi, Nat.reduceSub, ext_all]; rfl
  rw [hop]
  dsimp only [vKindV]
  simp (disch := omega) only [word, VRow.word, ext_lo, ext_hi, Nat.reduceSub, ext_all, get_lo, get_hi, b1_get]
  rfl

theorem Laws.RoundTrip.tmovT (o : VOp) : Laws.RoundTrip.Statement (.tmovT o) := by
  intro sl w q h hw
  cases h
  show pickVF vKindV (word (o.ty ++ o.var ++ b1 true) o.c o.b o.a 29#6 false) none o.p = _
  unfold pickVF
  have hop : (BitVec.extractLsb' 2 6 (word (o.ty ++ o.var ++ b1 true) o.c o.b o.a 29#6 false)).toNat = 29 := by
    simp (disch := omega) only [word, ext_lo, ext_hi, Nat.reduceSub, ext_all]; rfl
  rw [hop]
  dsimp only [vKindV]
  simp (disch := omega) only [word, VRow.word, ext_lo, ext_hi, Nat.reduceSub, ext_all, get_lo, get_hi, b1_get]
  rfl

theorem Laws.RoundTrip.tmovR (o : VOp) (r : VRow) : Laws.RoundTrip.Statement (.tmovR o r) := by
  intro sl w q h hw
  cases h
  show pickVF vKindV (word (o.ty ++ o.var ++ b1 false) o.c o.b o.a 29#6 true) (some r.word) o.p = _
  unfold pickVF
  have hop : (BitVec.extractLsb' 2 6 (word (o.ty ++ o.var ++ b1 false) o.c o.b o.a 29#6 true)).toNat = 29 := by
    simp (disch := omega) only [word, ext_lo, ext_hi, Nat.reduceSub, ext_all]; rfl
  rw [hop]
  dsimp only [vKindV]
  simp (disch := omega) only [word, VRow.word, ext_lo, ext_hi, Nat.reduceSub, ext_all, get_lo, get_hi, b1_get]
  rfl

theorem Laws.RoundTrip.tshfT (o : VOp) : Laws.RoundTrip.Statement (.tshfT o) := by
  intro sl w q h hw
  cases h
  show pickVF vKindV (word (o.ty ++ o.var ++ b1 true) o.c o.b o.a 30#6 false) none o.p = _
  unfold pickVF
  have hop : (BitVec.extractLsb' 2 6 (word (o.ty ++ o.var ++ b1 true) o.c o.b o.a 30#6 false)).toNat = 30 := by
    simp (disch := omega) only [word, ext_lo, ext_hi, Nat.reduceSub, ext_all]; rfl
  rw [hop]
  dsimp only [vKindV]
  simp (disch := omega) only [word, VRow.word, ext_lo, ext_hi, Nat.reduceSub, ext_all, get_lo, get_hi, b1_get]
  rfl

theorem Laws.RoundTrip.tshfR (o : VOp) (r : VRow) : Laws.RoundTrip.Statement (.tshfR o r) := by
  intro sl w q h hw
  cases h
  show pickVF vKindV (word (o.ty ++ o.var ++ b1 false) o.c o.b o.a 30#6 true) (some r.word) o.p = _
  unfold pickVF
  have hop : (BitVec.extractLsb' 2 6 (word (o.ty ++ o.var ++ b1 false) o.c o.b o.a 30#6 true)).toNat = 30 := by
    simp (disch := omega) only [word, ext_lo, ext_hi, Nat.reduceSub, ext_all]; rfl
  rw [hop]
  dsimp only [vKindV]
  simp (disch := omega) only [word, VRow.word, ext_lo, ext_hi, Nat.reduceSub, ext_all, get_lo, get_hi, b1_get]
  rfl

theorem Laws.RoundTrip.fexp2T (o : VOp) : Laws.RoundTrip.Statement (.fexp2T o) := by
  intro sl w q h hw
  cases h
  show pickVF vKindF (word (o.ty ++ o.var ++ b1 true) o.c o.b o.a 1#6 false) none o.p = _
  unfold pickVF
  have hop : (BitVec.extractLsb' 2 6 (word (o.ty ++ o.var ++ b1 true) o.c o.b o.a 1#6 false)).toNat = 1 := by
    simp (disch := omega) only [word, ext_lo, ext_hi, Nat.reduceSub, ext_all]; rfl
  rw [hop]
  dsimp only [vKindF]
  simp (disch := omega) only [word, VRow.word, ext_lo, ext_hi, Nat.reduceSub, ext_all, get_lo, get_hi, b1_get]
  rfl

theorem Laws.RoundTrip.fexp2R (o : VOp) (r : VRow) : Laws.RoundTrip.Statement (.fexp2R o r) := by
  intro sl w q h hw
  cases h
  show pickVF vKindF (word (o.ty ++ o.var ++ b1 false) o.c o.b o.a 1#6 true) (some r.word) o.p = _
  unfold pickVF
  have hop : (BitVec.extractLsb' 2 6 (word (o.ty ++ o.var ++ b1 false) o.c o.b o.a 1#6 true)).toNat = 1 := by
    simp (disch := omega) only [word, ext_lo, ext_hi, Nat.reduceSub, ext_all]; rfl
  rw [hop]
  dsimp only [vKindF]
  simp (disch := omega) only [word, VRow.word, ext_lo, ext_hi, Nat.reduceSub, ext_all, get_lo, get_hi, b1_get]
  rfl

theorem Laws.RoundTrip.flog2T (o : VOp) : Laws.RoundTrip.Statement (.flog2T o) := by
  intro sl w q h hw
  cases h
  show pickVF vKindF (word (o.ty ++ o.var ++ b1 true) o.c o.b o.a 2#6 false) none o.p = _
  unfold pickVF
  have hop : (BitVec.extractLsb' 2 6 (word (o.ty ++ o.var ++ b1 true) o.c o.b o.a 2#6 false)).toNat = 2 := by
    simp (disch := omega) only [word, ext_lo, ext_hi, Nat.reduceSub, ext_all]; rfl
  rw [hop]
  dsimp only [vKindF]
  simp (disch := omega) only [word, VRow.word, ext_lo, ext_hi, Nat.reduceSub, ext_all, get_lo, get_hi, b1_get]
  rfl

theorem Laws.RoundTrip.flog2R (o : VOp) (r : VRow) : Laws.RoundTrip.Statement (.flog2R o r) := by
  intro sl w q h hw
  cases h
  show pickVF vKindF (word (o.ty ++ o.var ++ b1 false) o.c o.b o.a 2#6 true) (some r.word) o.p = _
  unfold pickVF
  have hop : (BitVec.extractLsb' 2 6 (word (o.ty ++ o.var ++ b1 false) o.c o.b o.a 2#6 true)).toNat = 2 := by
    simp (disch := omega) only [word, ext_lo, ext_hi, Nat.reduceSub, ext_all]; rfl
  rw [hop]
  dsimp only [vKindF]
  simp (disch := omega) only [word, VRow.word, ext_lo, ext_hi, Nat.reduceSub, ext_all, get_lo, get_hi, b1_get]
  rfl

theorem Laws.RoundTrip.frcpT (o : VOp) : Laws.RoundTrip.Statement (.frcpT o) := by
  intro sl w q h hw
  cases h
  show pickVF vKindF (word (o.ty ++ o.var ++ b1 true) o.c o.b o.a 3#6 false) none o.p = _
  unfold pickVF
  have hop : (BitVec.extractLsb' 2 6 (word (o.ty ++ o.var ++ b1 true) o.c o.b o.a 3#6 false)).toNat = 3 := by
    simp (disch := omega) only [word, ext_lo, ext_hi, Nat.reduceSub, ext_all]; rfl
  rw [hop]
  dsimp only [vKindF]
  simp (disch := omega) only [word, VRow.word, ext_lo, ext_hi, Nat.reduceSub, ext_all, get_lo, get_hi, b1_get]
  rfl

theorem Laws.RoundTrip.frcpR (o : VOp) (r : VRow) : Laws.RoundTrip.Statement (.frcpR o r) := by
  intro sl w q h hw
  cases h
  show pickVF vKindF (word (o.ty ++ o.var ++ b1 false) o.c o.b o.a 3#6 true) (some r.word) o.p = _
  unfold pickVF
  have hop : (BitVec.extractLsb' 2 6 (word (o.ty ++ o.var ++ b1 false) o.c o.b o.a 3#6 true)).toNat = 3 := by
    simp (disch := omega) only [word, ext_lo, ext_hi, Nat.reduceSub, ext_all]; rfl
  rw [hop]
  dsimp only [vKindF]
  simp (disch := omega) only [word, VRow.word, ext_lo, ext_hi, Nat.reduceSub, ext_all, get_lo, get_hi, b1_get]
  rfl

theorem Laws.RoundTrip.frsqT (o : VOp) : Laws.RoundTrip.Statement (.frsqT o) := by
  intro sl w q h hw
  cases h
  show pickVF vKindF (word (o.ty ++ o.var ++ b1 true) o.c o.b o.a 4#6 false) none o.p = _
  unfold pickVF
  have hop : (BitVec.extractLsb' 2 6 (word (o.ty ++ o.var ++ b1 true) o.c o.b o.a 4#6 false)).toNat = 4 := by
    simp (disch := omega) only [word, ext_lo, ext_hi, Nat.reduceSub, ext_all]; rfl
  rw [hop]
  dsimp only [vKindF]
  simp (disch := omega) only [word, VRow.word, ext_lo, ext_hi, Nat.reduceSub, ext_all, get_lo, get_hi, b1_get]
  rfl

theorem Laws.RoundTrip.frsqR (o : VOp) (r : VRow) : Laws.RoundTrip.Statement (.frsqR o r) := by
  intro sl w q h hw
  cases h
  show pickVF vKindF (word (o.ty ++ o.var ++ b1 false) o.c o.b o.a 4#6 true) (some r.word) o.p = _
  unfold pickVF
  have hop : (BitVec.extractLsb' 2 6 (word (o.ty ++ o.var ++ b1 false) o.c o.b o.a 4#6 true)).toNat = 4 := by
    simp (disch := omega) only [word, ext_lo, ext_hi, Nat.reduceSub, ext_all]; rfl
  rw [hop]
  dsimp only [vKindF]
  simp (disch := omega) only [word, VRow.word, ext_lo, ext_hi, Nat.reduceSub, ext_all, get_lo, get_hi, b1_get]
  rfl

theorem Laws.RoundTrip.fsqrtT (o : VOp) : Laws.RoundTrip.Statement (.fsqrtT o) := by
  intro sl w q h hw
  cases h
  show pickVF vKindF (word (o.ty ++ o.var ++ b1 true) o.c o.b o.a 5#6 false) none o.p = _
  unfold pickVF
  have hop : (BitVec.extractLsb' 2 6 (word (o.ty ++ o.var ++ b1 true) o.c o.b o.a 5#6 false)).toNat = 5 := by
    simp (disch := omega) only [word, ext_lo, ext_hi, Nat.reduceSub, ext_all]; rfl
  rw [hop]
  dsimp only [vKindF]
  simp (disch := omega) only [word, VRow.word, ext_lo, ext_hi, Nat.reduceSub, ext_all, get_lo, get_hi, b1_get]
  rfl

theorem Laws.RoundTrip.fsqrtR (o : VOp) (r : VRow) : Laws.RoundTrip.Statement (.fsqrtR o r) := by
  intro sl w q h hw
  cases h
  show pickVF vKindF (word (o.ty ++ o.var ++ b1 false) o.c o.b o.a 5#6 true) (some r.word) o.p = _
  unfold pickVF
  have hop : (BitVec.extractLsb' 2 6 (word (o.ty ++ o.var ++ b1 false) o.c o.b o.a 5#6 true)).toNat = 5 := by
    simp (disch := omega) only [word, ext_lo, ext_hi, Nat.reduceSub, ext_all]; rfl
  rw [hop]
  dsimp only [vKindF]
  simp (disch := omega) only [word, VRow.word, ext_lo, ext_hi, Nat.reduceSub, ext_all, get_lo, get_hi, b1_get]
  rfl

theorem Laws.RoundTrip.fdivtT (o : VOp) : Laws.RoundTrip.Statement (.fdivtT o) := by
  intro sl w q h hw
  cases h
  show pickVF vKindF (word (o.ty ++ o.var ++ b1 true) o.c o.b o.a 6#6 false) none o.p = _
  unfold pickVF
  have hop : (BitVec.extractLsb' 2 6 (word (o.ty ++ o.var ++ b1 true) o.c o.b o.a 6#6 false)).toNat = 6 := by
    simp (disch := omega) only [word, ext_lo, ext_hi, Nat.reduceSub, ext_all]; rfl
  rw [hop]
  dsimp only [vKindF]
  simp (disch := omega) only [word, VRow.word, ext_lo, ext_hi, Nat.reduceSub, ext_all, get_lo, get_hi, b1_get]
  rfl

theorem Laws.RoundTrip.fdivtR (o : VOp) (r : VRow) : Laws.RoundTrip.Statement (.fdivtR o r) := by
  intro sl w q h hw
  cases h
  show pickVF vKindF (word (o.ty ++ o.var ++ b1 false) o.c o.b o.a 6#6 true) (some r.word) o.p = _
  unfold pickVF
  have hop : (BitVec.extractLsb' 2 6 (word (o.ty ++ o.var ++ b1 false) o.c o.b o.a 6#6 true)).toNat = 6 := by
    simp (disch := omega) only [word, ext_lo, ext_hi, Nat.reduceSub, ext_all]; rfl
  rw [hop]
  dsimp only [vKindF]
  simp (disch := omega) only [word, VRow.word, ext_lo, ext_hi, Nat.reduceSub, ext_all, get_lo, get_hi, b1_get]
  rfl

theorem Laws.RoundTrip.ftanhT (o : VOp) : Laws.RoundTrip.Statement (.ftanhT o) := by
  intro sl w q h hw
  cases h
  show pickVF vKindF (word (o.ty ++ o.var ++ b1 true) o.c o.b o.a 7#6 false) none o.p = _
  unfold pickVF
  have hop : (BitVec.extractLsb' 2 6 (word (o.ty ++ o.var ++ b1 true) o.c o.b o.a 7#6 false)).toNat = 7 := by
    simp (disch := omega) only [word, ext_lo, ext_hi, Nat.reduceSub, ext_all]; rfl
  rw [hop]
  dsimp only [vKindF]
  simp (disch := omega) only [word, VRow.word, ext_lo, ext_hi, Nat.reduceSub, ext_all, get_lo, get_hi, b1_get]
  rfl

theorem Laws.RoundTrip.ftanhR (o : VOp) (r : VRow) : Laws.RoundTrip.Statement (.ftanhR o r) := by
  intro sl w q h hw
  cases h
  show pickVF vKindF (word (o.ty ++ o.var ++ b1 false) o.c o.b o.a 7#6 true) (some r.word) o.p = _
  unfold pickVF
  have hop : (BitVec.extractLsb' 2 6 (word (o.ty ++ o.var ++ b1 false) o.c o.b o.a 7#6 true)).toNat = 7 := by
    simp (disch := omega) only [word, ext_lo, ext_hi, Nat.reduceSub, ext_all]; rfl
  rw [hop]
  dsimp only [vKindF]
  simp (disch := omega) only [word, VRow.word, ext_lo, ext_hi, Nat.reduceSub, ext_all, get_lo, get_hi, b1_get]
  rfl

theorem Laws.RoundTrip.fsigmT (o : VOp) : Laws.RoundTrip.Statement (.fsigmT o) := by
  intro sl w q h hw
  cases h
  show pickVF vKindF (word (o.ty ++ o.var ++ b1 true) o.c o.b o.a 8#6 false) none o.p = _
  unfold pickVF
  have hop : (BitVec.extractLsb' 2 6 (word (o.ty ++ o.var ++ b1 true) o.c o.b o.a 8#6 false)).toNat = 8 := by
    simp (disch := omega) only [word, ext_lo, ext_hi, Nat.reduceSub, ext_all]; rfl
  rw [hop]
  dsimp only [vKindF]
  simp (disch := omega) only [word, VRow.word, ext_lo, ext_hi, Nat.reduceSub, ext_all, get_lo, get_hi, b1_get]
  rfl

theorem Laws.RoundTrip.fsigmR (o : VOp) (r : VRow) : Laws.RoundTrip.Statement (.fsigmR o r) := by
  intro sl w q h hw
  cases h
  show pickVF vKindF (word (o.ty ++ o.var ++ b1 false) o.c o.b o.a 8#6 true) (some r.word) o.p = _
  unfold pickVF
  have hop : (BitVec.extractLsb' 2 6 (word (o.ty ++ o.var ++ b1 false) o.c o.b o.a 8#6 true)).toNat = 8 := by
    simp (disch := omega) only [word, ext_lo, ext_hi, Nat.reduceSub, ext_all]; rfl
  rw [hop]
  dsimp only [vKindF]
  simp (disch := omega) only [word, VRow.word, ext_lo, ext_hi, Nat.reduceSub, ext_all, get_lo, get_hi, b1_get]
  rfl

theorem Laws.RoundTrip.fsinT (o : VOp) : Laws.RoundTrip.Statement (.fsinT o) := by
  intro sl w q h hw
  cases h
  show pickVF vKindF (word (o.ty ++ o.var ++ b1 true) o.c o.b o.a 9#6 false) none o.p = _
  unfold pickVF
  have hop : (BitVec.extractLsb' 2 6 (word (o.ty ++ o.var ++ b1 true) o.c o.b o.a 9#6 false)).toNat = 9 := by
    simp (disch := omega) only [word, ext_lo, ext_hi, Nat.reduceSub, ext_all]; rfl
  rw [hop]
  dsimp only [vKindF]
  simp (disch := omega) only [word, VRow.word, ext_lo, ext_hi, Nat.reduceSub, ext_all, get_lo, get_hi, b1_get]
  rfl

theorem Laws.RoundTrip.fsinR (o : VOp) (r : VRow) : Laws.RoundTrip.Statement (.fsinR o r) := by
  intro sl w q h hw
  cases h
  show pickVF vKindF (word (o.ty ++ o.var ++ b1 false) o.c o.b o.a 9#6 true) (some r.word) o.p = _
  unfold pickVF
  have hop : (BitVec.extractLsb' 2 6 (word (o.ty ++ o.var ++ b1 false) o.c o.b o.a 9#6 true)).toNat = 9 := by
    simp (disch := omega) only [word, ext_lo, ext_hi, Nat.reduceSub, ext_all]; rfl
  rw [hop]
  dsimp only [vKindF]
  simp (disch := omega) only [word, VRow.word, ext_lo, ext_hi, Nat.reduceSub, ext_all, get_lo, get_hi, b1_get]
  rfl

theorem Laws.RoundTrip.fcosT (o : VOp) : Laws.RoundTrip.Statement (.fcosT o) := by
  intro sl w q h hw
  cases h
  show pickVF vKindF (word (o.ty ++ o.var ++ b1 true) o.c o.b o.a 10#6 false) none o.p = _
  unfold pickVF
  have hop : (BitVec.extractLsb' 2 6 (word (o.ty ++ o.var ++ b1 true) o.c o.b o.a 10#6 false)).toNat = 10 := by
    simp (disch := omega) only [word, ext_lo, ext_hi, Nat.reduceSub, ext_all]; rfl
  rw [hop]
  dsimp only [vKindF]
  simp (disch := omega) only [word, VRow.word, ext_lo, ext_hi, Nat.reduceSub, ext_all, get_lo, get_hi, b1_get]
  rfl

theorem Laws.RoundTrip.fcosR (o : VOp) (r : VRow) : Laws.RoundTrip.Statement (.fcosR o r) := by
  intro sl w q h hw
  cases h
  show pickVF vKindF (word (o.ty ++ o.var ++ b1 false) o.c o.b o.a 10#6 true) (some r.word) o.p = _
  unfold pickVF
  have hop : (BitVec.extractLsb' 2 6 (word (o.ty ++ o.var ++ b1 false) o.c o.b o.a 10#6 true)).toNat = 10 := by
    simp (disch := omega) only [word, ext_lo, ext_hi, Nat.reduceSub, ext_all]; rfl
  rw [hop]
  dsimp only [vKindF]
  simp (disch := omega) only [word, VRow.word, ext_lo, ext_hi, Nat.reduceSub, ext_all, get_lo, get_hi, b1_get]
  rfl

theorem Laws.RoundTrip.fexpqT (o : VOp) : Laws.RoundTrip.Statement (.fexpqT o) := by
  intro sl w q h hw
  cases h
  show pickVF vKindF (word (o.ty ++ o.var ++ b1 true) o.c o.b o.a 11#6 false) none o.p = _
  unfold pickVF
  have hop : (BitVec.extractLsb' 2 6 (word (o.ty ++ o.var ++ b1 true) o.c o.b o.a 11#6 false)).toNat = 11 := by
    simp (disch := omega) only [word, ext_lo, ext_hi, Nat.reduceSub, ext_all]; rfl
  rw [hop]
  dsimp only [vKindF]
  simp (disch := omega) only [word, VRow.word, ext_lo, ext_hi, Nat.reduceSub, ext_all, get_lo, get_hi, b1_get]
  rfl

theorem Laws.RoundTrip.fexpqR (o : VOp) (r : VRow) : Laws.RoundTrip.Statement (.fexpqR o r) := by
  intro sl w q h hw
  cases h
  show pickVF vKindF (word (o.ty ++ o.var ++ b1 false) o.c o.b o.a 11#6 true) (some r.word) o.p = _
  unfold pickVF
  have hop : (BitVec.extractLsb' 2 6 (word (o.ty ++ o.var ++ b1 false) o.c o.b o.a 11#6 true)).toNat = 11 := by
    simp (disch := omega) only [word, ext_lo, ext_hi, Nat.reduceSub, ext_all]; rfl
  rw [hop]
  dsimp only [vKindF]
  simp (disch := omega) only [word, VRow.word, ext_lo, ext_hi, Nat.reduceSub, ext_all, get_lo, get_hi, b1_get]
  rfl

theorem Laws.RoundTrip.frandT (o : VOp) : Laws.RoundTrip.Statement (.frandT o) := by
  intro sl w q h hw
  cases h
  show pickVF vKindF (word (o.ty ++ o.var ++ b1 true) o.c o.b o.a 12#6 false) none o.p = _
  unfold pickVF
  have hop : (BitVec.extractLsb' 2 6 (word (o.ty ++ o.var ++ b1 true) o.c o.b o.a 12#6 false)).toNat = 12 := by
    simp (disch := omega) only [word, ext_lo, ext_hi, Nat.reduceSub, ext_all]; rfl
  rw [hop]
  dsimp only [vKindF]
  simp (disch := omega) only [word, VRow.word, ext_lo, ext_hi, Nat.reduceSub, ext_all, get_lo, get_hi, b1_get]
  rfl

theorem Laws.RoundTrip.frandR (o : VOp) (r : VRow) : Laws.RoundTrip.Statement (.frandR o r) := by
  intro sl w q h hw
  cases h
  show pickVF vKindF (word (o.ty ++ o.var ++ b1 false) o.c o.b o.a 12#6 true) (some r.word) o.p = _
  unfold pickVF
  have hop : (BitVec.extractLsb' 2 6 (word (o.ty ++ o.var ++ b1 false) o.c o.b o.a 12#6 true)).toNat = 12 := by
    simp (disch := omega) only [word, ext_lo, ext_hi, Nat.reduceSub, ext_all]; rfl
  rw [hop]
  dsimp only [vKindF]
  simp (disch := omega) only [word, VRow.word, ext_lo, ext_hi, Nat.reduceSub, ext_all, get_lo, get_hi, b1_get]
  rfl

theorem Laws.RoundTrip.ld (m : MemA) (off : BitVec 8) : Laws.RoundTrip.Statement (.ld m off) := by
  intro sl w q h hw
  cases h
  unfold pick
  dsimp only
  unfold pickL
  have hop : (BitVec.extractLsb' 2 6 (encA false false m off 0x01 false)).toNat = 1 := by
    simp (disch := omega) only [word, wordImm, word24, encA, encB, encC, encCorr, encAmac, encCchk, encAop, encAsum, encTmma, eword, btxWord, Stamp.word, VRow.word, ext_lo, ext_hi, Nat.reduceSub, ext_all]; rfl
  rw [hop]
  dsimp only
  simp (disch := omega) only [word, wordImm, word24, encA, encB, encC, encCorr, encAmac, encCchk, encAop, encAsum, encTmma, eword, btxWord, Stamp.word, VRow.word, memA, memB, memC, corrOp, hi16, ext_lo, ext_hi, Nat.reduceSub, ext_all, get_lo, get_hi, b1_get]
  first
    | rfl
    | (simp only [Nat.reduceAdd, Nat.reduceSub, ext_all]; rfl)
    | (simp only [span_frame, span_eword, span_eword0, span_xpush]; rfl)
    | (have ha := EOp.a_zero hw; rcases o with ⟨_, _, _, _, _, _, _⟩; cases ha; rfl)
    | (simp only [join_count]; have ha := EOp.a_zero hw; rcases o with ⟨_, _, _, _, _, _, _⟩; cases ha; rfl)

theorem Laws.RoundTrip.ld64 (m : MemA) (q : BitVec 32) : Laws.RoundTrip.Statement (.ld64 m q) := by
  intro sl w q h hw
  cases h
  unfold pick
  dsimp only
  unfold pickL
  have hop : (BitVec.extractLsb' 2 6 (encA false false m 0 0x01 true)).toNat = 1 := by
    simp (disch := omega) only [word, wordImm, word24, encA, encB, encC, encCorr, encAmac, encCchk, encAop, encAsum, encTmma, eword, btxWord, Stamp.word, VRow.word, ext_lo, ext_hi, Nat.reduceSub, ext_all]; rfl
  rw [hop]
  dsimp only
  simp (disch := omega) only [word, wordImm, word24, encA, encB, encC, encCorr, encAmac, encCchk, encAop, encAsum, encTmma, eword, btxWord, Stamp.word, VRow.word, memA, memB, memC, corrOp, hi16, ext_lo, ext_hi, Nat.reduceSub, ext_all, get_lo, get_hi, b1_get]
  first
    | rfl
    | (simp only [Nat.reduceAdd, Nat.reduceSub, ext_all]; rfl)
    | (simp only [span_frame, span_eword, span_eword0, span_xpush]; rfl)
    | (have ha := EOp.a_zero hw; rcases o with ⟨_, _, _, _, _, _, _⟩; cases ha; rfl)
    | (simp only [join_count]; have ha := EOp.a_zero hw; rcases o with ⟨_, _, _, _, _, _, _⟩; cases ha; rfl)

theorem Laws.RoundTrip.ldt (m : MemB) (off : BitVec 5) : Laws.RoundTrip.Statement (.ldt m off) := by
  intro sl w q h hw
  cases h
  unfold pick
  dsimp only
  unfold pickL
  have hop : (BitVec.extractLsb' 2 6 (encB false m off 0x02 false)).toNat = 2 := by
    simp (disch := omega) only [word, wordImm, word24, encA, encB, encC, encCorr, encAmac, encCchk, encAop, encAsum, encTmma, eword, btxWord, Stamp.word, VRow.word, ext_lo, ext_hi, Nat.reduceSub, ext_all]; rfl
  rw [hop]
  dsimp only
  simp (disch := omega) only [word, wordImm, word24, encA, encB, encC, encCorr, encAmac, encCchk, encAop, encAsum, encTmma, eword, btxWord, Stamp.word, VRow.word, memA, memB, memC, corrOp, hi16, ext_lo, ext_hi, Nat.reduceSub, ext_all, get_lo, get_hi, b1_get]
  first
    | rfl
    | (simp only [Nat.reduceAdd, Nat.reduceSub, ext_all]; rfl)
    | (simp only [span_frame, span_eword, span_eword0, span_xpush]; rfl)
    | (have ha := EOp.a_zero hw; rcases o with ⟨_, _, _, _, _, _, _⟩; cases ha; rfl)
    | (simp only [join_count]; have ha := EOp.a_zero hw; rcases o with ⟨_, _, _, _, _, _, _⟩; cases ha; rfl)

theorem Laws.RoundTrip.ldt64 (m : MemB) (q : BitVec 32) : Laws.RoundTrip.Statement (.ldt64 m q) := by
  intro sl w q h hw
  cases h
  unfold pick
  dsimp only
  unfold pickL
  have hop : (BitVec.extractLsb' 2 6 (encB false m 0 0x02 true)).toNat = 2 := by
    simp (disch := omega) only [word, wordImm, word24, encA, encB, encC, encCorr, encAmac, encCchk, encAop, encAsum, encTmma, eword, btxWord, Stamp.word, VRow.word, ext_lo, ext_hi, Nat.reduceSub, ext_all]; rfl
  rw [hop]
  dsimp only
  simp (disch := omega) only [word, wordImm, word24, encA, encB, encC, encCorr, encAmac, encCchk, encAop, encAsum, encTmma, eword, btxWord, Stamp.word, VRow.word, memA, memB, memC, corrOp, hi16, ext_lo, ext_hi, Nat.reduceSub, ext_all, get_lo, get_hi, b1_get]
  first
    | rfl
    | (simp only [Nat.reduceAdd, Nat.reduceSub, ext_all]; rfl)
    | (simp only [span_frame, span_eword, span_eword0, span_xpush]; rfl)
    | (have ha := EOp.a_zero hw; rcases o with ⟨_, _, _, _, _, _, _⟩; cases ha; rfl)
    | (simp only [join_count]; have ha := EOp.a_zero hw; rcases o with ⟨_, _, _, _, _, _, _⟩; cases ha; rfl)

theorem Laws.RoundTrip.ldb (acc : Bool) (m : MemB) (off : BitVec 5) (p : Pfx) : Laws.RoundTrip.Statement (.ldb acc m off p) := by
  intro sl w q h hw
  cases h
  unfold pick
  dsimp only
  unfold pickL
  have hop : (BitVec.extractLsb' 2 6 (encB acc m off 0x03 false)).toNat = 3 := by
    simp (disch := omega) only [word, wordImm, word24, encA, encB, encC, encCorr, encAmac, encCchk, encAop, encAsum, encTmma, eword, btxWord, Stamp.word, VRow.word, ext_lo, ext_hi, Nat.reduceSub, ext_all]; rfl
  rw [hop]
  dsimp only
  simp (disch := omega) only [word, wordImm, word24, encA, encB, encC, encCorr, encAmac, encCchk, encAop, encAsum, encTmma, eword, btxWord, Stamp.word, VRow.word, memA, memB, memC, corrOp, hi16, ext_lo, ext_hi, Nat.reduceSub, ext_all, get_lo, get_hi, b1_get]
  first
    | rfl
    | (simp only [Nat.reduceAdd, Nat.reduceSub, ext_all]; rfl)
    | (simp only [span_frame, span_eword, span_eword0, span_xpush]; rfl)
    | (have ha := EOp.a_zero hw; rcases o with ⟨_, _, _, _, _, _, _⟩; cases ha; rfl)
    | (simp only [join_count]; have ha := EOp.a_zero hw; rcases o with ⟨_, _, _, _, _, _, _⟩; cases ha; rfl)

theorem Laws.RoundTrip.ldb64 (acc : Bool) (m : MemB) (off : BitVec 16) (tag : BitVec 16) : Laws.RoundTrip.Statement (.ldb64 acc m off tag) := by
  intro sl w q h hw
  cases h
  unfold pick
  dsimp only
  unfold pickL
  have hop : (BitVec.extractLsb' 2 6 (encB acc m 0 0x03 true)).toNat = 3 := by
    simp (disch := omega) only [word, wordImm, word24, encA, encB, encC, encCorr, encAmac, encCchk, encAop, encAsum, encTmma, eword, btxWord, Stamp.word, VRow.word, ext_lo, ext_hi, Nat.reduceSub, ext_all]; rfl
  rw [hop]
  dsimp only
  simp (disch := omega) only [word, wordImm, word24, encA, encB, encC, encCorr, encAmac, encCchk, encAop, encAsum, encTmma, eword, btxWord, Stamp.word, VRow.word, memA, memB, memC, corrOp, hi16, ext_lo, ext_hi, Nat.reduceSub, ext_all, get_lo, get_hi, b1_get]
  first
    | rfl
    | (simp only [Nat.reduceAdd, Nat.reduceSub, ext_all]; rfl)
    | (simp only [span_frame, span_eword, span_eword0, span_xpush]; rfl)
    | (have ha := EOp.a_zero hw; rcases o with ⟨_, _, _, _, _, _, _⟩; cases ha; rfl)
    | (simp only [join_count]; have ha := EOp.a_zero hw; rcases o with ⟨_, _, _, _, _, _, _⟩; cases ha; rfl)

theorem Laws.RoundTrip.ldg (acq : Bool) (m : MemA) (off : BitVec 8) (p : Pfx) : Laws.RoundTrip.Statement (.ldg acq m off p) := by
  intro sl w q h hw
  cases h
  unfold pick
  dsimp only
  unfold pickL
  have hop : (BitVec.extractLsb' 2 6 (encA acq false m off 0x04 false)).toNat = 4 := by
    simp (disch := omega) only [word, wordImm, word24, encA, encB, encC, encCorr, encAmac, encCchk, encAop, encAsum, encTmma, eword, btxWord, Stamp.word, VRow.word, ext_lo, ext_hi, Nat.reduceSub, ext_all]; rfl
  rw [hop]
  dsimp only
  simp (disch := omega) only [word, wordImm, word24, encA, encB, encC, encCorr, encAmac, encCchk, encAop, encAsum, encTmma, eword, btxWord, Stamp.word, VRow.word, memA, memB, memC, corrOp, hi16, ext_lo, ext_hi, Nat.reduceSub, ext_all, get_lo, get_hi, b1_get]
  first
    | rfl
    | (simp only [Nat.reduceAdd, Nat.reduceSub, ext_all]; rfl)
    | (simp only [span_frame, span_eword, span_eword0, span_xpush]; rfl)
    | (have ha := EOp.a_zero hw; rcases o with ⟨_, _, _, _, _, _, _⟩; cases ha; rfl)
    | (simp only [join_count]; have ha := EOp.a_zero hw; rcases o with ⟨_, _, _, _, _, _, _⟩; cases ha; rfl)

theorem Laws.RoundTrip.ldg64 (acq : Bool) (m : MemA) (q : BitVec 32) (p : Pfx) : Laws.RoundTrip.Statement (.ldg64 acq m q p) := by
  intro sl w q h hw
  cases h
  unfold pick
  dsimp only
  unfold pickL
  have hop : (BitVec.extractLsb' 2 6 (encA acq false m 0 0x04 true)).toNat = 4 := by
    simp (disch := omega) only [word, wordImm, word24, encA, encB, encC, encCorr, encAmac, encCchk, encAop, encAsum, encTmma, eword, btxWord, Stamp.word, VRow.word, ext_lo, ext_hi, Nat.reduceSub, ext_all]; rfl
  rw [hop]
  dsimp only
  simp (disch := omega) only [word, wordImm, word24, encA, encB, encC, encCorr, encAmac, encCchk, encAop, encAsum, encTmma, eword, btxWord, Stamp.word, VRow.word, memA, memB, memC, corrOp, hi16, ext_lo, ext_hi, Nat.reduceSub, ext_all, get_lo, get_hi, b1_get]
  first
    | rfl
    | (simp only [Nat.reduceAdd, Nat.reduceSub, ext_all]; rfl)
    | (simp only [span_frame, span_eword, span_eword0, span_xpush]; rfl)
    | (have ha := EOp.a_zero hw; rcases o with ⟨_, _, _, _, _, _, _⟩; cases ha; rfl)
    | (simp only [join_count]; have ha := EOp.a_zero hw; rcases o with ⟨_, _, _, _, _, _, _⟩; cases ha; rfl)

theorem Laws.RoundTrip.ldx (m : MemC) (off : Option (BitVec 32)) : Laws.RoundTrip.Statement (.ldx m off) := by
  intro sl w q h hw
  cases h
  unfold pick
  dsimp only
  unfold pickL
  have hop : (BitVec.extractLsb' 2 6 (encC m 0x05 off.isSome)).toNat = 5 := by
    simp (disch := omega) only [word, wordImm, word24, encA, encB, encC, encCorr, encAmac, encCchk, encAop, encAsum, encTmma, eword, btxWord, Stamp.word, VRow.word, ext_lo, ext_hi, Nat.reduceSub, ext_all]; rfl
  rw [hop]
  dsimp only
  simp (disch := omega) only [word, wordImm, word24, encA, encB, encC, encCorr, encAmac, encCchk, encAop, encAsum, encTmma, eword, btxWord, Stamp.word, VRow.word, memA, memB, memC, corrOp, hi16, ext_lo, ext_hi, Nat.reduceSub, ext_all, get_lo, get_hi, b1_get]
  first
    | rfl
    | (simp only [Nat.reduceAdd, Nat.reduceSub, ext_all]; rfl)
    | (simp only [span_frame, span_eword, span_eword0, span_xpush]; rfl)
    | (have ha := EOp.a_zero hw; rcases o with ⟨_, _, _, _, _, _, _⟩; cases ha; rfl)
    | (simp only [join_count]; have ha := EOp.a_zero hw; rcases o with ⟨_, _, _, _, _, _, _⟩; cases ha; rfl)

theorem Laws.RoundTrip.atom (o : AtomOp) (off : Option (BitVec 32)) (p : Pfx) : Laws.RoundTrip.Statement (.atom o off p) := by
  intro sl w q h hw
  cases h
  unfold pick
  dsimp only
  unfold pickL
  have hop : (BitVec.extractLsb' 2 6 (b1 o.acq ++ b1 o.rel ++ o.op ++ o.size ++ o.c ++ o.b ++ o.a ++ 0x06#6 ++ (if off.isSome then 1#2 else 0#2))).toNat = 6 := by
    simp (disch := omega) only [word, wordImm, word24, encA, encB, encC, encCorr, encAmac, encCchk, encAop, encAsum, encTmma, eword, btxWord, Stamp.word, VRow.word, ext_lo, ext_hi, Nat.reduceSub, ext_all]; rfl
  rw [hop]
  dsimp only
  simp (disch := omega) only [word, wordImm, word24, encA, encB, encC, encCorr, encAmac, encCchk, encAop, encAsum, encTmma, eword, btxWord, Stamp.word, VRow.word, memA, memB, memC, corrOp, hi16, ext_lo, ext_hi, Nat.reduceSub, ext_all, get_lo, get_hi, b1_get]
  first
    | rfl
    | (simp only [Nat.reduceAdd, Nat.reduceSub, ext_all]; rfl)
    | (simp only [span_frame, span_eword, span_eword0, span_xpush]; rfl)
    | (have ha := EOp.a_zero hw; rcases o with ⟨_, _, _, _, _, _, _⟩; cases ha; rfl)
    | (simp only [join_count]; have ha := EOp.a_zero hw; rcases o with ⟨_, _, _, _, _, _, _⟩; cases ha; rfl)

theorem Laws.RoundTrip.st (m : MemA) (off : BitVec 8) (p : Pfx) : Laws.RoundTrip.Statement (.st m off p) := by
  intro sl w q h hw
  cases h
  unfold pick
  dsimp only
  unfold pickW
  have hop : (BitVec.extractLsb' 2 6 (encA false false m off 0x01 false)).toNat = 1 := by
    simp (disch := omega) only [word, wordImm, word24, encA, encB, encC, encCorr, encAmac, encCchk, encAop, encAsum, encTmma, eword, btxWord, Stamp.word, VRow.word, ext_lo, ext_hi, Nat.reduceSub, ext_all]; rfl
  rw [hop]
  dsimp only
  simp (disch := omega) only [word, wordImm, word24, encA, encB, encC, encCorr, encAmac, encCchk, encAop, encAsum, encTmma, eword, btxWord, Stamp.word, VRow.word, memA, memB, memC, corrOp, hi16, ext_lo, ext_hi, Nat.reduceSub, ext_all, get_lo, get_hi, b1_get]
  first
    | rfl
    | (simp only [Nat.reduceAdd, Nat.reduceSub, ext_all]; rfl)
    | (simp only [span_frame, span_eword, span_eword0, span_xpush]; rfl)
    | (have ha := EOp.a_zero hw; rcases o with ⟨_, _, _, _, _, _, _⟩; cases ha; rfl)
    | (simp only [join_count]; have ha := EOp.a_zero hw; rcases o with ⟨_, _, _, _, _, _, _⟩; cases ha; rfl)

theorem Laws.RoundTrip.st64 (m : MemA) (q : BitVec 32) (p : Pfx) : Laws.RoundTrip.Statement (.st64 m q p) := by
  intro sl w q h hw
  cases h
  unfold pick
  dsimp only
  unfold pickW
  have hop : (BitVec.extractLsb' 2 6 (encA false false m 0 0x01 true)).toNat = 1 := by
    simp (disch := omega) only [word, wordImm, word24, encA, encB, encC, encCorr, encAmac, encCchk, encAop, encAsum, encTmma, eword, btxWord, Stamp.word, VRow.word, ext_lo, ext_hi, Nat.reduceSub, ext_all]; rfl
  rw [hop]
  dsimp only
  simp (disch := omega) only [word, wordImm, word24, encA, encB, encC, encCorr, encAmac, encCchk, encAop, encAsum, encTmma, eword, btxWord, Stamp.word, VRow.word, memA, memB, memC, corrOp, hi16, ext_lo, ext_hi, Nat.reduceSub, ext_all, get_lo, get_hi, b1_get]
  first
    | rfl
    | (simp only [Nat.reduceAdd, Nat.reduceSub, ext_all]; rfl)
    | (simp only [span_frame, span_eword, span_eword0, span_xpush]; rfl)
    | (have ha := EOp.a_zero hw; rcases o with ⟨_, _, _, _, _, _, _⟩; cases ha; rfl)
    | (simp only [join_count]; have ha := EOp.a_zero hw; rcases o with ⟨_, _, _, _, _, _, _⟩; cases ha; rfl)

theorem Laws.RoundTrip.stt (m : MemB) (off : BitVec 5) (p : Pfx) : Laws.RoundTrip.Statement (.stt m off p) := by
  intro sl w q h hw
  cases h
  unfold pick
  dsimp only
  unfold pickW
  have hop : (BitVec.extractLsb' 2 6 (encB false m off 0x02 false)).toNat = 2 := by
    simp (disch := omega) only [word, wordImm, word24, encA, encB, encC, encCorr, encAmac, encCchk, encAop, encAsum, encTmma, eword, btxWord, Stamp.word, VRow.word, ext_lo, ext_hi, Nat.reduceSub, ext_all]; rfl
  rw [hop]
  dsimp only
  simp (disch := omega) only [word, wordImm, word24, encA, encB, encC, encCorr, encAmac, encCchk, encAop, encAsum, encTmma, eword, btxWord, Stamp.word, VRow.word, memA, memB, memC, corrOp, hi16, ext_lo, ext_hi, Nat.reduceSub, ext_all, get_lo, get_hi, b1_get]
  first
    | rfl
    | (simp only [Nat.reduceAdd, Nat.reduceSub, ext_all]; rfl)
    | (simp only [span_frame, span_eword, span_eword0, span_xpush]; rfl)
    | (have ha := EOp.a_zero hw; rcases o with ⟨_, _, _, _, _, _, _⟩; cases ha; rfl)
    | (simp only [join_count]; have ha := EOp.a_zero hw; rcases o with ⟨_, _, _, _, _, _, _⟩; cases ha; rfl)

theorem Laws.RoundTrip.stt64 (m : MemB) (q : BitVec 32) (p : Pfx) : Laws.RoundTrip.Statement (.stt64 m q p) := by
  intro sl w q h hw
  cases h
  unfold pick
  dsimp only
  unfold pickW
  have hop : (BitVec.extractLsb' 2 6 (encB false m 0 0x02 true)).toNat = 2 := by
    simp (disch := omega) only [word, wordImm, word24, encA, encB, encC, encCorr, encAmac, encCchk, encAop, encAsum, encTmma, eword, btxWord, Stamp.word, VRow.word, ext_lo, ext_hi, Nat.reduceSub, ext_all]; rfl
  rw [hop]
  dsimp only
  simp (disch := omega) only [word, wordImm, word24, encA, encB, encC, encCorr, encAmac, encCchk, encAop, encAsum, encTmma, eword, btxWord, Stamp.word, VRow.word, memA, memB, memC, corrOp, hi16, ext_lo, ext_hi, Nat.reduceSub, ext_all, get_lo, get_hi, b1_get]
  first
    | rfl
    | (simp only [Nat.reduceAdd, Nat.reduceSub, ext_all]; rfl)
    | (simp only [span_frame, span_eword, span_eword0, span_xpush]; rfl)
    | (have ha := EOp.a_zero hw; rcases o with ⟨_, _, _, _, _, _, _⟩; cases ha; rfl)
    | (simp only [join_count]; have ha := EOp.a_zero hw; rcases o with ⟨_, _, _, _, _, _, _⟩; cases ha; rfl)

theorem Laws.RoundTrip.stb (acc : Bool) (m : MemB) (off : BitVec 5) (p : Pfx) : Laws.RoundTrip.Statement (.stb acc m off p) := by
  intro sl w q h hw
  cases h
  unfold pick
  dsimp only
  unfold pickW
  have hop : (BitVec.extractLsb' 2 6 (encB acc m off 0x03 false)).toNat = 3 := by
    simp (disch := omega) only [word, wordImm, word24, encA, encB, encC, encCorr, encAmac, encCchk, encAop, encAsum, encTmma, eword, btxWord, Stamp.word, VRow.word, ext_lo, ext_hi, Nat.reduceSub, ext_all]; rfl
  rw [hop]
  dsimp only
  simp (disch := omega) only [word, wordImm, word24, encA, encB, encC, encCorr, encAmac, encCchk, encAop, encAsum, encTmma, eword, btxWord, Stamp.word, VRow.word, memA, memB, memC, corrOp, hi16, ext_lo, ext_hi, Nat.reduceSub, ext_all, get_lo, get_hi, b1_get]
  first
    | rfl
    | (simp only [Nat.reduceAdd, Nat.reduceSub, ext_all]; rfl)
    | (simp only [span_frame, span_eword, span_eword0, span_xpush]; rfl)
    | (have ha := EOp.a_zero hw; rcases o with ⟨_, _, _, _, _, _, _⟩; cases ha; rfl)
    | (simp only [join_count]; have ha := EOp.a_zero hw; rcases o with ⟨_, _, _, _, _, _, _⟩; cases ha; rfl)

theorem Laws.RoundTrip.stb64 (acc : Bool) (m : MemB) (off : BitVec 16) (tag : BitVec 16) : Laws.RoundTrip.Statement (.stb64 acc m off tag) := by
  intro sl w q h hw
  cases h
  unfold pick
  dsimp only
  unfold pickW
  have hop : (BitVec.extractLsb' 2 6 (encB acc m 0 0x03 true)).toNat = 3 := by
    simp (disch := omega) only [word, wordImm, word24, encA, encB, encC, encCorr, encAmac, encCchk, encAop, encAsum, encTmma, eword, btxWord, Stamp.word, VRow.word, ext_lo, ext_hi, Nat.reduceSub, ext_all]; rfl
  rw [hop]
  dsimp only
  simp (disch := omega) only [word, wordImm, word24, encA, encB, encC, encCorr, encAmac, encCchk, encAop, encAsum, encTmma, eword, btxWord, Stamp.word, VRow.word, memA, memB, memC, corrOp, hi16, ext_lo, ext_hi, Nat.reduceSub, ext_all, get_lo, get_hi, b1_get]
  first
    | rfl
    | (simp only [Nat.reduceAdd, Nat.reduceSub, ext_all]; rfl)
    | (simp only [span_frame, span_eword, span_eword0, span_xpush]; rfl)
    | (have ha := EOp.a_zero hw; rcases o with ⟨_, _, _, _, _, _, _⟩; cases ha; rfl)
    | (simp only [join_count]; have ha := EOp.a_zero hw; rcases o with ⟨_, _, _, _, _, _, _⟩; cases ha; rfl)

theorem Laws.RoundTrip.stg (rel : Bool) (m : MemA) (off : BitVec 8) (p : Pfx) : Laws.RoundTrip.Statement (.stg rel m off p) := by
  intro sl w q h hw
  cases h
  unfold pick
  dsimp only
  unfold pickW
  have hop : (BitVec.extractLsb' 2 6 (encA false rel m off 0x04 false)).toNat = 4 := by
    simp (disch := omega) only [word, wordImm, word24, encA, encB, encC, encCorr, encAmac, encCchk, encAop, encAsum, encTmma, eword, btxWord, Stamp.word, VRow.word, ext_lo, ext_hi, Nat.reduceSub, ext_all]; rfl
  rw [hop]
  dsimp only
  simp (disch := omega) only [word, wordImm, word24, encA, encB, encC, encCorr, encAmac, encCchk, encAop, encAsum, encTmma, eword, btxWord, Stamp.word, VRow.word, memA, memB, memC, corrOp, hi16, ext_lo, ext_hi, Nat.reduceSub, ext_all, get_lo, get_hi, b1_get]
  first
    | rfl
    | (simp only [Nat.reduceAdd, Nat.reduceSub, ext_all]; rfl)
    | (simp only [span_frame, span_eword, span_eword0, span_xpush]; rfl)
    | (have ha := EOp.a_zero hw; rcases o with ⟨_, _, _, _, _, _, _⟩; cases ha; rfl)
    | (simp only [join_count]; have ha := EOp.a_zero hw; rcases o with ⟨_, _, _, _, _, _, _⟩; cases ha; rfl)

theorem Laws.RoundTrip.stg64 (rel : Bool) (m : MemA) (q : BitVec 32) (p : Pfx) : Laws.RoundTrip.Statement (.stg64 rel m q p) := by
  intro sl w q h hw
  cases h
  unfold pick
  dsimp only
  unfold pickW
  have hop : (BitVec.extractLsb' 2 6 (encA false rel m 0 0x04 true)).toNat = 4 := by
    simp (disch := omega) only [word, wordImm, word24, encA, encB, encC, encCorr, encAmac, encCchk, encAop, encAsum, encTmma, eword, btxWord, Stamp.word, VRow.word, ext_lo, ext_hi, Nat.reduceSub, ext_all]; rfl
  rw [hop]
  dsimp only
  simp (disch := omega) only [word, wordImm, word24, encA, encB, encC, encCorr, encAmac, encCchk, encAop, encAsum, encTmma, eword, btxWord, Stamp.word, VRow.word, memA, memB, memC, corrOp, hi16, ext_lo, ext_hi, Nat.reduceSub, ext_all, get_lo, get_hi, b1_get]
  first
    | rfl
    | (simp only [Nat.reduceAdd, Nat.reduceSub, ext_all]; rfl)
    | (simp only [span_frame, span_eword, span_eword0, span_xpush]; rfl)
    | (have ha := EOp.a_zero hw; rcases o with ⟨_, _, _, _, _, _, _⟩; cases ha; rfl)
    | (simp only [join_count]; have ha := EOp.a_zero hw; rcases o with ⟨_, _, _, _, _, _, _⟩; cases ha; rfl)

theorem Laws.RoundTrip.stx (m : MemC) (off : Option (BitVec 32)) (p : Pfx) : Laws.RoundTrip.Statement (.stx m off p) := by
  intro sl w q h hw
  cases h
  unfold pick
  dsimp only
  unfold pickW
  have hop : (BitVec.extractLsb' 2 6 (encC m 0x05 off.isSome)).toNat = 5 := by
    simp (disch := omega) only [word, wordImm, word24, encA, encB, encC, encCorr, encAmac, encCchk, encAop, encAsum, encTmma, eword, btxWord, Stamp.word, VRow.word, ext_lo, ext_hi, Nat.reduceSub, ext_all]; rfl
  rw [hop]
  dsimp only
  simp (disch := omega) only [word, wordImm, word24, encA, encB, encC, encCorr, encAmac, encCchk, encAop, encAsum, encTmma, eword, btxWord, Stamp.word, VRow.word, memA, memB, memC, corrOp, hi16, ext_lo, ext_hi, Nat.reduceSub, ext_all, get_lo, get_hi, b1_get]
  first
    | rfl
    | (simp only [Nat.reduceAdd, Nat.reduceSub, ext_all]; rfl)
    | (simp only [span_frame, span_eword, span_eword0, span_xpush]; rfl)
    | (have ha := EOp.a_zero hw; rcases o with ⟨_, _, _, _, _, _, _⟩; cases ha; rfl)
    | (simp only [join_count]; have ha := EOp.a_zero hw; rcases o with ⟨_, _, _, _, _, _, _⟩; cases ha; rfl)

theorem Laws.RoundTrip.amac (o : AmacOp) (p : Pfx) : Laws.RoundTrip.Statement (.amac o p) := by
  intro sl w q h hw
  cases h
  unfold pick
  dsimp only
  unfold pickM
  have hop : (BitVec.extractLsb' 2 6 (encAmac o false)).toNat = 1 := by
    simp (disch := omega) only [word, wordImm, word24, encA, encB, encC, encCorr, encAmac, encCchk, encAop, encAsum, encTmma, eword, btxWord, Stamp.word, VRow.word, ext_lo, ext_hi, Nat.reduceSub, ext_all]; rfl
  rw [hop]
  dsimp only
  simp (disch := omega) only [word, wordImm, word24, encA, encB, encC, encCorr, encAmac, encCchk, encAop, encAsum, encTmma, eword, btxWord, Stamp.word, VRow.word, memA, memB, memC, corrOp, hi16, ext_lo, ext_hi, Nat.reduceSub, ext_all, get_lo, get_hi, b1_get]
  first
    | rfl
    | (simp only [Nat.reduceAdd, Nat.reduceSub, ext_all]; rfl)
    | (simp only [span_frame, span_eword, span_eword0, span_xpush]; rfl)
    | (have ha := EOp.a_zero hw; rcases o with ⟨_, _, _, _, _, _, _⟩; cases ha; rfl)
    | (simp only [join_count]; have ha := EOp.a_zero hw; rcases o with ⟨_, _, _, _, _, _, _⟩; cases ha; rfl)

theorem Laws.RoundTrip.amac64 (o : AmacOp) (p : Pfx) (x : Stamp) : Laws.RoundTrip.Statement (.amac64 o p x) := by
  intro sl w q h hw
  cases h
  unfold pick
  dsimp only
  unfold pickM
  have hop : (BitVec.extractLsb' 2 6 (encAmac o true)).toNat = 1 := by
    simp (disch := omega) only [word, wordImm, word24, encA, encB, encC, encCorr, encAmac, encCchk, encAop, encAsum, encTmma, eword, btxWord, Stamp.word, VRow.word, ext_lo, ext_hi, Nat.reduceSub, ext_all]; rfl
  rw [hop]
  dsimp only
  simp (disch := omega) only [word, wordImm, word24, encA, encB, encC, encCorr, encAmac, encCchk, encAop, encAsum, encTmma, eword, btxWord, Stamp.word, VRow.word, memA, memB, memC, corrOp, hi16, ext_lo, ext_hi, Nat.reduceSub, ext_all, get_lo, get_hi, b1_get]
  first
    | rfl
    | (simp only [Nat.reduceAdd, Nat.reduceSub, ext_all]; rfl)
    | (simp only [span_frame, span_eword, span_eword0, span_xpush]; rfl)
    | (have ha := EOp.a_zero hw; rcases o with ⟨_, _, _, _, _, _, _⟩; cases ha; rfl)
    | (simp only [join_count]; have ha := EOp.a_zero hw; rcases o with ⟨_, _, _, _, _, _, _⟩; cases ha; rfl)

theorem Laws.RoundTrip.azero (b : Reg) (c : Reg) (p : Pfx) : Laws.RoundTrip.Statement (.azero b c p) := by
  intro sl w q h hw
  cases h
  unfold pick
  dsimp only
  unfold pickM
  have hop : (BitVec.extractLsb' 2 6 (word 0 c b 0 0x02 false)).toNat = 2 := by
    simp (disch := omega) only [word, wordImm, word24, encA, encB, encC, encCorr, encAmac, encCchk, encAop, encAsum, encTmma, eword, btxWord, Stamp.word, VRow.word, ext_lo, ext_hi, Nat.reduceSub, ext_all]; rfl
  rw [hop]
  dsimp only
  simp (disch := omega) only [word, wordImm, word24, encA, encB, encC, encCorr, encAmac, encCchk, encAop, encAsum, encTmma, eword, btxWord, Stamp.word, VRow.word, memA, memB, memC, corrOp, hi16, ext_lo, ext_hi, Nat.reduceSub, ext_all, get_lo, get_hi, b1_get]
  first
    | rfl
    | (simp only [Nat.reduceAdd, Nat.reduceSub, ext_all]; rfl)
    | (simp only [span_frame, span_eword, span_eword0, span_xpush]; rfl)
    | (have ha := EOp.a_zero hw; rcases o with ⟨_, _, _, _, _, _, _⟩; cases ha; rfl)
    | (simp only [join_count]; have ha := EOp.a_zero hw; rcases o with ⟨_, _, _, _, _, _, _⟩; cases ha; rfl)

theorem Laws.RoundTrip.azero64 (b : Reg) (c : Reg) (x : Stamp) : Laws.RoundTrip.Statement (.azero64 b c x) := by
  intro sl w q h hw
  cases h
  unfold pick
  dsimp only
  unfold pickM
  have hop : (BitVec.extractLsb' 2 6 (word 0 c b 0 0x02 true)).toNat = 2 := by
    simp (disch := omega) only [word, wordImm, word24, encA, encB, encC, encCorr, encAmac, encCchk, encAop, encAsum, encTmma, eword, btxWord, Stamp.word, VRow.word, ext_lo, ext_hi, Nat.reduceSub, ext_all]; rfl
  rw [hop]
  dsimp only
  simp (disch := omega) only [word, wordImm, word24, encA, encB, encC, encCorr, encAmac, encCchk, encAop, encAsum, encTmma, eword, btxWord, Stamp.word, VRow.word, memA, memB, memC, corrOp, hi16, ext_lo, ext_hi, Nat.reduceSub, ext_all, get_lo, get_hi, b1_get]
  first
    | rfl
    | (simp only [Nat.reduceAdd, Nat.reduceSub, ext_all]; rfl)
    | (simp only [span_frame, span_eword, span_eword0, span_xpush]; rfl)
    | (have ha := EOp.a_zero hw; rcases o with ⟨_, _, _, _, _, _, _⟩; cases ha; rfl)
    | (simp only [join_count]; have ha := EOp.a_zero hw; rcases o with ⟨_, _, _, _, _, _, _⟩; cases ha; rfl)

theorem Laws.RoundTrip.adrain (b : Reg) (c : Reg) (p : Pfx) : Laws.RoundTrip.Statement (.adrain b c p) := by
  intro sl w q h hw
  cases h
  unfold pick
  dsimp only
  unfold pickM
  have hop : (BitVec.extractLsb' 2 6 (word 0 c b 0 0x03 false)).toNat = 3 := by
    simp (disch := omega) only [word, wordImm, word24, encA, encB, encC, encCorr, encAmac, encCchk, encAop, encAsum, encTmma, eword, btxWord, Stamp.word, VRow.word, ext_lo, ext_hi, Nat.reduceSub, ext_all]; rfl
  rw [hop]
  dsimp only
  simp (disch := omega) only [word, wordImm, word24, encA, encB, encC, encCorr, encAmac, encCchk, encAop, encAsum, encTmma, eword, btxWord, Stamp.word, VRow.word, memA, memB, memC, corrOp, hi16, ext_lo, ext_hi, Nat.reduceSub, ext_all, get_lo, get_hi, b1_get]
  first
    | rfl
    | (simp only [Nat.reduceAdd, Nat.reduceSub, ext_all]; rfl)
    | (simp only [span_frame, span_eword, span_eword0, span_xpush]; rfl)
    | (have ha := EOp.a_zero hw; rcases o with ⟨_, _, _, _, _, _, _⟩; cases ha; rfl)
    | (simp only [join_count]; have ha := EOp.a_zero hw; rcases o with ⟨_, _, _, _, _, _, _⟩; cases ha; rfl)

theorem Laws.RoundTrip.adrain64 (b : Reg) (c : Reg) (x : Stamp) : Laws.RoundTrip.Statement (.adrain64 b c x) := by
  intro sl w q h hw
  cases h
  unfold pick
  dsimp only
  unfold pickM
  have hop : (BitVec.extractLsb' 2 6 (word 0 c b 0 0x03 true)).toNat = 3 := by
    simp (disch := omega) only [word, wordImm, word24, encA, encB, encC, encCorr, encAmac, encCchk, encAop, encAsum, encTmma, eword, btxWord, Stamp.word, VRow.word, ext_lo, ext_hi, Nat.reduceSub, ext_all]; rfl
  rw [hop]
  dsimp only
  simp (disch := omega) only [word, wordImm, word24, encA, encB, encC, encCorr, encAmac, encCchk, encAop, encAsum, encTmma, eword, btxWord, Stamp.word, VRow.word, memA, memB, memC, corrOp, hi16, ext_lo, ext_hi, Nat.reduceSub, ext_all, get_lo, get_hi, b1_get]
  first
    | rfl
    | (simp only [Nat.reduceAdd, Nat.reduceSub, ext_all]; rfl)
    | (simp only [span_frame, span_eword, span_eword0, span_xpush]; rfl)
    | (have ha := EOp.a_zero hw; rcases o with ⟨_, _, _, _, _, _, _⟩; cases ha; rfl)
    | (simp only [join_count]; have ha := EOp.a_zero hw; rcases o with ⟨_, _, _, _, _, _, _⟩; cases ha; rfl)

theorem Laws.RoundTrip.aswap (b : Reg) (p : Pfx) : Laws.RoundTrip.Statement (.aswap b p) := by
  intro sl w q h hw
  cases h
  unfold pick
  dsimp only
  unfold pickM
  have hop : (BitVec.extractLsb' 2 6 (word 0 0 b 0 0x04 false)).toNat = 4 := by
    simp (disch := omega) only [word, wordImm, word24, encA, encB, encC, encCorr, encAmac, encCchk, encAop, encAsum, encTmma, eword, btxWord, Stamp.word, VRow.word, ext_lo, ext_hi, Nat.reduceSub, ext_all]; rfl
  rw [hop]
  dsimp only
  simp (disch := omega) only [word, wordImm, word24, encA, encB, encC, encCorr, encAmac, encCchk, encAop, encAsum, encTmma, eword, btxWord, Stamp.word, VRow.word, memA, memB, memC, corrOp, hi16, ext_lo, ext_hi, Nat.reduceSub, ext_all, get_lo, get_hi, b1_get]
  first
    | rfl
    | (simp only [Nat.reduceAdd, Nat.reduceSub, ext_all]; rfl)
    | (simp only [span_frame, span_eword, span_eword0, span_xpush]; rfl)
    | (have ha := EOp.a_zero hw; rcases o with ⟨_, _, _, _, _, _, _⟩; cases ha; rfl)
    | (simp only [join_count]; have ha := EOp.a_zero hw; rcases o with ⟨_, _, _, _, _, _, _⟩; cases ha; rfl)

theorem Laws.RoundTrip.aswap64 (b : Reg) (x : Stamp) : Laws.RoundTrip.Statement (.aswap64 b x) := by
  intro sl w q h hw
  cases h
  unfold pick
  dsimp only
  unfold pickM
  have hop : (BitVec.extractLsb' 2 6 (word 0 0 b 0 0x04 true)).toNat = 4 := by
    simp (disch := omega) only [word, wordImm, word24, encA, encB, encC, encCorr, encAmac, encCchk, encAop, encAsum, encTmma, eword, btxWord, Stamp.word, VRow.word, ext_lo, ext_hi, Nat.reduceSub, ext_all]; rfl
  rw [hop]
  dsimp only
  simp (disch := omega) only [word, wordImm, word24, encA, encB, encC, encCorr, encAmac, encCchk, encAop, encAsum, encTmma, eword, btxWord, Stamp.word, VRow.word, memA, memB, memC, corrOp, hi16, ext_lo, ext_hi, Nat.reduceSub, ext_all, get_lo, get_hi, b1_get]
  first
    | rfl
    | (simp only [Nat.reduceAdd, Nat.reduceSub, ext_all]; rfl)
    | (simp only [span_frame, span_eword, span_eword0, span_xpush]; rfl)
    | (have ha := EOp.a_zero hw; rcases o with ⟨_, _, _, _, _, _, _⟩; cases ha; rfl)
    | (simp only [join_count]; have ha := EOp.a_zero hw; rcases o with ⟨_, _, _, _, _, _, _⟩; cases ha; rfl)

theorem Laws.RoundTrip.awrite (b : Reg) (c : Reg) (p : Pfx) : Laws.RoundTrip.Statement (.awrite b c p) := by
  intro sl w q h hw
  cases h
  unfold pick
  dsimp only
  unfold pickM
  have hop : (BitVec.extractLsb' 2 6 (word 0 c b 0 0x05 false)).toNat = 5 := by
    simp (disch := omega) only [word, wordImm, word24, encA, encB, encC, encCorr, encAmac, encCchk, encAop, encAsum, encTmma, eword, btxWord, Stamp.word, VRow.word, ext_lo, ext_hi, Nat.reduceSub, ext_all]; rfl
  rw [hop]
  dsimp only
  simp (disch := omega) only [word, wordImm, word24, encA, encB, encC, encCorr, encAmac, encCchk, encAop, encAsum, encTmma, eword, btxWord, Stamp.word, VRow.word, memA, memB, memC, corrOp, hi16, ext_lo, ext_hi, Nat.reduceSub, ext_all, get_lo, get_hi, b1_get]
  first
    | rfl
    | (simp only [Nat.reduceAdd, Nat.reduceSub, ext_all]; rfl)
    | (simp only [span_frame, span_eword, span_eword0, span_xpush]; rfl)
    | (have ha := EOp.a_zero hw; rcases o with ⟨_, _, _, _, _, _, _⟩; cases ha; rfl)
    | (simp only [join_count]; have ha := EOp.a_zero hw; rcases o with ⟨_, _, _, _, _, _, _⟩; cases ha; rfl)

theorem Laws.RoundTrip.awrite64 (b : Reg) (c : Reg) (x : Stamp) : Laws.RoundTrip.Statement (.awrite64 b c x) := by
  intro sl w q h hw
  cases h
  unfold pick
  dsimp only
  unfold pickM
  have hop : (BitVec.extractLsb' 2 6 (word 0 c b 0 0x05 true)).toNat = 5 := by
    simp (disch := omega) only [word, wordImm, word24, encA, encB, encC, encCorr, encAmac, encCchk, encAop, encAsum, encTmma, eword, btxWord, Stamp.word, VRow.word, ext_lo, ext_hi, Nat.reduceSub, ext_all]; rfl
  rw [hop]
  dsimp only
  simp (disch := omega) only [word, wordImm, word24, encA, encB, encC, encCorr, encAmac, encCchk, encAop, encAsum, encTmma, eword, btxWord, Stamp.word, VRow.word, memA, memB, memC, corrOp, hi16, ext_lo, ext_hi, Nat.reduceSub, ext_all, get_lo, get_hi, b1_get]
  first
    | rfl
    | (simp only [Nat.reduceAdd, Nat.reduceSub, ext_all]; rfl)
    | (simp only [span_frame, span_eword, span_eword0, span_xpush]; rfl)
    | (have ha := EOp.a_zero hw; rcases o with ⟨_, _, _, _, _, _, _⟩; cases ha; rfl)
    | (simp only [join_count]; have ha := EOp.a_zero hw; rcases o with ⟨_, _, _, _, _, _, _⟩; cases ha; rfl)

theorem Laws.RoundTrip.aop (o : AopOp) (p : Pfx) : Laws.RoundTrip.Statement (.aop o p) := by
  intro sl w q h hw
  cases h
  unfold pick
  dsimp only
  unfold pickM
  have hop : (BitVec.extractLsb' 2 6 (encAop o false)).toNat = 6 := by
    simp (disch := omega) only [word, wordImm, word24, encA, encB, encC, encCorr, encAmac, encCchk, encAop, encAsum, encTmma, eword, btxWord, Stamp.word, VRow.word, ext_lo, ext_hi, Nat.reduceSub, ext_all]; rfl
  rw [hop]
  dsimp only
  simp (disch := omega) only [word, wordImm, word24, encA, encB, encC, encCorr, encAmac, encCchk, encAop, encAsum, encTmma, eword, btxWord, Stamp.word, VRow.word, memA, memB, memC, corrOp, hi16, ext_lo, ext_hi, Nat.reduceSub, ext_all, get_lo, get_hi, b1_get]
  first
    | rfl
    | (simp only [Nat.reduceAdd, Nat.reduceSub, ext_all]; rfl)
    | (simp only [span_frame, span_eword, span_eword0, span_xpush]; rfl)
    | (have ha := EOp.a_zero hw; rcases o with ⟨_, _, _, _, _, _, _⟩; cases ha; rfl)
    | (simp only [join_count]; have ha := EOp.a_zero hw; rcases o with ⟨_, _, _, _, _, _, _⟩; cases ha; rfl)

theorem Laws.RoundTrip.aop64 (o : AopOp) (x : Stamp) : Laws.RoundTrip.Statement (.aop64 o x) := by
  intro sl w q h hw
  cases h
  unfold pick
  dsimp only
  unfold pickM
  have hop : (BitVec.extractLsb' 2 6 (encAop o true)).toNat = 6 := by
    simp (disch := omega) only [word, wordImm, word24, encA, encB, encC, encCorr, encAmac, encCchk, encAop, encAsum, encTmma, eword, btxWord, Stamp.word, VRow.word, ext_lo, ext_hi, Nat.reduceSub, ext_all]; rfl
  rw [hop]
  dsimp only
  simp (disch := omega) only [word, wordImm, word24, encA, encB, encC, encCorr, encAmac, encCchk, encAop, encAsum, encTmma, eword, btxWord, Stamp.word, VRow.word, memA, memB, memC, corrOp, hi16, ext_lo, ext_hi, Nat.reduceSub, ext_all, get_lo, get_hi, b1_get]
  first
    | rfl
    | (simp only [Nat.reduceAdd, Nat.reduceSub, ext_all]; rfl)
    | (simp only [span_frame, span_eword, span_eword0, span_xpush]; rfl)
    | (have ha := EOp.a_zero hw; rcases o with ⟨_, _, _, _, _, _, _⟩; cases ha; rfl)
    | (simp only [join_count]; have ha := EOp.a_zero hw; rcases o with ⟨_, _, _, _, _, _, _⟩; cases ha; rfl)

theorem Laws.RoundTrip.asum (o : AsumOp) (p : Pfx) : Laws.RoundTrip.Statement (.asum o p) := by
  intro sl w q h hw
  cases h
  unfold pick
  dsimp only
  unfold pickM
  have hop : (BitVec.extractLsb' 2 6 (encAsum o false)).toNat = 7 := by
    simp (disch := omega) only [word, wordImm, word24, encA, encB, encC, encCorr, encAmac, encCchk, encAop, encAsum, encTmma, eword, btxWord, Stamp.word, VRow.word, ext_lo, ext_hi, Nat.reduceSub, ext_all]; rfl
  rw [hop]
  dsimp only
  simp (disch := omega) only [word, wordImm, word24, encA, encB, encC, encCorr, encAmac, encCchk, encAop, encAsum, encTmma, eword, btxWord, Stamp.word, VRow.word, memA, memB, memC, corrOp, hi16, ext_lo, ext_hi, Nat.reduceSub, ext_all, get_lo, get_hi, b1_get]
  first
    | rfl
    | (simp only [Nat.reduceAdd, Nat.reduceSub, ext_all]; rfl)
    | (simp only [span_frame, span_eword, span_eword0, span_xpush]; rfl)
    | (have ha := EOp.a_zero hw; rcases o with ⟨_, _, _, _, _, _, _⟩; cases ha; rfl)
    | (simp only [join_count]; have ha := EOp.a_zero hw; rcases o with ⟨_, _, _, _, _, _, _⟩; cases ha; rfl)

theorem Laws.RoundTrip.asum64 (o : AsumOp) (x : Stamp) : Laws.RoundTrip.Statement (.asum64 o x) := by
  intro sl w q h hw
  cases h
  unfold pick
  dsimp only
  unfold pickM
  have hop : (BitVec.extractLsb' 2 6 (encAsum o true)).toNat = 7 := by
    simp (disch := omega) only [word, wordImm, word24, encA, encB, encC, encCorr, encAmac, encCchk, encAop, encAsum, encTmma, eword, btxWord, Stamp.word, VRow.word, ext_lo, ext_hi, Nat.reduceSub, ext_all]; rfl
  rw [hop]
  dsimp only
  simp (disch := omega) only [word, wordImm, word24, encA, encB, encC, encCorr, encAmac, encCchk, encAop, encAsum, encTmma, eword, btxWord, Stamp.word, VRow.word, memA, memB, memC, corrOp, hi16, ext_lo, ext_hi, Nat.reduceSub, ext_all, get_lo, get_hi, b1_get]
  first
    | rfl
    | (simp only [Nat.reduceAdd, Nat.reduceSub, ext_all]; rfl)
    | (simp only [span_frame, span_eword, span_eword0, span_xpush]; rfl)
    | (have ha := EOp.a_zero hw; rcases o with ⟨_, _, _, _, _, _, _⟩; cases ha; rfl)
    | (simp only [join_count]; have ha := EOp.a_zero hw; rcases o with ⟨_, _, _, _, _, _, _⟩; cases ha; rfl)

theorem Laws.RoundTrip.tmma (o : TmmaOp) : Laws.RoundTrip.Statement (.tmma o) := by
  intro sl w q h hw
  cases h
  unfold pick
  dsimp only
  unfold pickM
  have hop : (BitVec.extractLsb' 2 6 (encTmma o false)).toNat = 8 := by
    simp (disch := omega) only [word, wordImm, word24, encA, encB, encC, encCorr, encAmac, encCchk, encAop, encAsum, encTmma, eword, btxWord, Stamp.word, VRow.word, ext_lo, ext_hi, Nat.reduceSub, ext_all]; rfl
  rw [hop]
  dsimp only
  simp (disch := omega) only [word, wordImm, word24, encA, encB, encC, encCorr, encAmac, encCchk, encAop, encAsum, encTmma, eword, btxWord, Stamp.word, VRow.word, memA, memB, memC, corrOp, hi16, ext_lo, ext_hi, Nat.reduceSub, ext_all, get_lo, get_hi, b1_get]
  first
    | rfl
    | (simp only [Nat.reduceAdd, Nat.reduceSub, ext_all]; rfl)
    | (simp only [span_frame, span_eword, span_eword0, span_xpush]; rfl)
    | (have ha := EOp.a_zero hw; rcases o with ⟨_, _, _, _, _, _, _⟩; cases ha; rfl)
    | (simp only [join_count]; have ha := EOp.a_zero hw; rcases o with ⟨_, _, _, _, _, _, _⟩; cases ha; rfl)

theorem Laws.RoundTrip.tmma64 (o : TmmaOp) (s : BitVec 16) : Laws.RoundTrip.Statement (.tmma64 o s) := by
  intro sl w q h hw
  cases h
  unfold pick
  dsimp only
  unfold pickM
  have hop : (BitVec.extractLsb' 2 6 (encTmma o true)).toNat = 8 := by
    simp (disch := omega) only [word, wordImm, word24, encA, encB, encC, encCorr, encAmac, encCchk, encAop, encAsum, encTmma, eword, btxWord, Stamp.word, VRow.word, ext_lo, ext_hi, Nat.reduceSub, ext_all]; rfl
  rw [hop]
  dsimp only
  simp (disch := omega) only [word, wordImm, word24, encA, encB, encC, encCorr, encAmac, encCchk, encAop, encAsum, encTmma, eword, btxWord, Stamp.word, VRow.word, memA, memB, memC, corrOp, hi16, ext_lo, ext_hi, Nat.reduceSub, ext_all, get_lo, get_hi, b1_get]
  first
    | rfl
    | (simp only [Nat.reduceAdd, Nat.reduceSub, ext_all]; rfl)
    | (simp only [span_frame, span_eword, span_eword0, span_xpush]; rfl)
    | (have ha := EOp.a_zero hw; rcases o with ⟨_, _, _, _, _, _, _⟩; cases ha; rfl)
    | (simp only [join_count]; have ha := EOp.a_zero hw; rcases o with ⟨_, _, _, _, _, _, _⟩; cases ha; rfl)

theorem Laws.RoundTrip.cresp (o : CorrOp) (p : Pfx) : Laws.RoundTrip.Statement (.cresp o p) := by
  intro sl w q h hw
  cases h
  unfold pick
  dsimp only
  unfold pickM
  have hop : (BitVec.extractLsb' 2 6 (encCorr o 0x09 false)).toNat = 9 := by
    simp (disch := omega) only [word, wordImm, word24, encA, encB, encC, encCorr, encAmac, encCchk, encAop, encAsum, encTmma, eword, btxWord, Stamp.word, VRow.word, ext_lo, ext_hi, Nat.reduceSub, ext_all]; rfl
  rw [hop]
  dsimp only
  simp (disch := omega) only [word, wordImm, word24, encA, encB, encC, encCorr, encAmac, encCchk, encAop, encAsum, encTmma, eword, btxWord, Stamp.word, VRow.word, memA, memB, memC, corrOp, hi16, ext_lo, ext_hi, Nat.reduceSub, ext_all, get_lo, get_hi, b1_get]
  first
    | rfl
    | (simp only [Nat.reduceAdd, Nat.reduceSub, ext_all]; rfl)
    | (simp only [span_frame, span_eword, span_eword0, span_xpush]; rfl)
    | (have ha := EOp.a_zero hw; rcases o with ⟨_, _, _, _, _, _, _⟩; cases ha; rfl)
    | (simp only [join_count]; have ha := EOp.a_zero hw; rcases o with ⟨_, _, _, _, _, _, _⟩; cases ha; rfl)

theorem Laws.RoundTrip.cresp64 (o : CorrOp) (x : Stamp) : Laws.RoundTrip.Statement (.cresp64 o x) := by
  intro sl w q h hw
  cases h
  unfold pick
  dsimp only
  unfold pickM
  have hop : (BitVec.extractLsb' 2 6 (encCorr o 0x09 true)).toNat = 9 := by
    simp (disch := omega) only [word, wordImm, word24, encA, encB, encC, encCorr, encAmac, encCchk, encAop, encAsum, encTmma, eword, btxWord, Stamp.word, VRow.word, ext_lo, ext_hi, Nat.reduceSub, ext_all]; rfl
  rw [hop]
  dsimp only
  simp (disch := omega) only [word, wordImm, word24, encA, encB, encC, encCorr, encAmac, encCchk, encAop, encAsum, encTmma, eword, btxWord, Stamp.word, VRow.word, memA, memB, memC, corrOp, hi16, ext_lo, ext_hi, Nat.reduceSub, ext_all, get_lo, get_hi, b1_get]
  first
    | rfl
    | (simp only [Nat.reduceAdd, Nat.reduceSub, ext_all]; rfl)
    | (simp only [span_frame, span_eword, span_eword0, span_xpush]; rfl)
    | (have ha := EOp.a_zero hw; rcases o with ⟨_, _, _, _, _, _, _⟩; cases ha; rfl)
    | (simp only [join_count]; have ha := EOp.a_zero hw; rcases o with ⟨_, _, _, _, _, _, _⟩; cases ha; rfl)

theorem Laws.RoundTrip.copa (o : CorrOp) (p : Pfx) : Laws.RoundTrip.Statement (.copa o p) := by
  intro sl w q h hw
  cases h
  unfold pick
  dsimp only
  unfold pickM
  have hop : (BitVec.extractLsb' 2 6 (encCorr o 0x0A false)).toNat = 10 := by
    simp (disch := omega) only [word, wordImm, word24, encA, encB, encC, encCorr, encAmac, encCchk, encAop, encAsum, encTmma, eword, btxWord, Stamp.word, VRow.word, ext_lo, ext_hi, Nat.reduceSub, ext_all]; rfl
  rw [hop]
  dsimp only
  simp (disch := omega) only [word, wordImm, word24, encA, encB, encC, encCorr, encAmac, encCchk, encAop, encAsum, encTmma, eword, btxWord, Stamp.word, VRow.word, memA, memB, memC, corrOp, hi16, ext_lo, ext_hi, Nat.reduceSub, ext_all, get_lo, get_hi, b1_get]
  first
    | rfl
    | (simp only [Nat.reduceAdd, Nat.reduceSub, ext_all]; rfl)
    | (simp only [span_frame, span_eword, span_eword0, span_xpush]; rfl)
    | (have ha := EOp.a_zero hw; rcases o with ⟨_, _, _, _, _, _, _⟩; cases ha; rfl)
    | (simp only [join_count]; have ha := EOp.a_zero hw; rcases o with ⟨_, _, _, _, _, _, _⟩; cases ha; rfl)

theorem Laws.RoundTrip.copa64 (o : CorrOp) (x : Stamp) : Laws.RoundTrip.Statement (.copa64 o x) := by
  intro sl w q h hw
  cases h
  unfold pick
  dsimp only
  unfold pickM
  have hop : (BitVec.extractLsb' 2 6 (encCorr o 0x0A true)).toNat = 10 := by
    simp (disch := omega) only [word, wordImm, word24, encA, encB, encC, encCorr, encAmac, encCchk, encAop, encAsum, encTmma, eword, btxWord, Stamp.word, VRow.word, ext_lo, ext_hi, Nat.reduceSub, ext_all]; rfl
  rw [hop]
  dsimp only
  simp (disch := omega) only [word, wordImm, word24, encA, encB, encC, encCorr, encAmac, encCchk, encAop, encAsum, encTmma, eword, btxWord, Stamp.word, VRow.word, memA, memB, memC, corrOp, hi16, ext_lo, ext_hi, Nat.reduceSub, ext_all, get_lo, get_hi, b1_get]
  first
    | rfl
    | (simp only [Nat.reduceAdd, Nat.reduceSub, ext_all]; rfl)
    | (simp only [span_frame, span_eword, span_eword0, span_xpush]; rfl)
    | (have ha := EOp.a_zero hw; rcases o with ⟨_, _, _, _, _, _, _⟩; cases ha; rfl)
    | (simp only [join_count]; have ha := EOp.a_zero hw; rcases o with ⟨_, _, _, _, _, _, _⟩; cases ha; rfl)

theorem Laws.RoundTrip.copaC (o : CorrOp) (p : Pfx) : Laws.RoundTrip.Statement (.copaC o p) := by
  intro sl w q h hw
  cases h
  unfold pick
  dsimp only
  unfold pickM
  have hop : (BitVec.extractLsb' 2 6 (encCorr o 0x0B false)).toNat = 11 := by
    simp (disch := omega) only [word, wordImm, word24, encA, encB, encC, encCorr, encAmac, encCchk, encAop, encAsum, encTmma, eword, btxWord, Stamp.word, VRow.word, ext_lo, ext_hi, Nat.reduceSub, ext_all]; rfl
  rw [hop]
  dsimp only
  simp (disch := omega) only [word, wordImm, word24, encA, encB, encC, encCorr, encAmac, encCchk, encAop, encAsum, encTmma, eword, btxWord, Stamp.word, VRow.word, memA, memB, memC, corrOp, hi16, ext_lo, ext_hi, Nat.reduceSub, ext_all, get_lo, get_hi, b1_get]
  first
    | rfl
    | (simp only [Nat.reduceAdd, Nat.reduceSub, ext_all]; rfl)
    | (simp only [span_frame, span_eword, span_eword0, span_xpush]; rfl)
    | (have ha := EOp.a_zero hw; rcases o with ⟨_, _, _, _, _, _, _⟩; cases ha; rfl)
    | (simp only [join_count]; have ha := EOp.a_zero hw; rcases o with ⟨_, _, _, _, _, _, _⟩; cases ha; rfl)

theorem Laws.RoundTrip.copaC64 (o : CorrOp) (x : Stamp) : Laws.RoundTrip.Statement (.copaC64 o x) := by
  intro sl w q h hw
  cases h
  unfold pick
  dsimp only
  unfold pickM
  have hop : (BitVec.extractLsb' 2 6 (encCorr o 0x0B true)).toNat = 11 := by
    simp (disch := omega) only [word, wordImm, word24, encA, encB, encC, encCorr, encAmac, encCchk, encAop, encAsum, encTmma, eword, btxWord, Stamp.word, VRow.word, ext_lo, ext_hi, Nat.reduceSub, ext_all]; rfl
  rw [hop]
  dsimp only
  simp (disch := omega) only [word, wordImm, word24, encA, encB, encC, encCorr, encAmac, encCchk, encAop, encAsum, encTmma, eword, btxWord, Stamp.word, VRow.word, memA, memB, memC, corrOp, hi16, ext_lo, ext_hi, Nat.reduceSub, ext_all, get_lo, get_hi, b1_get]
  first
    | rfl
    | (simp only [Nat.reduceAdd, Nat.reduceSub, ext_all]; rfl)
    | (simp only [span_frame, span_eword, span_eword0, span_xpush]; rfl)
    | (have ha := EOp.a_zero hw; rcases o with ⟨_, _, _, _, _, _, _⟩; cases ha; rfl)
    | (simp only [join_count]; have ha := EOp.a_zero hw; rcases o with ⟨_, _, _, _, _, _, _⟩; cases ha; rfl)

theorem Laws.RoundTrip.cchk (o : CchkOp) (p : Pfx) : Laws.RoundTrip.Statement (.cchk o p) := by
  intro sl w q h hw
  cases h
  unfold pick
  dsimp only
  unfold pickM
  have hop : (BitVec.extractLsb' 2 6 (encCchk o false)).toNat = 12 := by
    simp (disch := omega) only [word, wordImm, word24, encA, encB, encC, encCorr, encAmac, encCchk, encAop, encAsum, encTmma, eword, btxWord, Stamp.word, VRow.word, ext_lo, ext_hi, Nat.reduceSub, ext_all]; rfl
  rw [hop]
  dsimp only
  simp (disch := omega) only [word, wordImm, word24, encA, encB, encC, encCorr, encAmac, encCchk, encAop, encAsum, encTmma, eword, btxWord, Stamp.word, VRow.word, memA, memB, memC, corrOp, hi16, ext_lo, ext_hi, Nat.reduceSub, ext_all, get_lo, get_hi, b1_get]
  first
    | rfl
    | (simp only [Nat.reduceAdd, Nat.reduceSub, ext_all]; rfl)
    | (simp only [span_frame, span_eword, span_eword0, span_xpush]; rfl)
    | (have ha := EOp.a_zero hw; rcases o with ⟨_, _, _, _, _, _, _⟩; cases ha; rfl)
    | (simp only [join_count]; have ha := EOp.a_zero hw; rcases o with ⟨_, _, _, _, _, _, _⟩; cases ha; rfl)

theorem Laws.RoundTrip.cchk64 (o : CchkOp) (x : Stamp) : Laws.RoundTrip.Statement (.cchk64 o x) := by
  intro sl w q h hw
  cases h
  unfold pick
  dsimp only
  unfold pickM
  have hop : (BitVec.extractLsb' 2 6 (encCchk o true)).toNat = 12 := by
    simp (disch := omega) only [word, wordImm, word24, encA, encB, encC, encCorr, encAmac, encCchk, encAop, encAsum, encTmma, eword, btxWord, Stamp.word, VRow.word, ext_lo, ext_hi, Nat.reduceSub, ext_all]; rfl
  rw [hop]
  dsimp only
  simp (disch := omega) only [word, wordImm, word24, encA, encB, encC, encCorr, encAmac, encCchk, encAop, encAsum, encTmma, eword, btxWord, Stamp.word, VRow.word, memA, memB, memC, corrOp, hi16, ext_lo, ext_hi, Nat.reduceSub, ext_all, get_lo, get_hi, b1_get]
  first
    | rfl
    | (simp only [Nat.reduceAdd, Nat.reduceSub, ext_all]; rfl)
    | (simp only [span_frame, span_eword, span_eword0, span_xpush]; rfl)
    | (have ha := EOp.a_zero hw; rcases o with ⟨_, _, _, _, _, _, _⟩; cases ha; rfl)
    | (simp only [join_count]; have ha := EOp.a_zero hw; rcases o with ⟨_, _, _, _, _, _, _⟩; cases ha; rfl)

theorem Laws.RoundTrip.csnapSv (a : Reg) (b : Reg) (p : Pfx) : Laws.RoundTrip.Statement (.csnapSv a b p) := by
  intro sl w q h hw
  cases h
  unfold pick
  dsimp only
  unfold pickM
  have hop : (BitVec.extractLsb' 2 6 (word 0 0 b a 0x0D false)).toNat = 13 := by
    simp (disch := omega) only [word, wordImm, word24, encA, encB, encC, encCorr, encAmac, encCchk, encAop, encAsum, encTmma, eword, btxWord, Stamp.word, VRow.word, ext_lo, ext_hi, Nat.reduceSub, ext_all]; rfl
  rw [hop]
  dsimp only
  simp (disch := omega) only [word, wordImm, word24, encA, encB, encC, encCorr, encAmac, encCchk, encAop, encAsum, encTmma, eword, btxWord, Stamp.word, VRow.word, memA, memB, memC, corrOp, hi16, ext_lo, ext_hi, Nat.reduceSub, ext_all, get_lo, get_hi, b1_get]
  first
    | rfl
    | (simp only [Nat.reduceAdd, Nat.reduceSub, ext_all]; rfl)
    | (simp only [span_frame, span_eword, span_eword0, span_xpush]; rfl)
    | (have ha := EOp.a_zero hw; rcases o with ⟨_, _, _, _, _, _, _⟩; cases ha; rfl)
    | (simp only [join_count]; have ha := EOp.a_zero hw; rcases o with ⟨_, _, _, _, _, _, _⟩; cases ha; rfl)

theorem Laws.RoundTrip.csnapSv64 (a : Reg) (b : Reg) (x : Stamp) : Laws.RoundTrip.Statement (.csnapSv64 a b x) := by
  intro sl w q h hw
  cases h
  unfold pick
  dsimp only
  unfold pickM
  have hop : (BitVec.extractLsb' 2 6 (word 0 0 b a 0x0D true)).toNat = 13 := by
    simp (disch := omega) only [word, wordImm, word24, encA, encB, encC, encCorr, encAmac, encCchk, encAop, encAsum, encTmma, eword, btxWord, Stamp.word, VRow.word, ext_lo, ext_hi, Nat.reduceSub, ext_all]; rfl
  rw [hop]
  dsimp only
  simp (disch := omega) only [word, wordImm, word24, encA, encB, encC, encCorr, encAmac, encCchk, encAop, encAsum, encTmma, eword, btxWord, Stamp.word, VRow.word, memA, memB, memC, corrOp, hi16, ext_lo, ext_hi, Nat.reduceSub, ext_all, get_lo, get_hi, b1_get]
  first
    | rfl
    | (simp only [Nat.reduceAdd, Nat.reduceSub, ext_all]; rfl)
    | (simp only [span_frame, span_eword, span_eword0, span_xpush]; rfl)
    | (have ha := EOp.a_zero hw; rcases o with ⟨_, _, _, _, _, _, _⟩; cases ha; rfl)
    | (simp only [join_count]; have ha := EOp.a_zero hw; rcases o with ⟨_, _, _, _, _, _, _⟩; cases ha; rfl)

theorem Laws.RoundTrip.csnapLd (a : Reg) (b : Reg) (p : Pfx) : Laws.RoundTrip.Statement (.csnapLd a b p) := by
  intro sl w q h hw
  cases h
  unfold pick
  dsimp only
  unfold pickM
  have hop : (BitVec.extractLsb' 2 6 (word 1 0 b a 0x0D false)).toNat = 13 := by
    simp (disch := omega) only [word, wordImm, word24, encA, encB, encC, encCorr, encAmac, encCchk, encAop, encAsum, encTmma, eword, btxWord, Stamp.word, VRow.word, ext_lo, ext_hi, Nat.reduceSub, ext_all]; rfl
  rw [hop]
  dsimp only
  simp (disch := omega) only [word, wordImm, word24, encA, encB, encC, encCorr, encAmac, encCchk, encAop, encAsum, encTmma, eword, btxWord, Stamp.word, VRow.word, memA, memB, memC, corrOp, hi16, ext_lo, ext_hi, Nat.reduceSub, ext_all, get_lo, get_hi, b1_get]
  first
    | rfl
    | (simp only [Nat.reduceAdd, Nat.reduceSub, ext_all]; rfl)
    | (simp only [span_frame, span_eword, span_eword0, span_xpush]; rfl)
    | (have ha := EOp.a_zero hw; rcases o with ⟨_, _, _, _, _, _, _⟩; cases ha; rfl)
    | (simp only [join_count]; have ha := EOp.a_zero hw; rcases o with ⟨_, _, _, _, _, _, _⟩; cases ha; rfl)

theorem Laws.RoundTrip.csnapLd64 (a : Reg) (b : Reg) (x : Stamp) : Laws.RoundTrip.Statement (.csnapLd64 a b x) := by
  intro sl w q h hw
  cases h
  unfold pick
  dsimp only
  unfold pickM
  have hop : (BitVec.extractLsb' 2 6 (word 1 0 b a 0x0D true)).toNat = 13 := by
    simp (disch := omega) only [word, wordImm, word24, encA, encB, encC, encCorr, encAmac, encCchk, encAop, encAsum, encTmma, eword, btxWord, Stamp.word, VRow.word, ext_lo, ext_hi, Nat.reduceSub, ext_all]; rfl
  rw [hop]
  dsimp only
  simp (disch := omega) only [word, wordImm, word24, encA, encB, encC, encCorr, encAmac, encCchk, encAop, encAsum, encTmma, eword, btxWord, Stamp.word, VRow.word, memA, memB, memC, corrOp, hi16, ext_lo, ext_hi, Nat.reduceSub, ext_all, get_lo, get_hi, b1_get]
  first
    | rfl
    | (simp only [Nat.reduceAdd, Nat.reduceSub, ext_all]; rfl)
    | (simp only [span_frame, span_eword, span_eword0, span_xpush]; rfl)
    | (have ha := EOp.a_zero hw; rcases o with ⟨_, _, _, _, _, _, _⟩; cases ha; rfl)
    | (simp only [join_count]; have ha := EOp.a_zero hw; rcases o with ⟨_, _, _, _, _, _, _⟩; cases ha; rfl)

theorem Laws.RoundTrip.br (off : BitVec 24) : Laws.RoundTrip.Statement (.br off) := by
  intro sl w q h hw
  cases h
  unfold pick
  dsimp only
  unfold pickC
  have hop : (BitVec.extractLsb' 2 6 (word24 off 0x01 false)).toNat = 1 := by
    simp (disch := omega) only [word, wordImm, word24, encA, encB, encC, encCorr, encAmac, encCchk, encAop, encAsum, encTmma, eword, btxWord, Stamp.word, VRow.word, ext_lo, ext_hi, Nat.reduceSub, ext_all]; rfl
  rw [hop]
  dsimp only
  simp (disch := omega) only [word, wordImm, word24, encA, encB, encC, encCorr, encAmac, encCchk, encAop, encAsum, encTmma, eword, btxWord, Stamp.word, VRow.word, memA, memB, memC, corrOp, hi16, ext_lo, ext_hi, Nat.reduceSub, ext_all, get_lo, get_hi, b1_get]
  first
    | rfl
    | (simp only [Nat.reduceAdd, Nat.reduceSub, ext_all]; rfl)
    | (simp only [span_frame, span_eword, span_eword0, span_xpush]; rfl)
    | (have ha := EOp.a_zero hw; rcases o with ⟨_, _, _, _, _, _, _⟩; cases ha; rfl)
    | (simp only [join_count]; have ha := EOp.a_zero hw; rcases o with ⟨_, _, _, _, _, _, _⟩; cases ha; rfl)

theorem Laws.RoundTrip.br64 (q : BitVec 32) : Laws.RoundTrip.Statement (.br64 q) := by
  intro sl w q h hw
  cases h
  unfold pick
  dsimp only
  unfold pickC
  have hop : (BitVec.extractLsb' 2 6 (word24 0 0x01 true)).toNat = 1 := by
    simp (disch := omega) only [word, wordImm, word24, encA, encB, encC, encCorr, encAmac, encCchk, encAop, encAsum, encTmma, eword, btxWord, Stamp.word, VRow.word, ext_lo, ext_hi, Nat.reduceSub, ext_all]; rfl
  rw [hop]
  dsimp only
  simp (disch := omega) only [word, wordImm, word24, encA, encB, encC, encCorr, encAmac, encCchk, encAop, encAsum, encTmma, eword, btxWord, Stamp.word, VRow.word, memA, memB, memC, corrOp, hi16, ext_lo, ext_hi, Nat.reduceSub, ext_all, get_lo, get_hi, b1_get]
  first
    | rfl
    | (simp only [Nat.reduceAdd, Nat.reduceSub, ext_all]; rfl)
    | (simp only [span_frame, span_eword, span_eword0, span_xpush]; rfl)
    | (have ha := EOp.a_zero hw; rcases o with ⟨_, _, _, _, _, _, _⟩; cases ha; rfl)
    | (simp only [join_count]; have ha := EOp.a_zero hw; rcases o with ⟨_, _, _, _, _, _, _⟩; cases ha; rfl)

theorem Laws.RoundTrip.bz (b : Reg) (off : BitVec 14) : Laws.RoundTrip.Statement (.bz b off) := by
  intro sl w q h hw
  cases h
  unfold pick
  dsimp only
  unfold pickC
  have hop : (BitVec.extractLsb' 2 6 (wordImm off b 0 0x02 false)).toNat = 2 := by
    simp (disch := omega) only [word, wordImm, word24, encA, encB, encC, encCorr, encAmac, encCchk, encAop, encAsum, encTmma, eword, btxWord, Stamp.word, VRow.word, ext_lo, ext_hi, Nat.reduceSub, ext_all]; rfl
  rw [hop]
  dsimp only
  simp (disch := omega) only [word, wordImm, word24, encA, encB, encC, encCorr, encAmac, encCchk, encAop, encAsum, encTmma, eword, btxWord, Stamp.word, VRow.word, memA, memB, memC, corrOp, hi16, ext_lo, ext_hi, Nat.reduceSub, ext_all, get_lo, get_hi, b1_get]
  first
    | rfl
    | (simp only [Nat.reduceAdd, Nat.reduceSub, ext_all]; rfl)
    | (simp only [span_frame, span_eword, span_eword0, span_xpush]; rfl)
    | (have ha := EOp.a_zero hw; rcases o with ⟨_, _, _, _, _, _, _⟩; cases ha; rfl)
    | (simp only [join_count]; have ha := EOp.a_zero hw; rcases o with ⟨_, _, _, _, _, _, _⟩; cases ha; rfl)

theorem Laws.RoundTrip.bz64 (b : Reg) (q : BitVec 32) : Laws.RoundTrip.Statement (.bz64 b q) := by
  intro sl w q h hw
  cases h
  unfold pick
  dsimp only
  unfold pickC
  have hop : (BitVec.extractLsb' 2 6 (word 0 0 b 0 0x02 true)).toNat = 2 := by
    simp (disch := omega) only [word, wordImm, word24, encA, encB, encC, encCorr, encAmac, encCchk, encAop, encAsum, encTmma, eword, btxWord, Stamp.word, VRow.word, ext_lo, ext_hi, Nat.reduceSub, ext_all]; rfl
  rw [hop]
  dsimp only
  simp (disch := omega) only [word, wordImm, word24, encA, encB, encC, encCorr, encAmac, encCchk, encAop, encAsum, encTmma, eword, btxWord, Stamp.word, VRow.word, memA, memB, memC, corrOp, hi16, ext_lo, ext_hi, Nat.reduceSub, ext_all, get_lo, get_hi, b1_get]
  first
    | rfl
    | (simp only [Nat.reduceAdd, Nat.reduceSub, ext_all]; rfl)
    | (simp only [span_frame, span_eword, span_eword0, span_xpush]; rfl)
    | (have ha := EOp.a_zero hw; rcases o with ⟨_, _, _, _, _, _, _⟩; cases ha; rfl)
    | (simp only [join_count]; have ha := EOp.a_zero hw; rcases o with ⟨_, _, _, _, _, _, _⟩; cases ha; rfl)

theorem Laws.RoundTrip.bnz (b : Reg) (off : BitVec 14) : Laws.RoundTrip.Statement (.bnz b off) := by
  intro sl w q h hw
  cases h
  unfold pick
  dsimp only
  unfold pickC
  have hop : (BitVec.extractLsb' 2 6 (wordImm off b 0 0x03 false)).toNat = 3 := by
    simp (disch := omega) only [word, wordImm, word24, encA, encB, encC, encCorr, encAmac, encCchk, encAop, encAsum, encTmma, eword, btxWord, Stamp.word, VRow.word, ext_lo, ext_hi, Nat.reduceSub, ext_all]; rfl
  rw [hop]
  dsimp only
  simp (disch := omega) only [word, wordImm, word24, encA, encB, encC, encCorr, encAmac, encCchk, encAop, encAsum, encTmma, eword, btxWord, Stamp.word, VRow.word, memA, memB, memC, corrOp, hi16, ext_lo, ext_hi, Nat.reduceSub, ext_all, get_lo, get_hi, b1_get]
  first
    | rfl
    | (simp only [Nat.reduceAdd, Nat.reduceSub, ext_all]; rfl)
    | (simp only [span_frame, span_eword, span_eword0, span_xpush]; rfl)
    | (have ha := EOp.a_zero hw; rcases o with ⟨_, _, _, _, _, _, _⟩; cases ha; rfl)
    | (simp only [join_count]; have ha := EOp.a_zero hw; rcases o with ⟨_, _, _, _, _, _, _⟩; cases ha; rfl)

theorem Laws.RoundTrip.bnz64 (b : Reg) (q : BitVec 32) : Laws.RoundTrip.Statement (.bnz64 b q) := by
  intro sl w q h hw
  cases h
  unfold pick
  dsimp only
  unfold pickC
  have hop : (BitVec.extractLsb' 2 6 (word 0 0 b 0 0x03 true)).toNat = 3 := by
    simp (disch := omega) only [word, wordImm, word24, encA, encB, encC, encCorr, encAmac, encCchk, encAop, encAsum, encTmma, eword, btxWord, Stamp.word, VRow.word, ext_lo, ext_hi, Nat.reduceSub, ext_all]; rfl
  rw [hop]
  dsimp only
  simp (disch := omega) only [word, wordImm, word24, encA, encB, encC, encCorr, encAmac, encCchk, encAop, encAsum, encTmma, eword, btxWord, Stamp.word, VRow.word, memA, memB, memC, corrOp, hi16, ext_lo, ext_hi, Nat.reduceSub, ext_all, get_lo, get_hi, b1_get]
  first
    | rfl
    | (simp only [Nat.reduceAdd, Nat.reduceSub, ext_all]; rfl)
    | (simp only [span_frame, span_eword, span_eword0, span_xpush]; rfl)
    | (have ha := EOp.a_zero hw; rcases o with ⟨_, _, _, _, _, _, _⟩; cases ha; rfl)
    | (simp only [join_count]; have ha := EOp.a_zero hw; rcases o with ⟨_, _, _, _, _, _, _⟩; cases ha; rfl)

theorem Laws.RoundTrip.bcc (f : Bool) (cc : BitVec 3) (b : Reg) (c : Reg) (off : BitVec 9) : Laws.RoundTrip.Statement (.bcc f cc b c off) := by
  intro sl w q h hw
  cases h
  unfold pick
  dsimp only
  unfold pickC
  have hop : (BitVec.extractLsb' 2 6 (word off c b (b1 f ++ 0#1 ++ cc) 0x04 false)).toNat = 4 := by
    simp (disch := omega) only [word, wordImm, word24, encA, encB, encC, encCorr, encAmac, encCchk, encAop, encAsum, encTmma, eword, btxWord, Stamp.word, VRow.word, ext_lo, ext_hi, Nat.reduceSub, ext_all]; rfl
  rw [hop]
  dsimp only
  simp (disch := omega) only [word, wordImm, word24, encA, encB, encC, encCorr, encAmac, encCchk, encAop, encAsum, encTmma, eword, btxWord, Stamp.word, VRow.word, memA, memB, memC, corrOp, hi16, ext_lo, ext_hi, Nat.reduceSub, ext_all, get_lo, get_hi, b1_get]
  first
    | rfl
    | (simp only [Nat.reduceAdd, Nat.reduceSub, ext_all]; rfl)
    | (simp only [span_frame, span_eword, span_eword0, span_xpush]; rfl)
    | (have ha := EOp.a_zero hw; rcases o with ⟨_, _, _, _, _, _, _⟩; cases ha; rfl)
    | (simp only [join_count]; have ha := EOp.a_zero hw; rcases o with ⟨_, _, _, _, _, _, _⟩; cases ha; rfl)

theorem Laws.RoundTrip.bcc64 (f : Bool) (cc : BitVec 3) (b : Reg) (c : Reg) (q : BitVec 32) : Laws.RoundTrip.Statement (.bcc64 f cc b c q) := by
  intro sl w q h hw
  cases h
  unfold pick
  dsimp only
  unfold pickC
  have hop : (BitVec.extractLsb' 2 6 (word 0 c b (b1 f ++ 0#1 ++ cc) 0x04 true)).toNat = 4 := by
    simp (disch := omega) only [word, wordImm, word24, encA, encB, encC, encCorr, encAmac, encCchk, encAop, encAsum, encTmma, eword, btxWord, Stamp.word, VRow.word, ext_lo, ext_hi, Nat.reduceSub, ext_all]; rfl
  rw [hop]
  dsimp only
  simp (disch := omega) only [word, wordImm, word24, encA, encB, encC, encCorr, encAmac, encCchk, encAop, encAsum, encTmma, eword, btxWord, Stamp.word, VRow.word, memA, memB, memC, corrOp, hi16, ext_lo, ext_hi, Nat.reduceSub, ext_all, get_lo, get_hi, b1_get]
  first
    | rfl
    | (simp only [Nat.reduceAdd, Nat.reduceSub, ext_all]; rfl)
    | (simp only [span_frame, span_eword, span_eword0, span_xpush]; rfl)
    | (have ha := EOp.a_zero hw; rcases o with ⟨_, _, _, _, _, _, _⟩; cases ha; rfl)
    | (simp only [join_count]; have ha := EOp.a_zero hw; rcases o with ⟨_, _, _, _, _, _, _⟩; cases ha; rfl)

theorem Laws.RoundTrip.call (off : BitVec 24) : Laws.RoundTrip.Statement (.call off) := by
  intro sl w q h hw
  cases h
  unfold pick
  dsimp only
  unfold pickC
  have hop : (BitVec.extractLsb' 2 6 (word24 off 0x05 false)).toNat = 5 := by
    simp (disch := omega) only [word, wordImm, word24, encA, encB, encC, encCorr, encAmac, encCchk, encAop, encAsum, encTmma, eword, btxWord, Stamp.word, VRow.word, ext_lo, ext_hi, Nat.reduceSub, ext_all]; rfl
  rw [hop]
  dsimp only
  simp (disch := omega) only [word, wordImm, word24, encA, encB, encC, encCorr, encAmac, encCchk, encAop, encAsum, encTmma, eword, btxWord, Stamp.word, VRow.word, memA, memB, memC, corrOp, hi16, ext_lo, ext_hi, Nat.reduceSub, ext_all, get_lo, get_hi, b1_get]
  first
    | rfl
    | (simp only [Nat.reduceAdd, Nat.reduceSub, ext_all]; rfl)
    | (simp only [span_frame, span_eword, span_eword0, span_xpush]; rfl)
    | (have ha := EOp.a_zero hw; rcases o with ⟨_, _, _, _, _, _, _⟩; cases ha; rfl)
    | (simp only [join_count]; have ha := EOp.a_zero hw; rcases o with ⟨_, _, _, _, _, _, _⟩; cases ha; rfl)

theorem Laws.RoundTrip.call64 (q : BitVec 32) : Laws.RoundTrip.Statement (.call64 q) := by
  intro sl w q h hw
  cases h
  unfold pick
  dsimp only
  unfold pickC
  have hop : (BitVec.extractLsb' 2 6 (word24 0 0x05 true)).toNat = 5 := by
    simp (disch := omega) only [word, wordImm, word24, encA, encB, encC, encCorr, encAmac, encCchk, encAop, encAsum, encTmma, eword, btxWord, Stamp.word, VRow.word, ext_lo, ext_hi, Nat.reduceSub, ext_all]; rfl
  rw [hop]
  dsimp only
  simp (disch := omega) only [word, wordImm, word24, encA, encB, encC, encCorr, encAmac, encCchk, encAop, encAsum, encTmma, eword, btxWord, Stamp.word, VRow.word, memA, memB, memC, corrOp, hi16, ext_lo, ext_hi, Nat.reduceSub, ext_all, get_lo, get_hi, b1_get]
  first
    | rfl
    | (simp only [Nat.reduceAdd, Nat.reduceSub, ext_all]; rfl)
    | (simp only [span_frame, span_eword, span_eword0, span_xpush]; rfl)
    | (have ha := EOp.a_zero hw; rcases o with ⟨_, _, _, _, _, _, _⟩; cases ha; rfl)
    | (simp only [join_count]; have ha := EOp.a_zero hw; rcases o with ⟨_, _, _, _, _, _, _⟩; cases ha; rfl)

theorem Laws.RoundTrip.callr (b : Reg) : Laws.RoundTrip.Statement (.callr b) := by
  intro sl w q h hw
  cases h
  unfold pick
  dsimp only
  unfold pickC
  have hop : (BitVec.extractLsb' 2 6 (word 0 0 b 0 0x06 false)).toNat = 6 := by
    simp (disch := omega) only [word, wordImm, word24, encA, encB, encC, encCorr, encAmac, encCchk, encAop, encAsum, encTmma, eword, btxWord, Stamp.word, VRow.word, ext_lo, ext_hi, Nat.reduceSub, ext_all]; rfl
  rw [hop]
  dsimp only
  simp (disch := omega) only [word, wordImm, word24, encA, encB, encC, encCorr, encAmac, encCchk, encAop, encAsum, encTmma, eword, btxWord, Stamp.word, VRow.word, memA, memB, memC, corrOp, hi16, ext_lo, ext_hi, Nat.reduceSub, ext_all, get_lo, get_hi, b1_get]
  first
    | rfl
    | (simp only [Nat.reduceAdd, Nat.reduceSub, ext_all]; rfl)
    | (simp only [span_frame, span_eword, span_eword0, span_xpush]; rfl)
    | (have ha := EOp.a_zero hw; rcases o with ⟨_, _, _, _, _, _, _⟩; cases ha; rfl)
    | (simp only [join_count]; have ha := EOp.a_zero hw; rcases o with ⟨_, _, _, _, _, _, _⟩; cases ha; rfl)

theorem Laws.RoundTrip.ret : Laws.RoundTrip.Statement (.ret) := by
  intro sl w q h hw
  cases h
  unfold pick
  dsimp only
  unfold pickC
  have hop : (BitVec.extractLsb' 2 6 (word24 0 0x07 false)).toNat = 7 := by
    simp (disch := omega) only [word, wordImm, word24, encA, encB, encC, encCorr, encAmac, encCchk, encAop, encAsum, encTmma, eword, btxWord, Stamp.word, VRow.word, ext_lo, ext_hi, Nat.reduceSub, ext_all]; rfl
  rw [hop]
  dsimp only
  simp (disch := omega) only [word, wordImm, word24, encA, encB, encC, encCorr, encAmac, encCchk, encAop, encAsum, encTmma, eword, btxWord, Stamp.word, VRow.word, memA, memB, memC, corrOp, hi16, ext_lo, ext_hi, Nat.reduceSub, ext_all, get_lo, get_hi, b1_get]
  first
    | rfl
    | (simp only [Nat.reduceAdd, Nat.reduceSub, ext_all]; rfl)
    | (simp only [span_frame, span_eword, span_eword0, span_xpush]; rfl)
    | (have ha := EOp.a_zero hw; rcases o with ⟨_, _, _, _, _, _, _⟩; cases ha; rfl)
    | (simp only [join_count]; have ha := EOp.a_zero hw; rcases o with ⟨_, _, _, _, _, _, _⟩; cases ha; rfl)

theorem Laws.RoundTrip.jr (b : Reg) : Laws.RoundTrip.Statement (.jr b) := by
  intro sl w q h hw
  cases h
  unfold pick
  dsimp only
  unfold pickC
  have hop : (BitVec.extractLsb' 2 6 (word 0 0 b 0 0x08 false)).toNat = 8 := by
    simp (disch := omega) only [word, wordImm, word24, encA, encB, encC, encCorr, encAmac, encCchk, encAop, encAsum, encTmma, eword, btxWord, Stamp.word, VRow.word, ext_lo, ext_hi, Nat.reduceSub, ext_all]; rfl
  rw [hop]
  dsimp only
  simp (disch := omega) only [word, wordImm, word24, encA, encB, encC, encCorr, encAmac, encCchk, encAop, encAsum, encTmma, eword, btxWord, Stamp.word, VRow.word, memA, memB, memC, corrOp, hi16, ext_lo, ext_hi, Nat.reduceSub, ext_all, get_lo, get_hi, b1_get]
  first
    | rfl
    | (simp only [Nat.reduceAdd, Nat.reduceSub, ext_all]; rfl)
    | (simp only [span_frame, span_eword, span_eword0, span_xpush]; rfl)
    | (have ha := EOp.a_zero hw; rcases o with ⟨_, _, _, _, _, _, _⟩; cases ha; rfl)
    | (simp only [join_count]; have ha := EOp.a_zero hw; rcases o with ⟨_, _, _, _, _, _, _⟩; cases ha; rfl)

theorem Laws.RoundTrip.loop (b : Reg) (off : BitVec 14) : Laws.RoundTrip.Statement (.loop b off) := by
  intro sl w q h hw
  cases h
  unfold pick
  dsimp only
  unfold pickC
  have hop : (BitVec.extractLsb' 2 6 (wordImm off b 0 0x09 false)).toNat = 9 := by
    simp (disch := omega) only [word, wordImm, word24, encA, encB, encC, encCorr, encAmac, encCchk, encAop, encAsum, encTmma, eword, btxWord, Stamp.word, VRow.word, ext_lo, ext_hi, Nat.reduceSub, ext_all]; rfl
  rw [hop]
  dsimp only
  simp (disch := omega) only [word, wordImm, word24, encA, encB, encC, encCorr, encAmac, encCchk, encAop, encAsum, encTmma, eword, btxWord, Stamp.word, VRow.word, memA, memB, memC, corrOp, hi16, ext_lo, ext_hi, Nat.reduceSub, ext_all, get_lo, get_hi, b1_get]
  first
    | rfl
    | (simp only [Nat.reduceAdd, Nat.reduceSub, ext_all]; rfl)
    | (simp only [span_frame, span_eword, span_eword0, span_xpush]; rfl)
    | (have ha := EOp.a_zero hw; rcases o with ⟨_, _, _, _, _, _, _⟩; cases ha; rfl)
    | (simp only [join_count]; have ha := EOp.a_zero hw; rcases o with ⟨_, _, _, _, _, _, _⟩; cases ha; rfl)

theorem Laws.RoundTrip.loop64 (b : Reg) (q : BitVec 32) : Laws.RoundTrip.Statement (.loop64 b q) := by
  intro sl w q h hw
  cases h
  unfold pick
  dsimp only
  unfold pickC
  have hop : (BitVec.extractLsb' 2 6 (word 0 0 b 0 0x09 true)).toNat = 9 := by
    simp (disch := omega) only [word, wordImm, word24, encA, encB, encC, encCorr, encAmac, encCchk, encAop, encAsum, encTmma, eword, btxWord, Stamp.word, VRow.word, ext_lo, ext_hi, Nat.reduceSub, ext_all]; rfl
  rw [hop]
  dsimp only
  simp (disch := omega) only [word, wordImm, word24, encA, encB, encC, encCorr, encAmac, encCchk, encAop, encAsum, encTmma, eword, btxWord, Stamp.word, VRow.word, memA, memB, memC, corrOp, hi16, ext_lo, ext_hi, Nat.reduceSub, ext_all, get_lo, get_hi, b1_get]
  first
    | rfl
    | (simp only [Nat.reduceAdd, Nat.reduceSub, ext_all]; rfl)
    | (simp only [span_frame, span_eword, span_eword0, span_xpush]; rfl)
    | (have ha := EOp.a_zero hw; rcases o with ⟨_, _, _, _, _, _, _⟩; cases ha; rfl)
    | (simp only [join_count]; have ha := EOp.a_zero hw; rcases o with ⟨_, _, _, _, _, _, _⟩; cases ha; rfl)

theorem Laws.RoundTrip.trap (i : BitVec 16) : Laws.RoundTrip.Statement (.trap i) := by
  intro sl w q h hw
  cases h
  unfold pick
  dsimp only
  unfold pickC
  have hop : (BitVec.extractLsb' 2 6 (word24 (i ++ 0#8) 0x0A false)).toNat = 10 := by
    simp (disch := omega) only [word, wordImm, word24, encA, encB, encC, encCorr, encAmac, encCchk, encAop, encAsum, encTmma, eword, btxWord, Stamp.word, VRow.word, ext_lo, ext_hi, Nat.reduceSub, ext_all]; rfl
  rw [hop]
  dsimp only
  simp (disch := omega) only [word, wordImm, word24, encA, encB, encC, encCorr, encAmac, encCchk, encAop, encAsum, encTmma, eword, btxWord, Stamp.word, VRow.word, memA, memB, memC, corrOp, hi16, ext_lo, ext_hi, Nat.reduceSub, ext_all, get_lo, get_hi, b1_get]
  first
    | rfl
    | (simp only [Nat.reduceAdd, Nat.reduceSub, ext_all]; rfl)
    | (simp only [span_frame, span_eword, span_eword0, span_xpush]; rfl)
    | (have ha := EOp.a_zero hw; rcases o with ⟨_, _, _, _, _, _, _⟩; cases ha; rfl)
    | (simp only [join_count]; have ha := EOp.a_zero hw; rcases o with ⟨_, _, _, _, _, _, _⟩; cases ha; rfl)

theorem Laws.RoundTrip.sys (i : BitVec 16) : Laws.RoundTrip.Statement (.sys i) := by
  intro sl w q h hw
  cases h
  unfold pick
  dsimp only
  unfold pickC
  have hop : (BitVec.extractLsb' 2 6 (word24 (i ++ 0#8) 0x0B false)).toNat = 11 := by
    simp (disch := omega) only [word, wordImm, word24, encA, encB, encC, encCorr, encAmac, encCchk, encAop, encAsum, encTmma, eword, btxWord, Stamp.word, VRow.word, ext_lo, ext_hi, Nat.reduceSub, ext_all]; rfl
  rw [hop]
  dsimp only
  simp (disch := omega) only [word, wordImm, word24, encA, encB, encC, encCorr, encAmac, encCchk, encAop, encAsum, encTmma, eword, btxWord, Stamp.word, VRow.word, memA, memB, memC, corrOp, hi16, ext_lo, ext_hi, Nat.reduceSub, ext_all, get_lo, get_hi, b1_get]
  first
    | rfl
    | (simp only [Nat.reduceAdd, Nat.reduceSub, ext_all]; rfl)
    | (simp only [span_frame, span_eword, span_eword0, span_xpush]; rfl)
    | (have ha := EOp.a_zero hw; rcases o with ⟨_, _, _, _, _, _, _⟩; cases ha; rfl)
    | (simp only [join_count]; have ha := EOp.a_zero hw; rcases o with ⟨_, _, _, _, _, _, _⟩; cases ha; rfl)

theorem Laws.RoundTrip.endTask : Laws.RoundTrip.Statement (.endTask) := by
  intro sl w q h hw
  cases h
  unfold pick
  dsimp only
  unfold pickC
  have hop : (BitVec.extractLsb' 2 6 (word24 0 0x0C false)).toNat = 12 := by
    simp (disch := omega) only [word, wordImm, word24, encA, encB, encC, encCorr, encAmac, encCchk, encAop, encAsum, encTmma, eword, btxWord, Stamp.word, VRow.word, ext_lo, ext_hi, Nat.reduceSub, ext_all]; rfl
  rw [hop]
  dsimp only
  simp (disch := omega) only [word, wordImm, word24, encA, encB, encC, encCorr, encAmac, encCchk, encAop, encAsum, encTmma, eword, btxWord, Stamp.word, VRow.word, memA, memB, memC, corrOp, hi16, ext_lo, ext_hi, Nat.reduceSub, ext_all, get_lo, get_hi, b1_get]
  first
    | rfl
    | (simp only [Nat.reduceAdd, Nat.reduceSub, ext_all]; rfl)
    | (simp only [span_frame, span_eword, span_eword0, span_xpush]; rfl)
    | (have ha := EOp.a_zero hw; rcases o with ⟨_, _, _, _, _, _, _⟩; cases ha; rfl)
    | (simp only [join_count]; have ha := EOp.a_zero hw; rcases o with ⟨_, _, _, _, _, _, _⟩; cases ha; rfl)

theorem Laws.RoundTrip.setf (b : Reg) : Laws.RoundTrip.Statement (.setf b) := by
  intro sl w q h hw
  cases h
  unfold pick
  dsimp only
  unfold pickC
  have hop : (BitVec.extractLsb' 2 6 (word 0 0 b 0 0x10 false)).toNat = 16 := by
    simp (disch := omega) only [word, wordImm, word24, encA, encB, encC, encCorr, encAmac, encCchk, encAop, encAsum, encTmma, eword, btxWord, Stamp.word, VRow.word, ext_lo, ext_hi, Nat.reduceSub, ext_all]; rfl
  rw [hop]
  dsimp only
  simp (disch := omega) only [word, wordImm, word24, encA, encB, encC, encCorr, encAmac, encCchk, encAop, encAsum, encTmma, eword, btxWord, Stamp.word, VRow.word, memA, memB, memC, corrOp, hi16, ext_lo, ext_hi, Nat.reduceSub, ext_all, get_lo, get_hi, b1_get]
  first
    | rfl
    | (simp only [Nat.reduceAdd, Nat.reduceSub, ext_all]; rfl)
    | (simp only [span_frame, span_eword, span_eword0, span_xpush]; rfl)
    | (have ha := EOp.a_zero hw; rcases o with ⟨_, _, _, _, _, _, _⟩; cases ha; rfl)
    | (simp only [join_count]; have ha := EOp.a_zero hw; rcases o with ⟨_, _, _, _, _, _, _⟩; cases ha; rfl)

theorem Laws.RoundTrip.setsz (r : BitVec 3) (s : Bool) : Laws.RoundTrip.Statement (.setsz r s) := by
  intro sl w q h hw
  cases h
  unfold pick
  dsimp only
  unfold pickC
  have hop : (BitVec.extractLsb' 2 6 (word (0#5 ++ r ++ b1 s) 0 0 0 0x11 false)).toNat = 17 := by
    simp (disch := omega) only [word, wordImm, word24, encA, encB, encC, encCorr, encAmac, encCchk, encAop, encAsum, encTmma, eword, btxWord, Stamp.word, VRow.word, ext_lo, ext_hi, Nat.reduceSub, ext_all]; rfl
  rw [hop]
  dsimp only
  simp (disch := omega) only [word, wordImm, word24, encA, encB, encC, encCorr, encAmac, encCchk, encAop, encAsum, encTmma, eword, btxWord, Stamp.word, VRow.word, memA, memB, memC, corrOp, hi16, ext_lo, ext_hi, Nat.reduceSub, ext_all, get_lo, get_hi, b1_get]
  first
    | rfl
    | (simp only [Nat.reduceAdd, Nat.reduceSub, ext_all]; rfl)
    | (simp only [span_frame, span_eword, span_eword0, span_xpush]; rfl)
    | (have ha := EOp.a_zero hw; rcases o with ⟨_, _, _, _, _, _, _⟩; cases ha; rfl)
    | (simp only [join_count]; have ha := EOp.a_zero hw; rcases o with ⟨_, _, _, _, _, _, _⟩; cases ha; rfl)

theorem Laws.RoundTrip.frame (k : BitVec 9) : Laws.RoundTrip.Statement (.frame k) := by
  intro sl w q h hw
  cases h
  unfold pick
  dsimp only
  unfold pickC
  have hop : (BitVec.extractLsb' 2 6 (word k 0 0 0 0x12 false)).toNat = 18 := by
    simp (disch := omega) only [word, wordImm, word24, encA, encB, encC, encCorr, encAmac, encCchk, encAop, encAsum, encTmma, eword, btxWord, Stamp.word, VRow.word, ext_lo, ext_hi, Nat.reduceSub, ext_all]; rfl
  rw [hop]
  dsimp only
  simp (disch := omega) only [word, wordImm, word24, encA, encB, encC, encCorr, encAmac, encCchk, encAop, encAsum, encTmma, eword, btxWord, Stamp.word, VRow.word, memA, memB, memC, corrOp, hi16, ext_lo, ext_hi, Nat.reduceSub, ext_all, get_lo, get_hi, b1_get]
  first
    | rfl
    | (simp only [Nat.reduceAdd, Nat.reduceSub, ext_all]; rfl)
    | (simp only [span_frame, span_eword, span_eword0, span_xpush]; rfl)
    | (have ha := EOp.a_zero hw; rcases o with ⟨_, _, _, _, _, _, _⟩; cases ha; rfl)
    | (simp only [join_count]; have ha := EOp.a_zero hw; rcases o with ⟨_, _, _, _, _, _, _⟩; cases ha; rfl)

theorem Laws.RoundTrip.beatset (b : Reg) : Laws.RoundTrip.Statement (.beatset b) := by
  intro sl w q h hw
  cases h
  unfold pick
  dsimp only
  unfold pickC
  have hop : (BitVec.extractLsb' 2 6 (word 0 0 b 0 0x13 false)).toNat = 19 := by
    simp (disch := omega) only [word, wordImm, word24, encA, encB, encC, encCorr, encAmac, encCchk, encAop, encAsum, encTmma, eword, btxWord, Stamp.word, VRow.word, ext_lo, ext_hi, Nat.reduceSub, ext_all]; rfl
  rw [hop]
  dsimp only
  simp (disch := omega) only [word, wordImm, word24, encA, encB, encC, encCorr, encAmac, encCchk, encAop, encAsum, encTmma, eword, btxWord, Stamp.word, VRow.word, memA, memB, memC, corrOp, hi16, ext_lo, ext_hi, Nat.reduceSub, ext_all, get_lo, get_hi, b1_get]
  first
    | rfl
    | (simp only [Nat.reduceAdd, Nat.reduceSub, ext_all]; rfl)
    | (simp only [span_frame, span_eword, span_eword0, span_xpush]; rfl)
    | (have ha := EOp.a_zero hw; rcases o with ⟨_, _, _, _, _, _, _⟩; cases ha; rfl)
    | (simp only [join_count]; have ha := EOp.a_zero hw; rcases o with ⟨_, _, _, _, _, _, _⟩; cases ha; rfl)

theorem Laws.RoundTrip.beatset64 (t : BitVec 16) : Laws.RoundTrip.Statement (.beatset64 t) := by
  intro sl w q h hw
  cases h
  unfold pick
  dsimp only
  unfold pickC
  have hop : (BitVec.extractLsb' 2 6 (word24 0 0x13 true)).toNat = 19 := by
    simp (disch := omega) only [word, wordImm, word24, encA, encB, encC, encCorr, encAmac, encCchk, encAop, encAsum, encTmma, eword, btxWord, Stamp.word, VRow.word, ext_lo, ext_hi, Nat.reduceSub, ext_all]; rfl
  rw [hop]
  dsimp only
  simp (disch := omega) only [word, wordImm, word24, encA, encB, encC, encCorr, encAmac, encCchk, encAop, encAsum, encTmma, eword, btxWord, Stamp.word, VRow.word, memA, memB, memC, corrOp, hi16, ext_lo, ext_hi, Nat.reduceSub, ext_all, get_lo, get_hi, b1_get]
  first
    | rfl
    | (simp only [Nat.reduceAdd, Nat.reduceSub, ext_all]; rfl)
    | (simp only [span_frame, span_eword, span_eword0, span_xpush]; rfl)
    | (have ha := EOp.a_zero hw; rcases o with ⟨_, _, _, _, _, _, _⟩; cases ha; rfl)
    | (simp only [join_count]; have ha := EOp.a_zero hw; rcases o with ⟨_, _, _, _, _, _, _⟩; cases ha; rfl)

theorem Laws.RoundTrip.beatnext : Laws.RoundTrip.Statement (.beatnext) := by
  intro sl w q h hw
  cases h
  unfold pick
  dsimp only
  unfold pickC
  have hop : (BitVec.extractLsb' 2 6 (word24 0 0x14 false)).toNat = 20 := by
    simp (disch := omega) only [word, wordImm, word24, encA, encB, encC, encCorr, encAmac, encCchk, encAop, encAsum, encTmma, eword, btxWord, Stamp.word, VRow.word, ext_lo, ext_hi, Nat.reduceSub, ext_all]; rfl
  rw [hop]
  dsimp only
  simp (disch := omega) only [word, wordImm, word24, encA, encB, encC, encCorr, encAmac, encCchk, encAop, encAsum, encTmma, eword, btxWord, Stamp.word, VRow.word, memA, memB, memC, corrOp, hi16, ext_lo, ext_hi, Nat.reduceSub, ext_all, get_lo, get_hi, b1_get]
  first
    | rfl
    | (simp only [Nat.reduceAdd, Nat.reduceSub, ext_all]; rfl)
    | (simp only [span_frame, span_eword, span_eword0, span_xpush]; rfl)
    | (have ha := EOp.a_zero hw; rcases o with ⟨_, _, _, _, _, _, _⟩; cases ha; rfl)
    | (simp only [join_count]; have ha := EOp.a_zero hw; rcases o with ⟨_, _, _, _, _, _, _⟩; cases ha; rfl)

theorem Laws.RoundTrip.bplan (b : Reg) : Laws.RoundTrip.Statement (.bplan b) := by
  intro sl w q h hw
  cases h
  unfold pick
  dsimp only
  unfold pickC
  have hop : (BitVec.extractLsb' 2 6 (word 0 0 b 0 0x15 false)).toNat = 21 := by
    simp (disch := omega) only [word, wordImm, word24, encA, encB, encC, encCorr, encAmac, encCchk, encAop, encAsum, encTmma, eword, btxWord, Stamp.word, VRow.word, ext_lo, ext_hi, Nat.reduceSub, ext_all]; rfl
  rw [hop]
  dsimp only
  simp (disch := omega) only [word, wordImm, word24, encA, encB, encC, encCorr, encAmac, encCchk, encAop, encAsum, encTmma, eword, btxWord, Stamp.word, VRow.word, memA, memB, memC, corrOp, hi16, ext_lo, ext_hi, Nat.reduceSub, ext_all, get_lo, get_hi, b1_get]
  first
    | rfl
    | (simp only [Nat.reduceAdd, Nat.reduceSub, ext_all]; rfl)
    | (simp only [span_frame, span_eword, span_eword0, span_xpush]; rfl)
    | (have ha := EOp.a_zero hw; rcases o with ⟨_, _, _, _, _, _, _⟩; cases ha; rfl)
    | (simp only [join_count]; have ha := EOp.a_zero hw; rcases o with ⟨_, _, _, _, _, _, _⟩; cases ha; rfl)

theorem Laws.RoundTrip.bplan64 (off : BitVec 20) : Laws.RoundTrip.Statement (.bplan64 off) := by
  intro sl w q h hw
  cases h
  unfold pick
  dsimp only
  unfold pickC
  have hop : (BitVec.extractLsb' 2 6 (word24 0 0x15 true)).toNat = 21 := by
    simp (disch := omega) only [word, wordImm, word24, encA, encB, encC, encCorr, encAmac, encCchk, encAop, encAsum, encTmma, eword, btxWord, Stamp.word, VRow.word, ext_lo, ext_hi, Nat.reduceSub, ext_all]; rfl
  rw [hop]
  dsimp only
  simp (disch := omega) only [word, wordImm, word24, encA, encB, encC, encCorr, encAmac, encCchk, encAop, encAsum, encTmma, eword, btxWord, Stamp.word, VRow.word, memA, memB, memC, corrOp, hi16, ext_lo, ext_hi, Nat.reduceSub, ext_all, get_lo, get_hi, b1_get]
  first
    | rfl
    | (simp only [Nat.reduceAdd, Nat.reduceSub, ext_all]; rfl)
    | (simp only [span_frame, span_eword, span_eword0, span_xpush]; rfl)
    | (have ha := EOp.a_zero hw; rcases o with ⟨_, _, _, _, _, _, _⟩; cases ha; rfl)
    | (simp only [join_count]; have ha := EOp.a_zero hw; rcases o with ⟨_, _, _, _, _, _, _⟩; cases ha; rfl)

theorem Laws.RoundTrip.phase (b : Reg) : Laws.RoundTrip.Statement (.phase b) := by
  intro sl w q h hw
  cases h
  unfold pick
  dsimp only
  unfold pickC
  have hop : (BitVec.extractLsb' 2 6 (word 0 0 b 0 0x16 false)).toNat = 22 := by
    simp (disch := omega) only [word, wordImm, word24, encA, encB, encC, encCorr, encAmac, encCchk, encAop, encAsum, encTmma, eword, btxWord, Stamp.word, VRow.word, ext_lo, ext_hi, Nat.reduceSub, ext_all]; rfl
  rw [hop]
  dsimp only
  simp (disch := omega) only [word, wordImm, word24, encA, encB, encC, encCorr, encAmac, encCchk, encAop, encAsum, encTmma, eword, btxWord, Stamp.word, VRow.word, memA, memB, memC, corrOp, hi16, ext_lo, ext_hi, Nat.reduceSub, ext_all, get_lo, get_hi, b1_get]
  first
    | rfl
    | (simp only [Nat.reduceAdd, Nat.reduceSub, ext_all]; rfl)
    | (simp only [span_frame, span_eword, span_eword0, span_xpush]; rfl)
    | (have ha := EOp.a_zero hw; rcases o with ⟨_, _, _, _, _, _, _⟩; cases ha; rfl)
    | (simp only [join_count]; have ha := EOp.a_zero hw; rcases o with ⟨_, _, _, _, _, _, _⟩; cases ha; rfl)

theorem Laws.RoundTrip.bar (sc : BitVec 3) : Laws.RoundTrip.Statement (.bar sc) := by
  intro sl w q h hw
  cases h
  unfold pick
  dsimp only
  unfold pickC
  have hop : (BitVec.extractLsb' 2 6 (word (0#6 ++ sc) 0 0 0 0x18 false)).toNat = 24 := by
    simp (disch := omega) only [word, wordImm, word24, encA, encB, encC, encCorr, encAmac, encCchk, encAop, encAsum, encTmma, eword, btxWord, Stamp.word, VRow.word, ext_lo, ext_hi, Nat.reduceSub, ext_all]; rfl
  rw [hop]
  dsimp only
  simp (disch := omega) only [word, wordImm, word24, encA, encB, encC, encCorr, encAmac, encCchk, encAop, encAsum, encTmma, eword, btxWord, Stamp.word, VRow.word, memA, memB, memC, corrOp, hi16, ext_lo, ext_hi, Nat.reduceSub, ext_all, get_lo, get_hi, b1_get]
  first
    | rfl
    | (simp only [Nat.reduceAdd, Nat.reduceSub, ext_all]; rfl)
    | (simp only [span_frame, span_eword, span_eword0, span_xpush]; rfl)
    | (have ha := EOp.a_zero hw; rcases o with ⟨_, _, _, _, _, _, _⟩; cases ha; rfl)
    | (simp only [join_count]; have ha := EOp.a_zero hw; rcases o with ⟨_, _, _, _, _, _, _⟩; cases ha; rfl)

theorem Laws.RoundTrip.waitw (ch : BitVec 3) (b : Reg) : Laws.RoundTrip.Statement (.waitw ch b) := by
  intro sl w q h hw
  cases h
  unfold pick
  dsimp only
  unfold pickC
  have hop : (BitVec.extractLsb' 2 6 (word 0 0 b (0#2 ++ ch) 0x19 false)).toNat = 25 := by
    simp (disch := omega) only [word, wordImm, word24, encA, encB, encC, encCorr, encAmac, encCchk, encAop, encAsum, encTmma, eword, btxWord, Stamp.word, VRow.word, ext_lo, ext_hi, Nat.reduceSub, ext_all]; rfl
  rw [hop]
  dsimp only
  simp (disch := omega) only [word, wordImm, word24, encA, encB, encC, encCorr, encAmac, encCchk, encAop, encAsum, encTmma, eword, btxWord, Stamp.word, VRow.word, memA, memB, memC, corrOp, hi16, ext_lo, ext_hi, Nat.reduceSub, ext_all, get_lo, get_hi, b1_get]
  first
    | rfl
    | (simp only [Nat.reduceAdd, Nat.reduceSub, ext_all]; rfl)
    | (simp only [span_frame, span_eword, span_eword0, span_xpush]; rfl)
    | (have ha := EOp.a_zero hw; rcases o with ⟨_, _, _, _, _, _, _⟩; cases ha; rfl)
    | (simp only [join_count]; have ha := EOp.a_zero hw; rcases o with ⟨_, _, _, _, _, _, _⟩; cases ha; rfl)

theorem Laws.RoundTrip.waitl (b : Reg) : Laws.RoundTrip.Statement (.waitl b) := by
  intro sl w q h hw
  cases h
  unfold pick
  dsimp only
  unfold pickC
  have hop : (BitVec.extractLsb' 2 6 (word 0 0 b 0 0x1A false)).toNat = 26 := by
    simp (disch := omega) only [word, wordImm, word24, encA, encB, encC, encCorr, encAmac, encCchk, encAop, encAsum, encTmma, eword, btxWord, Stamp.word, VRow.word, ext_lo, ext_hi, Nat.reduceSub, ext_all]; rfl
  rw [hop]
  dsimp only
  simp (disch := omega) only [word, wordImm, word24, encA, encB, encC, encCorr, encAmac, encCchk, encAop, encAsum, encTmma, eword, btxWord, Stamp.word, VRow.word, memA, memB, memC, corrOp, hi16, ext_lo, ext_hi, Nat.reduceSub, ext_all, get_lo, get_hi, b1_get]
  first
    | rfl
    | (simp only [Nat.reduceAdd, Nat.reduceSub, ext_all]; rfl)
    | (simp only [span_frame, span_eword, span_eword0, span_xpush]; rfl)
    | (have ha := EOp.a_zero hw; rcases o with ⟨_, _, _, _, _, _, _⟩; cases ha; rfl)
    | (simp only [join_count]; have ha := EOp.a_zero hw; rcases o with ⟨_, _, _, _, _, _, _⟩; cases ha; rfl)

theorem Laws.RoundTrip.waitcReg (n : BitVec 10) : Laws.RoundTrip.Statement (.waitcReg n) := by
  intro sl w q h hw
  cases h
  unfold pick
  dsimp only
  unfold pickC
  have hop : (BitVec.extractLsb' 2 6 (word24 (n ++ 0#14) 0x1B false)).toNat = 27 := by
    simp (disch := omega) only [word, wordImm, word24, encA, encB, encC, encCorr, encAmac, encCchk, encAop, encAsum, encTmma, eword, btxWord, Stamp.word, VRow.word, ext_lo, ext_hi, Nat.reduceSub, ext_all]; rfl
  rw [hop]
  dsimp only
  simp (disch := omega) only [word, wordImm, word24, encA, encB, encC, encCorr, encAmac, encCchk, encAop, encAsum, encTmma, eword, btxWord, Stamp.word, VRow.word, memA, memB, memC, corrOp, hi16, ext_lo, ext_hi, Nat.reduceSub, ext_all, get_lo, get_hi, b1_get]
  first
    | rfl
    | (simp only [Nat.reduceAdd, Nat.reduceSub, ext_all]; rfl)
    | (simp only [span_frame, span_eword, span_eword0, span_xpush]; rfl)
    | (have ha := EOp.a_zero hw; rcases o with ⟨_, _, _, _, _, _, _⟩; cases ha; rfl)
    | (simp only [join_count]; have ha := EOp.a_zero hw; rcases o with ⟨_, _, _, _, _, _, _⟩; cases ha; rfl)

theorem Laws.RoundTrip.waitcWord (b : Reg) : Laws.RoundTrip.Statement (.waitcWord b) := by
  intro sl w q h hw
  cases h
  unfold pick
  dsimp only
  unfold pickC
  have hop : (BitVec.extractLsb' 2 6 (word 0 0 b 1 0x1B false)).toNat = 27 := by
    simp (disch := omega) only [word, wordImm, word24, encA, encB, encC, encCorr, encAmac, encCchk, encAop, encAsum, encTmma, eword, btxWord, Stamp.word, VRow.word, ext_lo, ext_hi, Nat.reduceSub, ext_all]; rfl
  rw [hop]
  dsimp only
  simp (disch := omega) only [word, wordImm, word24, encA, encB, encC, encCorr, encAmac, encCchk, encAop, encAsum, encTmma, eword, btxWord, Stamp.word, VRow.word, memA, memB, memC, corrOp, hi16, ext_lo, ext_hi, Nat.reduceSub, ext_all, get_lo, get_hi, b1_get]
  first
    | rfl
    | (simp only [Nat.reduceAdd, Nat.reduceSub, ext_all]; rfl)
    | (simp only [span_frame, span_eword, span_eword0, span_xpush]; rfl)
    | (have ha := EOp.a_zero hw; rcases o with ⟨_, _, _, _, _, _, _⟩; cases ha; rfl)
    | (simp only [join_count]; have ha := EOp.a_zero hw; rcases o with ⟨_, _, _, _, _, _, _⟩; cases ha; rfl)

theorem Laws.RoundTrip.waitcG (b : Reg) : Laws.RoundTrip.Statement (.waitcG b) := by
  intro sl w q h hw
  cases h
  unfold pick
  dsimp only
  unfold pickC
  have hop : (BitVec.extractLsb' 2 6 (word 0 0 b 3 0x1B false)).toNat = 27 := by
    simp (disch := omega) only [word, wordImm, word24, encA, encB, encC, encCorr, encAmac, encCchk, encAop, encAsum, encTmma, eword, btxWord, Stamp.word, VRow.word, ext_lo, ext_hi, Nat.reduceSub, ext_all]; rfl
  rw [hop]
  dsimp only
  simp (disch := omega) only [word, wordImm, word24, encA, encB, encC, encCorr, encAmac, encCchk, encAop, encAsum, encTmma, eword, btxWord, Stamp.word, VRow.word, memA, memB, memC, corrOp, hi16, ext_lo, ext_hi, Nat.reduceSub, ext_all, get_lo, get_hi, b1_get]
  first
    | rfl
    | (simp only [Nat.reduceAdd, Nat.reduceSub, ext_all]; rfl)
    | (simp only [span_frame, span_eword, span_eword0, span_xpush]; rfl)
    | (have ha := EOp.a_zero hw; rcases o with ⟨_, _, _, _, _, _, _⟩; cases ha; rfl)
    | (simp only [join_count]; have ha := EOp.a_zero hw; rcases o with ⟨_, _, _, _, _, _, _⟩; cases ha; rfl)

theorem Laws.RoundTrip.fence (sc : BitVec 3) (m : BitVec 16) : Laws.RoundTrip.Statement (.fence sc m) := by
  intro sl w q h hw
  cases h
  unfold pick
  dsimp only
  unfold pickC
  have hop : (BitVec.extractLsb' 2 6 (word24 (sc ++ m ++ 0#5) 0x1C false)).toNat = 28 := by
    simp (disch := omega) only [word, wordImm, word24, encA, encB, encC, encCorr, encAmac, encCchk, encAop, encAsum, encTmma, eword, btxWord, Stamp.word, VRow.word, ext_lo, ext_hi, Nat.reduceSub, ext_all]; rfl
  rw [hop]
  dsimp only
  simp (disch := omega) only [word, wordImm, word24, encA, encB, encC, encCorr, encAmac, encCchk, encAop, encAsum, encTmma, eword, btxWord, Stamp.word, VRow.word, memA, memB, memC, corrOp, hi16, ext_lo, ext_hi, Nat.reduceSub, ext_all, get_lo, get_hi, b1_get]
  first
    | rfl
    | (simp only [Nat.reduceAdd, Nat.reduceSub, ext_all]; rfl)
    | (simp only [span_frame, span_eword, span_eword0, span_xpush]; rfl)
    | (have ha := EOp.a_zero hw; rcases o with ⟨_, _, _, _, _, _, _⟩; cases ha; rfl)
    | (simp only [join_count]; have ha := EOp.a_zero hw; rcases o with ⟨_, _, _, _, _, _, _⟩; cases ha; rfl)

theorem Laws.RoundTrip.cinv (b : Reg) (c : Reg) : Laws.RoundTrip.Statement (.cinv b c) := by
  intro sl w q h hw
  cases h
  unfold pick
  dsimp only
  unfold pickC
  have hop : (BitVec.extractLsb' 2 6 (word 0 c b 0 0x1D false)).toNat = 29 := by
    simp (disch := omega) only [word, wordImm, word24, encA, encB, encC, encCorr, encAmac, encCchk, encAop, encAsum, encTmma, eword, btxWord, Stamp.word, VRow.word, ext_lo, ext_hi, Nat.reduceSub, ext_all]; rfl
  rw [hop]
  dsimp only
  simp (disch := omega) only [word, wordImm, word24, encA, encB, encC, encCorr, encAmac, encCchk, encAop, encAsum, encTmma, eword, btxWord, Stamp.word, VRow.word, memA, memB, memC, corrOp, hi16, ext_lo, ext_hi, Nat.reduceSub, ext_all, get_lo, get_hi, b1_get]
  first
    | rfl
    | (simp only [Nat.reduceAdd, Nat.reduceSub, ext_all]; rfl)
    | (simp only [span_frame, span_eword, span_eword0, span_xpush]; rfl)
    | (have ha := EOp.a_zero hw; rcases o with ⟨_, _, _, _, _, _, _⟩; cases ha; rfl)
    | (simp only [join_count]; have ha := EOp.a_zero hw; rcases o with ⟨_, _, _, _, _, _, _⟩; cases ha; rfl)

theorem Laws.RoundTrip.cinvLlc (b : Reg) (c : Reg) : Laws.RoundTrip.Statement (.cinvLlc b c) := by
  intro sl w q h hw
  cases h
  unfold pick
  dsimp only
  unfold pickC
  have hop : (BitVec.extractLsb' 2 6 (word 0 c b 1 0x1D false)).toNat = 29 := by
    simp (disch := omega) only [word, wordImm, word24, encA, encB, encC, encCorr, encAmac, encCchk, encAop, encAsum, encTmma, eword, btxWord, Stamp.word, VRow.word, ext_lo, ext_hi, Nat.reduceSub, ext_all]; rfl
  rw [hop]
  dsimp only
  simp (disch := omega) only [word, wordImm, word24, encA, encB, encC, encCorr, encAmac, encCchk, encAop, encAsum, encTmma, eword, btxWord, Stamp.word, VRow.word, memA, memB, memC, corrOp, hi16, ext_lo, ext_hi, Nat.reduceSub, ext_all, get_lo, get_hi, b1_get]
  first
    | rfl
    | (simp only [Nat.reduceAdd, Nat.reduceSub, ext_all]; rfl)
    | (simp only [span_frame, span_eword, span_eword0, span_xpush]; rfl)
    | (have ha := EOp.a_zero hw; rcases o with ⟨_, _, _, _, _, _, _⟩; cases ha; rfl)
    | (simp only [join_count]; have ha := EOp.a_zero hw; rcases o with ⟨_, _, _, _, _, _, _⟩; cases ha; rfl)

theorem Laws.RoundTrip.cwb (b : Reg) (c : Reg) : Laws.RoundTrip.Statement (.cwb b c) := by
  intro sl w q h hw
  cases h
  unfold pick
  dsimp only
  unfold pickC
  have hop : (BitVec.extractLsb' 2 6 (word 0 c b 0 0x1E false)).toNat = 30 := by
    simp (disch := omega) only [word, wordImm, word24, encA, encB, encC, encCorr, encAmac, encCchk, encAop, encAsum, encTmma, eword, btxWord, Stamp.word, VRow.word, ext_lo, ext_hi, Nat.reduceSub, ext_all]; rfl
  rw [hop]
  dsimp only
  simp (disch := omega) only [word, wordImm, word24, encA, encB, encC, encCorr, encAmac, encCchk, encAop, encAsum, encTmma, eword, btxWord, Stamp.word, VRow.word, memA, memB, memC, corrOp, hi16, ext_lo, ext_hi, Nat.reduceSub, ext_all, get_lo, get_hi, b1_get]
  first
    | rfl
    | (simp only [Nat.reduceAdd, Nat.reduceSub, ext_all]; rfl)
    | (simp only [span_frame, span_eword, span_eword0, span_xpush]; rfl)
    | (have ha := EOp.a_zero hw; rcases o with ⟨_, _, _, _, _, _, _⟩; cases ha; rfl)
    | (simp only [join_count]; have ha := EOp.a_zero hw; rcases o with ⟨_, _, _, _, _, _, _⟩; cases ha; rfl)

theorem Laws.RoundTrip.eret : Laws.RoundTrip.Statement (.eret) := by
  intro sl w q h hw
  cases h
  unfold pick
  dsimp only
  unfold pickC
  have hop : (BitVec.extractLsb' 2 6 (word24 0 0x30 false)).toNat = 48 := by
    simp (disch := omega) only [word, wordImm, word24, encA, encB, encC, encCorr, encAmac, encCchk, encAop, encAsum, encTmma, eword, btxWord, Stamp.word, VRow.word, ext_lo, ext_hi, Nat.reduceSub, ext_all]; rfl
  rw [hop]
  dsimp only
  simp (disch := omega) only [word, wordImm, word24, encA, encB, encC, encCorr, encAmac, encCchk, encAop, encAsum, encTmma, eword, btxWord, Stamp.word, VRow.word, memA, memB, memC, corrOp, hi16, ext_lo, ext_hi, Nat.reduceSub, ext_all, get_lo, get_hi, b1_get]
  first
    | rfl
    | (simp only [Nat.reduceAdd, Nat.reduceSub, ext_all]; rfl)
    | (simp only [span_frame, span_eword, span_eword0, span_xpush]; rfl)
    | (have ha := EOp.a_zero hw; rcases o with ⟨_, _, _, _, _, _, _⟩; cases ha; rfl)
    | (simp only [join_count]; have ha := EOp.a_zero hw; rcases o with ⟨_, _, _, _, _, _, _⟩; cases ha; rfl)

theorem Laws.RoundTrip.rdsys (n : BitVec 9) (d : Reg) : Laws.RoundTrip.Statement (.rdsys n d) := by
  intro sl w q h hw
  cases h
  unfold pick
  dsimp only
  unfold pickC
  have hop : (BitVec.extractLsb' 2 6 (word n 0 0 d 0x31 false)).toNat = 49 := by
    simp (disch := omega) only [word, wordImm, word24, encA, encB, encC, encCorr, encAmac, encCchk, encAop, encAsum, encTmma, eword, btxWord, Stamp.word, VRow.word, ext_lo, ext_hi, Nat.reduceSub, ext_all]; rfl
  rw [hop]
  dsimp only
  simp (disch := omega) only [word, wordImm, word24, encA, encB, encC, encCorr, encAmac, encCchk, encAop, encAsum, encTmma, eword, btxWord, Stamp.word, VRow.word, memA, memB, memC, corrOp, hi16, ext_lo, ext_hi, Nat.reduceSub, ext_all, get_lo, get_hi, b1_get]
  first
    | rfl
    | (simp only [Nat.reduceAdd, Nat.reduceSub, ext_all]; rfl)
    | (simp only [span_frame, span_eword, span_eword0, span_xpush]; rfl)
    | (have ha := EOp.a_zero hw; rcases o with ⟨_, _, _, _, _, _, _⟩; cases ha; rfl)
    | (simp only [join_count]; have ha := EOp.a_zero hw; rcases o with ⟨_, _, _, _, _, _, _⟩; cases ha; rfl)

theorem Laws.RoundTrip.wrsys (n : BitVec 9) (b : Reg) : Laws.RoundTrip.Statement (.wrsys n b) := by
  intro sl w q h hw
  cases h
  unfold pick
  dsimp only
  unfold pickC
  have hop : (BitVec.extractLsb' 2 6 (word n 0 b 0 0x32 false)).toNat = 50 := by
    simp (disch := omega) only [word, wordImm, word24, encA, encB, encC, encCorr, encAmac, encCchk, encAop, encAsum, encTmma, eword, btxWord, Stamp.word, VRow.word, ext_lo, ext_hi, Nat.reduceSub, ext_all]; rfl
  rw [hop]
  dsimp only
  simp (disch := omega) only [word, wordImm, word24, encA, encB, encC, encCorr, encAmac, encCchk, encAop, encAsum, encTmma, eword, btxWord, Stamp.word, VRow.word, memA, memB, memC, corrOp, hi16, ext_lo, ext_hi, Nat.reduceSub, ext_all, get_lo, get_hi, b1_get]
  first
    | rfl
    | (simp only [Nat.reduceAdd, Nat.reduceSub, ext_all]; rfl)
    | (simp only [span_frame, span_eword, span_eword0, span_xpush]; rfl)
    | (have ha := EOp.a_zero hw; rcases o with ⟨_, _, _, _, _, _, _⟩; cases ha; rfl)
    | (simp only [join_count]; have ha := EOp.a_zero hw; rcases o with ⟨_, _, _, _, _, _, _⟩; cases ha; rfl)

theorem Laws.RoundTrip.ctxsv (b : Reg) : Laws.RoundTrip.Statement (.ctxsv b) := by
  intro sl w q h hw
  cases h
  unfold pick
  dsimp only
  unfold pickC
  have hop : (BitVec.extractLsb' 2 6 (word 0 0 b 0 0x33 false)).toNat = 51 := by
    simp (disch := omega) only [word, wordImm, word24, encA, encB, encC, encCorr, encAmac, encCchk, encAop, encAsum, encTmma, eword, btxWord, Stamp.word, VRow.word, ext_lo, ext_hi, Nat.reduceSub, ext_all]; rfl
  rw [hop]
  dsimp only
  simp (disch := omega) only [word, wordImm, word24, encA, encB, encC, encCorr, encAmac, encCchk, encAop, encAsum, encTmma, eword, btxWord, Stamp.word, VRow.word, memA, memB, memC, corrOp, hi16, ext_lo, ext_hi, Nat.reduceSub, ext_all, get_lo, get_hi, b1_get]
  first
    | rfl
    | (simp only [Nat.reduceAdd, Nat.reduceSub, ext_all]; rfl)
    | (simp only [span_frame, span_eword, span_eword0, span_xpush]; rfl)
    | (have ha := EOp.a_zero hw; rcases o with ⟨_, _, _, _, _, _, _⟩; cases ha; rfl)
    | (simp only [join_count]; have ha := EOp.a_zero hw; rcases o with ⟨_, _, _, _, _, _, _⟩; cases ha; rfl)

theorem Laws.RoundTrip.ctxld (b : Reg) : Laws.RoundTrip.Statement (.ctxld b) := by
  intro sl w q h hw
  cases h
  unfold pick
  dsimp only
  unfold pickC
  have hop : (BitVec.extractLsb' 2 6 (word 0 0 b 0 0x34 false)).toNat = 52 := by
    simp (disch := omega) only [word, wordImm, word24, encA, encB, encC, encCorr, encAmac, encCchk, encAop, encAsum, encTmma, eword, btxWord, Stamp.word, VRow.word, ext_lo, ext_hi, Nat.reduceSub, ext_all]; rfl
  rw [hop]
  dsimp only
  simp (disch := omega) only [word, wordImm, word24, encA, encB, encC, encCorr, encAmac, encCchk, encAop, encAsum, encTmma, eword, btxWord, Stamp.word, VRow.word, memA, memB, memC, corrOp, hi16, ext_lo, ext_hi, Nat.reduceSub, ext_all, get_lo, get_hi, b1_get]
  first
    | rfl
    | (simp only [Nat.reduceAdd, Nat.reduceSub, ext_all]; rfl)
    | (simp only [span_frame, span_eword, span_eword0, span_xpush]; rfl)
    | (have ha := EOp.a_zero hw; rcases o with ⟨_, _, _, _, _, _, _⟩; cases ha; rfl)
    | (simp only [join_count]; have ha := EOp.a_zero hw; rcases o with ⟨_, _, _, _, _, _, _⟩; cases ha; rfl)

theorem Laws.RoundTrip.tlbinv (b : Reg) (c : Reg) : Laws.RoundTrip.Statement (.tlbinv b c) := by
  intro sl w q h hw
  cases h
  unfold pick
  dsimp only
  unfold pickC
  have hop : (BitVec.extractLsb' 2 6 (word 0 c b 0 0x35 false)).toNat = 53 := by
    simp (disch := omega) only [word, wordImm, word24, encA, encB, encC, encCorr, encAmac, encCchk, encAop, encAsum, encTmma, eword, btxWord, Stamp.word, VRow.word, ext_lo, ext_hi, Nat.reduceSub, ext_all]; rfl
  rw [hop]
  dsimp only
  simp (disch := omega) only [word, wordImm, word24, encA, encB, encC, encCorr, encAmac, encCchk, encAop, encAsum, encTmma, eword, btxWord, Stamp.word, VRow.word, memA, memB, memC, corrOp, hi16, ext_lo, ext_hi, Nat.reduceSub, ext_all, get_lo, get_hi, b1_get]
  first
    | rfl
    | (simp only [Nat.reduceAdd, Nat.reduceSub, ext_all]; rfl)
    | (simp only [span_frame, span_eword, span_eword0, span_xpush]; rfl)
    | (have ha := EOp.a_zero hw; rcases o with ⟨_, _, _, _, _, _, _⟩; cases ha; rfl)
    | (simp only [join_count]; have ha := EOp.a_zero hw; rcases o with ⟨_, _, _, _, _, _, _⟩; cases ha; rfl)

theorem Laws.RoundTrip.frz (b : Reg) : Laws.RoundTrip.Statement (.frz b) := by
  intro sl w q h hw
  cases h
  unfold pick
  dsimp only
  unfold pickC
  have hop : (BitVec.extractLsb' 2 6 (word 0 0 b 0 0x36 false)).toNat = 54 := by
    simp (disch := omega) only [word, wordImm, word24, encA, encB, encC, encCorr, encAmac, encCchk, encAop, encAsum, encTmma, eword, btxWord, Stamp.word, VRow.word, ext_lo, ext_hi, Nat.reduceSub, ext_all]; rfl
  rw [hop]
  dsimp only
  simp (disch := omega) only [word, wordImm, word24, encA, encB, encC, encCorr, encAmac, encCchk, encAop, encAsum, encTmma, eword, btxWord, Stamp.word, VRow.word, memA, memB, memC, corrOp, hi16, ext_lo, ext_hi, Nat.reduceSub, ext_all, get_lo, get_hi, b1_get]
  first
    | rfl
    | (simp only [Nat.reduceAdd, Nat.reduceSub, ext_all]; rfl)
    | (simp only [span_frame, span_eword, span_eword0, span_xpush]; rfl)
    | (have ha := EOp.a_zero hw; rcases o with ⟨_, _, _, _, _, _, _⟩; cases ha; rfl)
    | (simp only [join_count]; have ha := EOp.a_zero hw; rcases o with ⟨_, _, _, _, _, _, _⟩; cases ha; rfl)

theorem Laws.RoundTrip.lease (d : Reg) (b : Reg) (cls : BitVec 3) (prio : BitVec 2) : Laws.RoundTrip.Statement (.lease d b cls prio) := by
  intro sl w q h hw
  cases h
  unfold pick
  dsimp only
  unfold pickE
  have hop : (BitVec.extractLsb' 2 6 (word (0#3 ++ cls ++ prio ++ 0#1) 0 b d 0x01 false)).toNat = 1 := by
    simp (disch := omega) only [word, wordImm, word24, encA, encB, encC, encCorr, encAmac, encCchk, encAop, encAsum, encTmma, eword, btxWord, Stamp.word, VRow.word, ext_lo, ext_hi, Nat.reduceSub, ext_all]; rfl
  rw [hop]
  dsimp only
  simp (disch := omega) only [word, wordImm, word24, encA, encB, encC, encCorr, encAmac, encCchk, encAop, encAsum, encTmma, eword, btxWord, Stamp.word, VRow.word, memA, memB, memC, corrOp, hi16, ext_lo, ext_hi, Nat.reduceSub, ext_all, get_lo, get_hi, b1_get]
  first
    | rfl
    | (simp only [Nat.reduceAdd, Nat.reduceSub, ext_all]; rfl)
    | (simp only [span_frame, span_eword, span_eword0, span_xpush]; rfl)
    | (have ha := EOp.a_zero hw; rcases o with ⟨_, _, _, _, _, _, _⟩; cases ha; rfl)
    | (simp only [join_count]; have ha := EOp.a_zero hw; rcases o with ⟨_, _, _, _, _, _, _⟩; cases ha; rfl)

theorem Laws.RoundTrip.unlease (b : Reg) : Laws.RoundTrip.Statement (.unlease b) := by
  intro sl w q h hw
  cases h
  unfold pick
  dsimp only
  unfold pickE
  have hop : (BitVec.extractLsb' 2 6 (word 0 0 b 0 0x02 false)).toNat = 2 := by
    simp (disch := omega) only [word, wordImm, word24, encA, encB, encC, encCorr, encAmac, encCchk, encAop, encAsum, encTmma, eword, btxWord, Stamp.word, VRow.word, ext_lo, ext_hi, Nat.reduceSub, ext_all]; rfl
  rw [hop]
  dsimp only
  simp (disch := omega) only [word, wordImm, word24, encA, encB, encC, encCorr, encAmac, encCchk, encAop, encAsum, encTmma, eword, btxWord, Stamp.word, VRow.word, memA, memB, memC, corrOp, hi16, ext_lo, ext_hi, Nat.reduceSub, ext_all, get_lo, get_hi, b1_get]
  first
    | rfl
    | (simp only [Nat.reduceAdd, Nat.reduceSub, ext_all]; rfl)
    | (simp only [span_frame, span_eword, span_eword0, span_xpush]; rfl)
    | (have ha := EOp.a_zero hw; rcases o with ⟨_, _, _, _, _, _, _⟩; cases ha; rfl)
    | (simp only [join_count]; have ha := EOp.a_zero hw; rcases o with ⟨_, _, _, _, _, _, _⟩; cases ha; rfl)

theorem Laws.RoundTrip.lstat (d : Reg) (b : Reg) : Laws.RoundTrip.Statement (.lstat d b) := by
  intro sl w q h hw
  cases h
  unfold pick
  dsimp only
  unfold pickE
  have hop : (BitVec.extractLsb' 2 6 (word 0 0 b d 0x03 false)).toNat = 3 := by
    simp (disch := omega) only [word, wordImm, word24, encA, encB, encC, encCorr, encAmac, encCchk, encAop, encAsum, encTmma, eword, btxWord, Stamp.word, VRow.word, ext_lo, ext_hi, Nat.reduceSub, ext_all]; rfl
  rw [hop]
  dsimp only
  simp (disch := omega) only [word, wordImm, word24, encA, encB, encC, encCorr, encAmac, encCchk, encAop, encAsum, encTmma, eword, btxWord, Stamp.word, VRow.word, memA, memB, memC, corrOp, hi16, ext_lo, ext_hi, Nat.reduceSub, ext_all, get_lo, get_hi, b1_get]
  first
    | rfl
    | (simp only [Nat.reduceAdd, Nat.reduceSub, ext_all]; rfl)
    | (simp only [span_frame, span_eword, span_eword0, span_xpush]; rfl)
    | (have ha := EOp.a_zero hw; rcases o with ⟨_, _, _, _, _, _, _⟩; cases ha; rfl)
    | (simp only [join_count]; have ha := EOp.a_zero hw; rcases o with ⟨_, _, _, _, _, _, _⟩; cases ha; rfl)

theorem Laws.RoundTrip.xcpy (ch : BitVec 3) (o : EOp) : Laws.RoundTrip.Statement (.xcpy ch o) := by
  intro sl w q h hw
  cases h
  unfold pick
  dsimp only
  unfold pickE
  have hop : (BitVec.extractLsb' 2 6 (btxWord o ch 0 0x08 false)).toNat = 8 := by
    simp (disch := omega) only [word, wordImm, word24, encA, encB, encC, encCorr, encAmac, encCchk, encAop, encAsum, encTmma, eword, btxWord, Stamp.word, VRow.word, ext_lo, ext_hi, Nat.reduceSub, ext_all]; rfl
  rw [hop]
  dsimp only
  simp (disch := omega) only [word, wordImm, word24, encA, encB, encC, encCorr, encAmac, encCchk, encAop, encAsum, encTmma, eword, btxWord, Stamp.word, VRow.word, memA, memB, memC, corrOp, hi16, ext_lo, ext_hi, Nat.reduceSub, ext_all, get_lo, get_hi, b1_get]
  first
    | rfl
    | (simp only [Nat.reduceAdd, Nat.reduceSub, ext_all]; rfl)
    | (simp only [span_frame, span_eword, span_eword0, span_xpush]; rfl)
    | (have ha := EOp.a_zero hw; rcases o with ⟨_, _, _, _, _, _, _⟩; cases ha; rfl)
    | (simp only [join_count]; have ha := EOp.a_zero hw; rcases o with ⟨_, _, _, _, _, _, _⟩; cases ha; rfl)

theorem Laws.RoundTrip.xcpy64 (ch : BitVec 3) (o : EOp) (s : BitVec 16) : Laws.RoundTrip.Statement (.xcpy64 ch o s) := by
  intro sl w q h hw
  cases h
  unfold pick
  dsimp only
  unfold pickE
  have hop : (BitVec.extractLsb' 2 6 (btxWord o ch 0 0x08 true)).toNat = 8 := by
    simp (disch := omega) only [word, wordImm, word24, encA, encB, encC, encCorr, encAmac, encCchk, encAop, encAsum, encTmma, eword, btxWord, Stamp.word, VRow.word, ext_lo, ext_hi, Nat.reduceSub, ext_all]; rfl
  rw [hop]
  dsimp only
  simp (disch := omega) only [word, wordImm, word24, encA, encB, encC, encCorr, encAmac, encCchk, encAop, encAsum, encTmma, eword, btxWord, Stamp.word, VRow.word, memA, memB, memC, corrOp, hi16, ext_lo, ext_hi, Nat.reduceSub, ext_all, get_lo, get_hi, b1_get]
  first
    | rfl
    | (simp only [Nat.reduceAdd, Nat.reduceSub, ext_all]; rfl)
    | (simp only [span_frame, span_eword, span_eword0, span_xpush]; rfl)
    | (have ha := EOp.a_zero hw; rcases o with ⟨_, _, _, _, _, _, _⟩; cases ha; rfl)
    | (simp only [join_count]; have ha := EOp.a_zero hw; rcases o with ⟨_, _, _, _, _, _, _⟩; cases ha; rfl)

theorem Laws.RoundTrip.xgth (ch : BitVec 3) (n : BitVec 8) (o : EOp) : Laws.RoundTrip.Statement (.xgth ch n o) := by
  intro sl w q h hw
  cases h
  unfold pick
  dsimp only
  unfold pickE
  have hop : (BitVec.extractLsb' 2 6 (btxWord o ch n 0x09 false)).toNat = 9 := by
    simp (disch := omega) only [word, wordImm, word24, encA, encB, encC, encCorr, encAmac, encCchk, encAop, encAsum, encTmma, eword, btxWord, Stamp.word, VRow.word, ext_lo, ext_hi, Nat.reduceSub, ext_all]; rfl
  rw [hop]
  dsimp only
  simp (disch := omega) only [word, wordImm, word24, encA, encB, encC, encCorr, encAmac, encCchk, encAop, encAsum, encTmma, eword, btxWord, Stamp.word, VRow.word, memA, memB, memC, corrOp, hi16, ext_lo, ext_hi, Nat.reduceSub, ext_all, get_lo, get_hi, b1_get]
  first
    | rfl
    | (simp only [Nat.reduceAdd, Nat.reduceSub, ext_all]; rfl)
    | (simp only [span_frame, span_eword, span_eword0, span_xpush]; rfl)
    | (have ha := EOp.a_zero hw; rcases o with ⟨_, _, _, _, _, _, _⟩; cases ha; rfl)
    | (simp only [join_count]; have ha := EOp.a_zero hw; rcases o with ⟨_, _, _, _, _, _, _⟩; cases ha; rfl)

theorem Laws.RoundTrip.xgth64 (ch : BitVec 3) (n : BitVec 8) (o : EOp) (s : BitVec 16) : Laws.RoundTrip.Statement (.xgth64 ch n o s) := by
  intro sl w q h hw
  cases h
  unfold pick
  dsimp only
  unfold pickE
  have hop : (BitVec.extractLsb' 2 6 (btxWord o ch n 0x09 true)).toNat = 9 := by
    simp (disch := omega) only [word, wordImm, word24, encA, encB, encC, encCorr, encAmac, encCchk, encAop, encAsum, encTmma, eword, btxWord, Stamp.word, VRow.word, ext_lo, ext_hi, Nat.reduceSub, ext_all]; rfl
  rw [hop]
  dsimp only
  simp (disch := omega) only [word, wordImm, word24, encA, encB, encC, encCorr, encAmac, encCchk, encAop, encAsum, encTmma, eword, btxWord, Stamp.word, VRow.word, memA, memB, memC, corrOp, hi16, ext_lo, ext_hi, Nat.reduceSub, ext_all, get_lo, get_hi, b1_get]
  first
    | rfl
    | (simp only [Nat.reduceAdd, Nat.reduceSub, ext_all]; rfl)
    | (simp only [span_frame, span_eword, span_eword0, span_xpush]; rfl)
    | (have ha := EOp.a_zero hw; rcases o with ⟨_, _, _, _, _, _, _⟩; cases ha; rfl)
    | (simp only [join_count]; have ha := EOp.a_zero hw; rcases o with ⟨_, _, _, _, _, _, _⟩; cases ha; rfl)

theorem Laws.RoundTrip.xsct (ch : BitVec 3) (n : BitVec 8) (o : EOp) : Laws.RoundTrip.Statement (.xsct ch n o) := by
  intro sl w q h hw
  cases h
  unfold pick
  dsimp only
  unfold pickE
  have hop : (BitVec.extractLsb' 2 6 (btxWord o ch n 0x0A false)).toNat = 10 := by
    simp (disch := omega) only [word, wordImm, word24, encA, encB, encC, encCorr, encAmac, encCchk, encAop, encAsum, encTmma, eword, btxWord, Stamp.word, VRow.word, ext_lo, ext_hi, Nat.reduceSub, ext_all]; rfl
  rw [hop]
  dsimp only
  simp (disch := omega) only [word, wordImm, word24, encA, encB, encC, encCorr, encAmac, encCchk, encAop, encAsum, encTmma, eword, btxWord, Stamp.word, VRow.word, memA, memB, memC, corrOp, hi16, ext_lo, ext_hi, Nat.reduceSub, ext_all, get_lo, get_hi, b1_get]
  first
    | rfl
    | (simp only [Nat.reduceAdd, Nat.reduceSub, ext_all]; rfl)
    | (simp only [span_frame, span_eword, span_eword0, span_xpush]; rfl)
    | (have ha := EOp.a_zero hw; rcases o with ⟨_, _, _, _, _, _, _⟩; cases ha; rfl)
    | (simp only [join_count]; have ha := EOp.a_zero hw; rcases o with ⟨_, _, _, _, _, _, _⟩; cases ha; rfl)

theorem Laws.RoundTrip.xsct64 (ch : BitVec 3) (n : BitVec 8) (o : EOp) (s : BitVec 16) : Laws.RoundTrip.Statement (.xsct64 ch n o s) := by
  intro sl w q h hw
  cases h
  unfold pick
  dsimp only
  unfold pickE
  have hop : (BitVec.extractLsb' 2 6 (btxWord o ch n 0x0A true)).toNat = 10 := by
    simp (disch := omega) only [word, wordImm, word24, encA, encB, encC, encCorr, encAmac, encCchk, encAop, encAsum, encTmma, eword, btxWord, Stamp.word, VRow.word, ext_lo, ext_hi, Nat.reduceSub, ext_all]; rfl
  rw [hop]
  dsimp only
  simp (disch := omega) only [word, wordImm, word24, encA, encB, encC, encCorr, encAmac, encCchk, encAop, encAsum, encTmma, eword, btxWord, Stamp.word, VRow.word, memA, memB, memC, corrOp, hi16, ext_lo, ext_hi, Nat.reduceSub, ext_all, get_lo, get_hi, b1_get]
  first
    | rfl
    | (simp only [Nat.reduceAdd, Nat.reduceSub, ext_all]; rfl)
    | (simp only [span_frame, span_eword, span_eword0, span_xpush]; rfl)
    | (have ha := EOp.a_zero hw; rcases o with ⟨_, _, _, _, _, _, _⟩; cases ha; rfl)
    | (simp only [join_count]; have ha := EOp.a_zero hw; rcases o with ⟨_, _, _, _, _, _, _⟩; cases ha; rfl)

theorem Laws.RoundTrip.xpush (ch : BitVec 3) (b : Reg) : Laws.RoundTrip.Statement (.xpush ch b) := by
  intro sl w q h hw
  cases h
  unfold pick
  dsimp only
  unfold pickE
  have hop : (BitVec.extractLsb' 2 6 (word (0#3 ++ ch ++ 0#3) 0 b 0 0x0B false)).toNat = 11 := by
    simp (disch := omega) only [word, wordImm, word24, encA, encB, encC, encCorr, encAmac, encCchk, encAop, encAsum, encTmma, eword, btxWord, Stamp.word, VRow.word, ext_lo, ext_hi, Nat.reduceSub, ext_all]; rfl
  rw [hop]
  dsimp only
  simp (disch := omega) only [word, wordImm, word24, encA, encB, encC, encCorr, encAmac, encCchk, encAop, encAsum, encTmma, eword, btxWord, Stamp.word, VRow.word, memA, memB, memC, corrOp, hi16, ext_lo, ext_hi, Nat.reduceSub, ext_all, get_lo, get_hi, b1_get]
  first
    | rfl
    | (simp only [Nat.reduceAdd, Nat.reduceSub, ext_all]; rfl)
    | (simp only [span_frame, span_eword, span_eword0, span_xpush]; rfl)
    | (have ha := EOp.a_zero hw; rcases o with ⟨_, _, _, _, _, _, _⟩; cases ha; rfl)
    | (simp only [join_count]; have ha := EOp.a_zero hw; rcases o with ⟨_, _, _, _, _, _, _⟩; cases ha; rfl)

theorem Laws.RoundTrip.xred (o : EOp) : Laws.RoundTrip.Statement (.xred o) := by
  intro sl w q h hw
  cases h
  unfold pick
  dsimp only
  unfold pickE
  have hop : (BitVec.extractLsb' 2 6 (eword o 0 0x10 false)).toNat = 16 := by
    simp (disch := omega) only [word, wordImm, word24, encA, encB, encC, encCorr, encAmac, encCchk, encAop, encAsum, encTmma, eword, btxWord, Stamp.word, VRow.word, ext_lo, ext_hi, Nat.reduceSub, ext_all]; rfl
  rw [hop]
  dsimp only
  simp (disch := omega) only [word, wordImm, word24, encA, encB, encC, encCorr, encAmac, encCchk, encAop, encAsum, encTmma, eword, btxWord, Stamp.word, VRow.word, memA, memB, memC, corrOp, hi16, ext_lo, ext_hi, Nat.reduceSub, ext_all, get_lo, get_hi, b1_get]
  first
    | rfl
    | (simp only [Nat.reduceAdd, Nat.reduceSub, ext_all]; rfl)
    | (simp only [span_frame, span_eword, span_eword0, span_xpush]; rfl)
    | (have ha := EOp.a_zero hw; rcases o with ⟨_, _, _, _, _, _, _⟩; cases ha; rfl)
    | (simp only [join_count]; have ha := EOp.a_zero hw; rcases o with ⟨_, _, _, _, _, _, _⟩; cases ha; rfl)

theorem Laws.RoundTrip.xred64 (o : EOp) (s : BitVec 16) : Laws.RoundTrip.Statement (.xred64 o s) := by
  intro sl w q h hw
  cases h
  unfold pick
  dsimp only
  unfold pickE
  have hop : (BitVec.extractLsb' 2 6 (eword o 0 0x10 true)).toNat = 16 := by
    simp (disch := omega) only [word, wordImm, word24, encA, encB, encC, encCorr, encAmac, encCchk, encAop, encAsum, encTmma, eword, btxWord, Stamp.word, VRow.word, ext_lo, ext_hi, Nat.reduceSub, ext_all]; rfl
  rw [hop]
  dsimp only
  simp (disch := omega) only [word, wordImm, word24, encA, encB, encC, encCorr, encAmac, encCchk, encAop, encAsum, encTmma, eword, btxWord, Stamp.word, VRow.word, memA, memB, memC, corrOp, hi16, ext_lo, ext_hi, Nat.reduceSub, ext_all, get_lo, get_hi, b1_get]
  first
    | rfl
    | (simp only [Nat.reduceAdd, Nat.reduceSub, ext_all]; rfl)
    | (simp only [span_frame, span_eword, span_eword0, span_xpush]; rfl)
    | (have ha := EOp.a_zero hw; rcases o with ⟨_, _, _, _, _, _, _⟩; cases ha; rfl)
    | (simp only [join_count]; have ha := EOp.a_zero hw; rcases o with ⟨_, _, _, _, _, _, _⟩; cases ha; rfl)

theorem Laws.RoundTrip.xsrt (o : EOp) : Laws.RoundTrip.Statement (.xsrt o) := by
  intro sl w q h hw
  cases h
  unfold pick
  dsimp only
  unfold pickE
  have hop : (BitVec.extractLsb' 2 6 (eword o 0 0x11 false)).toNat = 17 := by
    simp (disch := omega) only [word, wordImm, word24, encA, encB, encC, encCorr, encAmac, encCchk, encAop, encAsum, encTmma, eword, btxWord, Stamp.word, VRow.word, ext_lo, ext_hi, Nat.reduceSub, ext_all]; rfl
  rw [hop]
  dsimp only
  simp (disch := omega) only [word, wordImm, word24, encA, encB, encC, encCorr, encAmac, encCchk, encAop, encAsum, encTmma, eword, btxWord, Stamp.word, VRow.word, memA, memB, memC, corrOp, hi16, ext_lo, ext_hi, Nat.reduceSub, ext_all, get_lo, get_hi, b1_get]
  first
    | rfl
    | (simp only [Nat.reduceAdd, Nat.reduceSub, ext_all]; rfl)
    | (simp only [span_frame, span_eword, span_eword0, span_xpush]; rfl)
    | (have ha := EOp.a_zero hw; rcases o with ⟨_, _, _, _, _, _, _⟩; cases ha; rfl)
    | (simp only [join_count]; have ha := EOp.a_zero hw; rcases o with ⟨_, _, _, _, _, _, _⟩; cases ha; rfl)

theorem Laws.RoundTrip.xsrt64 (o : EOp) (s : BitVec 16) : Laws.RoundTrip.Statement (.xsrt64 o s) := by
  intro sl w q h hw
  cases h
  unfold pick
  dsimp only
  unfold pickE
  have hop : (BitVec.extractLsb' 2 6 (eword o 0 0x11 true)).toNat = 17 := by
    simp (disch := omega) only [word, wordImm, word24, encA, encB, encC, encCorr, encAmac, encCchk, encAop, encAsum, encTmma, eword, btxWord, Stamp.word, VRow.word, ext_lo, ext_hi, Nat.reduceSub, ext_all]; rfl
  rw [hop]
  dsimp only
  simp (disch := omega) only [word, wordImm, word24, encA, encB, encC, encCorr, encAmac, encCchk, encAop, encAsum, encTmma, eword, btxWord, Stamp.word, VRow.word, memA, memB, memC, corrOp, hi16, ext_lo, ext_hi, Nat.reduceSub, ext_all, get_lo, get_hi, b1_get]
  first
    | rfl
    | (simp only [Nat.reduceAdd, Nat.reduceSub, ext_all]; rfl)
    | (simp only [span_frame, span_eword, span_eword0, span_xpush]; rfl)
    | (have ha := EOp.a_zero hw; rcases o with ⟨_, _, _, _, _, _, _⟩; cases ha; rfl)
    | (simp only [join_count]; have ha := EOp.a_zero hw; rcases o with ⟨_, _, _, _, _, _, _⟩; cases ha; rfl)

theorem Laws.RoundTrip.xmrg (o : EOp) : Laws.RoundTrip.Statement (.xmrg o) := by
  intro sl w q h hw
  cases h
  unfold pick
  dsimp only
  unfold pickE
  have hop : (BitVec.extractLsb' 2 6 (eword o 0 0x12 false)).toNat = 18 := by
    simp (disch := omega) only [word, wordImm, word24, encA, encB, encC, encCorr, encAmac, encCchk, encAop, encAsum, encTmma, eword, btxWord, Stamp.word, VRow.word, ext_lo, ext_hi, Nat.reduceSub, ext_all]; rfl
  rw [hop]
  dsimp only
  simp (disch := omega) only [word, wordImm, word24, encA, encB, encC, encCorr, encAmac, encCchk, encAop, encAsum, encTmma, eword, btxWord, Stamp.word, VRow.word, memA, memB, memC, corrOp, hi16, ext_lo, ext_hi, Nat.reduceSub, ext_all, get_lo, get_hi, b1_get]
  first
    | rfl
    | (simp only [Nat.reduceAdd, Nat.reduceSub, ext_all]; rfl)
    | (simp only [span_frame, span_eword, span_eword0, span_xpush]; rfl)
    | (have ha := EOp.a_zero hw; rcases o with ⟨_, _, _, _, _, _, _⟩; cases ha; rfl)
    | (simp only [join_count]; have ha := EOp.a_zero hw; rcases o with ⟨_, _, _, _, _, _, _⟩; cases ha; rfl)

theorem Laws.RoundTrip.xmrg64 (o : EOp) (s : BitVec 16) : Laws.RoundTrip.Statement (.xmrg64 o s) := by
  intro sl w q h hw
  cases h
  unfold pick
  dsimp only
  unfold pickE
  have hop : (BitVec.extractLsb' 2 6 (eword o 0 0x12 true)).toNat = 18 := by
    simp (disch := omega) only [word, wordImm, word24, encA, encB, encC, encCorr, encAmac, encCchk, encAop, encAsum, encTmma, eword, btxWord, Stamp.word, VRow.word, ext_lo, ext_hi, Nat.reduceSub, ext_all]; rfl
  rw [hop]
  dsimp only
  simp (disch := omega) only [word, wordImm, word24, encA, encB, encC, encCorr, encAmac, encCchk, encAop, encAsum, encTmma, eword, btxWord, Stamp.word, VRow.word, memA, memB, memC, corrOp, hi16, ext_lo, ext_hi, Nat.reduceSub, ext_all, get_lo, get_hi, b1_get]
  first
    | rfl
    | (simp only [Nat.reduceAdd, Nat.reduceSub, ext_all]; rfl)
    | (simp only [span_frame, span_eword, span_eword0, span_xpush]; rfl)
    | (have ha := EOp.a_zero hw; rcases o with ⟨_, _, _, _, _, _, _⟩; cases ha; rfl)
    | (simp only [join_count]; have ha := EOp.a_zero hw; rcases o with ⟨_, _, _, _, _, _, _⟩; cases ha; rfl)

theorem Laws.RoundTrip.xsolv (o : EOp) : Laws.RoundTrip.Statement (.xsolv o) := by
  intro sl w q h hw
  cases h
  unfold pick
  dsimp only
  unfold pickE
  have hop : (BitVec.extractLsb' 2 6 (eword o 0 0x13 false)).toNat = 19 := by
    simp (disch := omega) only [word, wordImm, word24, encA, encB, encC, encCorr, encAmac, encCchk, encAop, encAsum, encTmma, eword, btxWord, Stamp.word, VRow.word, ext_lo, ext_hi, Nat.reduceSub, ext_all]; rfl
  rw [hop]
  dsimp only
  simp (disch := omega) only [word, wordImm, word24, encA, encB, encC, encCorr, encAmac, encCchk, encAop, encAsum, encTmma, eword, btxWord, Stamp.word, VRow.word, memA, memB, memC, corrOp, hi16, ext_lo, ext_hi, Nat.reduceSub, ext_all, get_lo, get_hi, b1_get]
  first
    | rfl
    | (simp only [Nat.reduceAdd, Nat.reduceSub, ext_all]; rfl)
    | (simp only [span_frame, span_eword, span_eword0, span_xpush]; rfl)
    | (have ha := EOp.a_zero hw; rcases o with ⟨_, _, _, _, _, _, _⟩; cases ha; rfl)
    | (simp only [join_count]; have ha := EOp.a_zero hw; rcases o with ⟨_, _, _, _, _, _, _⟩; cases ha; rfl)

theorem Laws.RoundTrip.xsolv64 (o : EOp) (s : BitVec 16) : Laws.RoundTrip.Statement (.xsolv64 o s) := by
  intro sl w q h hw
  cases h
  unfold pick
  dsimp only
  unfold pickE
  have hop : (BitVec.extractLsb' 2 6 (eword o 0 0x13 true)).toNat = 19 := by
    simp (disch := omega) only [word, wordImm, word24, encA, encB, encC, encCorr, encAmac, encCchk, encAop, encAsum, encTmma, eword, btxWord, Stamp.word, VRow.word, ext_lo, ext_hi, Nat.reduceSub, ext_all]; rfl
  rw [hop]
  dsimp only
  simp (disch := omega) only [word, wordImm, word24, encA, encB, encC, encCorr, encAmac, encCchk, encAop, encAsum, encTmma, eword, btxWord, Stamp.word, VRow.word, memA, memB, memC, corrOp, hi16, ext_lo, ext_hi, Nat.reduceSub, ext_all, get_lo, get_hi, b1_get]
  first
    | rfl
    | (simp only [Nat.reduceAdd, Nat.reduceSub, ext_all]; rfl)
    | (simp only [span_frame, span_eword, span_eword0, span_xpush]; rfl)
    | (have ha := EOp.a_zero hw; rcases o with ⟨_, _, _, _, _, _, _⟩; cases ha; rfl)
    | (simp only [join_count]; have ha := EOp.a_zero hw; rcases o with ⟨_, _, _, _, _, _, _⟩; cases ha; rfl)

theorem Laws.RoundTrip.xcoll (o : EOp) : Laws.RoundTrip.Statement (.xcoll o) := by
  intro sl w q h hw
  cases h
  unfold pick
  dsimp only
  unfold pickE
  have hop : (BitVec.extractLsb' 2 6 (eword o 0 0x14 false)).toNat = 20 := by
    simp (disch := omega) only [word, wordImm, word24, encA, encB, encC, encCorr, encAmac, encCchk, encAop, encAsum, encTmma, eword, btxWord, Stamp.word, VRow.word, ext_lo, ext_hi, Nat.reduceSub, ext_all]; rfl
  rw [hop]
  dsimp only
  simp (disch := omega) only [word, wordImm, word24, encA, encB, encC, encCorr, encAmac, encCchk, encAop, encAsum, encTmma, eword, btxWord, Stamp.word, VRow.word, memA, memB, memC, corrOp, hi16, ext_lo, ext_hi, Nat.reduceSub, ext_all, get_lo, get_hi, b1_get]
  first
    | rfl
    | (simp only [Nat.reduceAdd, Nat.reduceSub, ext_all]; rfl)
    | (simp only [span_frame, span_eword, span_eword0, span_xpush]; rfl)
    | (have ha := EOp.a_zero hw; rcases o with ⟨_, _, _, _, _, _, _⟩; cases ha; rfl)
    | (simp only [join_count]; have ha := EOp.a_zero hw; rcases o with ⟨_, _, _, _, _, _, _⟩; cases ha; rfl)

theorem Laws.RoundTrip.xcoll64 (o : EOp) (s : BitVec 16) : Laws.RoundTrip.Statement (.xcoll64 o s) := by
  intro sl w q h hw
  cases h
  unfold pick
  dsimp only
  unfold pickE
  have hop : (BitVec.extractLsb' 2 6 (eword o 0 0x14 true)).toNat = 20 := by
    simp (disch := omega) only [word, wordImm, word24, encA, encB, encC, encCorr, encAmac, encCchk, encAop, encAsum, encTmma, eword, btxWord, Stamp.word, VRow.word, ext_lo, ext_hi, Nat.reduceSub, ext_all]; rfl
  rw [hop]
  dsimp only
  simp (disch := omega) only [word, wordImm, word24, encA, encB, encC, encCorr, encAmac, encCchk, encAop, encAsum, encTmma, eword, btxWord, Stamp.word, VRow.word, memA, memB, memC, corrOp, hi16, ext_lo, ext_hi, Nat.reduceSub, ext_all, get_lo, get_hi, b1_get]
  first
    | rfl
    | (simp only [Nat.reduceAdd, Nat.reduceSub, ext_all]; rfl)
    | (simp only [span_frame, span_eword, span_eword0, span_xpush]; rfl)
    | (have ha := EOp.a_zero hw; rcases o with ⟨_, _, _, _, _, _, _⟩; cases ha; rfl)
    | (simp only [join_count]; have ha := EOp.a_zero hw; rcases o with ⟨_, _, _, _, _, _, _⟩; cases ha; rfl)

theorem Laws.RoundTrip.xqnt (o : EOp) : Laws.RoundTrip.Statement (.xqnt o) := by
  intro sl w q h hw
  cases h
  unfold pick
  dsimp only
  unfold pickE
  have hop : (BitVec.extractLsb' 2 6 (eword o 0 0x15 false)).toNat = 21 := by
    simp (disch := omega) only [word, wordImm, word24, encA, encB, encC, encCorr, encAmac, encCchk, encAop, encAsum, encTmma, eword, btxWord, Stamp.word, VRow.word, ext_lo, ext_hi, Nat.reduceSub, ext_all]; rfl
  rw [hop]
  dsimp only
  simp (disch := omega) only [word, wordImm, word24, encA, encB, encC, encCorr, encAmac, encCchk, encAop, encAsum, encTmma, eword, btxWord, Stamp.word, VRow.word, memA, memB, memC, corrOp, hi16, ext_lo, ext_hi, Nat.reduceSub, ext_all, get_lo, get_hi, b1_get]
  first
    | rfl
    | (simp only [Nat.reduceAdd, Nat.reduceSub, ext_all]; rfl)
    | (simp only [span_frame, span_eword, span_eword0, span_xpush]; rfl)
    | (have ha := EOp.a_zero hw; rcases o with ⟨_, _, _, _, _, _, _⟩; cases ha; rfl)
    | (simp only [join_count]; have ha := EOp.a_zero hw; rcases o with ⟨_, _, _, _, _, _, _⟩; cases ha; rfl)

theorem Laws.RoundTrip.xqnt64 (o : EOp) (s : BitVec 16) : Laws.RoundTrip.Statement (.xqnt64 o s) := by
  intro sl w q h hw
  cases h
  unfold pick
  dsimp only
  unfold pickE
  have hop : (BitVec.extractLsb' 2 6 (eword o 0 0x15 true)).toNat = 21 := by
    simp (disch := omega) only [word, wordImm, word24, encA, encB, encC, encCorr, encAmac, encCchk, encAop, encAsum, encTmma, eword, btxWord, Stamp.word, VRow.word, ext_lo, ext_hi, Nat.reduceSub, ext_all]; rfl
  rw [hop]
  dsimp only
  simp (disch := omega) only [word, wordImm, word24, encA, encB, encC, encCorr, encAmac, encCchk, encAop, encAsum, encTmma, eword, btxWord, Stamp.word, VRow.word, memA, memB, memC, corrOp, hi16, ext_lo, ext_hi, Nat.reduceSub, ext_all, get_lo, get_hi, b1_get]
  first
    | rfl
    | (simp only [Nat.reduceAdd, Nat.reduceSub, ext_all]; rfl)
    | (simp only [span_frame, span_eword, span_eword0, span_xpush]; rfl)
    | (have ha := EOp.a_zero hw; rcases o with ⟨_, _, _, _, _, _, _⟩; cases ha; rfl)
    | (simp only [join_count]; have ha := EOp.a_zero hw; rcases o with ⟨_, _, _, _, _, _, _⟩; cases ha; rfl)

theorem Laws.RoundTrip.xcmp (o : EOp) : Laws.RoundTrip.Statement (.xcmp o) := by
  intro sl w q h hw
  cases h
  unfold pick
  dsimp only
  unfold pickE
  have hop : (BitVec.extractLsb' 2 6 (eword o 0 0x16 false)).toNat = 22 := by
    simp (disch := omega) only [word, wordImm, word24, encA, encB, encC, encCorr, encAmac, encCchk, encAop, encAsum, encTmma, eword, btxWord, Stamp.word, VRow.word, ext_lo, ext_hi, Nat.reduceSub, ext_all]; rfl
  rw [hop]
  dsimp only
  simp (disch := omega) only [word, wordImm, word24, encA, encB, encC, encCorr, encAmac, encCchk, encAop, encAsum, encTmma, eword, btxWord, Stamp.word, VRow.word, memA, memB, memC, corrOp, hi16, ext_lo, ext_hi, Nat.reduceSub, ext_all, get_lo, get_hi, b1_get]
  first
    | rfl
    | (simp only [Nat.reduceAdd, Nat.reduceSub, ext_all]; rfl)
    | (simp only [span_frame, span_eword, span_eword0, span_xpush]; rfl)
    | (have ha := EOp.a_zero hw; rcases o with ⟨_, _, _, _, _, _, _⟩; cases ha; rfl)
    | (simp only [join_count]; have ha := EOp.a_zero hw; rcases o with ⟨_, _, _, _, _, _, _⟩; cases ha; rfl)

theorem Laws.RoundTrip.xcmp64 (o : EOp) (s : BitVec 16) : Laws.RoundTrip.Statement (.xcmp64 o s) := by
  intro sl w q h hw
  cases h
  unfold pick
  dsimp only
  unfold pickE
  have hop : (BitVec.extractLsb' 2 6 (eword o 0 0x16 true)).toNat = 22 := by
    simp (disch := omega) only [word, wordImm, word24, encA, encB, encC, encCorr, encAmac, encCchk, encAop, encAsum, encTmma, eword, btxWord, Stamp.word, VRow.word, ext_lo, ext_hi, Nat.reduceSub, ext_all]; rfl
  rw [hop]
  dsimp only
  simp (disch := omega) only [word, wordImm, word24, encA, encB, encC, encCorr, encAmac, encCchk, encAop, encAsum, encTmma, eword, btxWord, Stamp.word, VRow.word, memA, memB, memC, corrOp, hi16, ext_lo, ext_hi, Nat.reduceSub, ext_all, get_lo, get_hi, b1_get]
  first
    | rfl
    | (simp only [Nat.reduceAdd, Nat.reduceSub, ext_all]; rfl)
    | (simp only [span_frame, span_eword, span_eword0, span_xpush]; rfl)
    | (have ha := EOp.a_zero hw; rcases o with ⟨_, _, _, _, _, _, _⟩; cases ha; rfl)
    | (simp only [join_count]; have ha := EOp.a_zero hw; rcases o with ⟨_, _, _, _, _, _, _⟩; cases ha; rfl)

theorem Laws.RoundTrip.xdcmp (o : EOp) : Laws.RoundTrip.Statement (.xdcmp o) := by
  intro sl w q h hw
  cases h
  unfold pick
  dsimp only
  unfold pickE
  have hop : (BitVec.extractLsb' 2 6 (eword o 0 0x17 false)).toNat = 23 := by
    simp (disch := omega) only [word, wordImm, word24, encA, encB, encC, encCorr, encAmac, encCchk, encAop, encAsum, encTmma, eword, btxWord, Stamp.word, VRow.word, ext_lo, ext_hi, Nat.reduceSub, ext_all]; rfl
  rw [hop]
  dsimp only
  simp (disch := omega) only [word, wordImm, word24, encA, encB, encC, encCorr, encAmac, encCchk, encAop, encAsum, encTmma, eword, btxWord, Stamp.word, VRow.word, memA, memB, memC, corrOp, hi16, ext_lo, ext_hi, Nat.reduceSub, ext_all, get_lo, get_hi, b1_get]
  first
    | rfl
    | (simp only [Nat.reduceAdd, Nat.reduceSub, ext_all]; rfl)
    | (simp only [span_frame, span_eword, span_eword0, span_xpush]; rfl)
    | (have ha := EOp.a_zero hw; rcases o with ⟨_, _, _, _, _, _, _⟩; cases ha; rfl)
    | (simp only [join_count]; have ha := EOp.a_zero hw; rcases o with ⟨_, _, _, _, _, _, _⟩; cases ha; rfl)

theorem Laws.RoundTrip.xdcmp64 (o : EOp) (s : BitVec 16) : Laws.RoundTrip.Statement (.xdcmp64 o s) := by
  intro sl w q h hw
  cases h
  unfold pick
  dsimp only
  unfold pickE
  have hop : (BitVec.extractLsb' 2 6 (eword o 0 0x17 true)).toNat = 23 := by
    simp (disch := omega) only [word, wordImm, word24, encA, encB, encC, encCorr, encAmac, encCchk, encAop, encAsum, encTmma, eword, btxWord, Stamp.word, VRow.word, ext_lo, ext_hi, Nat.reduceSub, ext_all]; rfl
  rw [hop]
  dsimp only
  simp (disch := omega) only [word, wordImm, word24, encA, encB, encC, encCorr, encAmac, encCchk, encAop, encAsum, encTmma, eword, btxWord, Stamp.word, VRow.word, memA, memB, memC, corrOp, hi16, ext_lo, ext_hi, Nat.reduceSub, ext_all, get_lo, get_hi, b1_get]
  first
    | rfl
    | (simp only [Nat.reduceAdd, Nat.reduceSub, ext_all]; rfl)
    | (simp only [span_frame, span_eword, span_eword0, span_xpush]; rfl)
    | (have ha := EOp.a_zero hw; rcases o with ⟨_, _, _, _, _, _, _⟩; cases ha; rfl)
    | (simp only [join_count]; have ha := EOp.a_zero hw; rcases o with ⟨_, _, _, _, _, _, _⟩; cases ha; rfl)

theorem Laws.RoundTrip.xatt (o : EOp) : Laws.RoundTrip.Statement (.xatt o) := by
  intro sl w q h hw
  cases h
  unfold pick
  dsimp only
  unfold pickE
  have hop : (BitVec.extractLsb' 2 6 (eword o 0 0x18 false)).toNat = 24 := by
    simp (disch := omega) only [word, wordImm, word24, encA, encB, encC, encCorr, encAmac, encCchk, encAop, encAsum, encTmma, eword, btxWord, Stamp.word, VRow.word, ext_lo, ext_hi, Nat.reduceSub, ext_all]; rfl
  rw [hop]
  dsimp only
  simp (disch := omega) only [word, wordImm, word24, encA, encB, encC, encCorr, encAmac, encCchk, encAop, encAsum, encTmma, eword, btxWord, Stamp.word, VRow.word, memA, memB, memC, corrOp, hi16, ext_lo, ext_hi, Nat.reduceSub, ext_all, get_lo, get_hi, b1_get]
  first
    | rfl
    | (simp only [Nat.reduceAdd, Nat.reduceSub, ext_all]; rfl)
    | (simp only [span_frame, span_eword, span_eword0, span_xpush]; rfl)
    | (have ha := EOp.a_zero hw; rcases o with ⟨_, _, _, _, _, _, _⟩; cases ha; rfl)
    | (simp only [join_count]; have ha := EOp.a_zero hw; rcases o with ⟨_, _, _, _, _, _, _⟩; cases ha; rfl)

theorem Laws.RoundTrip.xatt64 (o : EOp) (s : BitVec 16) : Laws.RoundTrip.Statement (.xatt64 o s) := by
  intro sl w q h hw
  cases h
  unfold pick
  dsimp only
  unfold pickE
  have hop : (BitVec.extractLsb' 2 6 (eword o 0 0x18 true)).toNat = 24 := by
    simp (disch := omega) only [word, wordImm, word24, encA, encB, encC, encCorr, encAmac, encCchk, encAop, encAsum, encTmma, eword, btxWord, Stamp.word, VRow.word, ext_lo, ext_hi, Nat.reduceSub, ext_all]; rfl
  rw [hop]
  dsimp only
  simp (disch := omega) only [word, wordImm, word24, encA, encB, encC, encCorr, encAmac, encCchk, encAop, encAsum, encTmma, eword, btxWord, Stamp.word, VRow.word, memA, memB, memC, corrOp, hi16, ext_lo, ext_hi, Nat.reduceSub, ext_all, get_lo, get_hi, b1_get]
  first
    | rfl
    | (simp only [Nat.reduceAdd, Nat.reduceSub, ext_all]; rfl)
    | (simp only [span_frame, span_eword, span_eword0, span_xpush]; rfl)
    | (have ha := EOp.a_zero hw; rcases o with ⟨_, _, _, _, _, _, _⟩; cases ha; rfl)
    | (simp only [join_count]; have ha := EOp.a_zero hw; rcases o with ⟨_, _, _, _, _, _, _⟩; cases ha; rfl)

theorem Laws.RoundTrip.xkvt (o : EOp) : Laws.RoundTrip.Statement (.xkvt o) := by
  intro sl w q h hw
  cases h
  unfold pick
  dsimp only
  unfold pickE
  have hop : (BitVec.extractLsb' 2 6 (eword o 0 0x19 false)).toNat = 25 := by
    simp (disch := omega) only [word, wordImm, word24, encA, encB, encC, encCorr, encAmac, encCchk, encAop, encAsum, encTmma, eword, btxWord, Stamp.word, VRow.word, ext_lo, ext_hi, Nat.reduceSub, ext_all]; rfl
  rw [hop]
  dsimp only
  simp (disch := omega) only [word, wordImm, word24, encA, encB, encC, encCorr, encAmac, encCchk, encAop, encAsum, encTmma, eword, btxWord, Stamp.word, VRow.word, memA, memB, memC, corrOp, hi16, ext_lo, ext_hi, Nat.reduceSub, ext_all, get_lo, get_hi, b1_get]
  first
    | rfl
    | (simp only [Nat.reduceAdd, Nat.reduceSub, ext_all]; rfl)
    | (simp only [span_frame, span_eword, span_eword0, span_xpush]; rfl)
    | (have ha := EOp.a_zero hw; rcases o with ⟨_, _, _, _, _, _, _⟩; cases ha; rfl)
    | (simp only [join_count]; have ha := EOp.a_zero hw; rcases o with ⟨_, _, _, _, _, _, _⟩; cases ha; rfl)

theorem Laws.RoundTrip.xkvt64 (o : EOp) (s : BitVec 16) : Laws.RoundTrip.Statement (.xkvt64 o s) := by
  intro sl w q h hw
  cases h
  unfold pick
  dsimp only
  unfold pickE
  have hop : (BitVec.extractLsb' 2 6 (eword o 0 0x19 true)).toNat = 25 := by
    simp (disch := omega) only [word, wordImm, word24, encA, encB, encC, encCorr, encAmac, encCchk, encAop, encAsum, encTmma, eword, btxWord, Stamp.word, VRow.word, ext_lo, ext_hi, Nat.reduceSub, ext_all]; rfl
  rw [hop]
  dsimp only
  simp (disch := omega) only [word, wordImm, word24, encA, encB, encC, encCorr, encAmac, encCchk, encAop, encAsum, encTmma, eword, btxWord, Stamp.word, VRow.word, memA, memB, memC, corrOp, hi16, ext_lo, ext_hi, Nat.reduceSub, ext_all, get_lo, get_hi, b1_get]
  first
    | rfl
    | (simp only [Nat.reduceAdd, Nat.reduceSub, ext_all]; rfl)
    | (simp only [span_frame, span_eword, span_eword0, span_xpush]; rfl)
    | (have ha := EOp.a_zero hw; rcases o with ⟨_, _, _, _, _, _, _⟩; cases ha; rfl)
    | (simp only [join_count]; have ha := EOp.a_zero hw; rcases o with ⟨_, _, _, _, _, _, _⟩; cases ha; rfl)

theorem Laws.RoundTrip.xsplc (o : EOp) : Laws.RoundTrip.Statement (.xsplc o) := by
  intro sl w q h hw
  cases h
  unfold pick
  dsimp only
  unfold pickE
  have hop : (BitVec.extractLsb' 2 6 (eword o 0 0x1A false)).toNat = 26 := by
    simp (disch := omega) only [word, wordImm, word24, encA, encB, encC, encCorr, encAmac, encCchk, encAop, encAsum, encTmma, eword, btxWord, Stamp.word, VRow.word, ext_lo, ext_hi, Nat.reduceSub, ext_all]; rfl
  rw [hop]
  dsimp only
  simp (disch := omega) only [word, wordImm, word24, encA, encB, encC, encCorr, encAmac, encCchk, encAop, encAsum, encTmma, eword, btxWord, Stamp.word, VRow.word, memA, memB, memC, corrOp, hi16, ext_lo, ext_hi, Nat.reduceSub, ext_all, get_lo, get_hi, b1_get]
  first
    | rfl
    | (simp only [Nat.reduceAdd, Nat.reduceSub, ext_all]; rfl)
    | (simp only [span_frame, span_eword, span_eword0, span_xpush]; rfl)
    | (have ha := EOp.a_zero hw; rcases o with ⟨_, _, _, _, _, _, _⟩; cases ha; rfl)
    | (simp only [join_count]; have ha := EOp.a_zero hw; rcases o with ⟨_, _, _, _, _, _, _⟩; cases ha; rfl)

theorem Laws.RoundTrip.xsplc64 (o : EOp) (s : BitVec 16) : Laws.RoundTrip.Statement (.xsplc64 o s) := by
  intro sl w q h hw
  cases h
  unfold pick
  dsimp only
  unfold pickE
  have hop : (BitVec.extractLsb' 2 6 (eword o 0 0x1A true)).toNat = 26 := by
    simp (disch := omega) only [word, wordImm, word24, encA, encB, encC, encCorr, encAmac, encCchk, encAop, encAsum, encTmma, eword, btxWord, Stamp.word, VRow.word, ext_lo, ext_hi, Nat.reduceSub, ext_all]; rfl
  rw [hop]
  dsimp only
  simp (disch := omega) only [word, wordImm, word24, encA, encB, encC, encCorr, encAmac, encCchk, encAop, encAsum, encTmma, eword, btxWord, Stamp.word, VRow.word, memA, memB, memC, corrOp, hi16, ext_lo, ext_hi, Nat.reduceSub, ext_all, get_lo, get_hi, b1_get]
  first
    | rfl
    | (simp only [Nat.reduceAdd, Nat.reduceSub, ext_all]; rfl)
    | (simp only [span_frame, span_eword, span_eword0, span_xpush]; rfl)
    | (have ha := EOp.a_zero hw; rcases o with ⟨_, _, _, _, _, _, _⟩; cases ha; rfl)
    | (simp only [join_count]; have ha := EOp.a_zero hw; rcases o with ⟨_, _, _, _, _, _, _⟩; cases ha; rfl)

theorem Laws.RoundTrip.xsplcDone (o : EOp) : Laws.RoundTrip.Statement (.xsplcDone o) := by
  intro sl w q h hw
  cases h
  unfold pick
  dsimp only
  unfold pickE
  have hop : (BitVec.extractLsb' 2 6 (eword o 1 0x1A false)).toNat = 26 := by
    simp (disch := omega) only [word, wordImm, word24, encA, encB, encC, encCorr, encAmac, encCchk, encAop, encAsum, encTmma, eword, btxWord, Stamp.word, VRow.word, ext_lo, ext_hi, Nat.reduceSub, ext_all]; rfl
  rw [hop]
  dsimp only
  simp (disch := omega) only [word, wordImm, word24, encA, encB, encC, encCorr, encAmac, encCchk, encAop, encAsum, encTmma, eword, btxWord, Stamp.word, VRow.word, memA, memB, memC, corrOp, hi16, ext_lo, ext_hi, Nat.reduceSub, ext_all, get_lo, get_hi, b1_get]
  first
    | rfl
    | (simp only [Nat.reduceAdd, Nat.reduceSub, ext_all]; rfl)
    | (simp only [span_frame, span_eword, span_eword0, span_xpush]; rfl)
    | (have ha := EOp.a_zero hw; rcases o with ⟨_, _, _, _, _, _, _⟩; cases ha; rfl)
    | (simp only [join_count]; have ha := EOp.a_zero hw; rcases o with ⟨_, _, _, _, _, _, _⟩; cases ha; rfl)

theorem Laws.RoundTrip.xsplcDone64 (o : EOp) (s : BitVec 16) : Laws.RoundTrip.Statement (.xsplcDone64 o s) := by
  intro sl w q h hw
  cases h
  unfold pick
  dsimp only
  unfold pickE
  have hop : (BitVec.extractLsb' 2 6 (eword o 1 0x1A true)).toNat = 26 := by
    simp (disch := omega) only [word, wordImm, word24, encA, encB, encC, encCorr, encAmac, encCchk, encAop, encAsum, encTmma, eword, btxWord, Stamp.word, VRow.word, ext_lo, ext_hi, Nat.reduceSub, ext_all]; rfl
  rw [hop]
  dsimp only
  simp (disch := omega) only [word, wordImm, word24, encA, encB, encC, encCorr, encAmac, encCchk, encAop, encAsum, encTmma, eword, btxWord, Stamp.word, VRow.word, memA, memB, memC, corrOp, hi16, ext_lo, ext_hi, Nat.reduceSub, ext_all, get_lo, get_hi, b1_get]
  first
    | rfl
    | (simp only [Nat.reduceAdd, Nat.reduceSub, ext_all]; rfl)
    | (simp only [span_frame, span_eword, span_eword0, span_xpush]; rfl)
    | (have ha := EOp.a_zero hw; rcases o with ⟨_, _, _, _, _, _, _⟩; cases ha; rfl)
    | (simp only [join_count]; have ha := EOp.a_zero hw; rcases o with ⟨_, _, _, _, _, _, _⟩; cases ha; rfl)

theorem Laws.RoundTrip.spawn (o : EOp) : Laws.RoundTrip.Statement (.spawn o) := by
  intro sl w q h hw
  cases h
  unfold pick
  dsimp only
  unfold pickE
  have hop : (BitVec.extractLsb' 2 6 (eword o 0 0x20 false)).toNat = 32 := by
    simp (disch := omega) only [word, wordImm, word24, encA, encB, encC, encCorr, encAmac, encCchk, encAop, encAsum, encTmma, eword, btxWord, Stamp.word, VRow.word, ext_lo, ext_hi, Nat.reduceSub, ext_all]; rfl
  rw [hop]
  dsimp only
  simp (disch := omega) only [word, wordImm, word24, encA, encB, encC, encCorr, encAmac, encCchk, encAop, encAsum, encTmma, eword, btxWord, Stamp.word, VRow.word, memA, memB, memC, corrOp, hi16, ext_lo, ext_hi, Nat.reduceSub, ext_all, get_lo, get_hi, b1_get]
  first
    | rfl
    | (simp only [Nat.reduceAdd, Nat.reduceSub, ext_all]; rfl)
    | (simp only [span_frame, span_eword, span_eword0, span_xpush]; rfl)
    | (have ha := EOp.a_zero hw; rcases o with ⟨_, _, _, _, _, _, _⟩; cases ha; rfl)
    | (simp only [join_count]; have ha := EOp.a_zero hw; rcases o with ⟨_, _, _, _, _, _, _⟩; cases ha; rfl)

theorem Laws.RoundTrip.spawn64 (o : EOp) (s : BitVec 16) : Laws.RoundTrip.Statement (.spawn64 o s) := by
  intro sl w q h hw
  cases h
  unfold pick
  dsimp only
  unfold pickE
  have hop : (BitVec.extractLsb' 2 6 (eword o 0 0x20 true)).toNat = 32 := by
    simp (disch := omega) only [word, wordImm, word24, encA, encB, encC, encCorr, encAmac, encCchk, encAop, encAsum, encTmma, eword, btxWord, Stamp.word, VRow.word, ext_lo, ext_hi, Nat.reduceSub, ext_all]; rfl
  rw [hop]
  dsimp only
  simp (disch := omega) only [word, wordImm, word24, encA, encB, encC, encCorr, encAmac, encCchk, encAop, encAsum, encTmma, eword, btxWord, Stamp.word, VRow.word, memA, memB, memC, corrOp, hi16, ext_lo, ext_hi, Nat.reduceSub, ext_all, get_lo, get_hi, b1_get]
  first
    | rfl
    | (simp only [Nat.reduceAdd, Nat.reduceSub, ext_all]; rfl)
    | (simp only [span_frame, span_eword, span_eword0, span_xpush]; rfl)
    | (have ha := EOp.a_zero hw; rcases o with ⟨_, _, _, _, _, _, _⟩; cases ha; rfl)
    | (simp only [join_count]; have ha := EOp.a_zero hw; rcases o with ⟨_, _, _, _, _, _, _⟩; cases ha; rfl)

end Sys2Proof
end

