-- ==== Sys2Proof/Tests/Slice0.lean ====
section
/-!
SUPPORT. The model's own tests: ill-formed instructions that WellFormed refuses, words written out from the encodings of spec/10_encoding.md
and what they decode to, single steps with results worked out by hand from the rules, and for the statements witnesses that meet all of
their hypotheses together.
-/

open Sys2Proof Sys2Proof.Machine

namespace Sys2Proof.Tests

/-! ## WellFormed refuses (R199 to R212, and the entries of spec/11 to spec/14) -/

/-- None of a list of instructions is well formed. -/
def refused (l : List Instr) : Bool := l.all fun i => !i.wf

/-- A V or F operand record. -/
def vop (ty : BitVec 5) (var : BitVec 3 := 0) (a b c : BitVec 5 := 1) (p : Pfx := .empty) : VOp := ⟨ty, var, a, b, c, p⟩

/-- An engine command without marks. -/
def eop (a b c : Reg) (p : Pfx := .empty) : EOp := ⟨false, false, false, a, b, c, p⟩

theorem test_wf_accepts : [Instr.add 1 2 3, .taddT (vop 8), .tfmaR (vop 8) .zero, .ld ⟨3, false, 1, 2⟩ 0, .amac ⟨0, 31, 0, 1, 1⟩ .empty,
    .xcpy 0 (eop 0 4 5)].all (·.wf) = true := by decide
-- TYPE 14 is no element format of TADD; VAR 2; tile 16 as a, b and c; TZERO with a source; TD or a row of TADD.t set; a prefix of FRAND
theorem test_illformed_type : refused [.taddT (vop 14), .tfmaT (vop 0) .zero, .tandT (vop 8), .tqntT (vop 9) { VRow.zero with f2 := 14 },
    .tdqT (vop 8) .zero, .tbcstT (vop 13), .tzeroT (vop 1), .frandT (vop 9), .fsinT (vop 13)] = true := by decide
theorem test_illformed_var : refused [.taddT (vop 8 2), .tcvtT (vop 8 2) { VRow.zero with f2 := 9 }, .tqntT (vop 8 4) { VRow.zero with f2 := 14 },
    .tdqT (vop 24 4) { VRow.zero with f2 := 8 }, .tbcstT (vop 8 3), .textT (vop 8 1), .fexpqT (vop 8 4), .tabsT (vop 8 1)] = true := by decide
theorem test_illformed_f2 : refused [.tcvtT (vop 8) { VRow.zero with f2 := 14 }, .tqntT (vop 8) { VRow.zero with f2 := 8 },
    .tdqT (vop 14) { VRow.zero with f2 := 9 }, .taddR (vop 8) { VRow.zero with f2 := 1 }] = true := by decide
theorem test_illformed_tile : refused [.taddT (vop 8 0 16), .taddT (vop 8 0 1 16), .taddT (vop 8 0 1 1 16),
    .tqntT (vop 8 0 15) { VRow.zero with f2 := 14 }] = true := by decide
theorem test_illformed_reserved : refused [.frandT (vop 8 0 1 1 0), .tabsT (vop 8 0 1 1 1), .taddR (vop 8) { VRow.zero with td := 1 },
    .taddR (vop 8) { VRow.zero with rd := 1 }, .tredR (vop 8) { VRow.zero with rc := 1 }, .tinsR (vop 8 0 1 0 1) { VRow.zero with rb := 1 },
    .tfmaT (vop 8) { VRow.zero with ra := 1 }] = true := by decide
theorem test_illformed_prefix : refused [.tandT (vop 0 0 1 1 1 { Pfx.empty with sat := some true }),
    .taddT (vop 0 0 1 1 1 { Pfx.empty with round := some 1 }), .frandT (vop 8 0 1 0 0 { Pfx.empty with sat := some true }),
    .taddT (vop 8 0 1 1 1 { Pfx.empty with stream := some (0, 0) }), .fadd 1 1 1 { Pfx.empty with beat := some 2 },
    .st ⟨0, false, 1, 1⟩ 0 { Pfx.empty with round := some 0 }, .stt ⟨false, 0, 1, 1⟩ 0 { Pfx.empty with rand := some true },
    .ldb true ⟨false, 0, 1, 1⟩ 0 { Pfx.empty with fmt1 := some 8 }, .amac ⟨0, 0, 0, 1, 1⟩ { Pfx.empty with sat := some true },
    .amac64 ⟨0, 0, 0, 1, 1⟩ { Pfx.empty with beat := some 1 } ⟨0, 1⟩, .azero 1 2 { Pfx.empty with stream := some (0, 0) },
    .xred (eop 1 2 3 { Pfx.empty with beat := some 0 }), .stx ⟨false, 0, false, 1, 1, 1⟩ none { Pfx.empty with sat := some true },
    .atom ⟨false, false, 0, 3, 1, 1, 1⟩ none { Pfx.empty with fmt2 := some 8 }] = true := by decide
-- a prefix of a code that R201 does not list, and three prefix words (R202)
theorem test_illformed_prefix_codes : [{ Pfx.empty with round := some 5 }, { Pfx.empty with stream := some (0, 5) },
    { Pfx.empty with fmt1 := some 17 }, { Pfx.empty with fmt2 := some 31 },
    { Pfx.empty with round := some 0, sat := some true, rand := some true }].all (fun (p : Pfx) => !p.ok) = true := by decide
theorem test_illformed_pfx_in_instr : refused [.fadd 1 1 1 { Pfx.empty with round := some 5 },
    .fadd 1 1 1 { Pfx.empty with round := some 0, sat := some true, rand := some true }] = true := by decide
-- shifts of 64; format codes of FCVT and FCLASS; numbers of R84 and R368 that are not assigned
theorem test_illformed_scalar : refused [.shli 1 1 64, .shrli64 1 1 64, .shrai 1 1 64, .fcvt 14 0 1 1 .empty, .fcvt 0 14 1 1 .empty, .fclass 0 1 1,
    .rds 0x009 1, .wrs 0x028 1, .rdsys 0x10B 1, .wrsys 0x145 1, .setsz 5 false, .bar 5, .fence 5 0, .waitcReg 0, .waitcReg 548,
    .lease 1 1 7 0] = true := by decide
-- sizes above 16 bytes, 16 bytes in an odd register, sign extension of a store or of 8 bytes; tiles and rows of layouts B and C
theorem test_illformed_memory : refused [.ld ⟨5, false, 1, 2⟩ 0, .ld ⟨4, false, 1, 3⟩ 0, .ld ⟨3, true, 1, 2⟩ 0, .st ⟨2, true, 1, 2⟩ 0 .empty,
    .ldg false ⟨5, false, 1, 2⟩ 0 .empty, .stg64 false ⟨2, true, 1, 2⟩ 0 .empty, .ldt ⟨false, 0, 1, 16⟩ 0, .stt ⟨true, 1, 1, 1⟩ 0 .empty,
    .ldx ⟨false, 0, false, 16, 1, 1⟩ none, .stx ⟨true, 1, false, 1, 1, 1⟩ none .empty, .ldb true ⟨false, 0, 1, 16⟩ 0 .empty,
    .atom ⟨false, false, 0, 1, 1, 1, 1⟩ none .empty, .atom ⟨false, false, 11, 3, 1, 1, 1⟩ none .empty,
    .atom ⟨false, false, 1, 3, 1, 1, 1⟩ none .empty] = true := by decide
theorem test_illformed_array : refused [.amac ⟨1, 31, 0, 1, 1⟩ .empty, .amac ⟨0, 0, 3, 1, 1⟩ .empty, .amac ⟨0, 0, 1, 1, 1⟩ .empty,
    .amac ⟨0, 0, 0, 1, 0⟩ .empty, .aop ⟨0, false, 7, 1, 1, 1⟩ .empty, .aop ⟨0, false, 2, 16, 1, 1⟩ .empty, .aop ⟨0, false, 6, 1, 1, 1⟩ .empty,
    .aop ⟨0, false, 5, 1, 1, 1⟩ .empty, .asum ⟨2, false, 1, 1⟩ .empty, .asum ⟨0, true, 1, 1⟩ .empty, .tmma ⟨9, false, 1, 1, 1⟩,
    .tmma ⟨8, false, 1, 1, 16⟩] = true := by decide
theorem test_illformed_correcting : refused [.cresp ⟨0, 0, 0, 0, false, 0, 0, 0⟩ .empty, .cresp ⟨0, 0, 0, 0, true, 0, 0, 1⟩ .empty,
    .copa ⟨0, 0, 0, 15, true, 0, 0, 1⟩ .empty, .copaC ⟨0, 0, 0, 0, true, 0, 0, 1⟩ .empty, .cchk ⟨1, 0, 0, false, 1⟩ .empty,
    .cchk ⟨0, 0, 0, true, 0⟩ .empty] = true := by decide
-- a tag of the wrong parity in a second word (R51)
theorem test_illformed_parity : refused [.ldb64 true ⟨false, 0, 1, 1⟩ 0 1, .amac64 ⟨0, 0, 0, 1, 1⟩ .empty ⟨0, 2⟩, .azero64 1 1 ⟨0, 0⟩, .aswap64 1 ⟨0, 1⟩,
    .aop64 ⟨0, false, 0, 1, 1, 1⟩ ⟨0, 0⟩, .asum64 ⟨0, false, 1, 1⟩ ⟨0, 0⟩, .csnapSv64 2 1 ⟨0, 0⟩, .cresp64 ⟨0, 0, 0, 0, false, 0, 0, 1⟩ ⟨0, 0⟩,
    .copa64 ⟨0, 0, 0, 0, false, 0, 0, 1⟩ ⟨0, 0⟩, .copaC64 ⟨0, 0, 0, 0, false, 0, 0, 1⟩ ⟨0, 0⟩, .cchk64 ⟨0, 0, 0, true, 1⟩ ⟨0, 0⟩] = true := by decide
theorem test_illformed_engine : refused [.xcpy 0 (eop 0 0 5), .xgth 0 0 (eop 0 30 5), .xsct 0 0 (eop 1 4 5), .spawn (eop 1 4 5)] = true := by decide
-- pfx.beat that makes the tag odd for an access instruction
theorem test_illformed_beat : beatBad (.aswap 1 { Pfx.empty with beat := some 1 }) { Pfx.empty with beat := some 1 } 0 = true := by decide

/-! ## Words written out from the encodings (R192 to R211; spec/11 to spec/14) -/

-- the worked words of R199 and of the entries
theorem test_decode_addi : decodeSlot .s0 0xFFC0850C none .empty 0 = .ok (.addi 5 4 (-16)) := rfl
theorem test_decode_lih : decodeSlot .s1 0x2AF006A4 none .empty 0 = .ok (.lih 6 0x0ABC) := rfl
theorem test_decode_cmp : decodeSlot .s0 0x0314837C none .empty 0 = .ok (.cmp 6 3 4 5) := rfl
theorem test_decode_fence : decodeSlot .c 0x60006070 none .empty 0 = .ok (.fence 3 3) := rfl
-- one word of every family, its fields put together by R199, R200, R206 to R211, R256, R267, R269, R275, R278 and R296
theorem test_decode_ffma : decodeSlot .s0 0x031483CC none .empty 0 = .ok (.ffma 3 4 5 6 .empty) := rfl
theorem test_decode_sub : decodeSlot .s0 0x000C4108 none .empty 0 = .ok (.sub 1 2 3) := rfl
theorem test_decode_shli64 : decodeSlot .s1 0x00004165 (some 63) .empty 0 = .ok (.shli64 1 2 63) := rfl
theorem test_decode_rds : decodeSlot .s0 0x0C0009E4 none .empty 0 = .ok (.rds 0x018 9) := rfl
theorem test_decode_tadd : decodeSlot .v0 0x408C4104 none .empty 0 = .ok (.taddT ⟨8, 0, 1, 2, 3, .empty⟩) := rfl
theorem test_decode_tcvt_r : decodeSlot .v1 0x41004149 (some 0x090000FF) .empty 0 = .ok (.tcvtR ⟨8, 1, 1, 2, 0, .empty⟩ ⟨9, 0, 0, 0, 7, 31⟩) := rfl
theorem test_decode_fexp2 : decodeSlot .f 0x50804104 none .empty 0 = .ok (.fexp2T ⟨10, 0, 1, 2, 0, .empty⟩) := rfl
theorem test_decode_ld : decodeSlot .l 0x18044104 none .empty 0 = .ok (.ld ⟨3, false, 2, 1⟩ 1) := rfl
theorem test_decode_ldg : decodeSlot .l 0x94004110 none .empty 0 = .ok (.ldg true ⟨2, true, 2, 1⟩ 0 .empty) := rfl
theorem test_decode_ldt : decodeSlot .l 0x207C4408 none .empty 0 = .ok (.ldt ⟨true, 0, 2, 4⟩ (-1)) := rfl
theorem test_decode_ldb : decodeSlot .l 0x0580440C none .empty 0 = .ok (.ldb true ⟨false, 5, 2, 4⟩ 0 .empty) := rfl
theorem test_decode_ldx : decodeSlot .l 0x07A44414 none .empty 0 = .ok (.ldx ⟨false, 7, true, 9, 2, 4⟩ none) := rfl
theorem test_decode_atom : decodeSlot .l 0x69984118 none .empty 0 = .ok (.atom ⟨false, true, 10, 3, 6, 2, 1⟩ none .empty) := rfl
theorem test_decode_st : decodeSlot .w 0x0BFC4104 none .empty 0 = .ok (.st ⟨1, false, 2, 1⟩ (-1) .empty) := rfl
theorem test_decode_stb64 : decodeSlot .w 0x0000440D (some 0x00020004) .empty 0 = .ok (.stb64 false ⟨false, 0, 2, 4⟩ 2 4) := rfl
theorem test_decode_amac : decodeSlot .m 0x08D05304 none .empty 0 = .ok (.amac ⟨1, 3, 1, 5, 3⟩ .empty) := rfl
theorem test_decode_azero64 : decodeSlot .m 0x000C4009 (some 0x00050040) .empty 0 = .ok (.azero64 2 3 ⟨0x40, 5⟩) := rfl
theorem test_decode_aop : decodeSlot .m 0xD00C4118 none .empty 0 = .ok (.aop ⟨3, false, 4, 3, 2, 1⟩ .empty) := rfl
theorem test_decode_copa : decodeSlot .m 0x3B257628 none .empty 0 = .ok (.copa ⟨7, 1, 2, 4, true, 5, 3, 6⟩ .empty) := rfl
theorem test_decode_csnap : decodeSlot .m 0x00806434 none .empty 0 = .ok (.csnapLd 4 3 .empty) := rfl
theorem test_decode_loop : decodeSlot .c 0xFFE8A024 none .empty 0 = .ok (.loop 5 (-6)) := rfl
theorem test_decode_bcc_f32 : decodeSlot .c 0xFF907210 none .empty 0 = .ok (.bcc true 2 3 4 (-1)) := rfl
theorem test_decode_waitc : decodeSlot .c 0x88C0006C none .empty 0 = .ok (.waitcReg 547) := rfl
theorem test_decode_trap : decodeSlot .c 0xBEEF0028 none .empty 0 = .ok (.trap 0xBEEF) := rfl
theorem test_decode_wrsys : decodeSlot .c 0x830100C8 none .empty 0 = .ok (.wrsys 0x106 8) := rfl
theorem test_decode_lease : decodeSlot .e 0x0E00C104 none .empty 0 = .ok (.lease 1 6 3 2) := rfl
theorem test_decode_xgth : decodeSlot .e 0x291C8524 none .empty 0 = .ok (.xgth 2 0x45 ⟨false, false, true, 0, 4, 7, .empty⟩) := rfl
theorem test_decode_xatt64 : decodeSlot .e 0x80358A61 (some 0x00000100) .empty 0 = .ok (.xatt64 ⟨true, false, false, 10, 12, 13, .empty⟩ 0x100) := rfl
theorem test_decode_spawn : decodeSlot .e 0x001C8080 none .empty 0 = .ok (.spawn ⟨false, false, false, 0, 4, 7, .empty⟩) := rfl
-- reserved encodings: opcode 0 (reason 1), a function that is not assigned (2), a reserved bit (3), tile 16 (4), a form without (6), ACQ on STG (12)
theorem test_decode_opcode0 : decodeSlot .s0 0x00000100 none .empty 0 = .error 1 := rfl
theorem test_decode_function : decodeSlot .s0 0x04000104 none .empty 0 = .error 3 ∨ decodeSlot .s0 0x04000104 none .empty 0 = .error 2 := by decide
theorem test_decode_tile16 : decodeSlot .v0 0x40C45004 none .empty 0 = .error 4 := rfl
theorem test_decode_form : decodeSlot .s0 0x000C4105 (some 0) .empty 0 = .error 6 := rfl
theorem test_decode_acq : decodeSlot .w 0x90004110 none .empty 0 = .error 12 := rfl
-- pfx.stream 2, pkg is 0x0000_064A and pfx.round rs is 0x0000_0082 (R201)
theorem test_prefix_stream : decodePfx 0x0000064A .empty = some { Pfx.empty with stream := some (2, 3) } := rfl
theorem test_prefix_round : decodePfx 0x00000082 .empty = some { Pfx.empty with round := some 4 } := rfl
theorem test_prefix_twice : decodePfx 0x00000082 { Pfx.empty with round := some 4 } = none := rfl

/-! ## Small states -/

/-- A task of region 4 on a bay, member 0 of gang 0. -/
def task4 : Task :=
  { uid := 4 * 2 ^ 32, node := 4, gang := 0, taskid := 0, coord := 0, asid := 0, seed := 0, d := false, cls := 1, part := 0 }

/-- A bay with that task and scalar registers. -/
def bayOf (regs : List (Nat × Word)) : Bay := { Bay.reset with task := some task4, sreg := regs }

/-- A machine past its reset with one bay, bay 0, on cycle 5,000. -/
def on (b : Bay) : State := { State.reset with now := 5000, bays := [(0, b)], pkg := { State.reset.pkg with poweron := false } }

/-- A machine whose bay 0 holds values in s1, s2 and so on. -/
def regs (l : List Word) : State := on (bayOf (l.zipIdx.map fun x => (x.2 + 1, x.1)))

/-! ## Single steps with results worked out from the rules -/

/-- What a scalar register holds once everything in flight has landed. -/
def after (o : Out) (r : Nat) : Option Nat := match o with
  | .next t => some ((t.here.land (t.now + 100)).scalar false r).toNat
  | _ => none

theorem test_add_wraps : after (exec (.add 3 1 2) (regs [0xFFFFFFFFFFFFFFFF, 2])) 3 = some 1 := rfl
theorem test_sub_same_register : after (exec (.sub 1 1 2) (regs [5, 7])) 1 = some 0xFFFFFFFFFFFFFFFE := rfl
theorem test_div_by_zero : after (exec (.div 3 1 2) (regs [5, 0])) 3 = some 0xFFFFFFFFFFFFFFFF := rfl
theorem test_rem_sign : after (exec (.rem 3 1 2) (regs [0xFFFFFFFFFFFFFFF9, 2])) 3 = some 0xFFFFFFFFFFFFFFFF := rfl
theorem test_write_s0 : after (exec (.add 0 1 2) (regs [5, 7])) 0 = some 0 := rfl
theorem test_shra : after (exec (.shra 3 1 2) (regs [0x8000000000000000, 127])) 3 = some 0xFFFFFFFFFFFFFFFF := rfl
theorem test_lih_keeps_low : after (exec (.lih 1 1) (regs [0xFFFFFFFF89ABCDEF])) 1 = some 0x189ABCDEF := rfl
theorem test_sel : after (exec (.sel 4 1 2 3) (regs [0, 8, 9])) 4 = some 9 := rfl
theorem test_clz_zero : after (exec (.clz 2 1) (regs [0])) 2 = some 64 := rfl
theorem test_fadd : after (exec (.fadd 3 1 2 .empty) (regs [0x3F800000, 0x3F800000])) 3 = some 0x40000000 := by decide
theorem test_fmin_zeros : after (exec (.fmin 3 1 2) (regs [0, 0x80000000])) 3 = some 0x80000000 := by decide
theorem test_rds_bayid : after (exec (.rds 0x012 3) (regs [])) 3 = some 0 := rfl

/-! ## Witnesses: every hypothesis of a statement met together -/

theorem witness_settled : (regs [1, 2, 3]).settled 1 ∧ (regs [1, 2, 3]).settled 2 ∧ (regs [1, 2, 3]).settled 3 ∧ (regs [1, 2, 3]).settled 31 :=
  ⟨rfl, rfl, rfl, rfl⟩
theorem witness_TwoSourceIntegers : ∃ x ∈ twoSource, (x.2.2 7 5 = 12 ∧ (regs [7, 5]).settled 1 ∧ (regs [7, 5]).settled 2) :=
  ⟨_, List.Mem.head _, rfl, rfl, rfl⟩
theorem witness_FieldsAndImmediates : (63 : BitVec 14).toNat < 64 ∧ (63 : BitVec 32).toNat < 64 ∧ (regs [7, 5]).settled 1 ∧
    bitField 0x3F3F = (63, 1) := ⟨by decide, by decide, rfl, rfl⟩
-- the governing mode and the mode of a prefix; both kinds of FCVT
theorem witness_ScalarFloat_near : (regs []).rnd .empty = some ⟨0, false⟩ := rfl
theorem witness_ScalarFloat_random : (regs []).rnd { Pfx.empty with round := some 4 } = some ⟨4, false⟩ := rfl
theorem witness_ScalarFloat_fcvt : 8 ≤ (8 : BitVec 4).toNat ∧ (7 : BitVec 4).toNat < 8 := by decide
theorem witness_ScalarFloat_lt : cmpFV (fp32 0xBF800000) (fp32 0x3F800000) = .lt ∧ (fp32 0xBF800000).isNaN = false := by decide
theorem witness_ScalarFloat_gt : cmpFV (fp32 0x3F800000) (fp32 0xBF800000) = .gt := by decide
theorem witness_ScalarFloat_eq : cmpFV (fp32 0x80000000) (fp32 0) = .eq := by decide
theorem witness_ScalarFloat_quiet : (fp32 0x7FC00000).isNaN = true ∧ (fp32 0x7FC00000).isSig = false ∧ (fp32 0x7F800001).isSig = true := by decide
theorem witness_SpecialWrites : (0x001, (0xFFFF : Word), 5) ∈ writable ∧ ∀ p ∈ (regs []).here.pends, p.isFlag = false ∧ p.dest ≠ .special 0 false :=
  ⟨by decide, by decide⟩
theorem witness_SpecialReads : (regs []).here.task = some task4 ∧ (regs []).cur.bay < 256 ∧ (regs []).here.empty = false ∧ (regs []).here.jobs = [] ∧
    ∀ p ∈ (regs []).here.pends, p.isFlag = false := by decide
theorem witness_SpecialReads_empty : (on { bayOf [] with empty := true }).here.task = some task4 ∧ (on { bayOf [] with empty := true }).here.empty = true := by decide
theorem witness_RowResults : (VKind.tadd, Instr.taddR) ∈ rowForms := List.Mem.head _
theorem witness_RowResults_mode : (regs []).vecMode .tadd (vop 8) .zero = some ⟨0, false⟩ ∧ (regs []).sourcesSettled .tadd (vop 8) .zero :=
  ⟨by decide, fun _ => rfl, fun _ _ => ⟨rfl, rfl⟩⟩
theorem witness_RowResults_bits : ((regs []).here.inWindow 5000 (.row 32) = false ∧ (regs []).tilePoison 0 32 = none) ∧ (vop 0).var.toNat = 0 ∧ (vop 0).ty.toNat ∈ [0, 1, 2, 4, 5, 6] ∧
    (vop 0).p.sat ≠ some true := by decide
theorem witness_TileForms : (∃ x ∈ tileForms, x.1 = VKind.tadd) ∧ (regs []).vecMode .tadd (vop 8) .zero = some ⟨0, false⟩ :=
  ⟨⟨_, List.Mem.head _, rfl⟩, by decide⟩
-- the last aligned access of own scratch, and one of another bay
theorem witness_ScratchLoads : (regs [0x40000]).here.samples = [] ∧ (regs [0xFFFF0]).ownScratch 16 16 0xFFFF0 ∧ (30 : Reg).toNat < 31 ∧
    (regs [0xFFFF0]).pkg.poisonScratch = [] ∧ (regs [0xFFFF0]).here.btx = [] ∧ (regs [0xFFFF0]).val 1 + BitVec.ofInt 64 ((0 : BitVec 8).toInt * 16) = 0xFFFF0 :=
  ⟨rfl, ⟨by decide, by decide, by decide, rfl, rfl⟩, by decide, rfl, rfl, by decide⟩
theorem witness_ScratchLoads_tile : (regs [0xFF000]).ownScratch 128 4096 0xFF000 := ⟨by decide, by decide, by decide, rfl, rfl⟩
theorem rows_zero (l : List Word) (n : Nat) : (regs l).here.row n = 0#1024 := by
  show (match Tbl.get none ([] : Tbl (Option Row)) n with | some r => r | none => 0#1024) = 0#1024
  rfl
theorem witness_ScratchLoads_index : (regs [0x100]).ownScratch 4 1 0x100 ∧ (regs [0x100]).here.jobs = [] ∧ (∀ j ∈ List.range 32, (∀ p ∈ (regs [0x100]).here.pends, p.dest ≠ .row (32 + j)) ∧
    (regs [0x100]).rowSettled (32 + j) ∧
    ∀ o ∈ (elems 32 32 ((regs [0x100]).here.row (32 + j)).toNat).map (fun i => 0x100 + i * 4), o + 4 ≤ 2 ^ 20) :=
  ⟨⟨by decide, by decide, by decide, rfl, rfl⟩, rfl, fun j _ => ⟨nofun, ⟨rfl, rfl⟩, by
    intro o h
    rw [rows_zero, BitVec.toNat_zero] at h
    simp [elems] at h
    omega⟩⟩
theorem witness_ScratchStores : (regs [0xFFFF8, 5]).here.swrites = [] ∧ (regs [0xFFFF8, 5]).ownScratch 8 8 0xFFFF8 ∧
    (regs [0xFFFF8, 5]).val 1 + BitVec.ofInt 64 ((0 : BitVec 8).toInt * 8) = 0xFFFF8 := ⟨rfl, ⟨by decide, by decide, by decide, rfl, rfl⟩, by decide⟩
theorem witness_ScratchStores_remote : (regs [0x10100080]).remoteScratch 128 128 0x10100080 1 0x80 :=
  by unfold State.remoteScratch; decide
-- misaligned; a reserved bit; a bay number without REMOTE; past the end; a load from another bay
theorem witness_ScratchFaults : (0x101 : Word).toNat % 2 ≠ 0 ∧ 2 ^ 29 ≤ (0x20000000 : Word).toNat ∧
    ((0x100000 : Word).toNat.testBit 28 = false ∧ (0x100000 : Word).toNat / 2 ^ 20 % 256 ≠ 0) ∧ 2 ^ 20 < 0x1FFFFF % 2 ^ 20 + 2 ∧
    ((0x10100000 : Word).toNat.testBit 28 = true ∧ (0x10100000 : Word).toNat / 2 ^ 20 % 256 ≠ 0) ∧ (regs [0x101]).cur.fault = none ∧
    (regs [0x101]).here.lent = false := by decide
/-- A bay with a row sample that is due and its result in flight. -/
def sampling : State := on { bayOf [] with samples := [⟨5000, 3, [0x80], 128, .row 33⟩], pends := [⟨.row 33, 4998, 5002, 0, 0xFFFF, false, 3⟩] }
theorem witness_RowsInFlight : (sampling.bay 0).samples = [⟨5000, 3, [0x80], 128, .row 33⟩] ∧ (sampling.bay 0).btx = [] ∧
    sampling.pkg.poisonScratch = [] ∧ ∃ p ∈ (sampling.bay 0).pends, p.job = 3 ∧ p.dest = .row 33 := ⟨rfl, rfl, rfl, by decide⟩
/-- A bay with a TADD.t in progress at its last row. -/
def adding : State := on { bayOf [] with jobs := [⟨.vec .tadd (vop 8) .zero 0 0 false false 0 0 40, 4969, 31, 5000, 1, [], 7, false⟩] }
theorem witness_RowsInFlight_vec : ∃ j k o r, (adding.bay 0).jobs = [j] ∧ j.kind = .vec k o r 0 0 false false 0 0 40 ∧ k ≠ .ttrn ∧ k ≠ .tred ∧
    j.next ≤ adding.now ∧ j.row = 31 ∧ ∀ x ∈ vecSources k o r, adding.tilePoison 0 (32 * x.1 + j.row) = none :=
  ⟨_, _, _, _, rfl, rfl, by decide, by decide, by decide, rfl, fun _ _ => rfl⟩
/-- A bay with one form of a kind in progress at a row, which has kept some rows. -/
def working (k : JobKind) (row : Nat) (got : List Row) : State := on { bayOf [] with jobs := [⟨k, 4969, row, 5000, 1, got, 7, false⟩] }
/-- A TTRN.t and a TRED.t. -/
def turning (k : VKind) : JobKind := .vec k (vop 8) .zero 0 0 false false 0 0 40
theorem working_jobs (k : JobKind) (row : Nat) (got : List Row) : ((working k row got).bay 0).jobs = [⟨k, 4969, row, 5000, 1, got, 7, false⟩] ∧
    5000 ≤ (working k row got).now ∧ (working k row got).pkg.poisonTile = [] ∧ ∀ n, ((working k row got).bay 0).inWindow 5000 (.row n) 7 = false :=
  ⟨rfl, Nat.le_refl _, rfl, fun _ => rfl⟩
-- the fourth row of a TTRN.t, and the last of a TRED.t
theorem witness_RowsInFlight_turn : ((working (turning .ttrn) 3 [0, 0, 0]).bay 0).jobs = [⟨turning .ttrn, 4969, 3, 5000, 1, [0, 0, 0], 7, false⟩] ∧
    ((working (turning .tred) 31 []).bay 0).jobs = [⟨turning .tred, 4969, 31, 5000, 1, [], 7, false⟩] :=
  ⟨(working_jobs _ _ _).1, (working_jobs _ _ _).1⟩
-- the first row of a LDX.t and of a STX.t to own scratch and to that of bay 1, as it was checked
theorem witness_RowsInFlight_scratch : ∀ k ∈ [JobKind.ldx 4 5 4 0x100, .stx 4 5 4 0 0x100 0, .stx 4 5 4 1 0x100 0],
    ((working k 0 [0]).bay 0).jobs = [⟨k, 4969, 0, 5000, 1, [0], 7, false⟩] ∧ ((working k 0 [0]).bay 0).row (32 * 5 + 0) = 0 ∧
    ((working k 0 [0]).bay 0).inWindow 5000 (.row (32 * 5 + 0)) 7 = false ∧ [(0 : Row)][0]? = some 0 :=
  fun _ _ => ⟨(working_jobs _ _ _).1, rfl, rfl, rfl⟩
-- the tag of an access instruction and of a compute one, with DBEAT even; the queue takes both
theorem witness_sendsBeat : (regs []).carries false .empty none 0 ∧ (regs []).carries true .empty none 1 ∧
    (regs []).carries false .empty (some 2) 2 ∧ (regs []).carries true { Pfx.empty with beat := some 255 } none 255 ∧
    (regs []).takesWork 0 ∧ (regs []).takesWork 32767 :=
  ⟨⟨rfl, rfl⟩, ⟨rfl, rfl⟩, ⟨rfl, rfl⟩, ⟨rfl, rfl⟩,
    ⟨by decide, by decide, rfl, rfl, rfl, by decide⟩, ⟨by decide, by decide, rfl, rfl, rfl, by decide⟩⟩
theorem witness_TagNamesBeat : (65535 : Nat) < 65536 := by decide
-- the last accumulator row of the last bank, on the own bay and on another
theorem witness_BeatRows_acc : ((regs [0x3FC03F80]).val 1 + BitVec.ofInt 64 ((0 : BitVec 5).toInt * 128)).toNat = 0 * 2 ^ 30 + 255 * 2 ^ 22 + 15 * 2 ^ 10 + 896 ∧
    (regs []).partOf 1 = (regs []).partOf 0 ∧ (896 : Nat) % 128 = 0 ∧ (regs []).here.lent = false := by decide
theorem witness_BeatRows_far : ((regs [0x7FC03F80]).val 1 + BitVec.ofInt 64 ((0 : BitVec 16).toInt * 128)).toNat = 1 * 2 ^ 30 + 255 * 2 ^ 22 + 15 * 2 ^ 10 + 896 ∧
    (1 : Nat) ≠ (regs []).cur.bay ∧ (regs []).here.phaseOn = false := by decide

/-- Page tables of ASID 0 in host memory: one leaf of 1 GiB that maps an address to itself. -/
def pages : Memory :=
  (((Memory.store [] 0 (wordBytes [0x4001])).store 0x4000 (wordBytes [0x8001])).store 0x8000 (wordBytes [0xC001])).store 0xC000 (wordBytes [0x1C3])

/-- The leaf of those tables. -/
def page0 : Leaf := { tgt := 0, pa := 0, w0 := 0x1C3, w1 := 0, const := 0, size := 2 ^ 30, level := 2, leafMem := false, leafAddr := 0xC000 }

/-- Page tables of ASID 0 in host memory: one leaf of 1 GiB that maps an address to the same one of expander memory. -/
def xpages : Memory :=
  (((Memory.store [] 0 (wordBytes [0x4001])).store 0x4000 (wordBytes [0x8001])).store 0x8000 (wordBytes [0xC001])).store 0xC000
    (wordBytes [0x1C3, 0x20000000])

/-- The first word of the leaf of either, and the leaf. -/
def leafWord (x : Bool) : Nat := if x then 0x1C3 + 2 ^ 61 else 0x1C3
/-- See `leafWord`. -/
def leafOfPages (x : Bool) : Leaf := { page0 with tgt := if x then 1 else 0, w0 := leafWord x }

/-- The lines of those tables. -/
def tableLines : List Nat := [0, 256, 512, 768]

/-- A machine with those page tables, which the home can read. -/
def paged (b : Bay) : State := { on b with host := pages, pkg := { (on b).pkg with sliceShares := tableLines } }

/-- Page tables with one leaf of 64 KiB that maps address 0 to the beat memory of bay 0. -/
def beatPages : Memory :=
  (((((Memory.store [] 0 (wordBytes [0x4001])).store 0x4000 (wordBytes [0x8001])).store 0x8000 (wordBytes [0xC001])).store 0xC000
    (wordBytes [0x10001])).store 0x10000 (wordBytes [0x14001])).store 0x14000 (wordBytes [0xE3, 0x40000000])

/-- A machine with those. -/
def beaten : State := { on (bayOf []) with host := beatPages, pkg := { (on (bayOf [])).pkg with sliceShares := tableLines ++ [1024, 1280] } }

theorem witness_walk : (paged (bayOf [])).walk 0 0 0x8000 = .leaf page0 := by decide
theorem witness_BeatRows_memory : ∃ l u, State.translate beaten .beatLoad 0 0 false 0 0 = (.ok l 0, u) ∧
    State.inPart beaten 0 (0 / 2 ^ 30) = true := ⟨_, _, rfl, rfl⟩
-- bank sets and row fields at the ends of their ranges
theorem witness_BankWork_azero : ((regs [0xFF + 2 ^ 8, 15 + 2 ^ 4]).val 1).toNat = 255 + 2 ^ 8 * 1 ∧
    ((regs [0xFF + 2 ^ 8, 15 + 2 ^ 4]).val 2).toNat = 15 + 2 ^ 4 * 1 := by decide
theorem witness_BankWork_adrain : ((regs [2 ^ 16, 2 ^ 8 + 2 ^ 9 * 1520 + 2 ^ 20 + 2 ^ 21 + 2 ^ 22 + 2 ^ 23]).val 1).toNat = 0 + 2 ^ 8 * 256 ∧
    ((regs [2 ^ 16, 2 ^ 8 + 2 ^ 9 * 1520 + 2 ^ 20 + 2 ^ 21 + 2 ^ 22 + 2 ^ 23]).val 2).toNat =
      0 + 2 ^ 4 * 16 + 2 ^ 9 * 1520 + 2 ^ 20 * 1 + 2 ^ 21 * true.toNat + 2 ^ 22 * true.toNat + 2 ^ 23 * true.toNat ∧ 1520 + 16 ≤ 1536 := by decide
theorem witness_BankWork_awrite : ((regs [0x80, 255 + 2 ^ 8 + 2 ^ 17 * 1535]).val 2).toNat = 255 + 2 ^ 8 * 1 + 2 ^ 17 * 1535 + 2 ^ 28 * (1 - 1) ∧
    (regs [0x80, 0]).ownScratch 128 (1 * 1 * 1024) ((regs [0x80, 0]).val 1) := ⟨by decide, by decide, by decide, by decide, rfl, rfl⟩
theorem witness_BankWork_aop : ((regs [2 ^ 8 + 2 ^ 17 * 1472 + 2 ^ 28 + 2 ^ 35]).val 1).toNat = aopField 0 1 64 1 1472 ∧ 1472 + 64 ≤ 1536 := by decide
theorem witness_BankWork_asum : ((regs [2 ^ 8, 2 ^ 12 + 2 ^ 19 * 15]).val 2).toNat = 0 + 2 ^ 11 * 0 + 2 ^ 12 * 1 + 2 ^ 19 * 15 := by decide
/-- The descriptor of a tile of one bank, 32 columns and 16 rows, without limits. -/
def tile0 : TileDesc := { ncol := 32, nrow := 16, arow := 0, nb := 1, bank0 := 0, errlim := 0x7F800000, divlim := 0x80000000, raw := BitVec.ofNat 64 (2 ^ 8 + 2 ^ 21 * 16 + 2 ^ 30 * 32) }
/-- A machine with that descriptor in s2 and s3. -/
def tiled : State := regs [0, tile0.raw, BitVec.ofNat 64 (0x80000000 + 2 ^ 32 * 0x7F800000)]
theorem witness_CorrectingOperations : tiled.descriptor 2 tile0 ∧ 8 * (3 : BitVec 2).toNat + 8 * ceilDiv tile0.ncol 32 ≤ 32 ∧
    (tiled.here.step 0).toNat / 2 ^ 11 % 4 ≠ 3 ∧ (tiled.here.step 0).getLsbD 10 = false :=
  by unfold State.descriptor; and_intros <;> first | decide | rfl
-- a stream of BF16 rows against the weights of fmt, to the last accumulator row
theorem witness_MatrixWork : ((regs [0, 2 ^ 8, 2 ^ 11 * 15]).val 2).toNat = 0 + 2 ^ 8 * 1 ∧ ((regs [0, 2 ^ 8, 2 ^ 11 * 15]).val 3).toNat = 0 + 2 ^ 11 * 15 ∧
    (regs []).here.fmt.toNat % 32 ∈ [10, 11, 12, 13, 14, 15, 16, 18, 19, 20, 21, 22, 23, 24] ∧ 18 ≤ (regs []).here.fmt.toNat / 32 % 32 ∧
    (regs []).here.fmt.toNat / 32 % 32 ≤ 24 ∧ (regs []).here.fmt.toNat / 2 ^ 10 % 4 ≤ 1 := by decide
theorem witness_MatrixWork_tmma : (regs []).here.tmmas = [] ∧ (regs []).here.tmmas.length < 4 ∧ (regs []).here.pends = [] ∧
    (regs []).pkg.poisonTile = [] := ⟨rfl, by decide, rfl, rfl⟩
/-- A TMMA that is over now, and the one after it. -/
def tmma0 (start : Nat) : Tmma := { op := ⟨8, true, 2, 3, 4⟩, start, hold := 1, src := List.replicate 2 (List.replicate 32 0) }
theorem witness_MatrixWork_complete : ((on { bayOf [] with tmmas := [tmma0 3968, tmma0 5000] }).bay 0).tmmas = tmma0 3968 :: [tmma0 5000] ∧
    (tmma0 3968).start + 1032 ≤ (regs []).now ∧ ∀ l ∈ (tmma0 3968).src, l.length ≤ 32 :=
  ⟨rfl, by decide, by simp [tmma0]⟩
theorem witness_GlobalAccess : ((regs [0x1000]).val 1 + BitVec.ofInt 64 ((-1 : BitVec 8).toInt * 16)).toNat % 16 = 0 ∧
    ((regs [0x1000]).val 1 + BitVec.ofInt 64 ((1 : BitVec 32).toInt)).toNat % 8 ≠ 0 := by decide
/-- A load of 8 bytes at 0x8000 in SQ0, and one write of a row to bay 1 in SQ1. -/
def entryL : SEntry := ⟨1, .load 3 8 false false, 0x8000, 0, false, false, 0, 1, 0, .queued, false, none, [], false⟩
def entryR : SEntry := ⟨2, .remote 1 [(0, [1])], 0, 0, false, false, 0, 2, 0, .queued, false, none, [], false⟩
/-- A machine with both queues, whose home slice holds the line of the load. -/
def streaming : State :=
  { paged { bayOf [] with sq := [(0, [entryL]), (1, [entryR])], opCount := 2 } with
    pkg := { (paged (bayOf [])).pkg with sliceOwns := [0x200] } }
theorem witness_StreamDelivery : streaming.deliverable 0 0 = some entryL ∧
    (∃ s1, streaming.translate .load 0 0 false 0x8000 (streaming.freeKey 0 13 1) = (.ok page0 0x8000, s1) ∧
      ∀ a, a = 0x8000 ∨ (0x8000 ≤ a ∧ a < 0x8000 + 8) → s1.pkg.sliceOwns.contains (a / 64) = true ∧ s1.poisoned false a = false) ∧
    (streaming.bay 0).l1 = [] := by
  refine ⟨by decide, ⟨_, rfl, fun a h => ?_⟩, rfl⟩
  obtain ⟨i, hi, rfl⟩ : ∃ i < 8, a = 0x8000 + i := ⟨a - 0x8000, by omega, by omega⟩
  revert i
  decide
theorem witness_StreamDelivery_remote : streaming.deliverable 0 1 = some entryR ∧ (1 : Nat) ≠ 0 := by decide
/-- A bay with a fence of SQ2, which is empty of other work. -/
def fenced (bar : Bool) : State := on { bayOf [] with fences := [⟨7, 3, 4, bar⟩], barFence := if bar then some 7 else none }
theorem witness_FenceMarkers : ((fenced false).bay 0).fences = [⟨7, 3, 4, false⟩] ∧ (fenced false).fenceReady 0 ⟨7, 3, 4, false⟩ = true ∧
    ((fenced false).bay 0).barFence = none := by decide
/-- A machine whose home holds line 5 of the host, with a write to it that is not acknowledged. -/
def lined : State := { regs [] with pkg := { (regs []).pkg with sliceOwns := [5], acks := [⟨5, 0, task4.uid, 1, 5000, false, 0, []⟩] } }
theorem witness_HostLines : (lined.pkg.acks.find? fun x => x.line == 5) = some ⟨5, 0, task4.uid, 1, 5000, false, 0, []⟩ ∧
    (lined.pkg.acks.find? fun x => x.line == 6) = none ∧ lined.pkg.sliceOwns.contains 5 = true ∧ lined.pkg.intake = [] ∧
    (∀ p, p < 4 → (lined.part p).freeing = []) ∧ Tbl.get 0 lined.pkg.lineKey (2 ^ 37 - 1) = 0 := by decide
theorem witness_EndAndBarrier : (regs []).leasesOf (regs []).here.uid = [] ∧ (regs []).here.handler = false := by decide
theorem witness_EndAndBarrier_open : (on { bayOf [] with barOpen := some 5001 }).here.barOpen = some 5001 ∧ ¬ 5001 ≤ (on { bayOf [] with barOpen := some 5001 }).now ∧
    (on { bayOf [] with barOpen := some 5000 }).now < 5001 := by decide
theorem witness_EndAndBarrier_last : ((fenced true).bay 0).barFence = some 7 ∧ ((fenced true).bay 0).barOpen = none ∧
    (fenced true).fenceReady 0 ⟨7, 3, 4, true⟩ = true ∧ ((fenced true).bay 0).task.isSome := by decide
theorem witness_EndAndBarrier_alone : ∀ k, k ≠ 0 → ((fenced true).bay k).task = none := by
  intro k h
  simp [fenced, on, State.bay, Tbl.get, Ne.symm h, Bay.reset]
/-- A machine with a READY lease of task 4 in record 5 of die 0, on unit 80. -/
def leasing (state : Nat) (cmds : List Cmd := []) : State :=
  { regs [0, 0x100014005] with dies := [(0, { Die.reset with
      leases := [(5, { Lease.reset with gen := 1, state := state, cls := 5, bay := 0, task := task4.uid, unit := 80 })]
      engines := [(80, { Eng.reset with power := 2, lease := some 5, cmds := cmds })] })] }
theorem witness_Waits_lease : (leasing 3).val 2 = handleOf 0 5 ((leasing 3).leaseOf 0 5) ∧ ((leasing 3).leaseOf 0 5).task = (leasing 3).here.uid ∧
    ((leasing 3).leaseOf 0 5).cls < 8 ∧ ((leasing 3).leaseOf 0 5).gen < 65536 ∧ ((leasing 3).leaseOf 0 5).state = 3 ∧
    ((leasing 1).leaseOf 0 5).state = 1 ∧ ((leasing 2).leaseOf 0 5).state = 2 ∧ (leasing 3).here.empty = false := by decide
theorem witness_Waits_hold : (on { bayOf [] with holds := [⟨1, true, [3], none⟩] }).here.held 5000 3 false = true ∧ (regs []).here.held 5000 3 false = false := by decide
theorem witness_Waits_word : (regs [0xFFFF8]).ownScratch 8 8 ((regs [0xFFFF8]).val 1) ∧
    (on { bayOf [] with waitSeen := some 4999 }).here.waitSeen = some 4999 ∧ 4999 < (regs []).now := ⟨⟨by decide, by decide, by decide, rfl, rfl⟩, rfl, by decide⟩
theorem witness_Waits_poison : ∃ r, ({ regs [0xFFFF8] with pkg := { (regs []).pkg with poisonScratch := [0xFFFF8 / 64] } } : State).sectorReport 1 0 0xFFFF8 8 = some r ∧
    (regs [0xFFFF8]).sectorReport 1 0 0xFFFF8 8 = none := ⟨_, rfl, by decide⟩
/-- A machine with the page tables, whose home holds some lines. -/
def homed (l : List Nat) : State := { paged (bayOf [(1, 0x20000)]) with pkg := { (paged (bayOf [])).pkg with sliceOwns := l } }
theorem witness_Waits_global : ∀ l ∈ [[], [0x800]], ∃ s1, (homed l).translate .load 0 0 false 0x20000 ((homed l).freeKey 0 0 102) = (.ok page0 0x20000, s1) ∧
    s1.hostHolds [(false, 0x800)] = (l == []) ∧ s1.poisoned false 0x20000 = false := by
  intro l h
  rcases List.mem_cons.1 h with rfl | h
  · exact ⟨_, rfl, by decide, by decide⟩
  · rw [List.mem_singleton.1 h]; exact ⟨_, rfl, by decide, by decide⟩
theorem witness_SystemRegisters : (regs []).here.empty = false ∧ (regs []).pkg.recovery = false ∧ (0x100, (0x7FF : Word)) ∈ bayRegisters ∧ (0x120, (0xFFFF : Word)) ∈ sharedRegisters ∧ (0x10000 : Nat) % 65536 = 0 ∧
    0x170000 / 65536 % 32 < 24 ∧ 24 ≤ 0x180000 / 65536 % 32 ∧ (2 : Nat) < 3 := by decide
/-- A machine whose die 0 has given every saddle to a READY lease of class 5 and 6, and where a class-0 task issues. -/
def saddled : State :=
  { on { bayOf [] with task := some { task4 with cls := 0 } } with dies := [(0, { Die.reset with
      leases := (List.range 28).map fun i => (i, { Lease.reset with state := 3, cls := 5, prio := 2, bay := 1, task := 9, unit := 80 + i, granted := i })
      engines := (List.range 28).map fun i => (80 + i, { Eng.reset with power := 2, lease := some i }) })] }
theorem witness_Leases : ((regs [0xFFFFFFFF]).val 1).toNat < 2 ^ 32 ∧ ((regs []).leasesOf (regs []).here.uid).length < 16 ∧ (regs []).here.det = false ∧
    ¬ ((regs []).freeSaddles 0 = 0 ∨ 2 ≤ ((regs []).die 0).thermal ∨ (regs []).freeEngine 0 5 = none) ∧ (regs []).here.empty = false ∧
    (regs []).freeEngine 0 5 = some 80 := by decide
theorem witness_Leases_engines : ∀ u, u / 16 = 5 → ¬ (((regs []).engOf 0 u).reserved = some (regs []).here.node ∧ ((regs []).engOf 0 u).lease = none) :=
  fun _ _ h => nomatch h.1
/-- A machine whose region 4 has engine 80 of die 0 reserved, beside saddles that other tasks hold. -/
def reserving (busy : Nat) : State :=
  { regs [] with dies := [(0, { Die.reset with engines := (80, { Eng.reset with reserved := some 4 }) ::
      ((List.range busy).map fun i => (i, { Eng.reset with power := 2, lease := some i })) })] }
theorem witness_Leases_own : (reserving 27).ownLeft 0 5 (reserving 27).here.node = true ∧ (reserving 27).ownEngine 0 5 (reserving 27).here.node = some 80 ∧
    (reserving 27).ownSaddle 0 80 = true ∧ (reserving 28).ownLeft 0 5 (reserving 28).here.node = true ∧
    (reserving 28).ownEngine 0 5 (reserving 28).here.node = some 80 ∧ (reserving 28).ownSaddle 0 80 = false := by decide
/-- A leaf that has been launched on die 0. -/
def launchedLeaf : Node := { addr := 0x200000, part := 0, launched := [(0, 2000)] }
theorem witness_Leases_launched : ({ reserving 27 with pkg := { (reserving 27).pkg with nodes := [(4, some launchedLeaf)] } } : State).ownSaddle 0 80 = true ∧
    launchedLeaf.launched.find? (fun y => y.1 == 0) = some (0, 2000) ∧ (reserving 27).here.node = 4 := by decide
theorem witness_Leases_det : (on { bayOf [] with task := some { task4 with d := true } }).here.det = true := by decide
theorem witness_Leases_victim : saddled.freeSaddles 0 = 0 ∧ (saddled.here.task.map fun x => max 0 x.cls) = some 0 ∧ saddled.freeRecord 0 = 28 := by decide +kernel
theorem witness_Leases_pick : saddled.pickVictim 0 0 = some 27 := by decide
-- a lease of class 1 that finds no saddle, and one of class 0 that finds none and no victim
theorem witness_Leases_queued : saddled.freeSaddles 0 = 0 ∧ (3 : BitVec 2) ≠ 0 ∧ ({ saddled with dies := [(0, { (saddled.die 0) with leases := [] })] } : State).pickVictim 0 0 = none ∧
    ({ saddled with dies := [(0, { (saddled.die 0) with leases := [] })] } : State).freeSaddles 0 = 0 := by decide
theorem witness_Leases_unlease : (leasing 3).val 2 = BitVec.ofNat 64 (1 * 2 ^ 32 + 5 * 2 ^ 14 + 0 * 2 ^ 12 + 5) ∧ ((leasing 3).leaseOf 0 5).notice = none ∧
    (leasing 3).cmds (.tack 0 80) = [] ∧ ((leasing 4).leaseOf 0 5).state = 4 ∧ ((leasing 1).leaseOf 0 5).victim = none := by decide
theorem witness_Leases_stale : handleDie ((leasing 0).val 2) = 0 ∧ handleIndex ((leasing 0).val 2) = 5 ∧ ((leasing 0).leaseOf 0 5).state = 0 := by decide
theorem witness_Leases_other : ((leasing 3).leaseOf 0 5).task ≠ (on { bayOf [] with task := some { task4 with uid := 1 } }).here.uid := by decide
/-- A machine whose die 0 has one lease record, as given, on unit 80. -/
def recordOf (l : Lease) (x : Eng) : State := { regs [] with dies := [(0, { Die.reset with leases := [(5, l)], engines := [(80, x)] })] }
theorem witness_LeaseEvents_grant : ((recordOf { Lease.reset with state := 1, cls := 5 } Eng.reset).die 0).grantAt ≤ 5000 ∧
    (recordOf { Lease.reset with state := 1, cls := 5 } Eng.reset).nextGrant 0 = some (5, 80) := by decide
/-- A record of a lease whose grant its region's reservation assures. -/
def assured : State := recordOf { Lease.reset with state := 1, cls := 5, aside := 2, task := task4.uid } { Eng.reset with reserved := some 4 }
theorem witness_LeaseEvents_assured : assured.nextGrant 0 = some (5, 80) ∧ (assured.leaseOf 0 5).aside = 2 := by decide
theorem witness_LeaseEvents_wake : ((recordOf { Lease.reset with state := 2, readyAt := 5000 } Eng.reset).leaseOf 0 5).state = 2 ∧
    ((recordOf { Lease.reset with state := 2, readyAt := 5000 } Eng.reset).leaseOf 0 5).readyAt ≤ (regs []).now := by decide
theorem witness_LeaseEvents_deadline : ((recordOf { Lease.reset with state := 1, deadline := some 4999 } Eng.reset).leaseOf 0 5).deadline = some 4999 ∧
    ((recordOf { Lease.reset with state := 1, deadline := some 4999 } Eng.reset).leaseOf 0 5).aside = 0 ∧ 4999 < (regs []).now := by decide
/-- A victim of class 5 at the end of its grace, and the lease of that class that evicts it. -/
def evicting : State :=
  { regs [] with dies := [(0, { Die.reset with
      leases := [(5, { Lease.reset with state := 3, cls := 5, unit := 80, notice := some (5000, 6) }), (6, { Lease.reset with state := 1, cls := 5, victim := some 5 })]
      engines := [(80, { Eng.reset with power := 2, lease := some 5 })] })] }
theorem witness_LeaseEvents_evict : (evicting.leaseOf 0 5).notice = some (5000, 6) ∧ (6 : Nat) ≠ 5 ∧ evicting.cmds (.tack 0 80) = [] ∧
    (evicting.engOf 0 80).closing = false ∧ (evicting.leaseOf 0 5).cls = 80 / 16 ∧ (evicting.leaseOf 0 5).cls = (evicting.leaseOf 0 6).cls := by decide
theorem witness_LeaseEvents_cold : ((recordOf Lease.reset { Eng.reset with power := 1 }).engOf 0 80).since +
    (0 : Word).toNat ≤ 5000 ∧ ((recordOf Lease.reset { Eng.reset with power := 1 }).engOf 0 80).reserved = none := by decide
theorem witness_LeaseEvents_reserved : ((recordOf Lease.reset { Eng.reset with reserved := some 4 }).engOf 0 80).reserved.isSome ∧
    ((recordOf Lease.reset { Eng.reset with reserved := some 4 }).engOf 0 80).since ≤ 5000 := by decide
-- a copy that ends with own scratch; a gather; SPAWN; a command of a tack engine
theorem witness_EngineCommands : (regs [0, 0x8, 0xFFF80, 0x8000, 0x80 + 2 ^ 32]).commands (eop 0 3 2) :=
  ⟨rfl, rfl, rfl, rfl, rfl, rfl, ⟨by decide, by decide, by decide, rfl, rfl⟩⟩
theorem witness_EngineCommands_copy : (regs []).reaches ⟨1, 0xFFF80⟩ 0x80 ∧ (regs []).reaches ⟨0, 0x8000⟩ 0x80 ∧ rowsWhole ⟨5, 0⟩ ⟨1, 0xFFF80⟩ 0x80 ∧
    (regs []).reaches ⟨5, 1535 * 1024⟩ 1024 :=
  ⟨⟨by decide, show 0xFFF80 + 0x80 ≤ 2 ^ 20 by decide⟩, ⟨by decide, trivial⟩, fun _ => by decide, ⟨by decide, show 1535 * 1024 / 2 ^ 30 = 0 ∧ 1535 * 1024 % 2 ^ 21 + 1024 ≤ 1536 * 1024 by decide⟩⟩
theorem witness_EngineCommands_xcpy : ((regs [0, 0x8, 0xFFF80, 0x8000, 0x80 + 2 ^ 32 * 1 + 2 ^ 35 * 0]).val 5).toNat = 0x80 + 2 ^ 32 * 1 + 2 ^ 35 * 0 ∧
    ((regs []).cmds (.btx 0 7)).length < 64 := by decide
theorem witness_EngineCommands_lease : ((leasing 3).leaseOf 0 5).cls = 5 ∧ ((leasing 3).leaseOf 0 5).state = 3 ∧ ((leasing 3).cmds (.tack 0 80)).length < 16 ∧
    ((leasing 3).val 1).toNat % 8 = 0 ∧ ((leasing 3).val 1).toNat < 16 := by decide
/-- A copy of 8 bytes in own scratch on channel 0, with what it still has to do. -/
def copying (todo : List Micro) : Cmd :=
  { id := 1, bay := 0, task := task4.uid, kind := .xcpy ⟨1, 0⟩ ⟨1, 64⟩ 8, issued := 4000, abs := 4000, word := 0, part := 0, asid := 0, node := 4, priv := false,
    order := 0, todo := todo }
/-- A machine with one command on channel 0. -/
def moving (c : Cmd) : State := on { bayOf [] with btx := [(0, { Channel.reset with buf := [c] })] }
theorem witness_EngineSteps_start : (moving (copying [])).startable (.btx 0 0) = some (copying []) ∧ (copying []).kind.blockLen = 0 := by decide
theorem witness_EngineSteps_read : (moving { copying [.read ⟨1, 0⟩ 8] with started := some 4500 }).performable (.btx 0 0) =
      some { copying [.read ⟨1, 0⟩ 8] with started := some 4500 } ∧
    (moving { copying [.read ⟨1, 0⟩ 8] with started := some 4500 }).absent 0 0 8 { copying [.read ⟨1, 0⟩ 8] with started := some 4500 } = false := by decide
theorem witness_EngineSteps_write : (moving { copying [.write ⟨1, 64⟩ [1]] with started := some 4500 }).performable (.btx 0 0) =
      some { copying [.write ⟨1, 64⟩ [1]] with started := some 4500 } := by decide
theorem witness_EngineSteps_finish : (moving { copying [] with started := some 4500, result := some (1, 0) }).finishable (.btx 0 0) =
      some { copying [] with started := some 4500, result := some (1, 0) } ∧ ((moving (copying [])).part 0).freeing = [] := by decide
theorem witness_EngineSteps_plain : (copying [.read ⟨1, 0⟩ 8]).pinned = [] ∧ (copying [.read ⟨1, 0⟩ 8]).tail = false ∧ (copying [.pop]).late = [] := by decide
theorem witness_EngineSteps_pop : (moving { copying [.pop] with started := some 4500, popped := 4743 }).cmds (.btx 0 0) =
      [{ copying [.pop] with started := some 4500, popped := 4743 }] ∧ 4743 + 256 < (regs []).now ∧
    (Tbl.get Channel.reset ((moving (copying [])).bay 0).btx 0).queue = [] := by decide
/-- An attention command of one block that has begun, on unit 80 of die 0. -/
def attending (stage : Nat) (att : AttRun := { }) : Cmd :=
  let params := leBytes 8 0 ++ leBytes 8 (2 ^ 32) ++ leBytes 8 0 ++ leBytes 8 0
  { copying [] with kind := .xatt, started := some 4500, stage := stage, att := att, params := params }
/-- A machine with that command at the head of its engine, which holds a generator with its table at 0xFFFF0. -/
def attention (c : Cmd) : State :=
  { regs [] with dies := [(0, { Die.reset with engines := [(80, { Eng.reset with power := 2, lease := some 5, cmds := [c], gen := some ⟨false, 64, 1, 0xFFFF0, 0, 0, []⟩ })] })] }
theorem witness_AttentionSteps : ∃ g, (attention (attending 1)).nextEntry (.tack 0 80) = some (attending 1, g, 0, 4500) ∧ g.tbl + 16 * 0 + 16 ≤ 2 ^ 20 ∧
    (attention (attending 1)).absent 0 (g.tbl + 16 * 0) 16 (attending 1) = false := ⟨⟨false, 64, 1, 0xFFFF0, 0, 0, []⟩, by decide⟩
theorem witness_AttentionSteps_illegal : (2 : Nat) ^ 39 ≤ 2 ^ 39 ∧ 64 < (65 * 2 ^ 32) / 2 ^ 32 % 2 ^ 7 ∧ (attending 1).late = [] := by decide
theorem witness_AttentionSteps_triple : ((attention (attending 5 { parts := [(0, 3, 0, ⟨0, 0, []⟩)] })).awaited (.tack 0 80)).contains 3 = true := by decide
/-- An entry of the beat queue of bay 0 for beat 0. -/
def entryOf (op : BeatOp) (served : Bool := false) : BEntry :=
  { id := 1, bay := 0, task := task4.uid, beat := 0, tag := 0, op := op, strict := false, hold := 1, pc := 0, where_ := 0, due := 5000, served := served }
/-- A machine whose bay 0 has an entry in its queue, in an open beat. -/
def queued (e : BEntry) : State := on { bayOf [] with bq := [e] }
/-- A machine with an entry on its way from bay 0, in the open beat n. -/
def travelling (e : BEntry) (n : Nat) : State := { on { bayOf [] with transit := [e] } with parts := [(0, { Part.reset with beatno := n })] }
theorem witness_BeatService_arrival : ((travelling (entryOf (.store true (2 ^ 30) [])) 0).bay 0).transit = [entryOf (.store true (2 ^ 30) [])] ∧
    (entryOf (.store true (2 ^ 30) [])).op.target = 1 ∧ ((travelling (entryOf (.store true (2 ^ 30) [])) 0).bay 1).unserved.length < 512 ∧
    (((travelling (entryOf (.store true (2 ^ 30) [])) 0).part 0).beatno : Int) ≤ (entryOf (.store true (2 ^ 30) [])).beat := by decide
theorem witness_BeatService_late : (entryOf (.load true (2 ^ 30) [])).beat < (((travelling (entryOf (.load true (2 ^ 30) [])) 2).part 0).beatno : Int) ∧
    (entryOf (.load true (2 ^ 30) [])).op.isWrite = false ∧ (entryOf (.store false (2 ^ 30) [])).strict = false := by decide
theorem witness_BeatService_load : ((queued (entryOf (.load true 0 [33]))).bay 0).bq.find?
      (fun x => x.id == 1 && (queued (entryOf (.load true 0 [33]))).servable 0 x) = some (entryOf (.load true 0 [33])) ∧
    (queued (entryOf (.load true 0 [33]))).snapPoison 0 true 0 128 = none ∧ [33].Nodup ∧
    (entryOf (.load true 0 [33])).task = ((queued (entryOf (.load true 0 [33]))).bay 0).uid := by decide
theorem witness_BeatService_store : ((queued (entryOf (.store false 0 [0]))).bay 0).bq.find?
      (fun x => x.id == 1 && (queued (entryOf (.store false 0 [0]))).servable 0 x) = some (entryOf (.store false 0 [0])) := by decide +kernel
theorem witness_BeatService_land : ((on { bayOf [] with landing := [⟨3, task4.uid, 1, [(33, 0)], 5000⟩] }).bay 0).landing.find? (fun y => y.id == 3) =
      some ⟨3, task4.uid, 1, [(33, 0)], 5000⟩ ∧ ([(33, (0 : Row))].map (·.1)).Nodup := by decide +kernel
/-- A running AZERO of accumulator row 15 of bank 0. -/
def zeroing (done : Nat) (stop : Bool := false) : Running := { entry := entryOf (.array (.azero 0 1 15 1)), start := 4000, done := done, stop := stop }
theorem witness_ArrayWork_start : (queued (entryOf (.array (.azero 0 1 15 1)))).nextArray 0 = some (entryOf (.array (.azero 0 1 15 1))) ∧
    ((queued (entryOf (.array (.azero 0 1 15 1)))).bay 0).running = none ∧
    ((queued (entryOf (.array (.azero 0 1 15 1)))).bay 0).frozen = [] ∧ ((regs []).die 0).rfend ≤ 5000 := by decide
/-- A machine whose bay 0 has an operation that a save froze, for the open beat. -/
def freezing (b : Bay → Bay) : State := on (b { bayOf [] with frozen := [zeroing 0] })
theorem witness_ArrayWork_frozen : ((freezing id).bay 0).running = none ∧ ((freezing id).bay 0).frozen = [zeroing 0] ∧
    (zeroing 0).entry.beat = (((freezing id).part ((freezing id).partOf 0)).beatno : Int) ∧ ((freezing id).bay 0).save = none ∧
    ((freezing id).bay 0).frozenAt = none ∧ ((freezing id).bay 0).empty = false ∧ ((freezing fun b => { b with frozenAt := some 0 }).bay 0).frozenAt.isSome ∧
    (freezing fun b => { b with frozenAt := some 0 }).nextArray 0 = none := by decide
theorem witness_ArrayWork_commit : (on { bayOf [] with running := some (zeroing 0) }).commitDue 0 = true ∧ 0 + 1 ≤ 256 ∧ 15 + 1 ≤ 16 ∧
    (on { bayOf [] with running := some (zeroing 0 true) }).commitDue 0 = true := by decide
theorem witness_ArrayWork_complete : (ArrayOp.azero 0 1 15 1).steps ≤ (zeroing 1).done ∧ (ArrayOp.azero 0 1 15 1).results (zeroing 1).out = [] := by decide
/-- A machine whose bay 0 runs an operation, with its first commit point due. -/
def committing (o : ArrayOp) : State := on { bayOf [] with running := some { entry := entryOf (.array o), start := 4000 } }
/-- That operation in progress. -/
def run0 (o : ArrayOp) : Running := { entry := entryOf (.array o), start := 4000 }
theorem atPoint_of (o : ArrayOp) (h : (committing o).commitDue 0 = true) : (committing o).atPoint 0 (run0 o) o :=
  ⟨by decide, rfl, rfl, rfl, h, rfl, rfl, rfl, rfl⟩
-- the last bank, the last accumulator row and the last beat rows; every operation of AOP
theorem witness_BankCommitPoints : (committing (.adrain 255 1 15 1 1535 1 true true true)).atPoint 0 (run0 (.adrain 255 1 15 1 1535 1 true true true)) (.adrain 255 1 15 1 1535 1 true true true) ∧
    (committing (.adrain 0 1 0 1 0 0 false false false)).atPoint 0 (run0 (.adrain 0 1 0 1 0 0 false false false)) (.adrain 0 1 0 1 0 0 false false false) ∧
    (committing (.asum true true 255 1 15 1 1 1535)).atPoint 0 (run0 (.asum true true 255 1 15 1 1 1535)) (.asum true true 255 1 15 1 1 1535) ∧
    (committing (.amac 0 1 1 0 1 0 15 10 18 0 true)).atPoint 0 (run0 (.amac 0 1 1 0 1 0 15 10 18 0 true)) (.amac 0 1 1 0 1 0 15 10 18 0 true) ∧
    0 + ceilDiv (1 * blocksPerRow 10 * (18 - 16)) 2 + ceilDiv (1 * blocksPerRow 10) 2 ≤ 1536 ∧ 15 + 1 / 1 ≤ 16 :=
  ⟨atPoint_of _ (by decide), atPoint_of _ (by decide), atPoint_of _ rfl, atPoint_of _ (by decide), by decide, by decide⟩
theorem witness_BankCommitPoints_aop : ∀ op ∈ List.range 7, ∀ ty ∈ List.range 4, (committing (.aop ty true op 255 1 1 1535 0 0 1 3)).commitDue 0 = true := by decide
theorem witness_CorrectingCommitPoints : (committing (.copa tile0 0 32 1 0x200 (some 64))).atPoint 0 (run0 (.copa tile0 0 32 1 0x200 (some 64))) (.copa tile0 0 32 1 0x200 (some 64)) ∧
    (committing (.copac tile0 0 32 1 2)).atPoint 0 (run0 (.copac tile0 0 32 1 2)) (.copac tile0 0 32 1 2) ∧
    (committing (.cresp tile0 0 1 32)).atPoint 0 (run0 (.cresp tile0 0 1 32)) (.cresp tile0 0 1 32) ∧
    (committing (.csnap true tile0 1 1520)).atPoint 0 (run0 (.csnap true tile0 1 1520)) (.csnap true tile0 1 1520) ∧
    tile0.arow + ceilDiv tile0.nrow tile0.nb ≤ 16 ∧ 1520 + ceilDiv tile0.nrow tile0.nb ≤ 1536 :=
  ⟨atPoint_of _ (by decide), atPoint_of _ (by decide), atPoint_of _ rfl, atPoint_of _ (by decide), by decide, by decide⟩
-- an error at the limit of the tile and one past it
theorem witness_CorrectingCommitPoints_limits : failsLimit 0x3F800000 0x3F800000 = none ∧ (failsLimit 0x3F800000 0x3F800001).isSome = true ∧
    (failsLimit tile0.errlim 0x7FC00000).isSome = true := by decide
theorem witness_ArrayWork_awrite : (queued (entryOf (.awrite 0 0 1 0 1))).awriteDue 0 = some (entryOf (.awrite 0 0 1 0 1)) := by decide
/-- A machine with a BPLAN table of one length of 32 at 0x100 of bay 0's scratch, sampled now. -/
def planned (len : Nat) : State :=
  { on { bayOf [] with plans := [(0x100, 4998, 0, task4.uid)] } with scratch := (Memory.store [] 0x100 (leBytes 8 2)).store 0x108 (leBytes 2 len) }
theorem witness_BeatPlans : ((planned 32).bay 0).plans = [(0x100, 4998, 0, ((planned 32).bay 0).uid)] ∧ (planned 32).scratchNum 0 0x100 8 = 2 % 2 ^ 16 + 2 ^ 16 * 0 ∧
    (planned 32).scratchNum 0 0x108 2 = 32 ∧ (planned 31).scratchNum 0 0x108 2 = 31 ∧ ((planned 32).bay 0).beatoff = 0 ∧
    (planned 32).pkg.poisonScratch = [] := by decide
theorem witness_BeatPlans_left : ((on { bayOf [] with plans := [(0x100, 4998, 0, 77)] }).bay 0).plans = [(0x100, 4998, 0, 77)] ∧
    77 ≠ ((on { bayOf [] with plans := [(0x100, 4998, 0, 77)] }).bay 0).uid := by decide
theorem witness_BeatPlans_issue : (0xFFFF8 : Nat) % 8 = 0 ∧ 0xFFFF8 + 8 ≤ 2 ^ 20 ∧ (0xFFFFF : BitVec 20).toNat % 8 ≠ 0 ∧ 2 ^ 20 ≤ (0x100000 : Word).toNat := by decide
/-- A machine in an open beat n, past its planned length. -/
def closing (n : Nat) (bq : List BEntry) : State := { on { bayOf [] with bq := bq } with parts := [(0, { Part.reset with beatno := n, opened := 3000 })] }
theorem witness_BeatBoundaries_compute : (closing 1 []).closable 0 = true := by decide
theorem witness_BeatBoundaries_store : (closing 0 [entryOf (.store false 0x400 [0]) true]).closable 0 = true ∧
    (entryOf (.store false 0x400 [0]) true).beat = 0 := by decide
theorem witness_BeatBoundaries_aswap : (closing 0 [entryOf (.aswap 255 1) true]).closable 0 = true := by decide
theorem witness_BeatBoundaries_overrun : ({ queued (entryOf (.load true 0 [33])) with now := 5120 } : State).overrunDue 0 = true := by decide
theorem witness_BeatBoundaries_others : ∀ k, k ≠ 0 → ((closing 0 []).bay k).bq = [] := by
  intro k h
  simp [closing, on, State.bay, Tbl.get, Ne.symm h, Bay.reset]
theorem witness_BeatBoundaries_refresh : ((recordOf Lease.reset Eng.reset).die 1).rfnext ≤ 0x2000 ∧ ((regs []).part 0).beatno % 2 ≠ 1 ∧
    ((closing 1 []).part 0).beatno % 2 = 1 := by decide
/-- A bay of task 4 with one thing changed. -/
def bay0 (f : Bay → Bay) : State := on (f (bayOf []))
theorem witness_Traps_report : ((bay0 fun b => { b with reports := [⟨0x07, 0, 0, 0, 0⟩] }).bay 0).reports = [⟨0x07, 0, 0, 0, 0⟩] ∧
    ((bay0 id).bay 0).due = none ∧ ((bay0 id).bay 0).handler = false ∧ ((bay0 id).bay 0).task.isSome ∧ ((bay0 id).bay 0).save = none := by decide
theorem witness_Traps_preempt : ((bay0 fun b => { b with preempt := true }).bay 0).preempt = true ∧ ((bay0 fun b => { b with preempt := true }).bay 0).ended = none ∧
    ((bay0 fun b => { b with preempt := true }).bay 0).reports = [] := by decide
theorem witness_Traps_double : ((bay0 fun b => { b with handler := true, due := some ⟨0x18, 0, 0, 0, 0⟩ }).bay 0).due = some ⟨0x18, 0, 0, 0, 0⟩ := by decide
theorem witness_Traps_arrive : ({ bay0 id with pkg := { State.reset.pkg with outbox := [⟨0, task4.uid, ⟨7, 0, 0, 0, 0⟩, false, 0⟩] } } : State).pkg.outbox =
    [⟨0, task4.uid, ⟨7, 0, 0, 0, 0⟩, false, 0⟩] ∧ (List.replicate 63 (⟨7, 0, 0, 0, 0⟩ : Report)).length < 64 := by decide
theorem witness_Traps_eret : (bay0 fun b => { b with handler := true, trappc := 0x40 }).here.cause.getLsbD 10 = false ∧
    (bay0 fun b => { b with cause := 0x400 }).here.cause.getLsbD 10 = true ∧ (bay0 fun b => { b with empty := true }).here.task.isSome := by decide
-- ERET of a handler that has frozen its task, whose lease stands still
theorem witness_Traps_eret_lease : ((recordOf { Lease.reset with state := 3, task := task4.uid, paused := some 5 } Eng.reset).leaseOf 0 5).paused = some 5 ∧
    (0, 5) ∈ (recordOf { Lease.reset with state := 3, task := task4.uid, paused := some 5 } Eng.reset).leasesOf task4.uid := by decide
theorem witness_TrapAndSys : ((bay0 fun b => { b with due := some ⟨0x17, 5, 0, 0, 0⟩ }).bay 0).due = some ⟨0x17, 5, 0, 0, 0⟩ := by decide

/-- The bay of a task whose s1 holds the address of an image. -/
def imageBay : Bay := bayOf [(1, 0x100000)]

/-- Every address below 1 GiB walks to the leaf of those tables, and the walk reads four lines. -/
theorem walk_and_lines (x : Bool) (s : State) (va : Nat) (h : va < 2 ^ 30) (t : s.asidEntry 0 0 = (false, 0) ∧
    [0, 8, 0x4000, 0x8000, 0xC000, 0xC008].map (s.numPhys false 0 · 8) = [0x4001, 0, 0x8001, 0xC001, leafWord x, 0]) :
    s.walk 0 0 va = .leaf (leafOfPages x) ∧ s.walkLines 0 0 va = [(false, 0), (false, 256), (false, 512), (false, 768)] := by
  obtain ⟨e0, t⟩ := t
  simp only [List.map_cons, List.map_nil, List.cons.injEq, and_true] at t
  obtain ⟨k0, k1, k2, k3, k4, k5⟩ := t
  have h2 : vaIndex 2 va = 0 := by simp only [vaIndex, bits]; omega
  have h3 : vaIndex 3 va = 0 := by simp only [vaIndex, bits]; omega
  have h4 : vaIndex 4 va = 0 := by simp only [vaIndex, bits]; omega
  constructor
  · simp only [State.walk, e0, k0, k1]
    rw [show bit 0x4001 1 = false from rfl, show bits 0x4001 56 14 * 2 ^ 14 = 0x4000 from rfl, if_neg (by decide)]
    rw [State.walkFrom.eq_def]
    simp only [h4]
    rw [show 0x4000 + 32 * 0 = 0x4000 from rfl, k2, if_neg (by decide), if_neg (by decide)]
    simp only [show (1 < bits 0x8001 63 61) = False by decide, if_false, show (bits 0x8001 63 61 == 1) = false by decide, show bits 0x8001 56 14 * 2 ^ 14 = 0x8000 by decide]
    rw [State.walkFrom.eq_def]
    simp only [h3]
    rw [show 0x8000 + 32 * 0 = 0x8000 from rfl, k3, if_neg (by decide), if_neg (by decide)]
    simp only [show (1 < bits 0xC001 63 61) = False by decide, if_false, show (bits 0xC001 63 61 == 1) = false by decide, show bits 0xC001 56 14 * 2 ^ 14 = 0xC000 by decide]
    rw [State.walkFrom.eq_def]
    simp only [h2]
    cases x <;> rw [show 0xC000 + 32 * 0 = 0xC000 from rfl, k4, if_neg (by decide), if_pos (by decide), k5, if_neg (by decide)] <;> rfl
  · simp only [State.walkLines, State.pathOf, e0, k0]
    rw [show bit 0x4001 1 = false from rfl, show bits 0x4001 56 14 * 2 ^ 14 = 0x4000 from rfl, if_neg (by decide)]
    rw [State.walkPath.eq_def]
    simp only [h4]
    rw [show 0x4000 + 32 * 0 = 0x4000 from rfl, k2, if_neg (by decide)]
    simp only [show (bits 0x8001 63 61 == 1) = false by decide, show bits 0x8001 56 14 * 2 ^ 14 = 0x8000 by decide]
    rw [State.walkPath.eq_def]
    simp only [h3]
    rw [show 0x8000 + 32 * 0 = 0x8000 from rfl, k3, if_neg (by decide)]
    simp only [show (bits 0xC001 63 61 == 1) = false by decide, show bits 0xC001 56 14 * 2 ^ 14 = 0xC000 by decide]
    rw [State.walkPath.eq_def]
    simp only [h2]
    cases x <;> rw [show 0xC000 + 32 * 0 = 0xC000 from rfl, k4, if_pos (by decide)] <;> rfl

/-- A machine whose page tables map every address of ASID 0 below 1 GiB, tables that the home can read. -/
def mapped (x : Bool) (s : State) : Prop :=
  s.asidEntry 0 0 = (false, 0) ∧
    [0, 8, 0x4000, 0x8000, 0xC000, 0xC008].map (s.numPhys false 0 · 8) = [0x4001, 0, 0x8001, 0xC001, leafWord x, 0] ∧
    s.hostHolds [(false, 0), (false, 256), (false, 512), (false, 768)] = false ∧ s.pkg.poisonLlc = []
theorem mapped_of {x : Bool} {s : State} (h1 : s.parts = []) (h2 : s.host = if x then xpages else pages) (h3 : s.pkg.sliceShares = tableLines)
    (h4 : s.pkg.poisonLlc = []) : mapped x s := by
  refine ⟨by simp only [State.asidEntry, State.part, h1]; decide, ?_, by simp [State.hostHolds, h3, tableLines], h4⟩
  simp only [State.numPhys, State.readPhys, h2, Bool.false_eq_true, if_false]
  cases x <;> decide
theorem mapped_walk {x : Bool} {s : State} (t : mapped x s) {va : Nat} (h : va < 2 ^ 30) :
    s.walk 0 0 va = .leaf (leafOfPages x) ∧ s.walkWaits 0 0 va = false ∧ s.poisonedOf (s.walkLines 0 0 va) = none := by
  obtain ⟨hw, hl⟩ := walk_and_lines x s va h ⟨t.1, t.2.1⟩
  refine ⟨hw, by rw [State.walkWaits, hl]; exact t.2.2.1, ?_⟩
  simp [hl, State.poisonedOf, State.poisoned, State.unanswered, t.2.2.2]
theorem imagePages_of {x : Bool} {s : State} (t : mapped x s) (acc : Acc) (ha : acc = .store ∨ acc = .load) (a : Nat) (hal : a % 4096 = 0)
    (h1 : a + 2 ^ 20 ≤ 2 ^ 30) (ht : s.tlb = [] ∧ s.tables = []) (hh : s.here.asid = 0) (hp : s.partOf s.cur.bay = 0) : s.imagePages acc a := by
  refine ⟨hal, fun va _ h => ⟨leafOfPages x, 0 + va % 2 ^ 30, ?_⟩⟩
  obtain ⟨hw, hk, hn⟩ := mapped_walk t (va := va) (by omega)
  unfold State.translate
  rw [if_neg (by omega)]
  simp only [State.lookup, hh, hp, hw, hk, hn, State.staleWalks, ht.1, ht.2, List.filter_nil, List.map_nil, List.append_nil]
  rcases ha with rfl | rfl <;> cases x <;> rfl
/-- Every part of a range lies in it, and is not empty. -/
theorem parts_inside {a n : Nat} (hn : 0 < n) : ∀ x ∈ pageParts a n, x.1 < x.2 ∧ x.2 ≤ a + n := by
  simp only [pageParts, List.mem_map, List.mem_range]
  rintro _ ⟨i, hi, rfl⟩
  constructor <;> simp only <;> omega
/-- The lines of an access below 1 GiB lie in expander memory. -/
theorem vaLines_expander {s : State} (t : mapped true s) {a n : Nat} (h : a + n ≤ 2 ^ 30) : ∀ l ∈ s.vaLines 0 0 a n, l.1 = true := by
  intro l hl
  unfold State.vaLines at hl
  split at hl
  · cases hl
  · obtain ⟨y, hy, hl⟩ := List.mem_flatMap.1 hl
    have hb := parts_inside (by omega) y hy
    rw [(mapped_walk t (va := y.1) (by omega)).1] at hl
    obtain ⟨k, -, rfl⟩ := List.mem_map.1 hl
    rfl
/-- An image in expander memory, whose lines the host does not hold, can be written and read. -/
theorem imageAt_of {s : State} (t : mapped true s) (a : Nat) (wr : Bool) (h1 : a + 2 ^ 20 ≤ 2 ^ 30) (hh : s.pkg.hostOwns = []) :
    s.imageAt 0 0 a wr := by
  have hx : ∀ x ∈ pageParts a 0x100000, x.1 < x.2 ∧ x.2 ≤ 2 ^ 30 := fun x h => by
    have := parts_inside (by decide) x h
    omega
  constructor
  · rw [State.imageGaps, List.filterMap_eq_nil_iff]
    intro x h
    have := hx x h
    obtain ⟨hw, hk, -⟩ := mapped_walk t (va := x.1) (by omega)
    rw [hw, hk]
    rfl
  · rw [State.imageHeld, List.any_eq_false]
    intro x h
    have := hx x h
    rw [(mapped_walk t (va := x.1) (by omega)).2.1, Bool.false_or, State.hostHolds, Bool.not_eq_true, List.any_eq_false]
    intro l hl
    simp [vaLines_expander t (by omega) l hl, hh]
theorem witness_ContextSave : ∃ a, ((paged imageBay).val 1).toNat = a ∧ (paged imageBay).imagePages .store a :=
  ⟨0x100000, by decide, imagePages_of (x := false) (mapped_of rfl rfl rfl rfl) _ (.inl rfl) _ (by decide) (by decide) ⟨rfl, rfl⟩ rfl rfl⟩
theorem witness_ContextSave_state : (paged imageBay).settled 1 ∧ (paged imageBay).here.empty = false ∧ (paged imageBay).here.frozenAt = none := ⟨rfl, rfl, rfl⟩
/-- A machine on cycle 20,000 whose bay 0 is being saved. -/
def saving (v : Save) : State :=
  { on { bayOf [] with save := some v } with now := 20000, host := xpages, pkg := { (paged (bayOf [])).pkg with sliceShares := tableLines } }
theorem saving_mapped (v : Save) : mapped true (saving v) := mapped_of rfl rfl rfl rfl
/-- A save of CTXSV or FRZ whose step 2 falls on a cycle. -/
def save0 (f : Nat) (froze frz : Bool) : Save := { addr := 0x100000, f, w := 8192, own := false, froze, frz }
theorem witness_ContextSave_freeze : ((saving (save0 20000 false false)).bay 0).save = some (save0 20000 false false) ∧
    ((saving (save0 20000 false false)).bay 0).running = none ∧ ((saving (save0 20000 false false)).bay 0).throttled ≤ 20000 := by decide
theorem witness_ContextSave_frz : ((saving (save0 20000 false true)).bay 0).save = some (save0 20000 false true) ∧
    (saving (save0 20000 false true)).imageAt 0 0 0x100000 true :=
  ⟨rfl, imageAt_of (saving_mapped _) _ _ (by decide) rfl⟩
theorem witness_ContextSave_end : ((saving (save0 11808 true false)).bay 0).save = some (save0 11808 true false) ∧
    (save0 11808 true false).f + (save0 11808 true false).w ≤ (saving (save0 11808 true false)).now ∧
    (saving (save0 11808 true false)).imageAt 0 0 0x100000 true :=
  ⟨rfl, by decide, imageAt_of (saving_mapped _) _ _ (by decide) rfl⟩
-- a lease whose deadline runs when the bay is frozen
theorem witness_ContextSave_lease : (0, 5) ∈ (({ leasing 3 with now := 20000 } : State).leasesOf ({ leasing 3 with now := 20000 } : State).here.uid) := by decide
/-- A RUNNING leaf of the anchor of partition 0 with one task. -/
def leafOf : Node := { addr := 0x200000, part := 0, parent := some 0, depth := 1, state := 4, leaf := true, prio := 1, diem := 1, bays := 4, gang := 1, gx := 1,
                       gy := 1, gz := 1, save := 0x100000 }
/-- A machine with that leaf, one gang of it in a given state, and page tables. -/
def leafing (state : Nat) (n : Node) (b : Bay) : State :=
  { paged b with pkg := { (paged b).pkg with nodes := [(4, some { n with gangs := [(0, { (n.gangOf 0) with state := state, bays := [0] })] })], nodeCount := 5 } }
theorem witness_ContextSave_gang : ∃ n, (leafing 2 leafOf (bayOf [])).node 4 = some n ∧ (n.gangOf 0).state = 2 ∧ n.dying = false ∧
    ((leafing 2 leafOf (bayOf [])).bay 0).task = some task4 ∧ task4.node = 4 ∧ task4.gang = 0 ∧ ((leafing 2 leafOf (bayOf [])).bay 0).save = none ∧
    ((leafing 2 leafOf (bayOf [])).bay 0).empty = false := ⟨_, rfl, by decide⟩
/-- The first words of an image of task 0 of that leaf, saved in beat 6. -/
def image : Memory := Memory.store [] 0x100000 (wordBytes [0x434B594E, 1, 0, 0x40000, 0x200000, 0, 6, 0])
/-- A machine with that image in expander memory, and that leaf. -/
def imaged (state : Nat) (b : Bay) : State := { leafing state leafOf b with host := xpages, expander := image }
theorem imaged_mapped {state : Nat} {b : Bay} : mapped true (imaged state b) := mapped_of rfl rfl rfl rfl
theorem witness_ContextRestore : ∃ n', (imaged 4 Bay.reset).node 4 = some n' ∧ (n'.gangOf 0).state = 4 ∧ n'.dying = false ∧ (n'.gangOf 0).bays = [0] ∧
    n'.members 0 = [0] ∧ (n'.gangOf 0).ended = [] ∧ ((imaged 4 Bay.reset).bay 0).isFree 5000 0 = true := ⟨_, rfl, by decide⟩
theorem witness_ContextRestore_lines : (imaged 4 Bay.reset).imageAt 0 0 0x100000 false ∧ (imaged 4 Bay.reset).imagePoison 0 0 0 0x100000 = none :=
  ⟨imageAt_of imaged_mapped _ _ (by decide) rfl, rfl⟩
theorem witness_ContextRestore_image : ∃ n', (imaged 4 Bay.reset).checkImage 0 0 0x100000 0 = .ok (4, n', 0) ∧ n'.part = 0 ∧ n'.asid = 0 ∧
    n'.save + 0 * 2 ^ 20 = 0x100000 := ⟨_, rfl, by decide⟩
/-- A bay that CTXSV has emptied, whose handler holds the address of the image in s24. -/
def emptied : Bay := { Bay.reset with task := some task4, empty := true, handler := true, sreg := [(1, 0x100000)] }
theorem witness_ContextRestore_ctxld : ((imaged 1 emptied).val 1).toNat = 0x100000 ∧ (imaged 1 emptied).settled 1 ∧ (imaged 1 emptied).here.empty = true ∧
    (∃ n', (imaged 1 emptied).checkImage 0 0 0x100000 0 = .ok (4, n', 0) ∧ n'.members (0 / max 1 n'.gangSize) = [0]) ∧
    (imaged 1 emptied).imageHeld 0 0 0x100000 false = false ∧ (imaged 1 emptied).imagePoison 0 0 0 0x100000 = none ∧
    (imaged 1 imageBay).here.empty = false :=
  ⟨by decide, rfl, rfl, ⟨_, rfl, by decide⟩, (imageAt_of imaged_mapped _ _ (by decide) rfl).2, rfl, rfl⟩
theorem witness_ContextRestore_pages : (imaged 1 emptied).imagePages .load 0x100000 :=
  imagePages_of imaged_mapped _ (.inr rfl) _ (by decide) (by decide) ⟨rfl, rfl⟩ rfl rfl
-- an empty range and one too long; a range of two pages on an unmapped part; TLBINV without and with a reserved bit
theorem witness_CacheRanges : ((regs [0, 0]).val 2).toNat = 0 ∧ 2 ^ 32 < ((regs [0, 0x100000001]).val 2).toNat ∧ ((regs [0xFFFFFFFFFFFFC0, 0x40]).val 1).toNat +
    ((regs [0xFFFFFFFFFFFFC0, 0x40]).val 2).toNat ≤ 2 ^ 57 ∧ (regs [0, 0]).settled 1 ∧ (regs [0, 0]).settled 2 := ⟨by decide, by decide, by decide, rfl, rfl⟩
theorem witness_CacheRanges_pages : ∀ x ∈ pageParts 0x8000 0x10000, ∀ l, (paged imageBay).walk 0 0 x.1 = .leaf l → l.tgt ≠ 2 := by
  intro x hx l hl
  have : x.1 < 2 ^ 30 := by
    rw [show pageParts 0x8000 0x10000 = [(0x8000, 0x10000), (0x10000, 0x18000)] by decide] at hx
    rcases List.mem_cons.1 hx with rfl | hx
    · decide
    · rw [List.mem_singleton.1 hx]; decide
  rw [(mapped_walk (x := false) (mapped_of rfl rfl rfl rfl) this).1] at hl
  cases hl
  decide
theorem witness_CacheRanges_tlb : ((regs [0, 0x3FFF]).val 2).toNat < 2 ^ 14 ∧ 2 ^ 14 ≤ ((regs [0, 0x4000]).val 2).toNat ∧
    (regs []).cmdsOfPart 0 = [] ∧ ∀ e ∈ (regs []).tlb, e.leaf.tgt ≠ 2 := by decide
-- a store to beat memory in the queue of bay 0 that came by page 2 of ASID 0, and one that came by none
theorem witness_CacheRanges_uses : (∃ e ∈ ((queued { entryOf (.store false 0 [0]) with use := some (0, 2) }).bay 0).bq, e.use = some (0, 2) ∧ e.op.isWrite = true) ∧
    (∀ x ∈ (queued (entryOf (.store false 0 [0]))).bays, ∀ e ∈ x.2.bq ++ x.2.transit, e.use = none) :=
  ⟨⟨_, List.Mem.head _, rfl, rfl⟩, by simp [queued, on, bayOf, Bay.reset, entryOf]⟩
/-- A machine of one die in a thermal state at a temperature. -/
def hot (state temp : Nat) : State := { regs [] with dies := [(0, { Die.reset with thermal := state, temp := temp })] }
theorem witness_ThermalStates : (hot 0 1600).partOfDie 0 = 0 ∧ (hot 0 1600).periodDue 0 = true ∧ ((hot 1 1680).die 0).thermal = 1 ∧ (hot 1 1680).periodDue 0 = true ∧
    ((hot 2 1599).die 0).thermal = 2 ∧ (hot 2 1599).periodDue 0 = true := by decide
theorem witness_ThermalStates_t3 : 1840 ≤ ((hot 2 1840).die 0).temp ∧ ((hot 2 1840).die 0).thermal ≠ 3 := by decide
/-- A machine whose partition 0 is to stop, and has an anchor in a state. -/
def cooling (state : Nat) : State :=
  { on { bayOf [] with task := none } with
    parts := [(0, { Part.reset with stopping := some 0xFF })], dies := [(0, { Die.reset with thermal := 2, temp := 1840 })]
    pkg := { (on Bay.reset).pkg with nodes := [(0, some { addr := 0x200000, part := 0, state })] } }
theorem witness_ThermalStates_stops : (hot 2 1840).peopled 0 = false ∧ (cooling 6).pkg.poweron = false ∧ takeInput (cooling 6).now Instr.early (cooling 6).inputs = none ∧
    (cooling 6).replayBay = none ∧ (cooling 6).depsDue = false ∧ ((cooling 6).part 0).stopping = some 0xFF ∧ (cooling 6).peopled 0 = false := by decide
theorem witness_ThermalStates_anchor : ∃ n, (cooling 4).node 0 = some n ∧ n.live = true ∧ n.part = 0 ∧ 1840 ≤ ((cooling 4).die 0).temp ∧
    ({ cooling 4 with parts := [] } : State).part 0 = Part.reset := ⟨_, rfl, by decide⟩
/-- An interior node whose child table of one slot is at 0x210000. -/
def inner : Node := { leafOf with leaf := false, ctab := 0x210000, ctabn := 1, parent := none }
/-- A machine with that node, POSTED 1, and the word of its slot. -/
def posting (slot : List Nat) : State :=
  { leafing 0 inner Bay.reset with
    parts := [(0, { Part.reset with rgnanch := 0x200000 })]
    pkg := { (leafing 0 inner Bay.reset).pkg with sliceOwns := [0x8000, 0x8400, 0x8800, 0x8801, 0x8802, 0x8803] }
    host := ((pages.store 0x200008 (wordBytes [1])).store 0x210000 (wordBytes slot)).store 0x220000
      (wordBytes ([0x10000 + 0x400, 0] ++ List.replicate 16 0 ++ [0x10001, 1])) }
theorem witness_RegionNodes_scan : ∃ n, (posting [2]).node 4 = some n ∧ n.ctabn = 1 ∧ n.state = 4 ∧ (posting [2]).scanDue 4 = true ∧
    (posting [2]).walk n.part n.asid n.ctab = .leaf page0 ∧ page0.tgt = 0 ∧ page0.w0.testBit 2 = false ∧ page0.w0.testBit 3 = false ∧
    page0.pa + n.ctab % page0.size = 0x210000 ∧ (posting [2]).posted n ≠ 0 ∧ (posting [2]).newKids 4 n = [] ∧ (posting [2]).pkg.schedWrites = [] ∧
    (posting [2]).pkg.hostOwns = [] ∧ (posting [2]).pkg.poisonLlc = [] ∧ (posting [2]).pkg.expDown = [] ∧ (posting [2]).walkWaits n.part n.asid n.ctab = false ∧
    ∀ k ∈ [0x210000 / 64, (0x210000 + 7) / 64], (posting [2]).pkg.sliceOwns.contains k = true := ⟨_, rfl, by decide⟩
theorem witness_RegionNodes_slots : (posting [2]).host.num 0x210000 8 % 4 = 2 ∧ (posting [0]).host.num 0x210000 8 % 4 = 0 ∧
    (posting [0]).scanDue 4 = true ∧ (posting [0x220001]).host.num 0x210000 8 = 0x220001 ∧ (posting [0x220001]).scanDue 4 = true ∧
    (posting [0x40000001]).host.num 0x210000 8 = 0x40000001 ∧ (posting [0x40000001]).scanDue 4 = true := by decide
theorem witness_RegionNodes_unread : (posting [0x40000001]).unmapped 0 0 (0x40000001 / 64 * 64) = true ∧ inner.asked = [] ∧
    ((posting [0x40000001]).die 0).groups = [] ∧ ((posting [0x40000001]).die 0).parked = [] ∧
    (∀ c ∈ (posting [0x40000001]).children 4, c.2.state ≠ 0) := by decide
theorem witness_RegionNodes_enter : ∃ n ws, (posting [0x220001]).node 4 = some n ∧ (posting [0x220001]).readBlock 0 0 0x220000 = some ws ∧
    (let u := ((posting [0x220001]).putSlot 4 n 0 3).schedPut ⟨4, 0, (posting [0x220001]).blockAsid n, n.addr + 8, .add (-1)⟩
     u.refusal ws (effective ws 0 0x220000 0 (some 4) (some n)) n (u.closed n) = none) ∧
    (posting [0x220001]).node (max 4 (posting [0x220001]).pkg.nodeCount) = none ∧ 4 < max 4 (posting [0x220001]).pkg.nodeCount :=
  ⟨_, _, rfl, rfl, by decide +kernel, rfl, by decide⟩
/-- A machine with one more node, number 5. -/
def withNode (n : Node) : State :=
  { paged (bayOf []) with pkg := { (paged (bayOf [])).pkg with ready := 0x10, sliceOwns := [0x8000], nodes := [(4, some inner), (5, some n)], nodeCount := 6 } }
/-- A leaf below that node, in a state, with a share of beat-queue entries. -/
def child (state beatq : Nat) : Node := { leafOf with parent := some 4, state, beatq }
-- a waiting leaf whose DEP is 0, before and after that has been noted, and a held one; its shares free, and not
theorem witness_RegionNodes_met : (withNode (child 1 0)).node 5 = some (child 1 0) ∧ (child 1 0).dying = false ∧ (child 1 0).met = false ∧
    (withNode (child 1 0)).depOf (child 1 0) ≤ 0 ∧ (withNode (child 1 0)).pkg.poweron = false ∧
    takeInput (withNode (child 1 0)).now Instr.early (withNode (child 1 0)).inputs = none ∧ (withNode (child 1 0)).replayBay = none := by decide
theorem witness_RegionNodes_dep : (child 2 0).leaf = true ∧ (child 2 0).diesOf.findIdx? (· == 0) = some 0 ∧ 0 < (child 2 0).gangCount ∧
    (withNode (child 2 0)).node 5 = some (child 2 0) ∧ (withNode (child 2 1)).node 5 = some (child 2 1) := by decide
theorem witness_RegionNodes_open : (withNode (child 2 0)).sharesOpen 5 (child 2 0) := by
  intro q par hq hp
  cases hq
  cases hp
  dsimp only
  decide
theorem witness_RegionNodes_shut : ¬ (withNode (child 2 1)).sharesOpen 5 (child 2 1) :=
  fun h => absurd (h 4 inner rfl rfl).2.1 (by decide)
theorem witness_RegionNodes_depInner : (withNode { inner with state := 1 }).node 5 = some { inner with state := 1 } ∧ inner.leaf = false ∧
    (withNode { inner with state := 1 }).depOf { inner with state := 1 } ≤ 0 ∧ (withNode { inner with state := 1 }).sharesOpen 5 { inner with state := 1 } :=
  ⟨rfl, rfl, by decide, fun _ _ h => nomatch h⟩
theorem witness_RegionNodes_done : ∃ n, (withNode { leafOf with parent := some 4, dying := true, cause := 0x1B }).node 5 = some n ∧
    (withNode { leafOf with parent := some 4, dying := true, cause := 0x1B }).nodeDone 5 n = true ∧ n.parent = some 4 ∧
    (withNode { leafOf with parent := some 4, dying := true, cause := 0x1B }).node 4 = some inner ∧
    (∀ c ∈ (withNode { leafOf with parent := some 4, dying := true, cause := 0x1B }).children 4, c.2.state ≠ 2) := ⟨_, rfl, by decide +kernel⟩
theorem witness_RegionNodes_lenders (n : Node) (d u : Nat) : 5 ∉ ((withNode n).engOf d u).lenders := nofun
/-- A machine whose die 0 has one READY leaf of one gang in its queue of class 1. -/
def placing : State :=
  { withNode { leafOf with state := 3, parent := none, entry := 0x10000, args := [7] } with
    bays := [], parts := [(0, { Part.reset with rgnanch := 0x200000 })], dies := [(0, { Die.reset with sched := true, ready := [(1, [5])] })] }
theorem witness_TaskPlacement_place : ∃ n, placing.placeDue 0 = true ∧ (placing.part (placing.partOfDie 0)).rgnanch ≠ 0 ∧ placing.node 5 = some n ∧ n.prio = 1 ∧ n.diesOf = [0] ∧ n.gangCount = 1 ∧ n.gangs = [] ∧
    n.nextG = [] ∧ n.state = 3 ∧ 1 ≤ n.weight ∧ (placing.die 0).deficit = [] ∧ placing.withinBays 5 (n.members 0).length = true ∧
    (n.members 0).length ≤ (placing.freeBays 0 n.prio).length := ⟨_, by decide, by decide, rfl, by decide, by decide, by decide, rfl, rfl, rfl, by decide, rfl, by decide, by decide⟩
theorem witness_TaskPlacement_queues : ∀ k, Tbl.get [] (placing.die 0).ready k = if k = 1 then [5] else [] := by
  intro k
  show (if 1 = k then [5] else Tbl.get [] [] k) = _
  simp only [eq_comm, Tbl.get]
theorem witness_TaskPlacement_end : (bay0 fun b => { b with ended := some 0 }).taskOver 0 = true := by decide
/-- A machine whose die 0 has a class-0 gang of 64 at the head and a class-1 gang on bay 0. -/
def waitingGang : State :=
  { paged (bayOf []) with
    dies := [(0, { Die.reset with head := some (0, 5) })]
    pkg := { (paged (bayOf [])).pkg with nodeCount := 6, nodes := [
      (4, some { leafOf with gangs := [(0, { state := 1, bays := [0] })] }), (5, some { leafOf with state := 3, prio := 0, bays := 64, gang := 64, gx := 64 })] } }
theorem witness_TaskPlacement_preempt : ∃ n, waitingGang.preemptNow 0 = [(4, 0, n)] ∧ waitingGang.node 4 = some n := ⟨_, by decide +kernel, rfl⟩
theorem witness_PreemptAndKill : ∃ n, (leafing 1 leafOf (bayOf [])).nodeAt 0 ((0x200000 : Word).toNat % 2 ^ 57 / 64 * 64) = some 4 ∧
    (leafing 1 leafOf (bayOf [])).node 4 = some n ∧ (leafing 1 leafOf (bayOf [])).pkg.recovery = false ∧ n.leaf = true ∧ n.state = 4 ∧ n.dying = false ∧ ((leafing 1 leafOf (bayOf [])).bay 0).ofNode 4 = true :=
  ⟨_, by decide, rfl, by decide⟩
theorem witness_PreemptAndKill_other : (posting [0]).nodeAt 0 0x200000 = some 4 ∧ (leafing 1 { leafOf with dying := true } (bayOf [])).nodeAt 0 0x200000 = some 4 := by decide
/-- A task whose scratch holds a PHASE table at 0x100 and whose s1 holds its offset. -/
def phased (t : List Nat) : State := { regs [0x100] with scratch := Memory.store [] 0x100 (wordBytes t) }
theorem witness_PhaseSets_idle : (phased []).heldOf (phased []).here.uid = [] ∧ (phased []).pkg.poisonScratch = [] := by decide
theorem witness_PhaseSets : (phased []).settled 1 ∧ ((phased []).val 1).toNat % 2 ^ 20 = 0x100 ∧ (phased []).ownScratch 8 32 0x100 ∧
    (phased []).cmdsOf 0 (phased []).here.uid = [] ∧ (phased []).scratchNum 0 0x100 8 = 0 := ⟨rfl, by decide, ⟨by decide, by decide, by decide, rfl, rfl⟩, by decide, by decide⟩
theorem witness_PhaseSets_record : (phased [1, 0, 0x10001, 0, 0x8000, 0, 0x40, 3]).scratchNum 0 0x100 8 = 1 ∧
    (phased [1, 0, 0x10001, 0, 0x8000, 0, 0x40, 3]).scratchNum 0 0x108 8 = 2 ^ 16 + 1 ∧ (phased [1, 0, 0x10001, 0, 0x8000, 0, 0x40, 3]).scratchNum 0 0x118 4 ≠ 0 ∧
    (phased [1, 0, 0x10001, 0, 0x8000, 0, 0x40, 3]).scratchNum 0 0x11C 4 = 2 * 1 + 1 ∧ 17 ≤ (phased [17]).scratchNum 0 0x100 8 ∧
    (phased [1, 0, 0x10001, 0, 0x8000, 0, 0, 3]).scratchNum 0 0x118 4 = 0 := by decide
/-- A machine on cycle 5,000 with its package changed. -/
def package (f : Pkg → Pkg) : State := { on Bay.reset with pkg := f { State.reset.pkg with poweron := false } }
-- dies 0 and 1, both ready, move apart; a live node of partition 0 forbids it
theorem witness_Partitions : ({ withNode leafOf with pkg := { State.reset.pkg with ready := 0xF0 } } : State).pkg.recovery = false ∧ State.reset.pkg.pids < 256 ∧
    ((({ withNode leafOf with pkg := { State.reset.pkg with ready := 0xF0 } } : State).pkg.nodes.any fun x => decide (4 ≤ x.1) && x.2.any (·.live)) = false) ∧
    (∀ d, d < 4 → (0xF0 : Nat).testBit (4 + d) = true) ∧ pidOf 0 1 ≠ pidOf 4 1 := by decide
theorem witness_Partitions_live : ∃ n, (withNode leafOf).node 5 = some n ∧ n.live = true ∧ n.part = pidOf (withNode leafOf).pkg.pids 1 ∧
    pidOf (withNode leafOf).pkg.pids 1 ≠ pidOf 4 1 := ⟨_, rfl, by decide⟩
-- die 1 is not ready, and its membership would change
theorem witness_Partitions_unready : pidOf (package id).pkg.pids 1 ≠ pidOf 4 1 ∧ 1 ∈ [pidOf (package id).pkg.pids 1, pidOf 4 1] ∧ pidOf 4 1 = 1 ∧
    (package id).pkg.ready.testBit (4 + 1) = false := by decide
theorem witness_Partitions_partstat : State.reset.pkg.partstat < 2 ^ 64 ∧ State.reset.pkg.recovery = false := by decide
/-- KEYDATA with two halves that differ. -/
def keydata : Pkg → Pkg := fun p => { p with ready := 0x800, keydata := [(0, 1)] }
theorem witness_KeysAndFirmware_ok : (package keydata).pkg.recovery = false ∧ ((0x3FF : Word).toNat % 512 ≠ 0) ∧
    ¬ ((0x3FF : Word).getLsbD 9 = true ∧ (0x3FF : Word).getLsbD 10 = true) ∧
    Tbl.read (0 : Byte) (package keydata).pkg.keydata 0 32 ≠ Tbl.read (0 : Byte) (package keydata).pkg.keydata 32 32 ∧
    (package keydata).pkg.ready.testBit 11 = true := by decide
theorem witness_KeysAndFirmware_no : (0x200 : Word).toNat % 512 = 0 ∧ (package id).pkg.ready.testBit 11 = false := by decide
theorem witness_KeysAndFirmware_fw : (package fun p => { p with fwctl := 0x10, fwDue := some 5000 }).pkg.fwctl.toNat / 16 % 8 = 1 ∧
    (package fun p => { p with fwctl := 0x20, fwDue := some 5000 }).pkg.fwctl.toNat / 16 % 8 = 2 ∧ (package id).pkg.fwctl.toNat / 16 % 8 = 0 ∧
    (package fun p => { p with fwctl := 0x10, fwDue := some 5000 }).pkg.fwDue = some 5000 ∧ State.reset.pkg.poweron = true := by decide
theorem witness_KeysAndFirmware_image (s : State) : Config.imageValid s.newImage = true ∨ Config.imageValid s.newImage = false := by
  cases Config.imageValid s.newImage <;> simp
theorem witness_Readiness : ({ State.reset with pkg := { State.reset.pkg with ports := [0, 1] } } : State).bays = [] ∧ State.reset.dies = [] ∧
    (package fun p => { p with ports := [1] }).pkg.ports = [1] ∧ (package id).peopled ((package id).partOfDie 3) = false ∧ (package fun p => { p with expanders := 4 }).pkg.expanders ≠ 0 ∧
    0x3000 / 4096 % (package fun p => { p with expanders := 4 }).pkg.expanders = 3 := by decide
theorem witness_Readiness_live : (withNode leafOf).partOfDie 0 = 0 ∧ ({ withNode leafOf with pkg := { (withNode leafOf).pkg with nodes := [(0, some inner)] } } : State).node 0 = some inner ∧
    inner.live = true ∧ inner.part = 0 := by decide
-- an upstream port at 32 GT/s with 8 lanes, and ones that stay down
theorem witness_Readiness_up : ((⟨1, 32, 8, .flit256⟩ : PortUp).gts = 64 ∨ (⟨1, 32, 8, .flit256⟩ : PortUp).gts = 32) ∧ (⟨0, 64, 4, .flit256⟩ : PortUp).lanes ≠ 16 ∧
    (⟨0, 64, 4, .flit256⟩ : PortUp).lanes ≠ 8 := by decide
-- one write to line 5 of the host that is not acknowledged
def lossy : HostAck := ⟨5, 0, 1, 1, 5000, false, 0, List.replicate 64 7⟩
theorem witness_Readiness_lost : ({ State.reset with pkg := { State.reset.pkg with ports := [0], acks := [lossy] } } : State).pkg.acks = [lossy] ∧
    State.reset.bays = [] ∧ State.reset.pkg.nodes = [] ∧ lossy.old.length = 64 := by decide
-- the last stack row of a bay of a ready die; an accumulator row; a poisoned line of an expander
theorem witness_HostRequests : ¬ (2 ^ 38 ≤ 1535 * 1024 ∨ 1536 ≤ 1535 * 1024 / 2 ^ 10 % 2 ^ 11 ∨
      (package fun p => { p with ready := 0x10 }).pkg.ready.testBit (4 + 1535 * 1024 / 2 ^ 36) = false ∨
      (package fun p => { p with beatOpen := true }).hdmOpen false (1535 * 1024) 64 = false) ∧ (package id).hdmOpen false 0 64 = false ∧
    1536 ≤ 1536 * 1024 / 2 ^ 10 % 2 ^ 11 ∧ (package id).pkg.ready.testBit (4 + 0 / 2 ^ 36) = false := by decide
theorem witness_HostRequests_expander : (package fun p => { p with poisonLlc := [(true, 1)] }).poisoned true 64 = true ∧ (package id).poisoned true 64 = false ∧
    (package fun p => { p with expanders := 4, expDown := [0] }).unanswered true 64 = true ∧
    (package fun p => { p with poisonLlc := [(true, 1)] }).unanswered true 64 = false ∧ 64 % 64 + 64 ≤ 64 ∧
    (package fun p => { p with expOpen := [(64, 64)] }).hdmOpen true 64 64 = true ∧ (package fun p => { p with expOpen := [(64, 64)] }).hdmOpen true 64 65 = false ∧
    (package id).pkg.recovery = false ∧ (package fun p => { p with recovery := true }).pkg.recovery = true := by decide
/-- A machine whose die 0 has a copy parked on page 2 of ASID 0, behind other commands of its channel. -/
def waitingCopy (first : List Cmd) : State :=
  { on { bayOf [] with btx := [(0, { Channel.reset with buf := first ++ [{ copying [.read ⟨0, 0x20000⟩ 8] with started := some 4500, parked := some 2 }] })] } with
    dies := [(0, { Die.reset with parked := [⟨0, 2, 4, .cmd (.btx 0 0) 1⟩], groups := [⟨0, 2, false, false, 0⟩] })] }
theorem witness_HostRequests_page : ((waitingCopy []).die 0).parked = [⟨0, 2, 4, .cmd (.btx 0 0) 1⟩] ∧
    (waitingCopy []).findCmd (.btx 0 0) 1 = some { copying [.read ⟨0, 0x20000⟩ 8] with started := some 4500, parked := some 2 } ∧
    (((waitingCopy []).die 1).parked.filter fun p => p.asid == 0 && p.page == 2) = [] := by decide
/-- A machine whose die 0 has a load parked on page 2 of ASID 0. -/
def waitingLoad : State :=
  { on { bayOf [] with sq := [(0, [{ entryL with va := 0x20000, stage := .parked 2 }])] } with
    dies := [(0, { Die.reset with parked := [⟨0, 2, 4, .entry 0 0 1⟩], groups := [⟨0, 2, false, false, 0⟩] })] }
theorem witness_HostRequests_entry : (waitingLoad.die 0).parked = [⟨0, 2, 4, .entry 0 0 1⟩] ∧
    waitingLoad.findEntry 0 0 1 = some { entryL with va := 0x20000, stage := .parked 2 } := by decide
theorem witness_HostRequests_there : ({ waitingLoad with host := pages, pkg := { waitingLoad.pkg with sliceShares := tableLines } } : State).stillAway 0
    { entryL with va := 0x20000, stage := .parked 2 } = false := by decide
theorem witness_HostRequests_last : 2 ^ 43 - 64 + 64 ≤ 2 ^ 43 ∧ (2 ^ 43 - 64) % 64 + 64 ≤ 64 := by decide
/-- A contribution of one rank. -/
def contribution : Contribution := { group := 1, rank := 0, round := 5, nrank := 1, op := 0, ty := 0, root := 0, data := [7] }
/-- A flit of channel 3 that returns a credit, with a CRC. -/
def flit (seq : Nat) (crc : BitVec 32) : Flit := { header := 0x103, payload := 0, crc, seq }
/-- A flit whose CRC holds. -/
def goodFlit (seq : Nat) : Flit := flit seq (flitCrc 0x103 0)
theorem witness_LinksAndRounds : (goodFlit 0).vc < 8 ∧ (goodFlit 0).credit = 1 ∧ (Tbl.get Link.reset (package id).pkg.links 17).up = true ∧ flitIntact (goodFlit 0) = true ∧
    (goodFlit 0).seq = Tbl.get 0 (Tbl.get Link.reset (package id).pkg.links 17).expect 3 ∧ (goodFlit 1).seq ≠ Tbl.get 0 (Tbl.get Link.reset (package id).pkg.links 17).expect 3 ∧
    flitIntact (flit 0 (flitCrc 0x103 0 + 1)) = false :=
  ⟨by decide, by decide, rfl, beq_self_eq_true _, by decide, by decide, by
    rw [flitIntact, beq_eq_false_iff_ne]
    intro h
    exact absurd (BitVec.add_right_eq_self.1 h) (by decide)⟩
theorem witness_LinksAndRounds_whole (l : List (Nat × BitVec 1920)) : Config.contributionOf l = none ∨ ∃ c, Config.contributionOf l = some c := by
  cases Config.contributionOf l <;> simp
theorem witness_LinksAndRounds_replay : (Tbl.get Link.reset (package fun p => { p with links := [(17, { Link.reset with replay := [(3, some 4000)] })] }).pkg.links 17).replay =
    [(3, some 4000)] := rfl
theorem witness_LinksAndRounds_round : (package id).pkg.rounds = [] ∧ 1 ≤ contribution.nrank ∧ contribution.nrank = 1 ∧ contribution.data.length * 4 ≤ 2 ^ 21 ∧
    2 ≤ { contribution with nrank := 2 }.nrank := by decide
theorem witness_LinksAndRounds_clash : (5 : Nat) ≠ { contribution with round := 6, rank := 1 }.round ∧
    (∀ y ∈ [contribution], y.rank ≠ { contribution with round := 6, rank := 1 }.rank) := by decide
/-- A machine whose die 0 has an error recorded on this cycle at 0x1000. -/
def erred : State := { regs [] with dies := [(0, { Die.reset with raserr := 0x80000000FFFFFFFF, rasaddr := 0x1000, rasAt := 5000 })] }
theorem witness_ErrorRecords : ((regs []).die 0).raserr.getLsbD 63 = false ∧ (erred.die 0).raserr.getLsbD 63 = true ∧ (erred.die 0).rasAt = erred.now ∧
    0xFC0 < (erred.die 0).rasaddr.toNat ∧ ¬ 0x1000 < (erred.die 0).rasaddr.toNat ∧ (erred.die 0).raserr.toNat % 2 ^ 32 = 2 ^ 32 - 1 := by decide
/-- A request of an attester. -/
def asked (param : Nat) : SpdmReq := { param, offset := 0, len := 64, nonce := 5, sigAlg := 0x100, hashAlg := 4 }
theorem witness_Attestation : 1 ≤ (package fun p => { p with spdmState := 1 }).pkg.spdmState ∧ 2 ≤ (package fun p => { p with spdmState := 2 }).pkg.spdmState ∧
    (asked 2).sigAlg.testBit 8 = true ∧ (asked 2).hashAlg.testBit 2 = true ∧ (package fun p => { p with spdmState := 3 }).pkg.spdmState = 3 ∧ (asked 3).param = 3 := by decide
-- an instruction with a payload and two prefixes, and a matrix instruction with the parity of its tag
theorem witness_RoundTrip : ∃ sl w q, encode (Instr.addi 5 4 (-16)) = some (sl, w, q) ∧ (Instr.addi 5 4 (-16)).wf = true ∧ beatBad (.addi 5 4 (-16)) (Instr.addi 5 4 (-16)).pfx 0 = false :=
  ⟨_, _, _, rfl, by decide, by decide⟩
theorem witness_RoundTrip_beat : ∃ sl w q, encode (Instr.amac ⟨0, 31, 0, 1, 1⟩ { Pfx.empty with beat := some 1 }) = some (sl, w, q) ∧
    (Instr.amac ⟨0, 31, 0, 1, 1⟩ { Pfx.empty with beat := some 1 }).wf = true ∧
    beatBad (.amac ⟨0, 31, 0, 1, 1⟩ { Pfx.empty with beat := some 1 }) { Pfx.empty with beat := some 1 } 0 = false := ⟨_, _, _, rfl, by decide, by decide⟩
theorem witness_PrefixWords : { Pfx.empty with round := some 4, sat := some true }.ok = true ∧ (decodePfx 0x00000082 .empty).isSome = true := by decide
/-- A machine at reset with the word of ADDI s5, s4, -16 where it fetches next. -/
noncomputable def fetching : State := State.reset.withFetchWord 32 0xFFC0850C
theorem witness_StepRunsDecoded_state : fetching.pkg.poweron = false ∧ fetching.replayBay = none ∧ fetching.depsDue = false ∧ fetching.stopsDue = [] ∧
    fetching.homeMove = none ∧ fetching.dueStep = none ∧
    takeInput fetching.now (fun _ => true) fetching.inputs = none ∧ fetching.trapMove = none ∧ fetching.issueBay = some 0 := by decide +kernel
/-- The slot word of that bundle. -/
def fetched : Item := ⟨.s0, 0xFFC0850C, none, .empty, 8, false⟩
/-- The state that an outcome goes on to. -/
def nextOf (o : Out) : State := match o with
  | .next t => t
  | _ => State.reset
theorem next_of (o : Out) (h : (match o with | .next _ => true | _ => false) = true) : o = .next (nextOf o) := by
  cases o <;> simp_all [nextOf]
/-- The state with the bundle at its issue point. -/
noncomputable def issuing : State := nextOf (exec (.bundleIssue 0) fetching)
theorem witness_StepRunsDecoded : exec (.bundleIssue 0) fetching = .next issuing := next_of _ (by decide +kernel)
theorem witness_StepRunsDecoded_live : issuing.cur.live = true ∧ issuing.cur.items = [fetched] ∧ issuing.cur.wordFault = none := by decide +kernel
theorem witness_StepRunsDecoded_word : decodeDoubled .s0 0xFFC0850C none .empty false (issuing.here.dbeat.truncate 16) = .ok (.addi 5 4 (-16)) := rfl
theorem witness_StepRunsDecoded_fault : issuing.bundleFault [(fetched, .addi 5 4 (-16))] = none := by decide +kernel
theorem witness_StepRunsDecoded_kind : Instr.isWait (.addi 5 4 (-16)) = false ∧ Instr.stamp (.addi 5 4 (-16)) = none := by decide
/-- The state after that instruction. -/
noncomputable def executed : State := nextOf (exec (.addi 5 4 (-16)) (issuing.atSlot (fetched, .addi 5 4 (-16))))
theorem witness_StepRunsDecoded_exec : exec (.addi 5 4 (-16)) (issuing.atSlot (fetched, .addi 5 4 (-16))) = .next executed := next_of _ (by decide +kernel)
theorem witness_StepRunsDecoded_after : executed.cur.fault = none ∧ executed.cur.late = none ∧ executed.cur.asked = [] ∧ executed.cur.bay = 0 ∧
    (executed.bay 0).task.isSome := by decide +kernel
theorem witness_StepRunsDecoded_holds : ∃ held, issuing.here.bundleHolds issuing.now issuing.here [((fetched, .addi 5 4 (-16)), executed.cur.holds)] = .ok held := ⟨issuing.here, by decide +kernel⟩
/-- A machine whose bay 0 is about to fetch words at 0x10000. -/
def coded (ws : List Nat) : State :=
  { paged { bayOf [] with pc := 0x10000, checkTarget := true, resident := some [] } with
    host := pages.store 0x10000 (wordBytes ws), pkg := { (paged (bayOf [])).pkg with sliceOwns := [0x400] } }
theorem witness_BundleFetch : (coded []).mayIssue 0 = true ∧ (coded []).tlb = [] ∧ ((coded []).bay 0).pc = 0x10000 ∧ 0x10000 % 4096 + 16 ≤ 4096 ∧
    4096 ∣ page0.size ∧ (coded []).walk ((coded []).partOf 0) ((coded []).bay 0).asid 0x10000 = .leaf page0 ∧ page0.tgt = 0 ∧
    page0.w0.testBit 8 = true ∧ page0.w0.testBit 9 = false ∧ page0.w0.testBit 2 = false ∧ page0.w0.testBit 3 = false ∧
    0x10000 = page0.pa + 0x10000 % page0.size ∧ (coded []).pkg.poisonLlc = [] ∧ (coded []).walkWaits 0 0 0x10000 = false ∧
    (coded []).poisonedOf ((coded []).walkLines 0 0 0x10000) = none := by decide +kernel
/-- A bay before its first bundle, where the home holds the lines of its code, a part of them, or none, and one whose handler runs first. -/
def starting (handler : Bool) (owns : List Nat) : State :=
  { paged { bayOf [] with pc := 0x10000, fresh := true, handler } with pkg := { (paged (bayOf [])).pkg with sliceOwns := owns } }
theorem witness_BundleFetch_first : (starting false []).mayIssue 0 = true ∧ ((starting false []).bay 0).fresh = true ∧ ((starting false []).bay 0).handler = false ∧
    (starting false []).codeHeld 0 = true ∧ (starting false [0x400]).codeHeld 0 = true ∧ (starting true []).mayIssue 0 = true ∧ ((starting true []).bay 0).handler = true := by
  decide +kernel
theorem witness_BundleFetch_ready : ({ starting false [] with host := xpages } : State).codeHeld 0 = false ∧
    ({ starting false [] with host := xpages } : State).mayIssue 0 = true := by
  refine ⟨?_, by decide⟩
  rw [State.codeHeld, List.any_eq_false]
  intro va h
  have hv : va < 2 ^ 30 := by
    simp only [State.codeVas, List.mem_map, List.mem_range] at h
    obtain ⟨k, hk, rfl⟩ := h
    have hk : k < 1024 := hk
    change 0x10000 / 64 * 64 + 64 * k < 2 ^ 30
    omega
  obtain ⟨hw, hk, -⟩ := mapped_walk (x := true) (s := { starting false [] with host := xpages }) (mapped_of rfl rfl rfl rfl) hv
  show ¬ (_ || _) = true
  rw [show ({ starting false [] with host := xpages } : State).partOf 0 = 0 from rfl,
    show (({ starting false [] with host := xpages } : State).bay 0).asid = 0 from rfl, hk, hw]
  simp [State.hostHolds, leafOfPages, starting, paged, on, State.reset]
theorem witness_BundleFetch_cold : (coded []).tables = [] ∧ (coded []).pkg.hostOwns = [] ∧ ((coded []).bay 0).fresh = false ∧ ((coded []).bay 0).cacheWait = none ∧
    ((coded []).bay 0).icache = [] ∧ ((coded []).bay 0).resident = some [] ∧ page0.pa % 64 = 0 ∧
    ∀ k ∈ [0x10000 / 64, (0x10000 + 15) / 64], (coded []).pkg.sliceOwns.contains k = true := by decide
theorem witness_BundleFetch_words : (coded [2 ^ (Slot.s0.code + 2) + 3, 0xFFC0850C, 3]).host.num 0x10000 4 = 2 ^ (Slot.s0.code + 2) + 3 ∧
    (coded [2 ^ (Slot.s0.code + 2) + 3, 0xFFC0850C, 3]).host.num 0x10004 4 = 0xFFC0850C ∧ 0xFFC0850C % 4 = 0 ∧
    (coded [2 ^ (Slot.s0.code + 2) + 3, 0xFFC0850C, 3]).host.num 0x10008 4 % 4 = 3 ∧ (coded [0, 1, 0, 3]).host.num 0x10004 4 % 4 = 1 ∧
    (coded [2 ^ (Slot.s0.code + 2) + 3, 1, 0, 3]).host.num 0x1000C 4 % 4 = 3 ∧ (coded [0]).host.num 0x10000 4 % 4 ≠ 3 ∧
    ((coded [0]).bay 0).checkTarget = true := by decide
theorem witness_StepKeepsMemory : State.reset.memWf = true ∧ step State.reset = .next (nextOf (step State.reset)) := ⟨by decide, next_of _ (by decide +kernel)⟩
-- the step of a machine at reset that has a word to fetch leaves its bay behind the bundle
theorem test_step_addi : ((nextOf (step fetching)).bay 0).pc = 0x1000C ∧ (nextOf (step fetching)).cur.live = false := by decide +kernel

end Sys2Proof.Tests
end

section
/-!
SUPPORT. What a request of the host and the answer to a page request do, case by case, and the statement about both. The rules come first: a
copy that is dropped in every bay, a write inside one line of expander memory, and a replay queue that gives up one page group.
-/

open Sys2Proof Sys2Proof.Machine

namespace Sys2Proof.Machine

/-! ## Copies of a line dropped in every bay -/

/-- A dropped line has no copy left, and no other line gains one. -/
theorem Bay.mem_l1_dropCopy {b : Bay} {l x : Line} (h : x ∈ (b.dropCopy l).l1) : x ∈ b.l1 ∧ x ≠ l := by
  unfold Bay.dropCopy at h
  split at h
  · simpa using h
  · next hl => exact ⟨h, fun e => hl (by simpa [e] using h)⟩

/-- Changes of bays change nothing else. -/
theorem State.foldl_onBay_eq (f : Bay → Bay) (ks : List Nat) (s : State) :
    ks.foldl (fun s b => s.onBay b f) s = { s with bays := (ks.foldl (fun s b => s.onBay b f) s).bays } := by
  induction ks generalizing s with
  | nil => rfl
  | cons k ks ih => exact ih (s.onBay k f)

theorem State.dropCopies_eq (s : State) (l : Line) : s.dropCopies l = { s with bays := (s.dropCopies l).bays } :=
  State.foldl_onBay_eq _ _ s

@[simp] theorem State.dropCopies_pkg (s : State) (l : Line) : (s.dropCopies l).pkg = s.pkg := by rw [State.dropCopies_eq]

@[simp] theorem State.dropCopies_host (s : State) (l : Line) : (s.dropCopies l).host = s.host := by rw [State.dropCopies_eq]

@[simp] theorem State.dropCopies_beat (s : State) (l : Line) : (s.dropCopies l).beat = s.beat := by rw [State.dropCopies_eq]

@[simp] theorem State.dropCopies_expander (s : State) (l : Line) : (s.dropCopies l).expander = s.expander := by
  rw [State.dropCopies_eq]

@[simp] theorem State.dropCopies_expByte (s : State) (l : Line) (key a : Nat) : (s.dropCopies l).expByte key a = s.expByte key a := by
  rw [State.dropCopies_eq]; rfl

@[simp] theorem State.dropCopies_poisoned (s : State) (l : Line) (exp : Bool) (a : Nat) :
    (s.dropCopies l).poisoned exp a = s.poisoned exp a := by
  rw [State.dropCopies_eq]; rfl

theorem State.dropCopies_sameBytes (s : State) (l : Line) : s.sameBytes (s.dropCopies l) := by
  rw [State.dropCopies_eq]; exact fun _ => ⟨rfl, rfl, rfl, rfl, rfl⟩

/-- A copy that is left in a bay was there before, and not in a bay that was gone through. -/
theorem State.mem_l1_foldl_dropCopy {l : Line} {b : Nat} (ks : List Nat) {s : State}
    (h : l ∈ ((ks.foldl (fun s b => s.onBay b fun x => x.dropCopy l) s).bay b).l1) : l ∈ (s.bay b).l1 ∧ b ∉ ks := by
  induction ks generalizing s with
  | nil => exact ⟨h, List.not_mem_nil⟩
  | cons k ks ih =>
    obtain ⟨hl, hb⟩ := ih h
    by_cases e : b = k
    · subst e
      rw [State.onBay_bay_same] at hl
      exact absurd rfl (Bay.mem_l1_dropCopy hl).2
    · rw [State.onBay_bay_other _ _ _ _ e] at hl
      exact ⟨hl, by simp [e, hb]⟩

/-- A bay that the table does not list stands as at reset. -/
theorem State.bay_unlisted (s : State) (b : Nat) (h : b ∉ s.bays.map (·.1)) : s.bay b = Bay.reset := by
  have := Tbl.get_append Bay.reset s.bays [] b fun e he hk => h (hk ▸ List.mem_map_of_mem he)
  simpa [State.bay] using this

/-- No bay keeps a copy of the line. -/
theorem State.not_mem_l1_dropCopies (s : State) (l : Line) (b : Nat) : l ∉ ((s.dropCopies l).bay b).l1 := by
  intro h
  obtain ⟨hl, hb⟩ := State.mem_l1_foldl_dropCopy _ h
  rw [State.bay_unlisted s b hb] at hl
  exact absurd hl List.not_mem_nil

/-! ## A write inside one line of expander memory -/

theorem leBytes_getD (n v i : Nat) (h : i < n) : (leBytes n v).getD i 0 = BitVec.ofNat 8 (v / 2 ^ (8 * i)) := by
  induction n generalizing v i with
  | zero => omega
  | succ n ih =>
    cases i with
    | zero => simp [leBytes]
    | succ i =>
      have e : v / 256 / 2 ^ (8 * i) = v / 2 ^ (8 * (i + 1)) := by
        rw [Nat.div_div_eq_div_mul, show 8 * (i + 1) = 8 + 8 * i by omega, Nat.pow_add]
      rw [leBytes, List.getD_cons_succ, ih _ _ (by omega), e]

theorem linesOf_within (a n : Nat) (hn : n ≠ 0) (h : a % 64 + n ≤ 64) : linesOf a n = [a / 64] := by
  have e : (a + n - 1) / 64 = a / 64 := by omega
  simp [linesOf, e]

/-- A line rekeyed stands under the key; what else changes are bytes of the line. -/
theorem State.rekey_lineKey (s : State) (key l : Nat) : Tbl.get 0 (s.rekey key l).pkg.lineKey l = key := by
  unfold State.rekey
  split
  · assumption
  · exact Tbl.get_set_same _ _ _ _

theorem State.rekey_byte_out (s : State) (key l x : Nat) (h : x < l * 64 ∨ l * 64 + 64 ≤ x) :
    (s.rekey key l).expander.byte x = s.expander.byte x := by
  unfold State.rekey
  split
  · rfl
  · exact Memory.byte_store_out _ _ _ _ (by simpa [State.readPhys] using h)

theorem State.rekey_eq (s : State) (key l : Nat) : ∃ m k, s.rekey key l = { s with expander := m, pkg := { s.pkg with lineKey := k } } := by
  unfold State.rekey
  split
  · exact ⟨s.expander, s.pkg.lineKey, rfl⟩
  · exact ⟨_, _, rfl⟩

section LineWrite

variable {s : State} {key a : Nat} {bs : List Byte} (hline : a % 64 + bs.length ≤ 64) (hfit : a + bs.length ≤ 2 ^ 43)
include hline hfit

/-- The line comes under the key, unless nothing is written, and then the bytes are stored. -/
theorem State.writePhys_eq_rekey (h0 : bs ≠ []) :
    let t := (s.onPkg fun p => { p with poisonLlc := cleanLines p.poisonLlc true a bs.length }).rekey key (a / 64)
    s.writePhys true key a bs = { t with expander := t.expander.store a bs } := by
  have hlen : bs.length ≠ 0 := by simpa using h0
  have hsize : ¬ expanderSize < a + bs.length := Nat.not_lt.2 hfit
  simp [State.writePhys, hsize, h0, linesOf_within a bs.length hlen hline]

omit hline in
theorem State.writePhys_nil (h0 : bs = []) :
    s.writePhys true key a bs = { s.onPkg fun p => { p with poisonLlc := cleanLines p.poisonLlc true a bs.length } with
      expander := s.expander.store a bs } := by
  subst h0
  rw [State.writePhys, if_neg (by simpa [expanderSize] using hfit)]
  rfl

/-- A write changes expander memory, the keys of its lines and the marks of poison. -/
theorem State.writePhys_eq : ∃ m k, s.writePhys true key a bs =
    { s with expander := m, pkg := { s.pkg with lineKey := k, poisonLlc := cleanLines s.pkg.poisonLlc true a bs.length } } := by
  by_cases h0 : bs = []
  · exact ⟨_, _, State.writePhys_nil hfit h0⟩
  · obtain ⟨m, k, e⟩ := (s.onPkg fun p => { p with poisonLlc := cleanLines p.poisonLlc true a bs.length }).rekey_eq key (a / 64)
    refine ⟨m.store a bs, k, ?_⟩
    rw [State.writePhys_eq_rekey hline hfit h0, e]
    rfl

/-- A byte that is written reads back under the key. -/
theorem State.writePhys_expByte_in (i : Nat) (hi : i < bs.length) :
    (s.writePhys true key a bs).expByte key (a + i) = bs.getD i 0 := by
  have h0 : bs ≠ [] := by rintro rfl; simp at hi
  have hl : (a + i) / 64 = a / 64 := by omega
  rw [State.writePhys_eq_rekey hline hfit h0, State.expByte, hl]
  rw [if_pos (State.rekey_lineKey _ key (a / 64)), Memory.byte_store_in _ _ _ _ hi]

/-- The bytes of other lines stand. -/
theorem State.writePhys_byte_out (x : Nat) (hx : x < a / 64 * 64 ∨ a / 64 * 64 + 64 ≤ x) :
    (s.writePhys true key a bs).expander.byte x = s.expander.byte x := by
  have hout : x < a ∨ a + bs.length ≤ x := by omega
  by_cases h0 : bs = []
  · rw [State.writePhys_nil hfit h0]
    exact Memory.byte_store_out _ _ _ _ hout
  · rw [State.writePhys_eq_rekey hline hfit h0]
    exact (Memory.byte_store_out _ _ _ _ hout).trans (State.rekey_byte_out _ _ _ _ hx)

/-- A line that is written whole is no longer poisoned (R79, R399). -/
theorem State.writePhys_poisoned_whole (ha : a % 64 = 0) (hn : bs.length = 64) :
    (s.writePhys true key a bs).poisoned true a = s.unanswered true a := by
  obtain ⟨m, k, e⟩ := State.writePhys_eq (s := s) (key := key) hline hfit
  have hclean : (cleanLines s.pkg.poisonLlc true a bs.length).contains (true, a / 64) = false := by
    have hwhole : 64 * (a / 64) = a := by omega
    simp [cleanLines, hn, hwhole]
  rw [e, State.poisoned]
  simp only [hclean, Bool.false_or]
  rfl

end LineWrite

/-! ## Requests of the host (R117, R380, R383, R395) -/

theorem exec_hostRequestArrive (req : HostReq) (s : State) : exec (.hostRequestArrive req) s = execHostRequestArrive req s := rfl

/-- Whether n bytes of beat memory answer a request of the host with poison: a hole, a die that is not ready, or what no decoder opens. -/
def State.beatDead (s : State) (a n : Nat) : Bool :=
  beatHole a || !bit s.pkg.ready (4 + a / 2 ^ 36) || !s.hdmOpen false a n

theorem bit_eq_testBit (w n : Nat) : bit w n = w.testBit n := by
  rw [bit, Nat.testBit, Nat.one_and_eq_mod_two]
  rcases Nat.mod_two_eq_zero_or_one (w >>> n) with h | h <;> rw [h] <;> rfl

theorem State.beatDead_iff (s : State) (a n : Nat) : s.beatDead a n = true ↔
    2 ^ 38 ≤ a ∨ 1536 ≤ a / 2 ^ 10 % 2 ^ 11 ∨ s.pkg.ready.testBit (4 + a / 2 ^ 36) = false ∨ s.hdmOpen false a n = false := by
  simp [State.beatDead, beatHole, bits, bit_eq_testBit, Nat.shiftRight_eq_div_pow, or_assoc]

/-- The first access beat that opens after an arrival (R117). -/
theorem nextAccessBeat_eq (n : Nat) : (if n % 2 = 0 then n + 2 else n + 1) = (n / 2 + 1) * 2 := by
  split <;> omega

/-- The recovery ROM answers no request (R395). -/
theorem exec_hostRequestArrive_recovery (req : HostReq) (s : State) (h : s.pkg.recovery = true) :
    exec (.hostRequestArrive req) s = .next s := by
  simp [exec_hostRequestArrive, execHostRequestArrive, State.answers, h]

/-- The homes have served a request of the host on this cycle: no access of the part comes behind it. -/
def State.servedHost (s : State) : State := s.onPkg fun p => { p with hostServed := s.now + 1 }

/-- The host holds a line of expander memory. -/
def State.hostTakes (s : State) (l : Nat) : State :=
  s.onPkg fun p => { p with hostOwns := if p.hostOwns.contains l then p.hostOwns else p.hostOwns ++ [l] }

section Answering

variable {s : State} {a n : Nat} (hrec : s.pkg.recovery = false)
include hrec

theorem exec_hostWrite_beat (d : BitVec 512) : exec (.hostRequestArrive ⟨.beat, a, n, .write d⟩) s =
    .next (if s.beatDead a n then s else s.onPart (s.partOf (a / 2 ^ 30)) fun x =>
      { x with hostWrites := x.hostWrites ++ [(((s.part (s.partOf (a / 2 ^ 30))).beatno / 2 + 1) * 2, a, leBytes n d.toNat)] }) := by
  rw [← nextAccessBeat_eq, exec_hostRequestArrive, execHostRequestArrive, State.answers, hrec]
  rfl

theorem exec_hostRead_beat : exec (.hostRequestArrive ⟨.beat, a, n, .read⟩) s =
    .next (if s.beatDead a n then s.answer 1 [] else s.onPart (s.partOf (a / 2 ^ 30)) fun x =>
      { x with hostReads := x.hostReads ++ [(((s.part (s.partOf (a / 2 ^ 30))).beatno / 2 + 1) * 2, ⟨.beat, a, n, .read⟩)] }) := by
  rw [← nextAccessBeat_eq, exec_hostRequestArrive, execHostRequestArrive, State.answers, hrec]
  rfl

theorem exec_hostWrite_expander (d : BitVec 512) : exec (.hostRequestArrive ⟨.expander, a, n, .write d⟩) s =
    .next (if !s.hdmOpen true a n || s.unanswered true a then s.servedHost
      else (s.servedHost.writePhys true 0 a (leBytes n d.toNat)).dropCopies (true, a / 64)) := by
  rw [exec_hostRequestArrive, execHostRequestArrive, State.answers, hrec]
  rfl

theorem exec_hostRead_expander : exec (.hostRequestArrive ⟨.expander, a, n, .read⟩) s =
    .next (if !s.hdmOpen true a n || s.poisoned true a then s.servedHost.answer 1 []
      else ((s.servedHost.answer 0 ((List.range n).map fun i => s.expByte 0 (a + i))).hostTakes (a / 64)).dropCopies (true, a / 64)) := by
  rw [exec_hostRequestArrive, execHostRequestArrive, State.answers, hrec]
  rfl

end Answering

/-- A request to beat memory that answers waits for the first access beat that opens after it (R117); no memory, no bay and no field of the package changes. -/
theorem hostRequest_beat_alive {s : State} {a n : Nat} (hrec : s.pkg.recovery = false) (hdead : s.beatDead a n = false) (d : BitVec 512) :
    let p := s.partOf (a / 2 ^ 30)
    let k := ((s.part p).beatno / 2 + 1) * 2
    (∃ t, exec (.hostRequestArrive ⟨.beat, a, n, .write d⟩) s = .next t ∧ s.sameBytes t ∧ t.pkg = s.pkg ∧ t.bays = s.bays ∧
      (t.part p).hostWrites = (s.part p).hostWrites ++ [(k, a, leBytes n d.toNat)]) ∧
    (∃ t, exec (.hostRequestArrive ⟨.beat, a, n, .read⟩) s = .next t ∧ s.sameBytes t ∧ t.pkg = s.pkg ∧ t.bays = s.bays ∧
      (t.part p).hostReads = (s.part p).hostReads ++ [(k, ⟨.beat, a, n, .read⟩)]) := by
  constructor
  · refine ⟨_, exec_hostWrite_beat hrec d, ?_⟩
    simp [hdead, State.sameBytes]
  · refine ⟨_, exec_hostRead_beat hrec, ?_⟩
    simp [hdead, State.sameBytes]

/-- A request to beat memory that does not answer: a write is dropped, a read gives poison (R380). -/
theorem hostRequest_beat_dead {s : State} {a n : Nat} (hrec : s.pkg.recovery = false) (hdead : s.beatDead a n = true) (d : BitVec 512) :
    exec (.hostRequestArrive ⟨.beat, a, n, .write d⟩) s = .next s ∧
      exec (.hostRequestArrive ⟨.beat, a, n, .read⟩) s = .next (s.answer 1 []) := by
  rw [exec_hostWrite_beat hrec, exec_hostRead_beat hrec, if_pos hdead, if_pos hdead]
  exact ⟨rfl, rfl⟩

/-- A read of a line of expander memory: the host gets the bytes under key slot 0 and holds the line (R381). -/
theorem hostRead_expander_open {s : State} {a n : Nat} (hrec : s.pkg.recovery = false) (hpoison : s.poisoned true a = false)
    (hopen : s.hdmOpen true a n = true) :
    ∃ t, exec (.hostRequestArrive ⟨.expander, a, n, .read⟩) s = .next t ∧ s.sameBytes t ∧ (∀ b, (true, a / 64) ∉ (t.bay b).l1) ∧
      t.pkg.hostData = s.pkg.hostData ++ [(0, (List.range n).map fun i => s.expByte 0 (a + i))] ∧ a / 64 ∈ t.pkg.hostOwns ∧
      t.pkg.hostServed = s.now + 1 := by
  refine ⟨_, exec_hostRead_expander hrec, ?_⟩
  simp only [hpoison, hopen, Bool.not_true, Bool.or_false, Bool.false_eq_true, if_false, State.dropCopies_pkg]
  refine ⟨State.dropCopies_sameBytes _ _, State.not_mem_l1_dropCopies _ _, rfl, ?_, rfl⟩
  by_cases h : a / 64 ∈ s.pkg.hostOwns <;> simp [State.hostTakes, State.answer, State.servedHost, h]

/-- A write to a line of expander memory that an expander answers for. -/
theorem hostWrite_expander_open {s : State} {a n : Nat} (hrec : s.pkg.recovery = false) (hans : s.unanswered true a = false)
    (hopen : s.hdmOpen true a n = true) (hline : a % 64 + n ≤ 64) (hfit : a + n ≤ 2 ^ 43) (d : BitVec 512) :
    ∃ t, exec (.hostRequestArrive ⟨.expander, a, n, .write d⟩) s = .next t ∧ t.host = s.host ∧ (∀ b, (true, a / 64) ∉ (t.bay b).l1) ∧
      t.beat = s.beat ∧ (a % 64 = 0 → n = 64 → t.poisoned true a = false) ∧
      (∀ i, i < n → t.expByte 0 (a + i) = BitVec.ofNat 8 (d.toNat / 2 ^ (8 * i))) ∧
      (∀ x, x < a / 64 * 64 ∨ a / 64 * 64 + 64 ≤ x → t.expander.byte x = s.expander.byte x) := by
  have hlen := leBytes_length n d.toNat
  have hline' : a % 64 + (leBytes n d.toNat).length ≤ 64 := by rwa [hlen]
  have hfit' : a + (leBytes n d.toNat).length ≤ 2 ^ 43 := by rwa [hlen]
  obtain ⟨m, k, heq⟩ := State.writePhys_eq (s := s.servedHost) (key := 0) hline' hfit'
  refine ⟨_, exec_hostWrite_expander hrec d, ?_⟩
  simp only [hans, hopen, Bool.not_true, Bool.or_false, Bool.false_eq_true, if_false, State.dropCopies_host, State.dropCopies_beat,
    State.dropCopies_expander, State.dropCopies_poisoned, State.dropCopies_expByte]
  refine ⟨by rw [heq]; rfl, State.not_mem_l1_dropCopies _ _, by rw [heq]; rfl, fun ha hn => ?_, fun i hi => ?_, fun x hx => ?_⟩
  · exact (State.writePhys_poisoned_whole hline' hfit' ha (hlen.trans hn)).trans hans
  · rw [State.writePhys_expByte_in hline' hfit' i (by rwa [hlen]), leBytes_getD n _ i hi]
  · exact State.writePhys_byte_out hline' hfit' x hx

/-! ## Translations, and what is in a die -/

section OnDie

variable (s : State) (die : Nat) (f : Die → Die)

/-- Walks and translations read no die. -/
theorem State.walkFrom_onDie (va level : Nat) (mem : Bool) (table : Nat) :
    (s.onDie die f).walkFrom va level mem table = s.walkFrom va level mem table := by
  induction level generalizing mem table with
  | zero => rfl
  | succ level ih => simp only [State.walkFrom, ih]; rfl

theorem State.walkPath_onDie (va level : Nat) (mem : Bool) (table : Nat) :
    (s.onDie die f).walkPath va level mem table = s.walkPath va level mem table := by
  induction level generalizing mem table with
  | zero => rfl
  | succ level ih => simp only [State.walkPath, ih]; rfl

theorem State.walk_onDie (p asid va : Nat) : (s.onDie die f).walk p asid va = s.walk p asid va := by
  simp only [State.walk, State.walkFrom_onDie]; rfl

theorem State.walkLines_onDie (p asid va : Nat) : (s.onDie die f).walkLines p asid va = s.walkLines p asid va := by
  simp only [State.walkLines, State.pathOf, State.walkPath_onDie]; rfl

theorem State.staleWalks_onDie (p asid va : Nat) (w : Walk) : (s.onDie die f).staleWalks p asid va w = s.staleWalks p asid va w := by
  simp only [State.staleWalks, State.walkFrom_onDie]; rfl

theorem State.lookup_onDie (p asid va key : Nat) : ((s.onDie die f).lookup p asid va key).1 = (s.lookup p asid va key).1 := by
  simp only [State.lookup, State.walk_onDie, State.staleWalks_onDie]
  split
  · rfl
  · split <;> rfl

theorem State.walked_onDie (acc : Acc) (priv : Bool) (asid va : Nat) (w : Walk) :
    (s.onDie die f).walked acc priv asid va w = s.walked acc priv asid va w := by
  cases w <;> rfl

theorem State.translate_onDie (acc : Acc) (p asid : Nat) (priv : Bool) (va key : Nat) :
    ((s.onDie die f).translate acc p asid priv va key).1 = (s.translate acc p asid priv va key).1 := by
  have hwaits : (s.onDie die f).walkWaits p asid va = s.walkWaits p asid va := by
    simp only [State.walkWaits, State.walkLines_onDie]; rfl
  have hpoison : (s.onDie die f).poisonedOf (s.walkLines p asid va) = s.poisonedOf (s.walkLines p asid va) := rfl
  simp only [State.translate, hwaits, State.walkLines_onDie, hpoison, State.staleWalks_onDie, State.walked_onDie]
  split
  · rfl
  · split
    · rfl
    · split
      · rfl
      · simp only [State.lookup_onDie]

theorem State.stillAway_onDie (bay : Nat) (e : SEntry) : (s.onDie die f).stillAway bay e = s.stillAway bay e := by
  simp only [State.stillAway]
  rw [State.translate_onDie]
  rfl
end OnDie

/-! ## Entries of stream queues -/

section Queue

variable (s : State) (bay q : Nat)

theorem State.onEntry_sq_other (id k : Nat) (f : SEntry → SEntry) (h : k ≠ q) :
    Tbl.get [] ((s.onEntry bay q id f).bay bay).sq k = Tbl.get [] (s.bay bay).sq k := by
  rw [State.onEntry, State.onBay_bay_same]
  exact Tbl.get_set_other _ _ _ _ _ h

theorem State.mem_onEntry_sq (id : Nat) (f : SEntry → SEntry) (x : SEntry) (h : x ∈ Tbl.get [] (s.bay bay).sq q) :
    (if x.id = id then f x else x) ∈ Tbl.get [] ((s.onEntry bay q id f).bay bay).sq q := by
  rw [State.onEntry, State.onBay_bay_same, Tbl.get_set_same]
  exact List.mem_map_of_mem h

theorem State.entryDone_sq (e : SEntry) : Tbl.get [] ((s.entryDone bay q e).bay bay).sq q =
    (Tbl.get [] (s.bay bay).sq q).filter fun x => x.id != e.id := by
  rw [State.entryDone, State.onBay_bay_same]
  exact Tbl.get_set_same _ _ _ _

theorem State.entryDone_holds (e : SEntry) : ((s.entryDone bay q e).bay bay).holds = ((s.bay bay).endHold s.now e.hold).holds := by
  rw [State.entryDone, State.onBay_bay_same]
  rfl

end Queue

/-! ## Answers to page requests (R350, R351) -/

/-- A die's replay queue without the entries of one page group, and without the group. -/
def State.unpark (s : State) (die asid page : Nat) : State :=
  s.onDie die fun d =>
    { d with parked := d.parked.filter fun p => !(p.asid == asid && p.page == page)
             groups := d.groups.filter fun g => !(g.asid == asid && g.page == page) }

theorem exec_pageRequestResponse (die asid page : Nat) (ok : Bool) (s : State) (hdie : die < 4) :
    exec (.pageRequestResponse die asid page ok) s =
      .next (((s.die die).parked.filter fun p => p.asid == asid && p.page == page).foldl
        (fun s p => if ok then s.replayParked page p.what else s.refuseParked page p.what) (s.unpark die asid page)) :=
  if_neg (Nat.not_le.2 hdie)

section Unpark

variable (s : State) (die asid page : Nat)

theorem State.mem_groups_unpark (g : PageGroup) : g ∈ ((s.unpark die asid page).die die).groups ↔
    g ∈ (s.die die).groups ∧ ¬ (g.asid = asid ∧ g.page = page) := by
  simp [State.unpark, -not_and, not_and_or]

theorem State.parked_unpark : ((s.unpark die asid page).die die).parked =
    (s.die die).parked.filter fun p => !(p.asid == asid && p.page == page) := by
  simp [State.unpark]

theorem State.findEntry_unpark (bay q id : Nat) : (s.unpark die asid page).findEntry bay q id = s.findEntry bay q id := rfl

theorem State.stillAway_unpark (bay : Nat) (e : SEntry) : (s.unpark die asid page).stillAway bay e = s.stillAway bay e :=
  State.stillAway_onDie s die _ bay e

/-- The timetables of the die's engines stand. -/
theorem State.findCmd_unpark (e : Engine) (id : Nat) : (s.unpark die asid page).findCmd e id = s.findCmd e id := by
  cases e with
  | btx bay ch => rfl
  | tack d unit =>
    have hdie : ((s.unpark die asid page).die d).engines = (s.die d).engines := by
      rw [State.unpark, State.onDie_die]
      split
      · next h => rw [h]
      · rfl
    simp only [State.findCmd, State.cmds, hdie]

end Unpark

/-- Nothing waits for the page. -/
theorem pageResponse_none {die asid page : Nat} {s : State} (ok : Bool) (hdie : die < 4)
    (hnone : ((s.die die).parked.filter fun p => p.asid == asid && p.page == page) = []) :
    exec (.pageRequestResponse die asid page ok) s = .next (s.unpark die asid page) ∧
      ((s.unpark die asid page).die die).parked = (s.die die).parked := by
  rw [exec_pageRequestResponse _ _ _ _ _ hdie, hnone, State.parked_unpark]
  refine ⟨rfl, List.filter_eq_self.2 fun p hp => ?_⟩
  simpa [-not_and, not_and_or] using List.filter_eq_nil_iff.1 hnone p hp

section OneParked

variable {die asid page nd : Nat} {what : Parked} {s : State} (hone : (s.die die).parked = [⟨asid, page, nd, what⟩])
include hone

/-- One entry waits for the page: it walks again, or fails. -/
theorem exec_pageResponse_one (hdie : die < 4) (ok : Bool) : exec (.pageRequestResponse die asid page ok) s =
    .next (if ok then (s.unpark die asid page).replayParked page what else (s.unpark die asid page).refuseParked page what) := by
  rw [exec_pageRequestResponse _ _ _ _ _ hdie, hone]
  simp

theorem State.parked_unpark_one : ((s.unpark die asid page).die die).parked = [] := by
  simp [State.parked_unpark, hone]

theorem State.unpark_one : s.unpark die asid page =
    s.onDie die fun d => { d with parked := [], groups := d.groups.filter fun g => !(g.asid == asid && g.page == page) } := by
  simp [State.unpark, State.onDie, hone]

end OneParked

/-- The syndrome of an entry whose page is refused: cause 0x10, reason 1 (R351, R352). -/
def State.pageRefused (s : State) (bay : Nat) (e : SEntry) : Report :=
  transReport 0x10 e.acc 1 (s.walkLevel (s.partOf bay) (s.bay bay).asid e.va.toNat) e.va.toNat (s.bay bay).asid

section Entry

variable {die asid page nd bay q id : Nat} {s : State} {e : SEntry} (hdie : die < 4)
  (hone : (s.die die).parked = [⟨asid, page, nd, .entry bay q id⟩]) (hfind : s.findEntry bay q id = some e)
include hdie hone hfind

/-- An entry whose page has come stands in its queue again, for its home from the next cycle on. -/
theorem pageResponse_entry_there (haway : s.stillAway bay e = false) :
    ∃ t, exec (.pageRequestResponse die asid page true) s = .next t ∧ (t.die die).parked = [] ∧ s.sameBytes t ∧ t.pkg = s.pkg ∧
      (∀ k, k ≠ q → Tbl.get [] (t.bay bay).sq k = Tbl.get [] (s.bay bay).sq k) ∧
      ∀ x, x ∈ Tbl.get [] (s.bay bay).sq q →
        (if x.id = id then { x with stage := .queued, notBefore := s.now + 1 } else x) ∈ Tbl.get [] (t.bay bay).sq q := by
  have hexec : exec (.pageRequestResponse die asid page true) s = .next ((s.unpark die asid page).onEntry bay q id fun x =>
      { x with stage := .queued, notBefore := s.now + 1 }) := by
    rw [exec_pageResponse_one hone hdie, if_pos rfl]
    simp only [State.replayParked, State.findEntry_unpark, hfind, State.stillAway_unpark, haway, Bool.false_eq_true, if_false]
    rfl
  exact ⟨_, hexec, State.parked_unpark_one hone, fun _ => ⟨rfl, rfl, rfl, rfl, rfl⟩, rfl,
    fun k hk => State.onEntry_sq_other _ bay q id k _ hk, fun x hx => State.mem_onEntry_sq _ bay q id _ x hx⟩

/-- An entry whose page is refused is given up with a page fault (R351). -/
theorem pageResponse_entry_refused :
    ∃ t r, exec (.pageRequestResponse die asid page false) s = .next t ∧ (t.die die).parked = [] ∧ s.sameBytes t ∧ r.cause = 0x10 ∧
      t.pkg.outbox = s.pkg.outbox ++ [⟨bay, (s.bay bay).uid, r, e.priv, 0⟩] ∧
      Tbl.get [] (t.bay bay).sq q = (Tbl.get [] (s.bay bay).sq q).filter (fun x => x.id != e.id) ∧
      (t.bay bay).holds = ((s.bay bay).endHold s.now e.hold).holds := by
  have hexec : exec (.pageRequestResponse die asid page false) s = .next (((s.unpark die asid page).entryDone bay q e).report bay
      (s.bay bay).uid ((s.unpark die asid page).pageRefused bay e) e.priv) := by
    rw [exec_pageResponse_one hone hdie, if_neg Bool.false_ne_true]
    simp only [State.refuseParked, State.findEntry_unpark, hfind]
    rfl
  exact ⟨_, _, hexec, State.parked_unpark_one hone, fun _ => ⟨rfl, rfl, rfl, rfl, rfl⟩, rfl, rfl,
    State.entryDone_sq _ bay q e, State.entryDone_holds _ bay q e⟩

end Entry

/-- A command whose page has come goes on from the next cycle on. -/
theorem pageResponse_cmd_there {die asid page nd id : Nat} {e : Engine} {c : Cmd} {s : State} (hdie : die < 4)
    (hone : (s.die die).parked = [⟨asid, page, nd, .cmd e id⟩]) (hfind : s.findCmd e id = some c) :
    exec (.pageRequestResponse die asid page true) s =
      .next ((s.unpark die asid page).setCmd e { c with owner := false, parked := none, next := s.now + 1 }) := by
  rw [exec_pageResponse_one hone hdie, if_pos rfl]
  simp only [State.replayParked, State.findCmd_unpark, hfind]
  rfl

end Sys2Proof.Machine

namespace Sys2Proof

/-- Settles O48: the requests of the host case by case, and the answers to page requests by what is parked on the page. -/
theorem hostRequests : Obligations.HostRequests := by
  unfold Obligations.HostRequests
  refine ⟨fun a n d s => ⟨fun hrec q => exec_hostRequestArrive_recovery q s hrec, fun hrec => ?_⟩, fun die asid page ok s hdie => ?_⟩
  · simp only [← State.beatDead_iff, Bool.not_eq_true]
    refine ⟨fun hdead => hostRequest_beat_alive hrec hdead d, fun hdead => hostRequest_beat_dead hrec hdead d, fun hshut => ?_,
      fun hshut => ?_, hostRead_expander_open hrec, fun hans hopen _ hline hfit => hostWrite_expander_open hrec hans hopen hline hfit d⟩
    · rw [exec_hostRead_expander hrec, if_pos (by simpa [or_comm] using hshut)]
      rfl
    · rw [exec_hostWrite_expander hrec, if_pos (by simpa [or_comm] using hshut)]
      rfl
  · refine ⟨fun hnone => ?_, fun e id c nd hone hfind => ?_, fun bay q id e nd => pageResponse_entry_there hdie,
      fun bay q id e nd => pageResponse_entry_refused hdie⟩
    · obtain ⟨hexec, hparked⟩ := pageResponse_none ok hdie hnone
      exact ⟨_, hexec, hparked, fun _ => ⟨rfl, rfl, rfl, rfl, rfl⟩, rfl, State.mem_groups_unpark s die asid page⟩
    · rw [pageResponse_cmd_there hdie hone hfind, State.unpark_one hone]

end Sys2Proof
end

section
/-!
SUPPORT. What the waits WAITC, WAITW and WAITL do, and the statement about them. The rules come first: a checked address of own scratch, a
translation that succeeds, the lines and bytes of a plain page of host memory, and a handle in use.
-/

open Sys2Proof Sys2Proof.Machine

namespace Sys2Proof.Machine

/-! ## Own scratch (R254, R255) -/

/-- An address of own scratch passes its checks, for a load and for a store. -/
theorem State.scratchEA_own {s : State} {align n : Nat} {ea : Word} (load : Bool) (hn : 0 < n) (h : s.ownScratch align n ea) :
    s.scratchEA load align n ea = .ok (s.cur.bay, ea.toNat) := by
  obtain ⟨halign, hfit, hbay, hlent, -⟩ := h
  have hfar : bits ea.toNat 63 29 = 0 := by simp only [bits, Nat.shiftRight_eq_div_pow]; omega
  have hremote : bit ea.toNat 28 = false := by simp only [bit, Nat.shiftRight_eq_div_pow, beq_eq_false_iff_ne]; omega
  have hnamed : bits ea.toNat 27 20 = 0 := by simp only [bits, Nat.shiftRight_eq_div_pow]; omega
  have hoff : bits ea.toNat 19 0 = ea.toNat := by simp only [bits, Nat.shiftRight_zero]; omega
  have hpart : s.inPart (s.partOf s.cur.bay) s.cur.bay = true := by simp [State.inPart, hbay]
  have hopen : s.here.scratchOpen ea.toNat = true := by simp [Bay.scratchOpen, hlent]
  simp [State.scratchEA, halign, hfar, hremote, hnamed, hoff, hpart, hopen, hlent]
  omega

/-! ## Bytes as numbers (R4) -/

theorem Memory.bytes_succ (m : Memory) (a n : Nat) : m.bytes a (n + 1) = m.byte a :: m.bytes (a + 1) n := by
  simp only [Memory.bytes, Tbl.read, List.range_succ_eq_map, List.map_cons, List.map_map]
  refine congrArg₂ _ rfl (List.map_congr_left fun i _ => ?_)
  rw [Function.comp_apply, Nat.succ_eq_one_add, Nat.add_assoc]

theorem leNat_cons_mod (b : Byte) (bs : List Byte) : leNat (b :: bs) % 256 = b.toNat := by
  have := b.isLt
  rw [leNat]
  omega

/-- STATUS, the low byte of a completion word, is the byte at the word's address. -/
theorem Memory.status_nonzero (m : Memory) (a n : Nat) : (leNat (m.bytes a (n + 1)) % 256 != 0) = (m.byte a != 0) := by
  rw [Memory.bytes_succ, leNat_cons_mod]
  exact Bool.eq_iff_iff.2 (by simp [← BitVec.toNat_inj])

theorem State.scratch_status_nonzero (s : State) (bay off : Nat) :
    (s.scratchNum bay off 8 % 256 != 0) = (s.scratchBytes bay off 1 != [0]) := by
  rw [State.scratchNum, State.scratchBytes, Memory.status_nonzero, State.scratchBytes, Memory.bytes_succ]
  exact Bool.eq_iff_iff.2 (by simp [Memory.bytes, Tbl.read])

/-! ## Samples of a completion word (R289) -/

theorem State.waits_blocked (s : State) (w : Wait) : s.waits (.next (s.blocked w)) w := rfl

theorem State.waitWord_unseen {s : State} (h : s.here.waitSeen = none) (word : Nat) :
    s.waitWord word = s.blocked (.sampled (word % 256 != 0)) := by
  rw [State.waitWord, h]

/-- A nonzero STATUS seen on an earlier cycle lets the bundle go on; only that mark is taken back. -/
theorem State.waitWord_seen {s : State} {k : Nat} (h : s.here.waitSeen = some k) (hk : k < s.now) (word : Nat) :
    s.waitWord word = s.upd fun b => { b with waitSeen := none } := by
  simp only [State.waitWord, h, if_pos hk]

theorem State.waitWord_seen_frame {s : State} {k : Nat} (h : s.here.waitSeen = some k) (hk : k < s.now) (word : Nat) :
    (s.waitWord word).cur = s.cur ∧ s.sameBut s.cur.bay (s.waitWord word) ∧ (s.waitWord word).here.waitSeen = none ∧
      { (s.waitWord word).here with waitSeen := some k } = s.here := by
  rw [State.waitWord_seen h hk, State.upd_here, ← h]
  exact ⟨rfl, State.upd_sameBut s _, rfl, rfl⟩

/-! ## A translation that succeeds (R345, R346, R348) -/

/-- A lookup changes the translation caches only. -/
theorem State.lookup_state (s : State) (p asid va key : Nat) :
    ∃ tlb tables, (s.lookup p asid va key).2 = { s with tlb := tlb, tables := tables } := by
  have hcache (w : Walk) : ∃ tlb tables, s.cacheWalk p asid va w = { s with tlb := tlb, tables := tables } := by
    cases w with
    | leaf l => exact ⟨_, _, rfl⟩
    | absent level => exact ⟨s.tlb, s.tables, rfl⟩
    | bad level => exact ⟨s.tlb, s.tables, rfl⟩
  unfold State.lookup
  dsimp only
  split
  · exact hcache _
  · split
    · exact ⟨s.tlb, s.tables, rfl⟩
    · exact hcache _

theorem State.translate_state {s s1 : State} {acc : Acc} {p asid va key : Nat} {priv : Bool} {r : Trans}
    (h : s.translate acc p asid priv va key = (r, s1)) : ∃ tlb tables, s1 = { s with tlb := tlb, tables := tables } := by
  obtain rfl : (s.translate acc p asid priv va key).2 = s1 := congrArg Prod.snd h
  unfold State.translate
  split
  · exact ⟨s.tlb, s.tables, rfl⟩
  · split
    · exact ⟨s.tlb, s.tables, rfl⟩
    · split
      · exact ⟨s.tlb, s.tables, rfl⟩
      · exact s.lookup_state p asid va key

/-- A translation leaves the cycle, the bundle record, the issuing bay and host memory. -/
theorem State.translate_frame {s s1 : State} {acc : Acc} {p asid va key : Nat} {priv : Bool} {r : Trans}
    (h : s.translate acc p asid priv va key = (r, s1)) : s1.now = s.now ∧ s1.cur = s.cur ∧ s1.here = s.here ∧ s1.host = s.host := by
  obtain ⟨tlb, tables, rfl⟩ := State.translate_state h
  exact ⟨rfl, rfl, rfl, rfl⟩

/-- The physical address that a walk gives is that of the byte in the leaf's page. -/
theorem State.walked_ok {s : State} {acc : Acc} {priv : Bool} {asid va pa : Nat} {w : Walk} {l : Leaf}
    (h : s.walked acc priv asid va w = .ok l pa) : pa = l.pa + va % l.size := by
  cases w with
  | absent level => nomatch h
  | bad level => nomatch h
  | leaf l' =>
    simp only [State.walked, State.checkLeaf] at h
    -- only the branch behind every check gives an address
    repeat' split at h
    all_goals cases h
    all_goals rfl

theorem State.translate_ok {s s1 : State} {acc : Acc} {p asid va key pa : Nat} {priv : Bool} {l : Leaf}
    (h : s.translate acc p asid priv va key = (.ok l pa, s1)) : pa = l.pa + va % l.size := by
  replace h : (s.translate acc p asid priv va key).1 = .ok l pa := congrArg Prod.fst h
  unfold State.translate at h
  split at h
  · nomatch h
  · split at h
    · nomatch h
    · split at h
      · dsimp only at h
        split at h
        · exact State.walked_ok h
        · nomatch h
      · exact State.walked_ok h

/-! ## A plain page of host memory (R355, R381) -/

theorem mem_linesOf {a n k : Nat} (hn : 0 < n) : k ∈ linesOf a n ↔ ∃ x, a ≤ x ∧ x < a + n ∧ x / 64 = k := by
  simp only [linesOf, List.mem_map, List.mem_range]
  constructor
  · rintro ⟨i, hi, rfl⟩
    exact ⟨max a (64 * (a / 64 + i)), by omega, by omega, by omega⟩
  · rintro ⟨x, hax, hxn, rfl⟩
    exact ⟨x / 64 - a / 64, by omega, by omega⟩

/-- A leaf of a page of host memory that is neither compressed nor elided. -/
structure Leaf.PlainHost (l : Leaf) : Prop where
  tgt : l.tgt = 0
  packed : l.w0.testBit 2 = false
  elided : l.w0.testBit 3 = false

section PlainHost

variable {l : Leaf} (hl : l.PlainHost) (s : State)

include hl

theorem State.leafLines_plainHost (off n : Nat) : s.leafLines l off n = (linesOf (l.pa + off) n).map fun k => (false, k) := by
  simp [State.leafLines, bit_eq_testBit, hl.tgt, hl.packed, hl.elided]

theorem State.readLeaf_plainHost (off n : Nat) : s.readLeaf l off n = s.host.bytes (l.pa + off) n := by
  simp [State.readLeaf, State.readPhys, bit_eq_testBit, hl.tgt, hl.packed, hl.elided]

/-- An access waits for the line of its first byte. -/
theorem State.hostHolds_leafLines {off n : Nat} (hn : 0 < n) (h : s.hostHolds [(false, (l.pa + off) / 64)] = true) :
    s.hostHolds (s.leafLines l off n) = true := by
  have hfirst : (l.pa + off) / 64 ∈ linesOf (l.pa + off) n := (mem_linesOf hn).2 ⟨l.pa + off, by omega, by omega, rfl⟩
  rw [State.leafLines_plainHost hl, State.hostHolds, List.any_eq_true]
  exact ⟨_, List.mem_map_of_mem hfirst, by simpa [State.hostHolds] using h⟩

/-- No line of an access is awaited from the host when that of none of its bytes is. -/
theorem State.not_hostHolds_leafLines {off n : Nat} (hn : 0 < n)
    (h : ∀ a, l.pa + off ≤ a → a < l.pa + off + n → s.hostHolds [(false, a / 64)] = false) :
    s.hostHolds (s.leafLines l off n) = false := by
  rw [State.leafLines_plainHost hl, State.hostHolds, List.any_eq_false]
  intro x hx
  obtain ⟨k, hk, rfl⟩ := List.mem_map.1 hx
  obtain ⟨a, hlo, hhi, rfl⟩ := (mem_linesOf hn).1 hk
  simpa [State.hostHolds] using h a hlo hhi

theorem State.poisonedOf_leafLines {off n : Nat} (hn : 0 < n)
    (h : ∀ a, l.pa + off ≤ a → a < l.pa + off + n → s.poisoned false a = false) :
    s.poisonedOf (s.leafLines l off n) = none := by
  rw [State.leafLines_plainHost hl, State.poisonedOf, Option.map_eq_none_iff, List.find?_eq_none]
  intro x hx
  obtain ⟨k, hk, rfl⟩ := List.mem_map.1 hx
  obtain ⟨a, hlo, hhi, rfl⟩ := (mem_linesOf hn).1 hk
  have hline : s.poisoned false (64 * (a / 64)) = s.poisoned false a := by simp [State.poisoned, State.unanswered]
  rw [hline, h a hlo hhi]
  exact Bool.false_ne_true

end PlainHost

/-! ## A handle in use (R145, R146) -/

section Handle

variable {die i : Nat} {l : Lease} (hdie : die < 4) (hi : i < 4096) (hcls : l.cls < 8)

include hdie hi hcls

theorem handleOf_toNat : (handleOf die i l).toNat = l.gen % 65536 * 2 ^ 32 + l.cls * 2 ^ 14 + die * 2 ^ 12 + i := by
  rw [handleOf, BitVec.toNat_ofNat, Nat.mod_eq_of_lt]
  omega

theorem handleDie_handleOf : handleDie (handleOf die i l) = die := by
  simp only [handleDie, handleOf_toNat hdie hi hcls, bits, Nat.shiftRight_eq_div_pow]
  omega

theorem handleIndex_handleOf : handleIndex (handleOf die i l) = i := by
  simp only [handleIndex, handleOf_toNat hdie hi hcls, bits, Nat.shiftRight_zero]
  omega

theorem gen_handleOf (hgen : l.gen < 65536) : bits (handleOf die i l).toNat 47 32 = l.gen := by
  simp only [handleOf_toNat hdie hi hcls, bits, Nat.shiftRight_eq_div_pow]
  omega

end Handle

/-- The handle of a live lease of the issuing task names its record. -/
theorem State.useHandle_live {s : State} {die i : Nat} (hctx : s.here.empty = false) (hdie : die < 4) (hi : i < 4096)
    (htask : (s.leaseOf die i).task = s.here.uid) (hcls : (s.leaseOf die i).cls < 8) (hgen : (s.leaseOf die i).gen < 65536)
    (hlive : (s.leaseOf die i).state ≠ 0) (hkept : (s.leaseOf die i).state ≠ 4) :
    s.useHandle (handleOf die i (s.leaseOf die i)) = .ok (die, i) := by
  have hown : s.foreign (s.leaseOf die i) = false := by simp [State.foreign, hctx, htask]
  simp [State.useHandle, handleDie_handleOf hdie hi hcls, handleIndex_handleOf hdie hi hcls, gen_handleOf hdie hi hcls hgen, hown, hlive,
    hkept]

/-! ## The waits, case by case (R151, R162, R288 to R291) -/

theorem exec_waitcReg (n : BitVec 10) (s : State) :
    exec (.waitcReg n) s = .next (if s.here.held s.now n.toNat false then s.blocked .plain else s) := rfl

/-- A command that has not filled its destination up to an address inside it (R290). -/
def Cmd.shortOf (a : Nat) (c : Cmd) : Prop :=
  ∃ d k, c.dest = some (d, k) ∧ d.addr < a ∧ a ≤ d.addr + k ∧ d.addr + c.wm < a

theorem bits_low_of_lt {v : Nat} (h : v < 2 ^ 57) : bits v 56 0 = v := by
  simp only [bits, Nat.shiftRight_zero]
  omega

theorem bits_high_of_lt {v : Nat} (h : v < 2 ^ 57) : bits v 63 57 = 0 := by
  simp only [bits, Nat.shiftRight_eq_div_pow]
  omega

section Settled

variable {b : Reg} {s : State} (hb : s.settled b)

include hb

theorem exec_waitcWord_poisoned {r : Report} (hown : s.ownScratch 8 8 (s.val b))
    (hrep : s.sectorReport 1 s.cur.bay (s.val b).toNat 8 = some r) : exec (.waitcWord b) s = .next (s.raise r) := by
  change execWaitcWord b s = _
  simp only [execWaitcWord, State.readS_settled s b 0 hb, State.scratchEA_own true (by decide) hown, hrep]

theorem exec_waitcWord_clean (hown : s.ownScratch 8 8 (s.val b)) (hrep : s.sectorReport 1 s.cur.bay (s.val b).toNat 8 = none) :
    exec (.waitcWord b) s = .next (s.waitWord (s.scratchNum s.cur.bay (s.val b).toNat 8)) := by
  change execWaitcWord b s = _
  simp only [execWaitcWord, State.readS_settled s b 0 hb, State.scratchEA_own true (by decide) hown, hrep]

theorem exec_waitw_filled {ch : BitVec 3} (hlow : (s.val b).toNat < 2 ^ 57)
    (h : ∀ c ∈ s.cmds (.btx s.cur.bay ch.toNat), ¬ c.shortOf (s.val b).toNat) : exec (.waitw ch b) s = .next s := by
  change execWaitw ch b s = _
  simp only [execWaitw, State.readS_settled s b 0 hb, bits_high_of_lt hlow, bits_low_of_lt hlow, ne_eq, not_true_eq_false, if_false]
  rw [if_pos]
  refine List.all_eq_true.2 fun c hc => ?_
  have hc := h c hc
  cases hdest : c.dest with
  | none => rfl
  | some x =>
    obtain ⟨d, k⟩ := x
    have hc : ¬ (d.addr < (s.val b).toNat ∧ (s.val b).toNat ≤ d.addr + k ∧ d.addr + c.wm < (s.val b).toNat) :=
      fun hshort => hc ⟨d, k, hdest, hshort⟩
    simp only [Bool.or_eq_true, Bool.not_eq_true', Bool.and_eq_false_iff, decide_eq_false_iff_not, decide_eq_true_eq]
    omega

theorem exec_waitw_short {ch : BitVec 3} (hlow : (s.val b).toNat < 2 ^ 57)
    (h : ∃ c ∈ s.cmds (.btx s.cur.bay ch.toNat), c.shortOf (s.val b).toNat) : exec (.waitw ch b) s = .next (s.blocked .plain) := by
  obtain ⟨c, hc, d, k, hdest, hfrom, hto, hwm⟩ := h
  change execWaitw ch b s = _
  simp only [execWaitw, State.readS_settled s b 0 hb, bits_high_of_lt hlow, bits_low_of_lt hlow, ne_eq, not_true_eq_false, if_false]
  rw [if_neg]
  · rfl
  intro hall
  have hc := List.all_eq_true.1 hall c hc
  simp [hdest] at hc
  omega

theorem exec_waitl_live {die i : Nat} (huse : s.useHandle (s.val b) = .ok (die, i)) :
    exec (.waitl b) s = .next (if (s.leaseOf die i).state = 3 then s else s.blocked .plain) := by
  change execWaitl b s = _
  simp only [execWaitl, State.readS_settled s b 0 hb, huse, State.blocked]

section Translated

variable {l : Leaf} {pa : Nat} {s1 : State} (halign : (s.val b).toNat % 8 = 0)
  (htr : s.translate .load (s.partOf s.cur.bay) s.here.asid s.here.handler (s.val b).toNat (s.freeKey s.cur.bay s.cur.slot 102) =
    (.ok l pa, s1))
  (hl : l.PlainHost)

include halign htr hl

theorem exec_waitcG_held (h : s1.hostHolds [(false, pa / 64)] = true) : exec (.waitcG b) s = .next (s1.blocked .plain) := by
  obtain rfl : pa = l.pa + (s.val b).toNat % l.size := State.translate_ok htr
  change execWaitcG b s = _
  simp only [execWaitcG, State.readS_settled s b 0 hb, htr, halign, ne_eq, not_true_eq_false, if_false,
    State.hostHolds_leafLines hl s1 (by decide : 0 < 8) h, if_true]

theorem exec_waitcG_clean (h : ∀ a, pa ≤ a → a < pa + 8 → s1.hostHolds [(false, a / 64)] = false ∧ s1.poisoned false a = false) :
    exec (.waitcG b) s = .next (s1.waitWord (leNat (s.host.bytes pa 8))) := by
  obtain rfl : pa = l.pa + (s.val b).toNat % l.size := State.translate_ok htr
  obtain ⟨-, -, -, hhost⟩ := State.translate_frame htr
  have hheld := State.not_hostHolds_leafLines hl s1 (by decide : 0 < 8) fun a hlo hhi => (h a hlo hhi).1
  have hclean := State.poisonedOf_leafLines hl s1 (by decide : 0 < 8) fun a hlo hhi => (h a hlo hhi).2
  change execWaitcG b s = _
  simp only [execWaitcG, State.readS_settled s b 0 hb, htr, halign, ne_eq, not_true_eq_false, if_false, hheld, hclean,
    State.readLeaf_plainHost hl, hhost, Bool.false_eq_true]

end Translated

end Settled

end Sys2Proof.Machine

namespace Sys2Proof

/-- Settles O25: each wait by whether its condition holds. -/
theorem waits : Obligations.Waits := by
  unfold Obligations.Waits
  intro n ch b s hb
  refine ⟨fun hfree => ?_, fun hheld => ?_, fun hown r hrep hfault => ?_, fun hown hrep => ⟨fun hun => ?_, fun k hseen hk => ?_⟩,
    fun l pa s1 halign htr htgt hpacked helided => ?_, fun hlow => ⟨exec_waitw_filled hb hlow, exec_waitw_short hb hlow⟩,
    fun die i hctx hval hdie hi htask hcls hgen => ?_⟩
  · simp only [exec_waitcReg, hfree, Bool.false_eq_true, if_false]
  · simp only [exec_waitcReg, hheld, if_true, State.waits_blocked]
  · rw [exec_waitcWord_poisoned hb hown hrep, State.raise, State.updCur, hfault]
  · rw [exec_waitcWord_clean hb hown hrep, State.waitWord_unseen hun, State.scratch_status_nonzero]
    exact s.waits_blocked _
  · exact ⟨_, exec_waitcWord_clean hb hown hrep, State.waitWord_seen_frame hseen hk _⟩
  · have hl : l.PlainHost := ⟨htgt, hpacked, helided⟩
    refine ⟨fun hheld => exec_waitcG_held hb halign htr hl hheld, fun hclean => ?_⟩
    rw [exec_waitcG_clean hb halign htr hl hclean]
    obtain ⟨hnow, hcur, hhere, -⟩ := State.translate_frame htr
    refine ⟨fun hun => ?_, fun k hseen hk => ?_⟩
    · rw [State.waitWord_unseen (hhere ▸ hun), Memory.status_nonzero]
      exact s1.waits_blocked _
    · obtain ⟨hcur1, hframe, hnone, -⟩ := State.waitWord_seen_frame (hhere ▸ hseen) (hnow ▸ hk) (leNat (s.host.bytes pa 8))
      exact ⟨_, rfl, hcur1.trans hcur, hcur ▸ hframe, hnone⟩
  · have hexec (hlive : (s.leaseOf die i).state ≠ 0) (hkept : (s.leaseOf die i).state ≠ 4) :=
      exec_waitl_live hb (hval ▸ State.useHandle_live hctx hdie hi htask hcls hgen hlive hkept)
    refine ⟨fun hready => ?_, fun hwaiting => ?_⟩
    · rw [hexec (by omega) (by omega), if_pos hready]
    · rw [hexec (by omega) (by omega), if_neg (by omega)]
      exact s.waits_blocked _

end Sys2Proof
end

section
/-!
SUPPORT. The machine after reset, the beat that a tag names, and RDS of every special register.
-/

open Sys2Proof Sys2Proof.Machine

namespace Sys2Proof.Machine

/-! ## Reset -/

/-- The machine after reset lists nothing in any memory. -/
theorem State.reset_memWf : State.reset.memWf = true := rfl

/-- A step register after reset holds FP32 one in its top lane (R83). -/
theorem stepReset_eq : (0x3F800000000000000000000000000000#128 : BitVec 128) = 0x3F800000 * 2 ^ 96 := by
  apply BitVec.eq_of_toNat_eq
  simp [BitVec.toNat_mul, BitVec.toNat_pow]

theorem State.reset_partOfDie (d : Nat) : State.reset.partOfDie d = 0 := by
  simp [State.partOfDie, State.reset, bits]

/-! ## Tags (R52) -/

/-- The two's complement reading of a number of 16 bits: it is congruent to the number and lies in the range of 16 bits. -/
theorem signed_wrap_16 (x : Int) :
    (signed 16 (wrap 16 x) - x) % 65536 = 0 ∧ -32768 ≤ signed 16 (wrap 16 x) ∧ signed 16 (wrap 16 x) ≤ 32767 := by
  unfold signed wrap
  split <;> omega

/-- The beat of a tag is the one of its residue within 32,768 beats of BEATNO. -/
theorem State.beatOf_spec (s : State) (bay t : Nat) :
    (s.beatOf bay t - (s.bay bay).beatoff - t) % 65536 = 0 ∧ (s.part (s.partOf bay)).beatno - 32768 ≤ s.beatOf bay t ∧
      s.beatOf bay t ≤ (s.part (s.partOf bay)).beatno + 32767 := by
  obtain ⟨hmod, hlo, hhi⟩ := signed_wrap_16 (t + (s.bay bay).beatoff - (s.part (s.partOf bay)).beatno)
  simp only [State.beatOf]
  omega

/-! ## Special registers (R85, R228) -/

/-- With no flag in flight and no .t form in progress STAT reads as it stands. -/
theorem State.statFlight_none {s : State} {bay : Nat} (h : Bool) (i : Nat) (hp : ∀ p ∈ (s.bay bay).pends, p.isFlag = false)
    (hj : (s.bay bay).jobs = []) : s.statFlight bay h i = 0 := by
  simp only [State.statFlight, State.onBay_bay_same, hj, List.filter_nil, List.isEmpty_nil, if_true, ite_self]
  refine (congrArg (· &&& _) (List.foldlRecOn (motive := (· = 0)) _ _ rfl fun a ha p hmem => ?_)).trans BitVec.zero_and
  have hflag := hp p (List.mem_filter.mp hmem).1
  cases hd : p.dest with
  | stat h' => simp [Pend.isFlag, hd] at hflag
  | scalar _ _ | row _ | special _ _ => simpa only [hd] using ha

/-- RDS of a register that is not LATECNT gives what it reads as. -/
theorem exec_rds_givesScalar {n : Nat} (d : Reg) {s : State} (hn : n < 512) (h4 : n ≠ 4) {v : Word}
    (hv : (if s.here.empty = true ∧ ofTask n = true then 0 else s.readSpecialNow s.cur.bay s.here.handler n) = v) :
    s.givesScalar (exec (.rds (BitVec.ofNat 9 n) d) s) d 2 v 0 := by
  have hexec : exec (.rds (BitVec.ofNat 9 n) d) s = .next (s.writeS d 2 v) := by
    have hnum : (BitVec.ofNat 9 n).toNat = n := by simpa using hn
    show execRds _ d s = _
    simp only [execRds, hnum, h4, if_false, hv]
  rw [hexec]
  exact s.givesScalar_plain d 2 v

/-- The numbers of the registers that RDS reads as they stand: neither STAT nor LATECNT. -/
theorem State.specials_num (s : State) (t : Task) : ∀ x ∈ s.specials t, x.1 < 512 ∧ x.1 ≠ 4 ∧ x.1 ≠ 0 := by
  simp [State.specials]

/-- Each of them reads as it stands. -/
theorem State.readSpecial_specials {s : State} {t : Task} (htask : s.here.task = some t) (hbay : s.cur.bay < 256)
    (hfull : s.here.empty = false) : ∀ x ∈ s.specials t, s.readSpecial s.cur.bay s.here.handler x.1 = x.2 := by
  have hdet : s.here.det = t.d := by simp only [Bay.det, htask]
  have hctl : s.here.beatctlReg = if t.d then s.here.beatctl ||| 1 else s.here.beatctl := by simp [Bay.beatctlReg, hdet, hfull]
  have hid : BitVec.ofNat 64 (s.cur.bay % 256) = BitVec.ofNat 64 s.cur.bay := by rw [Nat.mod_eq_of_lt hbay]
  have hdie : BitVec.ofNat 64 (dieOf s.cur.bay % 4) = BitVec.ofNat 64 (s.cur.bay / 64) := by
    rw [dieOf, Nat.mod_eq_of_lt (by omega)]
  have hcoord : s.readSpecial s.cur.bay s.here.handler 0x014 = t.coord := by
    show (match s.here.task with | some t => t.coord | none => 0) = _
    rw [htask]
  have htaskid : s.readSpecial s.cur.bay s.here.handler 0x015 = BitVec.ofNat 64 t.taskid := by
    show (match s.here.task with | some t => BitVec.ofNat 64 t.taskid | none => 0) = _
    rw [htask]
  have hfb : s.readSpecial s.cur.bay s.here.handler 0x007 =
      if t.d then 0 else BitVec.ofInt 64 (s.here.fb - (s.part (s.partOf s.cur.bay)).formed) := hdet ▸ rfl
  have hfc : s.readSpecial s.cur.bay s.here.handler 0x008 = if t.d then 0 else BitVec.ofInt 64 (s.now - s.here.fb) := hdet ▸ rfl
  have hcycle : s.readSpecial s.cur.bay s.here.handler 0x018 = BitVec.ofNat 64 (if t.d then
      s.cycle (s.partOf s.cur.bay) / 1024 * 1024 else s.cycle (s.partOf s.cur.bay)) := by
    rw [apply_ite (BitVec.ofNat 64)]
    exact hdet ▸ rfl
  simp only [State.specials, List.forall_mem_append, List.forall_mem_cons, List.not_mem_nil, false_implies, implies_true, and_true]
  exact ⟨⟨rfl, rfl, hctl, rfl, rfl, hfb, hfc, rfl, rfl, hid, hdie, hcoord, htaskid, rfl, rfl, hcycle⟩,
    rfl, rfl, rfl, rfl, rfl, rfl, rfl, rfl⟩

end Sys2Proof.Machine

namespace Sys2Proof

/-- Settles O58: each clause is a reset value of the state's tables. -/
theorem resetState : Obligations.ResetState := by
  unfold Obligations.ResetState
  refine ⟨State.reset_memWf, fun k => ⟨rfl, rfl, rfl, rfl, rfl, rfl, rfl, rfl, rfl, rfl, rfl, rfl, rfl, rfl, rfl, rfl, ?_, rfl, rfl, fun f => rfl⟩,
    rfl, rfl, rfl, rfl, rfl, rfl, rfl, rfl, fun d => ⟨rfl, rfl, rfl, rfl, rfl, rfl, rfl⟩, State.reset_partOfDie,
    fun p => ⟨rfl, rfl, rfl, rfl, rfl, rfl, rfl⟩, rfl⟩
  simp only [List.forall_mem_cons, List.not_mem_nil, false_implies, implies_true, and_true]
  exact ⟨stepReset_eq, stepReset_eq, stepReset_eq, stepReset_eq⟩

/-- Settles O13: the offset of a tag from BEATNO, read as a signed number of 16 bits. -/
theorem tagNamesBeat : Obligations.TagNamesBeat := by
  unfold Obligations.TagNamesBeat
  intro bay t s ht
  obtain ⟨hmod, hlo, hhi⟩ := s.beatOf_spec bay t
  refine ⟨by omega, by omega, by omega, fun k _ _ _ => by omega⟩

/-- Settles O6: RDS register by register. -/
theorem specialReads : Obligations.SpecialReads := by
  unfold Obligations.SpecialReads
  intro d s t htask hbay
  refine ⟨fun hfull x hx => ?_, fun hempty n hn => ?_, fun hflags hjobs => ?_, ?_⟩
  · obtain ⟨hlt, h4, h0⟩ := s.specials_num t x hx
    have hread := State.readSpecial_specials htask hbay hfull x hx
    exact exec_rds_givesScalar d hlt h4 (by simp [hfull, State.readSpecialNow, h0, hread])
  · have hn' : n < 512 ∧ n ≠ 4 ∧ ofTask n = true := by revert n; decide
    obtain ⟨hlt, h4, hof⟩ := hn'
    exact exec_rds_givesScalar d hlt h4 (by simp [hempty, hof])
  · refine exec_rds_givesScalar d (by decide) (by decide) ?_
    rw [if_neg (by simp [ofTask]), State.readSpecialNow, if_pos rfl, State.statFlight_none _ _ hflags hjobs]
    exact BitVec.or_zero
  · have hexec : exec (.rds 4 d) s = .next (s.readLate.writeS d 2 (BitVec.ofNat 64 (s.cur.lateRead.getD s.here.latecnt))) := by
      show execRds _ d s = _
      simp [execRds, ofTask, State.readSpecialNow, State.readSpecial, State.here]
    rw [hexec]
    exact State.givesScalar_plain s.readLate d 2 _
end Sys2Proof
end

section
/-!
SUPPORT. BPLAN and the sampling of its table, and the statement about both. First what a change of the task of a bay and a report leave alone.
-/

open Sys2Proof Sys2Proof.Machine

namespace Sys2Proof.Machine

/-! ## A bay's task changed, if it is still there -/

section OnTask

variable {s : State} {bay uid : Nat} {f : Bay → Bay}

theorem State.onTask_of_uid (h : (s.bay bay).uid = uid) : s.onTask bay uid f = s.onBay bay f := if_pos h

theorem State.onTask_of_ne (h : (s.bay bay).uid ≠ uid) : s.onTask bay uid f = s := if_neg h

/-- Nothing but the bays can change. -/
theorem State.onTask_eq : s.onTask bay uid f = { s with bays := (s.onTask bay uid f).bays } := by
  unfold State.onTask; split <;> rfl

@[simp] theorem State.onTask_now : (s.onTask bay uid f).now = s.now := by rw [State.onTask_eq]
@[simp] theorem State.onTask_pkg : (s.onTask bay uid f).pkg = s.pkg := by rw [State.onTask_eq]
@[simp] theorem State.onTask_scratch : (s.onTask bay uid f).scratch = s.scratch := by rw [State.onTask_eq]
@[simp] theorem State.onTask_beat : (s.onTask bay uid f).beat = s.beat := by rw [State.onTask_eq]
@[simp] theorem State.onTask_acc : (s.onTask bay uid f).acc = s.acc := by rw [State.onTask_eq]
@[simp] theorem State.onTask_host : (s.onTask bay uid f).host = s.host := by rw [State.onTask_eq]
@[simp] theorem State.onTask_expander : (s.onTask bay uid f).expander = s.expander := by rw [State.onTask_eq]
@[simp] theorem State.onTask_part (p : Nat) : (s.onTask bay uid f).part p = s.part p := by rw [State.onTask_eq]; rfl
@[simp] theorem State.onTask_die (d : Nat) : (s.onTask bay uid f).die d = s.die d := by rw [State.onTask_eq]; rfl

theorem State.onTask_bay_other {k : Nat} (h : k ≠ bay) : (s.onTask bay uid f).bay k = s.bay k := by
  unfold State.onTask
  split
  · exact State.onBay_bay_other _ _ _ _ h
  · rfl

end OnTask

/-! ## Reports and memories -/

section Report

variable (s : State) (bay uid : Nat) (r : Report) (own : Bool) (from_ : Nat)

@[simp] theorem State.report_bay (k : Nat) : (s.report bay uid r own from_).bay k = s.bay k := rfl
@[simp] theorem State.report_part (k : Nat) : (s.report bay uid r own from_).part k = s.part k := rfl
@[simp] theorem State.report_outbox :
    (s.report bay uid r own from_).pkg.outbox = s.pkg.outbox ++ [⟨bay, uid, r, own, from_⟩] := rfl

end Report

theorem State.sameBytes_of_eq {s t : State} (hscratch : t.scratch = s.scratch) (hbeat : t.beat = s.beat) (hacc : t.acc = s.acc)
    (hhost : t.host = s.host) (hexp : t.expander = s.expander) : s.sameBytes t := by
  intro a
  rw [hscratch, hbeat, hacc, hhost, hexp]
  exact ⟨rfl, rfl, rfl, rfl, rfl⟩

theorem State.sameBytes.trans {s t u : State} (h : s.sameBytes t) (k : t.sameBytes u) : s.sameBytes u := by
  intro a
  obtain ⟨h1, h2, h3, h4, h5⟩ := h a
  obtain ⟨k1, k2, k3, k4, k5⟩ := k a
  exact ⟨k1.trans h1, k2.trans h2, k3.trans h3, k4.trans h4, k5.trans h5⟩

theorem State.onBay_sameBytes (s : State) (b : Nat) (f : Bay → Bay) : s.sameBytes (s.onBay b f) :=
  State.sameBytes_of_eq rfl rfl rfl rfl rfl

theorem State.onTask_sameBytes (s : State) (b uid : Nat) (f : Bay → Bay) : s.sameBytes (s.onTask b uid f) := by
  rw [State.onTask_eq]
  exact State.sameBytes_of_eq rfl rfl rfl rfl rfl

theorem State.report_sameBytes (s : State) (b uid : Nat) (r : Report) (own : Bool) (from_ : Nat) :
    s.sameBytes (s.report b uid r own from_) :=
  State.sameBytes_of_eq rfl rfl rfl rfl rfl

theorem State.onBay_sameBut (s : State) (b : Nat) (f : Bay → Bay) : s.sameBut b (s.onBay b f) :=
  ⟨rfl, fun k hk => State.onBay_bay_other s b k f hk, rfl, rfl, rfl, rfl, rfl, rfl, rfl, rfl, rfl, rfl, rfl⟩

theorem State.sameBut.trans {b : Nat} {s t u : State} (h : s.sameBut b t) (k : t.sameBut b u) : s.sameBut b u := by
  obtain ⟨h1, h2, h3, h4, h5, h6, h7, h8, h9, h10, h11, h12, h13⟩ := h
  obtain ⟨k1, k2, k3, k4, k5, k6, k7, k8, k9, k10, k11, k12, k13⟩ := k
  exact ⟨k1.trans h1, fun i hi => (k2 i hi).trans (h2 i hi), k3.trans h3, k4.trans h4, k5.trans h5, k6.trans h6, k7.trans h7,
    k8.trans h8, k9.trans h9, k10.trans h10, k11.trans h11, k12.trans h12, k13.trans h13⟩

/-! ## BPLAN at issue (R286) -/

/-- With a legal offset the table is to be sampled. -/
theorem State.bplan_legal {s : State} {off : Nat} (hlent : s.here.lent = false) (halign : off % 8 = 0) (hfit : off + 8 ≤ 2 ^ 20) :
    s.bplan off = s.upd fun b => { b with plans := b.plans ++ [(off, s.now, (s.part (s.partOf s.cur.bay)).beatno, b.uid)] } := by
  have hopen : s.here.scratchOpen off = true := by simp [Bay.scratchOpen, hlent]
  simp only [State.bplan, halign, hopen]
  simp
  omega

theorem exec_bplan64 (off : BitVec 20) (s : State) : exec (.bplan64 off) s = .next (s.bplan off.toNat) := rfl

theorem exec_bplan {b : Reg} {s : State} (hb : s.settled b) :
    exec (.bplan b) s = .next (if 2 ^ 20 ≤ (s.val b).toNat then s.illegal b.toNat else s.bplan (s.val b).toNat) := by
  have hhigh : bits (s.val b).toNat 63 20 ≠ 0 ↔ 2 ^ 20 ≤ (s.val b).toNat := by
    have := (s.val b).isLt
    simp only [bits, Nat.shiftRight_eq_div_pow]
    omega
  show execBplan b s = _
  simp only [execBplan, State.readS_settled s b 0 hb, hhigh]

/-! ## BPLAN_TABLE_SAMPLE (R286) -/

/-- Scratch without poison is never reported. -/
theorem State.sectorReport_none {s : State} (h : s.pkg.poisonScratch = []) (kind bay off n : Nat) :
    s.sectorReport kind bay off n = none := by
  simp [State.sectorReport, h]

/-- The plan that a table installs: the lengths of the beats from one on that have not opened. -/
def planFrom (now first : Nat) (lens : List (Nat × Nat)) : List (Nat × Nat) :=
  lens.filterMap fun x => if now < first + x.2 then some (first + x.2, x.1) else none

theorem planFrom_cons (now first : Nat) (x : Nat × Nat) (lens : List (Nat × Nat)) :
    planFrom now first (x :: lens) =
      if now < first + x.2 then (first + x.2, x.1) :: planFrom now first lens else planFrom now first lens := by
  simp only [planFrom, List.filterMap_cons]
  split <;> simp_all

/-- A plan holds nothing for a beat before those of its table. -/
theorem planFrom_find_before (now first k : Nat) (lens : List Nat) :
    (planFrom now first (lens.zipIdx (k + 1))).find? (fun x => x.1 == first + k) = none := by
  simp only [planFrom, List.find?_eq_none, List.mem_filterMap]
  rintro x ⟨⟨l, j⟩, hmem, hx⟩
  have := List.le_snd_of_mem_zipIdx hmem
  split at hx
  · obtain rfl := Option.some.inj hx
    simp only [beq_iff_eq]
    omega
  · simp at hx

/-- The length that a plan holds for a beat of its table. -/
theorem planFrom_find (now first : Nat) (lens : List Nat) (k i : Nat) (hi : i < lens.length) :
    ((planFrom now first (lens.zipIdx k)).find? fun x => x.1 == first + (k + i)).map (·.2) =
      if now < first + (k + i) then some (lens.getD i 0) else none := by
  induction lens generalizing k i with
  | nil => simp at hi
  | cons l lens ih =>
    rw [List.zipIdx_cons, planFrom_cons]
    cases i with
    | zero =>
      split
      · next h => simpa using h
      · next h => simpa [planFrom_find_before] using h
    | succ i =>
      have hne : (first + k == first + (k + (i + 1))) = false := by simp
      have hstep := ih (k + 1) i (by simpa using hi)
      rw [show k + 1 + i = k + (i + 1) by omega] at hstep
      split
      · rw [List.find?_cons_of_neg (by simp)]
        simpa using hstep
      · simpa using hstep

section Table

variable {s : State} {bay off at_ n uid : Nat}

/-- The table of a task that has left the bay gives no plan, whatever it holds. -/
theorem bplanTableSample_gone (hbay : bay < 256) (hplans : (s.bay bay).plans = [(off, at_, n, uid)]) (hdue : at_ + 2 ≤ s.now)
    (hgone : uid ≠ (s.bay bay).uid) :
    ∃ t, exec (.bplanTableSample bay) s = .next t ∧ (t.bay bay).plans = [] ∧ (t.bay bay).plan = (s.bay bay).plan ∧ s.sameBytes t := by
  have huid : ((s.onBay bay fun x => { x with plans := [] }).bay bay).uid ≠ uid := by
    rw [State.onBay_bay_same]
    exact hgone.symm
  show ∃ t, execBplanTableSample bay s = .next t ∧ _
  have hdue' : ¬ s.now < at_ + 2 := by omega
  simp only [execBplanTableSample, hplans, not_le.mpr hbay, hdue', if_false, State.onTask_of_ne huid]
  have hdone (t : State) (hbays : t.bays = (s.onBay bay fun x => { x with plans := [] }).bays) (hmem : s.sameBytes t) :
      (t.bay bay).plans = [] ∧ (t.bay bay).plan = (s.bay bay).plan ∧ s.sameBytes t := by
    have hb : t.bay bay = (s.onBay bay fun x => { x with plans := [] }).bay bay := by simp only [State.bay, hbays]
    rw [hb, State.onBay_bay_same]
    exact ⟨rfl, rfl, hmem⟩
  have hsame : s.sameBytes (s.onBay bay fun x => { x with plans := [] }) := State.sameBytes_of_eq rfl rfl rfl rfl rfl
  repeat' split
  all_goals exact ⟨_, rfl, hdone _ rfl hsame⟩

variable {first k : Nat} {lens : List Nat}

/-- The count and the tag of a table's first word. -/
theorem bplanWord (hk : k < 32) : bits (first % 2 ^ 16 + 2 ^ 16 * k) 20 16 = k ∧ bits (first % 2 ^ 16 + 2 ^ 16 * k) 63 21 = 0 ∧
    bits (first % 2 ^ 16 + 2 ^ 16 * k) 15 0 = first % 2 ^ 16 := by
  simp only [bits, Nat.shiftRight_eq_div_pow]
  omega

/-- A tag within 32,767 beats ahead of BEATNO names its beat. -/
theorem signed_wrap_ahead (hn : n ≤ first) (hfar : first < n + 2 ^ 15) :
    (n : Int) + signed 16 (wrap 16 (((first % 2 ^ 16 : Nat) : Int) + 0 - n)) = first := by
  obtain ⟨hmod, hlo, hhi⟩ := signed_wrap_16 (((first % 2 ^ 16 : Nat) : Int) + 0 - n)
  omega

/-- The lengths as they are sampled. -/
theorem sampledLens (hlen : lens.length = k + 1) (hlens : ∀ i, i ≤ k → s.scratchNum bay (off + 8 + 2 * i) 2 = lens.getD i 0) :
    (List.range (k + 1)).map (fun i => s.scratchNum bay (off + 8 + 2 * i) 2) = lens := by
  refine List.ext_getElem (by simp [hlen]) fun i h1 h2 => ?_
  rw [List.getElem_map, List.getElem_range, hlens i (by omega), List.getD_eq_getElem _ _ h2]

variable (hbay : bay < 256) (hplans : (s.bay bay).plans = [(off, at_, n, (s.bay bay).uid)]) (hdue : at_ + 2 ≤ s.now)
  (hlen : lens.length = k + 1) (hk : k < 32) (hfit : off + 8 + 2 * lens.length ≤ 2 ^ 20) (hclean : s.pkg.poisonScratch = [])
  (hword : s.scratchNum bay off 8 = first % 2 ^ 16 + 2 ^ 16 * k)
  (hlens : ∀ i, i ≤ k → s.scratchNum bay (off + 8 + 2 * i) 2 = lens.getD i 0)
include hbay hplans hdue hlen hk hfit hclean hword hlens

/-- A table with a length below 32: it is reported with the offset of that length. -/
theorem bplanTableSample_short {i : Nat} (hfind : lens.findIdx? (fun l => decide (l < 32)) = some i) :
    exec (.bplanTableSample bay) s = .next ((s.onBay bay fun x => { x with plans := [] }).report bay (s.bay bay).uid
      ⟨0x01, 0x0101, BitVec.ofNat 64 (off + 8 + 2 * i), 0, 0⟩ false (s.now + 1)) := by
  obtain ⟨hcount, hhigh, -⟩ := bplanWord (first := first) hk
  have hfit' : ¬ 2 ^ 20 < off + 8 + 2 * (k + 1) := by omega
  show execBplanTableSample bay s = _
  simp only [execBplanTableSample, hplans, not_le.mpr hbay, not_lt.mpr hdue, State.sectorReport_none hclean, hword, hcount, hhigh,
    hfit', sampledLens hlen hlens, hfind, if_false, ne_eq, not_true_eq_false]

/-- A table without a fault: its lengths are the plan. -/
theorem bplanTableSample_plan (hoff : (s.bay bay).beatoff = 0) (hn : n ≤ first) (hfar : first < n + 2 ^ 15)
    (hfind : lens.findIdx? (fun l => decide (l < 32)) = none) :
    exec (.bplanTableSample bay) s = .next ((s.onBay bay fun x => { x with plans := [] }).onBay bay fun x =>
      { x with plan := planFrom (s.part (s.partOf bay)).beatno first lens.zipIdx, planAt := at_ }) := by
  obtain ⟨hcount, hhigh, htag⟩ := bplanWord (first := first) hk
  have hfit' : ¬ 2 ^ 20 < off + 8 + 2 * (k + 1) := by omega
  have huid : ((s.onBay bay fun x => { x with plans := [] }).bay bay).uid = (s.bay bay).uid := by rw [State.onBay_bay_same]; rfl
  have hplan : (lens.zipIdx.filterMap fun x => if ((s.part (s.partOf bay)).beatno : Int) < (first : Int) + x.2 then
      some (((first : Int) + x.2).toNat, x.1) else none) = planFrom (s.part (s.partOf bay)).beatno first lens.zipIdx := by
    refine List.filterMap_congr fun x _ => ?_
    norm_cast
  show execBplanTableSample bay s = _
  simp only [execBplanTableSample, hplans, not_le.mpr hbay, not_lt.mpr hdue, State.sectorReport_none hclean, hword, hcount, hhigh, htag,
    hfit', sampledLens hlen hlens, hfind, if_false, ne_eq, not_true_eq_false, hoff,
    signed_wrap_ahead hn hfar, hplan, State.onTask_of_uid huid]

end Table

end Sys2Proof.Machine

namespace Sys2Proof

/-- Settles O34: BPLAN at issue, and its table by whether the task is still there and a length is too short. -/
theorem beatPlans : Obligations.BeatPlans := by
  unfold Obligations.BeatPlans
  refine ⟨fun b off s hb hlent => ?_, fun bay off at_ n first k lens s hbay hplans hdue hlen hk hfit hclean hoff hn hfar hword hlens => ?_,
    fun bay off at_ n uid s hbay hplans hdue hgone => bplanTableSample_gone hbay hplans hdue hgone⟩
  · have hgoes {i : Instr} {o : Nat} (hexec : exec i s = .next (s.bplan o)) (halign : o % 8 = 0) (hfit : o + 8 ≤ 2 ^ 20) :
        ∃ t, exec i s = .next t ∧ t.cur = s.cur ∧ s.sameBut s.cur.bay t ∧
          t.here.plans = s.here.plans ++ [(o, s.now, (s.part (s.partOf s.cur.bay)).beatno, s.here.uid)] ∧
          { t.here with plans := s.here.plans } = s.here := by
      rw [hexec, State.bplan_legal hlent halign hfit]
      refine ⟨_, rfl, rfl, s.upd_sameBut _, ?_, ?_⟩ <;> rw [State.upd_here]
    refine ⟨fun halign hfit => hgoes (o := (s.val b).toNat) ?_ halign hfit, hgoes (exec_bplan64 off s), fun halign => ?_, fun hfar => ?_⟩
    · rw [exec_bplan hb, if_neg (by omega)]
    · rw [exec_bplan64, State.bplan, if_pos halign]
    · rw [exec_bplan hb, if_pos hfar]
  · refine ⟨fun hlong => ?_, fun i hi hshort hbefore => ?_⟩
    · have hfind : lens.findIdx? (fun l => decide (l < 32)) = none := by
        simpa [List.findIdx?_eq_none_iff] using hlong
      refine ⟨_, bplanTableSample_plan hbay hplans hdue hlen hk hfit hclean hword hlens hoff hn hfar hfind,
        (s.onBay_sameBut _ _).trans (State.onBay_sameBut _ _ _), ?_, ?_, fun i hi => ?_⟩
      · simp only [State.onBay_bay_same]
      · simp only [State.onBay_bay_same]
      · simpa using planFrom_find (s.part (s.partOf bay)).beatno first lens 0 i (by omega)
    · have hfind : lens.findIdx? (fun l => decide (l < 32)) = some i := by
        rw [List.findIdx?_eq_some_iff_getElem]
        refine ⟨by omega, ?_, fun j hj => ?_⟩
        · rw [List.getD_eq_getElem _ _ (by omega)] at hshort
          simpa using hshort
        · have := hbefore j hj
          rw [List.getD_eq_getElem _ _ (by omega)] at this
          simpa using this
      refine ⟨_, _, bplanTableSample_short hbay hplans hdue hlen hk hfit hclean hword hlens hfind, ?_, rfl, rfl, rfl, rfl,
        Nat.lt_succ_self _⟩
      simp only [State.report_bay, State.onBay_bay_same]

end Sys2Proof
end

section
/-!
SUPPORT. The arrival, the service and the landing of entries of the beat queue, and the statement about them. First whole rows that land in a
task, which the completion of an in-array operation uses too.
-/

open Sys2Proof Sys2Proof.Machine

namespace Sys2Proof.Machine

/-! ## Rows that land (R97, R310) -/

/-- Rows written into a bay, in order. -/
def Bay.setRows (b : Bay) (rows : List (Nat × Row)) : Bay := rows.foldl (fun b (x : Nat × Row) => b.setRow x.1 x.2) b

/-- Nothing but the tile rows changes. -/
theorem Bay.setRows_eq (rows : List (Nat × Row)) (b : Bay) : b.setRows rows = { b with tiles := (b.setRows rows).tiles } := by
  induction rows generalizing b with
  | nil => rfl
  | cons x rows ih => exact ih (b.setRow x.1 x.2)

theorem Bay.setRows_row_other {n : Nat} (rows : List (Nat × Row)) (b : Bay) (h : n ∉ rows.map (·.1)) :
    (b.setRows rows).row n = b.row n := by
  induction rows generalizing b with
  | nil => rfl
  | cons x rows ih =>
    obtain ⟨hne, hrest⟩ : n ≠ x.1 ∧ n ∉ rows.map (·.1) := by simpa using h
    exact (ih (b.setRow x.1 x.2) hrest).trans (by rw [Bay.setRow_row, if_neg hne])

theorem Bay.setRows_row {x : Nat × Row} (rows : List (Nat × Row)) (b : Bay) (hnd : (rows.map (·.1)).Nodup) (hx : x ∈ rows) :
    (b.setRows rows).row x.1 = x.2 := by
  induction rows generalizing b with
  | nil => simp at hx
  | cons y rows ih =>
    obtain ⟨hfresh, hnd'⟩ : y.1 ∉ rows.map (·.1) ∧ (rows.map (·.1)).Nodup := by simpa using hnd
    rcases List.mem_cons.mp hx with rfl | hx
    · exact (Bay.setRows_row_other rows _ hfresh).trans (by rw [Bay.setRow_row, if_pos rfl])
    · exact ih _ hnd' hx

@[simp] theorem State.cleanRows_bay (s : State) (bay : Nat) (rows : List Nat) (k : Nat) : (s.cleanRows bay rows).bay k = s.bay k := rfl

section LandRows

variable {s : State} {bay task hold : Nat} {rows : List (Nat × Row)}

/-- Rows of a task that is still there: they are written and lose their poison, and the hold ends. -/
theorem State.landRows_eq (huid : (s.bay bay).uid = task) : s.landRows bay task hold rows =
    (s.onBay bay fun b => (b.setRows rows).endHold s.now hold).cleanRows bay (rows.map (·.1)) := by
  have hclean (u : State) : u.cleanRows bay [] = u := by simp [State.cleanRows, State.onPkg]
  cases rows with
  | nil => exact (State.onTask_of_uid huid).trans (hclean _).symm
  | cons x rows =>
    simp only [State.landRows, State.onTask_of_uid huid, huid]
    exact if_neg (by simp)

theorem State.landRows_bay (huid : (s.bay bay).uid = task) :
    (s.landRows bay task hold rows).bay bay = ((s.bay bay).setRows rows).endHold s.now hold := by
  rw [State.landRows_eq huid, State.cleanRows_bay, State.onBay_bay_same]

theorem State.landRows_sameBytes (huid : (s.bay bay).uid = task) : s.sameBytes (s.landRows bay task hold rows) := by
  rw [State.landRows_eq huid]
  exact State.sameBytes_of_eq rfl rfl rfl rfl rfl

theorem State.landRows_pkg (huid : (s.bay bay).uid = task) :
    { (s.landRows bay task hold rows).pkg with poisonTile := s.pkg.poisonTile } = s.pkg := by
  rw [State.landRows_eq huid]
  rfl

/-- A row that has landed holds no poison. -/
theorem State.landRows_tilePoison (huid : (s.bay bay).uid = task) {n : Nat} (hn : n ∈ rows.map (·.1)) :
    (s.landRows bay task hold rows).tilePoison bay n = none := by
  have hgone (k : Nat) (hk : k / 2 = bay * 512 + n) : k ∉ (s.landRows bay task hold rows).pkg.poisonTile := by
    rw [State.landRows_eq huid]
    intro hmem
    have hkeep := (List.mem_filter.mp hmem).2
    simp only [Bool.not_eq_true', List.any_eq_false, beq_iff_eq] at hkeep
    exact hkeep n hn hk
  simp only [State.tilePoison, List.find?_eq_none, List.mem_cons, List.not_mem_nil, or_false]
  rintro k (rfl | rfl)
  · simpa using hgone _ (by omega)
  · simpa using hgone _ (by omega)

@[simp] theorem Bay.landed_holds (b : Bay) (now : Nat) : ((b.setRows rows).endHold now hold).holds = (b.endHold now hold).holds := by
  rw [Bay.setRows_eq]; rfl

@[simp] theorem Bay.landed_row (b : Bay) (now n : Nat) : ((b.setRows rows).endHold now hold).row n = (b.setRows rows).row n := rfl

@[simp] theorem Bay.landed_scalar (b : Bay) (now : Nat) (h : Bool) (r : Nat) :
    ((b.setRows rows).endHold now hold).scalar h r = b.scalar h r := by
  rw [Bay.setRows_eq]; rfl

@[simp] theorem Bay.landed_bq (b : Bay) (now : Nat) : ((b.setRows rows).endHold now hold).bq = b.bq := by
  rw [Bay.setRows_eq]; rfl

end LandRows

/-! ## BEAT_QUEUE_ARRIVAL (R56 to R58) -/

/-- The only entry on its way leaves the way. -/
def State.underway (s : State) (bay : Nat) : State := s.onBay bay fun b => { b with transit := [] }

/-- The bay of a changed task: where its entries stand and what is on its way stays. -/
theorem State.onTask_bay_same (s : State) (bay uid : Nat) (f : Bay → Bay) :
    (s.onTask bay uid f).bay bay = if (s.bay bay).uid = uid then f (s.bay bay) else s.bay bay := by
  unfold State.onTask
  split
  · exact State.onBay_bay_same _ _ _
  · rfl

theorem State.underway_transit {s : State} {bay : Nat} : ((s.underway bay).bay bay).transit = [] := by
  rw [State.underway, State.onBay_bay_same]

theorem State.underway_bay_other {s : State} {bay target : Nat} (h : target ≠ bay) : (s.underway bay).bay target = s.bay target := by
  rw [State.underway, State.onBay_bay_other _ _ _ _ h]

section Arrival

variable {bay target : Nat} {e : BEntry} {s : State}

/-- What becomes of the entry, by its beat and the room in the queue. -/
theorem exec_beatQueueArrival (hbay : bay < 256) (hother : target ≠ bay) (htransit : (s.bay bay).transit = [e])
    (htarget : e.op.target = target) : exec (.beatQueueArrival bay e.id) s =
      .next (if e.beat < ((s.part (s.partOf target)).beatno : Int) then (s.underway bay).lateEntry target e
        else if 512 ≤ (s.bay target).unserved.length then
          ((s.underway bay).onTask bay e.task fun b => b.endHold s.now e.hold).report bay e.task
            (lateReport 3 e (s.part (s.partOf target)).beatno)
        else (s.underway bay).enterQueue target e) := by
  have hgone : (s.onBay bay fun b => { b with transit := b.transit.filter fun x => x.id != e.id }) = s.underway bay := by
    simp [State.underway, State.onBay, htransit]
  have hqueue : ((s.underway bay).bay target).unserved = (s.bay target).unserved := by
    rw [State.underway, State.onBay_bay_other _ _ _ _ hother]
  have hfind : [e].find? (fun x => x.id == e.id) = some e := by simp
  show execBeatQueueArrival bay e.id s = _
  simp only [execBeatQueueArrival, not_le.mpr hbay, if_false, htransit, hfind, hgone, htarget, hqueue]

/-- An entry that reaches its queue in time stands at the tail. -/
theorem State.enterQueue_bq : ∃ k, ((s.enterQueue target e).bay target).bq = (s.bay target).bq ++ [{ e with next := k }] := by
  rw [State.enterQueue, State.onBay_bay_same]
  exact ⟨_, rfl⟩

/-- A late arrival that is not carried: its hold ends, and it is reported. -/
theorem State.lateEntry_reported (hkind : e.strict = true ∨ e.op.isWrite = false) (harray : e.op.isArray = false) :
    s.lateEntry target e = (s.onTask e.bay e.task fun b => b.endHold s.now e.hold).report e.bay e.task
      (lateReport (if e.op.isWrite then 0 else 1) e (s.part (s.partOf target)).beatno) := by
  have hkind' : (!e.op.isWrite || e.strict) = true := by rcases hkind with h | h <;> simp [h]
  simp only [State.lateEntry, hkind', harray]
  rfl

/-- A late store of a task that is not strict is carried (R58). -/
def State.carriedEntry (s : State) (target : Nat) (e : BEntry) : BEntry :=
  let n := (s.part (s.partOf target)).beatno
  { e with beat := max (e.beat + 2) (n + n % 2 : Nat), carried := true, served := true, next := s.now + 2 }

theorem State.lateEntry_carried {acc : Bool} {pa : Nat} {rows : List Row} (hop : e.op = .store acc pa rows) (hstrict : e.strict = false) :
    s.lateEntry target e = (s.onTask e.bay e.task fun b => (b.endHold s.now e.hold).countCarry).onBay target fun b =>
      { b with bq := b.bq ++ [s.carriedEntry target e] } := by
  simp only [State.lateEntry, hop, hstrict, State.carriedEntry]
  simp [BeatOp.isWrite]

end Arrival

/-! ## BEAT_LOAD_SERVE (R54) -/

section Serve

variable {bay : Nat} {e : BEntry} {s : State}

theorem exec_beatLoadServe (hbay : bay < 256) (hfind : (s.bay bay).bq.find? (fun x => x.id == e.id && s.servable bay x) = some e) :
    exec (.beatLoadServe bay e.id) s = .next (s.serveEntry bay e) := by
  show execBeatLoadServe bay e.id s = _
  simp only [execBeatLoadServe, not_le.mpr hbay, if_false, hfind]

/-- The entry of a queue that is changed is gone, where the change gives none. -/
theorem Bay.onBeat_none (b : Bay) {x : BEntry} (hx : x ∈ (b.onBeat e fun _ => none).bq) : ¬ (x.id = e.id ∧ x.bay = e.bay) := by
  obtain ⟨y, -, hy⟩ := List.mem_filterMap.mp hx
  split at hy
  · simp at hy
  · next h => exact Option.some.inj hy ▸ h

/-- The entry of a queue that is changed is what the change makes of it. -/
theorem Bay.onBeat_some (b : Bay) {f : BEntry → BEntry} {x : BEntry}
    (hx : x ∈ (b.onBeat e fun y => some (f y)).bq) (hid : x.id = e.id) (hhome : x.bay = e.bay) : ∃ y ∈ b.bq, x = f y := by
  obtain ⟨y, hmem, hy⟩ := List.mem_filterMap.mp hx
  split at hy
  · exact ⟨y, hmem, (Option.some.inj hy).symm⟩
  · next h => exact absurd ⟨hid, hhome⟩ (Option.some.inj hy ▸ h)

/-- The rows that a load brings from a memory. -/
def loadedRows (m : Memory) (pa : Nat) (rows : List Nat) : List (Nat × Row) :=
  rows.zipIdx.map fun x => (x.1, rowOf (m.bytes (pa + 128 * x.2) 128))

theorem loadedRows_fst (m : Memory) (pa : Nat) (rows : List Nat) : (loadedRows m pa rows).map (·.1) = rows := by
  rw [loadedRows, List.map_map]
  exact List.zipIdx_map_fst 0 rows

theorem mem_loadedRows (m : Memory) (pa : Nat) {rows : List Nat} {j : Nat} (hj : j < rows.length) :
    (rows.getD j 0, rowOf (m.bytes (pa + 128 * j) 128)) ∈ loadedRows m pa rows := by
  refine List.mem_map.mpr ⟨(rows.getD j 0, j), ?_, rfl⟩
  rw [List.mk_mem_zipIdx_iff_getElem?, List.getD_eq_getElem _ _ hj]
  exact List.getElem?_eq_getElem hj

/-- A load of the own bay: its entry leaves the queue and its rows land. -/
theorem State.serveEntry_load {acc : Bool} {pa : Nat} {rows : List Nat} (hhome : e.bay = bay) (hop : e.op = .load acc pa rows)
    (hpoison : s.snapPoison (s.partOf bay) acc pa (128 * rows.length) = none) :
    s.serveEntry bay e = (s.onBay bay fun b => b.onBeat e fun _ => none).landRows bay e.task e.hold
      (loadedRows (if acc then (s.part (s.partOf bay)).snapAcc else (s.part (s.partOf bay)).snapBeat) pa rows) := by
  simp only [State.serveEntry, hop, hpoison, hhome]
  rfl

/-- A store: it is served, and its hold ends. -/
theorem State.serveEntry_store {acc : Bool} {pa : Nat} {data : List Row} (hop : e.op = .store acc pa data) :
    s.serveEntry bay e = (s.onBay bay fun b => b.onBeat e fun x => some { x with served := true }).onTask e.bay e.task fun b =>
      b.endHold s.now e.hold := by
  simp only [State.serveEntry, hop]

end Serve

/-! ## REMOTE_LOAD_LAND (R310) -/

theorem exec_remoteLoadLand {bay : Nat} {x : RemoteLand} {s : State} (hbay : bay < 256)
    (hfind : (s.bay bay).landing.find? (fun y => y.id == x.id) = some x) : exec (.remoteLoadLand bay x.id) s =
      .next ((s.onBay bay fun b => { b with landing := b.landing.filter fun y => y.id != x.id }).landRows bay x.task x.hold x.rows) := by
  show execRemoteLoadLand bay x.id s = _
  simp only [execRemoteLoadLand, not_le.mpr hbay, if_false, hfind]

/-! ## The clauses of the statement -/

section Clauses

variable {bay target : Nat} {e : BEntry} {s : State}

/-- An entry whose beat is open enters the queue of its target. -/
theorem arrival_enters (hbay : bay < 256) (hother : target ≠ bay) (htransit : (s.bay bay).transit = [e]) (htarget : e.op.target = target)
    (hopen : ((s.part (s.partOf target)).beatno : Int) ≤ e.beat) (hroom : (s.bay target).unserved.length < 512) :
    ∃ t x, exec (.beatQueueArrival bay e.id) s = .next t ∧ (t.bay bay).transit = [] ∧ (t.bay target).bq = (s.bay target).bq ++ [x] ∧
      { x with next := e.next } = e ∧ s.sameBytes t ∧ t.pkg = s.pkg := by
  obtain ⟨k, hbq⟩ := State.enterQueue_bq (s := s.underway bay) (target := target) (e := e)
  rw [exec_beatQueueArrival hbay hother htransit htarget, if_neg (by omega), if_neg (by omega)]
  refine ⟨_, { e with next := k }, rfl, ?_, hbq.trans ?_, rfl, (s.onBay_sameBytes _ _).trans (State.onBay_sameBytes _ _ _), rfl⟩
  · rw [State.enterQueue, State.onBay_bay_other _ _ _ _ hother.symm, State.underway_transit]
  · rw [State.underway_bay_other hother]

/-- A load, or an entry of a strict task, that comes after its beat is reported. -/
theorem arrival_late (hbay : bay < 256) (hother : target ≠ bay) (htransit : (s.bay bay).transit = [e]) (hhome : e.bay = bay)
    (htarget : e.op.target = target) (harray : e.op.isArray = false) (hlate : e.beat < (s.part (s.partOf target)).beatno)
    (hkind : e.strict = true ∨ e.op.isWrite = false) :
    ∃ t, exec (.beatQueueArrival bay e.id) s = .next t ∧ (t.bay bay).transit = [] ∧ (t.bay target).bq = (s.bay target).bq ∧
      t.pkg.outbox = s.pkg.outbox ++ [⟨bay, e.task, ⟨0x09, if e.op.isWrite then 0 else 1,
        BitVec.ofNat 64 (e.tag + (s.part (s.partOf target)).beatno % 2 ^ 48 * 2 ^ 16), BitVec.ofNat 64 e.where_, 0⟩, false, 0⟩] ∧
      s.sameBytes t := by
  rw [exec_beatQueueArrival hbay hother htransit htarget, if_pos hlate, State.lateEntry_reported hkind harray, hhome]
  refine ⟨_, rfl, ?_, ?_, ?_, ?_⟩
  · rw [State.report_bay, State.onTask_bay_same]
    split <;> exact State.underway_transit
  · rw [State.report_bay, State.onTask_bay_other hother, State.underway_bay_other hother]
  · rw [State.report_outbox, State.onTask_pkg, lateReport, apply_ite (BitVec.ofNat 64)]
    rfl
  · exact ((s.onBay_sameBytes _ _).trans (State.onTask_sameBytes _ _ _ _)).trans (State.report_sameBytes _ _ _ _ _ _)

/-- A late store of a task that is not strict is carried to a later access beat. -/
theorem arrival_carried {acc : Bool} {pa : Nat} {rows : List Row} (hbay : bay < 256) (hother : target ≠ bay)
    (htransit : (s.bay bay).transit = [e]) (hhome : e.bay = bay) (htarget : e.op.target = target)
    (hlate : e.beat < (s.part (s.partOf target)).beatno) (hstrict : e.strict = false) (hop : e.op = .store acc pa rows) :
    ∃ t x, exec (.beatQueueArrival bay e.id) s = .next t ∧ (t.bay target).bq = (s.bay target).bq ++ [x] ∧ x.carried = true ∧ x.served = true ∧
      x.beat = max (e.beat + 2) ((s.part (s.partOf target)).beatno + (s.part (s.partOf target)).beatno % 2 : Nat) ∧ x.op = e.op ∧
      t.pkg = s.pkg ∧ s.sameBytes t := by
  rw [exec_beatQueueArrival hbay hother htransit htarget, if_pos hlate, State.lateEntry_carried hop hstrict, hhome]
  refine ⟨_, (s.underway bay).carriedEntry target e, rfl, ?_, rfl, rfl, rfl, rfl, State.onTask_pkg,
    ((s.onBay_sameBytes _ _).trans (State.onTask_sameBytes _ _ _ _)).trans (State.onBay_sameBytes _ _ _)⟩
  rw [State.onBay_bay_same, State.onTask_bay_other hother, State.underway_bay_other hother]

/-- A served load of the own bay lands at once. -/
theorem load_served {acc : Bool} {pa : Nat} {rows : List Nat} (hbay : bay < 256)
    (hfind : (s.bay bay).bq.find? (fun x => x.id == e.id && s.servable bay x) = some e) (hhome : e.bay = bay)
    (huid : e.task = (s.bay bay).uid) (hop : e.op = .load acc pa rows) (hnd : rows.Nodup)
    (hpoison : s.snapPoison (s.partOf bay) acc pa (128 * rows.length) = none) :
    let x := s.part (s.partOf bay)
    ∃ t, exec (.beatLoadServe bay e.id) s = .next t ∧ s.sameBytes t ∧ { t.pkg with poisonTile := s.pkg.poisonTile } = s.pkg ∧
      (t.bay bay).holds = ((s.bay bay).endHold s.now e.hold).holds ∧ (∀ n ∈ rows, t.tilePoison bay n = none) ∧
      (∀ j, j < rows.length → (t.bay bay).row (rows.getD j 0) = rowOf ((if acc then x.snapAcc else x.snapBeat).bytes (pa + 128 * j) 128)) ∧
      (∀ n, n ∉ rows → (t.bay bay).row n = (s.bay bay).row n) ∧ (∀ h r, (t.bay bay).scalar h r = (s.bay bay).scalar h r) ∧
      ∀ x ∈ (t.bay bay).bq, ¬ (x.id = e.id ∧ x.bay = bay) := by
  have huid' : ((s.onBay bay fun b => b.onBeat e fun _ => none).bay bay).uid = e.task := by rw [State.onBay_bay_same, huid]; rfl
  rw [exec_beatLoadServe hbay hfind, State.serveEntry_load hhome hop hpoison]
  refine ⟨_, rfl, ?_, State.landRows_pkg huid', ?_, fun n hn => ?_, fun j hj => ?_, fun n hn => ?_, fun h r => ?_, fun x hx => ?_⟩
  · exact (s.onBay_sameBytes _ _).trans (State.landRows_sameBytes huid')
  · rw [State.landRows_bay huid', Bay.landed_holds, State.onBay_bay_same]
    rfl
  · exact State.landRows_tilePoison huid' (by rwa [loadedRows_fst])
  · rw [State.landRows_bay huid', Bay.landed_row]
    exact Bay.setRows_row _ _ (by rwa [loadedRows_fst]) (mem_loadedRows _ pa hj)
  · rw [State.landRows_bay huid', Bay.landed_row, Bay.setRows_row_other _ _ (by rwa [loadedRows_fst]), State.onBay_bay_same]
    rfl
  · rw [State.landRows_bay huid', Bay.landed_scalar, State.onBay_bay_same]
    rfl
  · rw [State.landRows_bay huid', Bay.landed_bq, State.onBay_bay_same] at hx
    exact hhome ▸ Bay.onBeat_none _ hx

/-- A served store waits for the close of its beat. -/
theorem store_served {acc : Bool} {pa : Nat} {data : List Row} (hbay : bay < 256)
    (hfind : (s.bay bay).bq.find? (fun x => x.id == e.id && s.servable bay x) = some e) (hhome : e.bay = bay)
    (huid : e.task = (s.bay bay).uid) (hop : e.op = .store acc pa data) :
    ∃ t, exec (.beatLoadServe bay e.id) s = .next t ∧ s.sameBytes t ∧ t.pkg = s.pkg ∧
      (t.bay bay).holds = ((s.bay bay).endHold s.now e.hold).holds ∧ (∀ n, (t.bay bay).row n = (s.bay bay).row n) ∧
      ∀ x ∈ (t.bay bay).bq, x.id = e.id → x.bay = bay → x.served = true := by
  have huid' : ((s.onBay bay fun b => b.onBeat e fun x => some { x with served := true }).bay bay).uid = e.task := by
    rw [State.onBay_bay_same, huid]; rfl
  rw [exec_beatLoadServe hbay hfind, State.serveEntry_store hop, hhome, State.onTask_of_uid huid']
  refine ⟨_, rfl, State.sameBytes_of_eq rfl rfl rfl rfl rfl, rfl, ?_, fun n => ?_, fun x hx hid hxbay => ?_⟩
  · rw [State.onBay_bay_same, State.onBay_bay_same]
    rfl
  · rw [State.onBay_bay_same, State.onBay_bay_same]
    rfl
  · rw [State.onBay_bay_same, State.onBay_bay_same] at hx
    obtain ⟨y, -, rfl⟩ := Bay.onBeat_some _ hx hid (hxbay.trans hhome.symm)
    rfl

/-- The rows of a load from another bay land as they were served. -/
theorem remote_rows_land {x : RemoteLand} (hbay : bay < 256) (hfind : (s.bay bay).landing.find? (fun y => y.id == x.id) = some x)
    (huid : x.task = (s.bay bay).uid) (hnd : (x.rows.map (·.1)).Nodup) :
    ∃ t, exec (.remoteLoadLand bay x.id) s = .next t ∧ s.sameBytes t ∧ { t.pkg with poisonTile := s.pkg.poisonTile } = s.pkg ∧
      (t.bay bay).holds = ((s.bay bay).endHold s.now x.hold).holds ∧
      (∀ y ∈ x.rows, (t.bay bay).row y.1 = y.2 ∧ t.tilePoison bay y.1 = none) ∧
      ∀ n, n ∉ x.rows.map (·.1) → (t.bay bay).row n = (s.bay bay).row n := by
  have huid' : ((s.onBay bay fun b => { b with landing := b.landing.filter fun y => y.id != x.id }).bay bay).uid = x.task := by
    rw [State.onBay_bay_same, huid]; rfl
  rw [exec_remoteLoadLand hbay hfind]
  refine ⟨_, rfl, ?_, State.landRows_pkg huid', ?_, fun y hy => ⟨?_, ?_⟩, fun n hn => ?_⟩
  · exact (s.onBay_sameBytes _ _).trans (State.landRows_sameBytes huid')
  · rw [State.landRows_bay huid', Bay.landed_holds, State.onBay_bay_same]
    rfl
  · rw [State.landRows_bay huid', Bay.landed_row]
    exact Bay.setRows_row _ _ hnd hy
  · exact State.landRows_tilePoison huid' (List.mem_map_of_mem hy)
  · rw [State.landRows_bay huid', Bay.landed_row, Bay.setRows_row_other _ _ hn, State.onBay_bay_same]
    rfl

end Clauses

end Sys2Proof.Machine

namespace Sys2Proof

/-- Settles O32: an arrival by its beat, a served load and a served store, and rows that land from another bay. -/
theorem beatService : Obligations.BeatService := by
  unfold Obligations.BeatService
  refine ⟨fun bay target e s hbay _ hother htransit hhome htarget harray => ⟨?_, ?_, ?_⟩, fun bay e s hbay hfind hhome huid => ⟨?_, ?_⟩,
    fun bay x s => remote_rows_land⟩
  · exact arrival_enters hbay hother htransit htarget
  · exact arrival_late hbay hother htransit hhome htarget harray
  · exact fun hlate hstrict ⟨_, _, hop⟩ => arrival_carried hbay hother htransit hhome htarget hlate hstrict hop
  · exact fun _ _ _ => load_served hbay hfind hhome huid
  · exact fun _ _ _ => store_served hbay hfind hhome huid

end Sys2Proof
end

section
/-!
SUPPORT. Bytes and elements of a memory: numbers inside a longer number, elements that are read from a row and that a row is made of, and flags
that are joined over a list.
-/

open Sys2Proof Sys2Proof.Machine

namespace Sys2Proof.Machine

/-! ## Bytes (R4, R32) -/

@[simp] theorem Memory.bytes_length (m : Memory) (a n : Nat) : (m.bytes a n).length = n := by simp [Memory.bytes, Tbl.read]

theorem Memory.bytes_getD (m : Memory) (a n i : Nat) (h : i < n) : (m.bytes a n).getD i 0 = m.byte (a + i) := by
  rw [List.getD_eq_getElem _ _ (by simpa using h)]
  simp [Memory.bytes, Tbl.read, Memory.byte]

theorem Memory.bytes_congr {m k : Memory} {a n : Nat} (h : ∀ i, i < n → k.byte (a + i) = m.byte (a + i)) : k.bytes a n = m.bytes a n :=
  List.map_congr_left fun i hi => h i (List.mem_range.mp hi)

theorem Memory.num_congr {m k : Memory} {a n : Nat} (h : ∀ i, i < n → k.byte (a + i) = m.byte (a + i)) : k.num a n = m.num a n :=
  congrArg leNat (Memory.bytes_congr h)

theorem Memory.bytes_add (m : Memory) (a n k : Nat) : m.bytes a (n + k) = m.bytes a n ++ m.bytes (a + n) k := by
  simp only [Memory.bytes, Tbl.read, List.range_add, List.map_append, List.map_map]
  simp [Function.comp_def, Nat.add_assoc]

theorem leNat_append (l k : List Byte) : leNat (l ++ k) = leNat l + 256 ^ l.length * leNat k := by
  induction l with
  | nil => simp [leNat]
  | cons b l ih => simp only [List.cons_append, leNat, ih, List.length_cons, Nat.pow_succ']; ring

theorem leNat_lt (l : List Byte) : leNat l < 256 ^ l.length := by
  induction l with
  | nil => simp [leNat]
  | cons b l ih =>
    have := b.isLt
    simp only [leNat, List.length_cons, Nat.pow_succ']
    omega

theorem Memory.num_lt (m : Memory) (a n : Nat) : m.num a n < 256 ^ n := by
  have := leNat_lt (m.bytes a n)
  rwa [Memory.bytes_length] at this

/-- The number of some of the bytes of a number. -/
theorem Memory.num_part (m : Memory) (a : Nat) {n j k : Nat} (h : j + k ≤ n) :
    m.num a n / 256 ^ j % 256 ^ k = m.num (a + j) k := by
  obtain ⟨r, rfl⟩ := Nat.exists_eq_add_of_le h
  have hlow := m.num_lt a j
  have hmid := m.num_lt (a + j) k
  have hsplit : m.num a (j + k + r) = m.num a j + 256 ^ j * (m.num (a + j) k + 256 ^ k * m.num (a + j + k) r) := by
    simp only [Memory.num, Memory.bytes_add, leNat_append, Memory.bytes_length, Nat.add_assoc]
  rw [hsplit, Nat.add_mul_div_left _ _ (by positivity), Nat.div_eq_of_lt hlow, Nat.zero_add, Nat.add_mul_mod_self_left,
    Nat.mod_eq_of_lt hmid]

/-- A store read back. -/
theorem Memory.bytes_store (m : Memory) (a : Nat) (bs : List Byte) : (m.store a bs).bytes a bs.length = bs := by
  refine List.ext_getElem (by simp) fun i h1 h2 => ?_
  have := Memory.bytes_getD (m.store a bs) a bs.length i h2
  rw [Memory.byte_store_in m a i bs h2, List.getD_eq_getElem _ _ h1, List.getD_eq_getElem _ _ h2] at this
  exact this

/-- Part of a number that has been stored. -/
theorem Memory.num_store (m : Memory) (a v : Nat) {n j k : Nat} (h : j + k ≤ n) :
    (m.store a (leBytes n v)).num (a + j) k = v / 256 ^ j % 256 ^ k := by
  have hall : (m.store a (leBytes n v)).num a n = v % 256 ^ n := by
    have := Memory.bytes_store m a (leBytes n v)
    rw [leBytes_length] at this
    rw [Memory.num, this, leNat_leBytes]
  rw [← Memory.num_part _ _ h, hall]
  obtain ⟨r, rfl⟩ := Nat.exists_eq_add_of_le h
  rw [Nat.add_assoc, Nat.pow_add, Nat.mod_mul_right_div_self, Nat.pow_add, Nat.mod_mul_right_mod]

/-! ## Elements (R32) -/

theorem elems_eq (w n v : Nat) : elems w n v = (List.range n).map fun i => v / 2 ^ (w * i) % 2 ^ w := by
  induction n generalizing v with
  | zero => rfl
  | succ n ih =>
    rw [List.range_succ_eq_map, elems, ih]
    simp [Function.comp_def, Nat.mul_succ, Nat.pow_add, Nat.div_div_eq_div_mul, Nat.mul_comm]

theorem two_pow_bytes (b : Nat) : 2 ^ (8 * b) = 256 ^ b := Nat.pow_mul 2 8 b

/-- The elements of b bytes of a row of a memory. -/
theorem elems_num (m : Memory) (a b n : Nat) : elems (8 * b) n (m.num a (b * n)) = (List.range n).map fun i => m.num (a + b * i) b := by
  rw [elems_eq]
  refine List.map_congr_left fun i hi => ?_
  have hi' : i + 1 ≤ n := List.mem_range.mp hi
  have hfit : b * i + b ≤ b * n := by calc
    b * i + b = b * (i + 1) := by ring
    _ ≤ b * n := Nat.mul_le_mul_left b hi'
  rw [← Memory.num_part m a hfit, Nat.mul_assoc, two_pow_bytes, two_pow_bytes]

theorem packElems_part (w : Nat) (l : List Nat) (i : Nat) : packElems w l / 2 ^ (w * i) % 2 ^ w = l.getD i 0 % 2 ^ w := by
  induction l generalizing i with
  | nil => simp [packElems]
  | cons x l ih =>
    cases i with
    | zero => simp [packElems]
    | succ i =>
      have hx : x % 2 ^ w < 2 ^ w := Nat.mod_lt _ (by positivity)
      rw [packElems, Nat.mul_succ, Nat.add_comm (w * i) w, Nat.pow_add, ← Nat.div_div_eq_div_mul,
        Nat.add_mul_div_left _ _ (by positivity), Nat.div_eq_of_lt hx, Nat.zero_add, ih]
      simp

/-- An element of a row that has been stored from its elements. -/
theorem Memory.num_store_elems (m : Memory) (a b n i : Nat) (l : List Nat) (hi : i < n) :
    (m.store a (leBytes (b * n) (packElems (8 * b) l))).num (a + b * i) b = l.getD i 0 % 2 ^ (8 * b) := by
  have hfit : b * i + b ≤ b * n := by calc
    b * i + b = b * (i + 1) := by ring
    _ ≤ b * n := Nat.mul_le_mul_left b hi
  rw [Memory.num_store m a _ hfit, ← packElems_part (8 * b) l i, Nat.mul_assoc, two_pow_bytes, two_pow_bytes]

/-! ## Joined flags -/

theorem getLsbD_foldl_or {α : Type} (f : α → Flags) (l : List α) (z : Flags) (i : Nat) :
    (l.foldl (fun a x => a ||| f x) z).getLsbD i = (z.getLsbD i || l.any fun x => (f x).getLsbD i) := by
  induction l generalizing z with
  | nil => simp
  | cons x l ih => simp [ih, Bool.or_assoc]

theorem orFlags_snd_getLsbD (l : List (Nat × Flags)) (i : Nat) : (orFlags l).2.getLsbD i = l.any fun x => x.2.getLsbD i := by
  simp [orFlags, getLsbD_foldl_or (fun x : Nat × Flags => x.2)]

/-- Joined over a range, the results element by element. -/
theorem orFlags_range (n : Nat) (f : Nat → Nat × Flags) : (orFlags ((List.range n).map f)).1 = (List.range n).map fun e => (f e).1 := by
  simp [orFlags, Function.comp_def]

theorem orFlags_range_getLsbD (n : Nat) (f : Nat → Nat × Flags) (i : Nat) :
    (orFlags ((List.range n).map f)).2.getLsbD i = (List.range n).any fun e => (f e).2.getLsbD i := by
  rw [orFlags_snd_getLsbD, List.any_map]
  rfl

end Sys2Proof.Machine
end

section
/-!
SUPPORT. A commit point that acts bank by bank: where each bank is touched only by its own turn, the result is that of each turn taken alone.
-/

open Sys2Proof Sys2Proof.Machine

namespace Sys2Proof.Machine

/-! ## Banks (R48, R261) -/

/-- Two states hold the same bytes of beat memory and accumulators in one bank, numbered through the package: 256 × bay + bank. -/
def State.agreeOn (q : Nat) (s u : State) : Prop :=
  ∀ a, a / 2 ^ 22 = q → u.beat.byte a = s.beat.byte a ∧ u.acc.byte a = s.acc.byte a

theorem State.agreeOn_refl (q : Nat) (s : State) : s.agreeOn q s := fun _ _ => ⟨rfl, rfl⟩

theorem State.agreeOn.trans {q : Nat} {s t u : State} (h : s.agreeOn q t) (k : t.agreeOn q u) : s.agreeOn q u :=
  fun a ha => ⟨(k a ha).1.trans (h a ha).1, (k a ha).2.trans (h a ha).2⟩

/-- One store made in a memory, made in both of two memories. -/
theorem Memory.store_byte_congr {m k : Memory} {x : Nat} (h : k.byte x = m.byte x) (a : Nat) (bs : List Byte) :
    (k.store a bs).byte x = (m.store a bs).byte x := by
  by_cases hin : a ≤ x ∧ x < a + bs.length
  · obtain ⟨i, rfl⟩ := Nat.exists_eq_add_of_le hin.1
    rw [Memory.byte_store_in _ _ _ _ (by omega), Memory.byte_store_in _ _ _ _ (by omega)]
  · rw [Memory.byte_store_out _ _ _ _ (by omega), Memory.byte_store_out _ _ _ _ (by omega), h]

/-- A store made twice. -/
theorem Memory.store_store_byte (m : Memory) (a : Nat) (bs : List Byte) (x : Nat) :
    ((m.store a bs).store a bs).byte x = (m.store a bs).byte x := by
  by_cases hin : a ≤ x ∧ x < a + bs.length
  · obtain ⟨i, rfl⟩ := Nat.exists_eq_add_of_le hin.1
    rw [Memory.byte_store_in _ _ _ _ (by omega), Memory.byte_store_in _ _ _ _ (by omega)]
  · rw [Memory.byte_store_out _ _ _ _ (by omega)]

theorem State.agreeOn.putBeat {q : Nat} {s u : State} (h : s.agreeOn q u) (a : Nat) (bs : List Byte) :
    (s.putBeat a bs).agreeOn q (u.putBeat a bs) :=
  fun x hx => ⟨Memory.store_byte_congr (h x hx).1 a bs, (h x hx).2⟩

theorem State.agreeOn.putAcc {q : Nat} {s u : State} (h : s.agreeOn q u) (a : Nat) (bs : List Byte) :
    (s.putAcc a bs).agreeOn q (u.putAcc a bs) :=
  fun x hx => ⟨(h x hx).1, Memory.store_byte_congr (h x hx).2 a bs⟩

/-- n bytes from an address lie in one bank. -/
def inBank (q a n : Nat) : Prop := q * 2 ^ 22 ≤ a ∧ a + n ≤ (q + 1) * 2 ^ 22

theorem inBank.div {q a n i : Nat} (h : inBank q a n) (hi : i < n) : (a + i) / 2 ^ 22 = q := by
  obtain ⟨hlo, hhi⟩ := h
  omega

theorem State.putBeat_agreeOn {q q' : Nat} (s : State) {a : Nat} {bs : List Byte} (h : inBank q' a bs.length) (hq : q ≠ q') :
    s.agreeOn q (s.putBeat a bs) := by
  obtain ⟨hlo, hhi⟩ := h
  exact fun x hx => ⟨Memory.byte_store_out _ _ _ _ (by omega), rfl⟩

theorem State.putAcc_agreeOn {q q' : Nat} (s : State) {a : Nat} {bs : List Byte} (h : inBank q' a bs.length) (hq : q ≠ q') :
    s.agreeOn q (s.putAcc a bs) := by
  obtain ⟨hlo, hhi⟩ := h
  exact fun x hx => ⟨rfl, Memory.byte_store_out _ _ _ _ (by omega)⟩

theorem State.agreeOn.beat_bytes {q : Nat} {s u : State} (h : s.agreeOn q u) {a n : Nat} (hin : inBank q a n) :
    u.beat.bytes a n = s.beat.bytes a n := Memory.bytes_congr fun _ hi => (h _ (hin.div hi)).1

theorem State.agreeOn.acc_bytes {q : Nat} {s u : State} (h : s.agreeOn q u) {a n : Nat} (hin : inBank q a n) :
    u.acc.bytes a n = s.acc.bytes a n := Memory.bytes_congr fun _ hi => (h _ (hin.div hi)).2

theorem State.agreeOn.beat_num {q : Nat} {s u : State} (h : s.agreeOn q u) {a n : Nat} (hin : inBank q a n) :
    u.beat.num a n = s.beat.num a n := congrArg leNat (h.beat_bytes hin)

theorem State.agreeOn.acc_num {q : Nat} {s u : State} (h : s.agreeOn q u) {a n : Nat} (hin : inBank q a n) :
    u.acc.num a n = s.acc.num a n := congrArg leNat (h.acc_bytes hin)

/-- Rows of a bank. -/
theorem inBank_accAt {bay bank row j n : Nat} (hrow : row < 16) (hj : j + n ≤ 1024) :
    inBank (256 * bay + bank) (accAt bay bank row + j) n := by
  unfold inBank accAt
  omega

theorem inBank_beatAt {bay bank side row j n : Nat} (hside : side < 2) (hrow : row < 1536) (hj : j + n ≤ 1024) :
    inBank (256 * bay + bank) (beatAt bay bank side row + j) n := by
  unfold inBank beatAt
  omega

theorem inBank_accRow {bay bank row : Nat} (hrow : row < 16) : inBank (256 * bay + bank) (accAt bay bank row) 1024 := by
  simpa using inBank_accAt (j := 0) (n := 1024) hrow (Nat.le_refl _)

theorem inBank_beatRow {bay bank side row : Nat} (hside : side < 2) (hrow : row < 1536) :
    inBank (256 * bay + bank) (beatAt bay bank side row) 1024 := by
  simpa using inBank_beatAt (j := 0) (n := 1024) hside hrow (Nat.le_refl _)

/-! ## Bank by bank (R63) -/

/-- What one bank's turn does touches that bank alone, by what that bank holds. -/
structure BankLocal (s : State) (bay : Nat) (act : State → Nat → State × Flags) : Prop where
  same : ∀ (u : State) k, s.agreeOn (256 * bay + k) u → (act s k).1.agreeOn (256 * bay + k) (act u k).1 ∧ (act u k).2 = (act s k).2
  other : ∀ (u : State) k q, q ≠ 256 * bay + k → u.agreeOn q (act u k).1

/-- The turns of the first n banks from one on. -/
def overBanksFrom (act : State → Nat → State × Flags) (s : State) (b0 n : Nat) : State × Flags :=
  ((List.range n).map (b0 + ·)).foldl (fun x k => ((act x.1 k).1, x.2 ||| (act x.1 k).2)) (s, 0)

theorem overBanksFrom_succ (act : State → Nat → State × Flags) (s : State) (b0 n : Nat) : overBanksFrom act s b0 (n + 1) =
    ((act (overBanksFrom act s b0 n).1 (b0 + n)).1, (overBanksFrom act s b0 n).2 ||| (act (overBanksFrom act s b0 n).1 (b0 + n)).2) := by
  simp [overBanksFrom, List.range_succ]

section OverBanks

variable {act : State → Nat → State × Flags} {s : State} {bay b0 : Nat}

/-- What every turn keeps is kept. -/
theorem overBanksFrom_keeps {α : Type} (p : State → α) (h : ∀ u k, p (act u k).1 = p u) (n : Nat) :
    p (overBanksFrom act s b0 n).1 = p s := by
  induction n with
  | zero => rfl
  | succ n ih => rw [overBanksFrom_succ, h, ih]

/-- A bank whose turn does not come stays. -/
theorem overBanksFrom_other (hloc : BankLocal s bay act) {q : Nat} (n : Nat) (hq : ∀ k, b0 ≤ k → k < b0 + n → q ≠ 256 * bay + k) :
    s.agreeOn q (overBanksFrom act s b0 n).1 := by
  induction n with
  | zero => exact s.agreeOn_refl q
  | succ n ih =>
    rw [overBanksFrom_succ]
    exact (ih fun k h1 h2 => hq k h1 (by omega)).trans (hloc.other _ _ _ (hq (b0 + n) (by omega) (by omega)))

/-- The turn of each bank finds it as it stood. -/
theorem overBanksFrom_turn (hloc : BankLocal s bay act) (n : Nat) : s.agreeOn (256 * bay + (b0 + n)) (overBanksFrom act s b0 n).1 :=
  overBanksFrom_other hloc n fun k _ h2 => by omega

/-- A bank whose turn comes is as its turn alone leaves it. -/
theorem overBanksFrom_bank (hloc : BankLocal s bay act) {k : Nat} (n : Nat) (hlo : b0 ≤ k) (hhi : k < b0 + n) :
    (act s k).1.agreeOn (256 * bay + k) (overBanksFrom act s b0 n).1 := by
  induction n with
  | zero => omega
  | succ n ih =>
    rw [overBanksFrom_succ]
    by_cases hk : k = b0 + n
    · subst hk
      exact (hloc.same _ _ (overBanksFrom_turn hloc n)).1
    · exact (ih (by omega)).trans (hloc.other _ _ _ (by omega))

/-- The flags of the turns are joined. -/
theorem overBanksFrom_flags (hloc : BankLocal s bay act) (n i : Nat) :
    (overBanksFrom act s b0 n).2.getLsbD i = (List.range n).any fun k => (act s (b0 + k)).2.getLsbD i := by
  induction n with
  | zero => simp [overBanksFrom]
  | succ n ih =>
    rw [overBanksFrom_succ, (hloc.same _ _ (overBanksFrom_turn hloc n)).2, List.range_succ, List.any_append, ← ih]
    simp

/-- A byte that no turn writes: it lies in another bank, or its own bank's turn leaves it. -/
theorem overBanksFrom_acc_byte (hloc : BankLocal s bay act) (n a : Nat)
    (h : ∀ k, b0 ≤ k → k < b0 + n → a / 2 ^ 22 = 256 * bay + k → (act s k).1.acc.byte a = s.acc.byte a) :
    (overBanksFrom act s b0 n).1.acc.byte a = s.acc.byte a := by
  by_cases hk : ∃ k, b0 ≤ k ∧ k < b0 + n ∧ a / 2 ^ 22 = 256 * bay + k
  · obtain ⟨k, hlo, hhi, hq⟩ := hk
    exact (overBanksFrom_bank hloc n hlo hhi a hq).2.trans (h k hlo hhi hq)
  · push Not at hk
    exact (overBanksFrom_other hloc n hk a rfl).2

theorem overBanksFrom_beat_byte (hloc : BankLocal s bay act) (n a : Nat)
    (h : ∀ k, b0 ≤ k → k < b0 + n → a / 2 ^ 22 = 256 * bay + k → (act s k).1.beat.byte a = s.beat.byte a) :
    (overBanksFrom act s b0 n).1.beat.byte a = s.beat.byte a := by
  by_cases hk : ∃ k, b0 ≤ k ∧ k < b0 + n ∧ a / 2 ^ 22 = 256 * bay + k
  · obtain ⟨k, hlo, hhi, hq⟩ := hk
    exact (overBanksFrom_bank hloc n hlo hhi a hq).1.trans (h k hlo hhi hq)
  · push Not at hk
    exact (overBanksFrom_other hloc n hk a rfl).1

end OverBanks

/-! ## A commit point (R63) -/

section Commit

variable {s : State} {bay : Nat} {r : Running} {o : ArrayOp}

/-- Where no row is poisoned, no read meets poison. -/
theorem State.arrayPoison_none (ht : s.pkg.poisonTile = []) (hb : s.pkg.poisonBeat = []) (ha : s.pkg.poisonAcc = [])
    (tiles beat acc : List Nat) : s.arrayPoison bay tiles beat acc = none := by
  simp [State.arrayPoison, State.rowsPoisoned, State.tilePoison, State.rowPoison, firstRow, ht, hb, ha]

theorem State.unlessPoison_none {tiles beat acc : List Nat} (h : s.arrayPoison bay tiles beat acc = none) (go : Commit) :
    s.unlessPoison r bay tiles beat acc go = go := by
  simp only [State.unlessPoison, h]

/-- The turns of the banks, and the flags that they raise. -/
theorem State.overBanks_none {tiles beat acc : List Nat} (h : s.arrayPoison bay tiles beat acc = none) (b0 n : Nat)
    (act : State → Nat → State × Flags) : s.overBanks r bay ((List.range n).map (b0 + ·)) tiles beat acc act =
      { s := (overBanksFrom act s b0 n).1, r := { r with flags := r.flags ||| (overBanksFrom act s b0 n).2 } } :=
  State.unlessPoison_none h _

/-- The operation in progress of a bay replaced. -/
def State.withRunning (s : State) (bay : Nat) (x : Running) : State := s.onBay bay fun b => { b with running := some x }

/-- A commit point that is due, by how the step comes out. -/
theorem exec_arrayCommitPoint (hbay : bay < 256) (hrun : (s.bay bay).running = some r) (hop : r.entry.op = .array o)
    (hdue : s.commitDue bay = true) (hgo : (s.arrayStep bay r o).fail = none) :
    exec (.arrayCommitPoint bay) s = .next ((s.arrayStep bay r o).s.withRunning bay { (s.arrayStep bay r o).r with
      done := if r.stop then o.steps else r.done + 1, out := if r.stop then [] else (s.arrayStep bay r o).r.out }) := by
  have hop' : r.op = some o := by simp only [Running.op, hop]
  show execArrayCommitPoint bay s = _
  simp only [execArrayCommitPoint, not_le.mpr hbay, hdue, hrun, hop', hgo]
  rfl

theorem exec_arrayCommitPoint_fail {x : Report} (hbay : bay < 256) (hrun : (s.bay bay).running = some r) (hop : r.entry.op = .array o)
    (hdue : s.commitDue bay = true) (hfail : (s.arrayStep bay r o).fail = some x) :
    exec (.arrayCommitPoint bay) s = .next (((s.arrayStep bay r o).s.withRunning bay { (s.arrayStep bay r o).r with
      done := o.steps, out := [], stop := true }).report r.entry.bay r.entry.task x) := by
  have hop' : r.op = some o := by simp only [Running.op, hop]
  show execArrayCommitPoint bay s = _
  simp only [execArrayCommitPoint, not_le.mpr hbay, hdue, hrun, hop', hfail]
  rfl

/-- A due commit point lies before the last one. -/
theorem State.commitDue_done (hrun : (s.bay bay).running = some r) (hop : r.entry.op = .array o) (hdue : s.commitDue bay = true) :
    r.done < o.steps := by
  have hop' : r.op = some o := by simp only [Running.op, hop]
  simp only [State.commitDue, hrun, hop', Bool.and_eq_true, decide_eq_true_eq] at hdue
  exact hdue.1.1

end Commit

end Sys2Proof.Machine
end

section
/-!
SUPPORT. In-array operations: their start, the commit points of AZERO, their completion and the pieces of AWRITE, and the statement about them.
-/

open Sys2Proof Sys2Proof.Machine

namespace Sys2Proof.Machine

/-! ## ARRAY_OP_START (R312, R373) -/

section Start

variable {bay : Nat} {s : State}

theorem State.calm_eq (h : (s.die (bay / 64)).rfend ≤ s.now) : s.calm bay = s.now := Nat.max_eq_left h

/-- Whether an operation may start on a bay with none running, outside the refresh windows. -/
theorem State.arrayMayStart_eq (hrun : (s.bay bay).running = none) (hcalm : (s.die (bay / 64)).rfend ≤ s.now) : s.arrayMayStart bay =
    ((s.nextArray bay).isSome || ((s.bay bay).thawed && (s.bay bay).frozen.any fun r =>
      r.entry.beat == ((s.part (s.partOf bay)).beatno : Int))) := by
  simp [State.arrayMayStart, hrun, State.calm_eq hcalm]

/-- The first waiting operation starts where none is frozen. -/
theorem exec_arrayOpStart_next {e : BEntry} (hbay : bay < 256) (hrun : (s.bay bay).running = none)
    (hcalm : (s.die (bay / 64)).rfend ≤ s.now) (hfrozen : (s.bay bay).frozen = []) (hnext : s.nextArray bay = some e) :
    exec (.arrayOpStart bay) s = .next (s.withRunning bay { entry := e, start := s.now }) := by
  have hmay : s.arrayMayStart bay = true := by simp [State.arrayMayStart_eq hrun hcalm, hnext]
  show execArrayOpStart bay s = _
  simp only [execArrayOpStart, not_le.mpr hbay, hmay, hfrozen, hnext]
  rfl

/-- A frozen operation of the open beat resumes. -/
theorem exec_arrayOpStart_resume {r : Running} {rest : List Running} (hbay : bay < 256) (hrun : (s.bay bay).running = none)
    (hcalm : (s.die (bay / 64)).rfend ≤ s.now) (hfrozen : (s.bay bay).frozen = r :: rest)
    (hbeat : r.entry.beat = ((s.part (s.partOf bay)).beatno : Int)) (hthawed : (s.bay bay).thawed = true) :
    exec (.arrayOpStart bay) s = .next (s.onBay bay fun b =>
      { b with frozen := rest, bq := b.bq ++ [r.entry], running := some { r with start := s.now - r.start } }) := by
  have hmay : s.arrayMayStart bay = true := by simp [State.arrayMayStart_eq hrun hcalm, hthawed, hfrozen, hbeat]
  have hfind : (r :: rest).find? (fun x => (s.bay bay).thawed && x.entry.beat == ((s.part (s.partOf bay)).beatno : Int)) = some r :=
    List.find?_cons_of_pos (by simp [hthawed, hbeat])
  show execArrayOpStart bay s = _
  simp only [execArrayOpStart, not_le.mpr hbay, hmay, hfrozen, hfind]
  simp [State.onBay, hfrozen]

/-- Nothing starts where nothing waits and nothing has thawed. -/
theorem exec_arrayOpStart_stays (hbay : bay < 256) (hrun : (s.bay bay).running = none) (hcalm : (s.die (bay / 64)).rfend ≤ s.now)
    (hcold : (s.bay bay).thawed = false) (hnext : s.nextArray bay = none) : exec (.arrayOpStart bay) s = .next s := by
  have hmay : s.arrayMayStart bay = false := by simp [State.arrayMayStart_eq hrun hcalm, hcold, hnext]
  show execArrayOpStart bay s = _
  simp [execArrayOpStart, not_le.mpr hbay, hmay]

end Start

/-! ## Turns that write one accumulator row of each bank -/

theorem accKey_zero (bay bank row : Nat) : accKey bay bank row 0 = accAt bay bank row := Nat.add_zero _

theorem beatKey_zero (bay bank side row : Nat) : beatKey bay bank side row 0 = beatAt bay bank side row := Nat.add_zero _

theorem State.setAccRow_eq (s : State) (bay bank row : Nat) (l : List Nat) :
    s.setAccRow bay bank row l = s.putAcc (accAt bay bank row) (leBytes 1024 (packElems 32 l)) := by
  rw [State.setAccRow, accKey_zero]

/-- Such a turn touches its own bank alone, where what it writes and the flags depend on that bank alone. -/
theorem bankLocal_setAccRow {s : State} {bay row : Nat} (hrow : row < 16) (L : State → Nat → List Nat × Flags)
    (hL : ∀ u k, s.agreeOn (256 * bay + k) u → L u k = L s k) :
    BankLocal s bay fun u k => (u.setAccRow bay k row (L u k).1, (L u k).2) where
  same u k h := by
    rw [hL u k h]
    exact ⟨h.putAcc _ _, rfl⟩
  other u k q hq := by
    have hin : inBank (256 * bay + k) (accAt bay k row) (leBytes 1024 (packElems 32 (L u k).1)).length := by
      rw [leBytes_length]
      exact inBank_accRow hrow
    simp only [State.setAccRow_eq]
    exact u.putAcc_agreeOn hin hq

/-- Outside its accumulator row such a turn leaves its bank. -/
theorem State.setAccRow_byte_out (s : State) {bay bank row a : Nat} (l : List Nat)
    (h : a < accAt bay bank row ∨ accAt bay bank row + 1024 ≤ a) : (s.setAccRow bay bank row l).acc.byte a = s.acc.byte a := by
  rw [State.setAccRow_eq, State.putAcc]
  exact Memory.byte_store_out _ _ _ _ (by rwa [leBytes_length])

/-! ## The commit points of AZERO (R266) -/

section Azero

variable {s : State} {bay b0 nb arow cnt : Nat} {r : Running}

theorem flags_or_zero (f : Flags) : f ||| 0 = f := BitVec.or_zero

/-- One bank's turn of a commit point of AZERO. -/
def azeroTurn (bay row : Nat) (u : State) (k : Nat) : State × Flags := (u.setAccRow bay k row [], 0)

theorem azeroTurn_local (s : State) {bay row : Nat} (hrow : row < 16) : BankLocal s bay (azeroTurn bay row) :=
  bankLocal_setAccRow hrow (fun _ _ => ([], 0)) fun _ _ _ => rfl

theorem State.arrayStep_azero : s.arrayStep bay r (.azero b0 nb arow cnt) =
    { s := (overBanksFrom (azeroTurn bay (arow + r.done)) s b0 nb).1
      r := { r with flags := r.flags ||| (overBanksFrom (azeroTurn bay (arow + r.done)) s b0 nb).2 } } := by
  have hclean : s.arrayPoison bay [] [] [] = none := rfl
  exact State.overBanks_none hclean b0 nb (azeroTurn bay (arow + r.done))

/-- A zeroed row reads zero. -/
theorem azeroTurn_byte {row k i : Nat} (hi : i < 1024) : (azeroTurn bay row s k).1.acc.byte (accAt bay k row + i) = 0 := by
  rw [azeroTurn, State.setAccRow_eq, State.putAcc, packElems, Memory.byte_store_in _ _ _ _ (by rwa [leBytes_length]), leBytes_getD _ _ _ hi, Nat.zero_div]
  rfl

end Azero

/-! ## ARRAY_OP_COMPLETE (R54) -/

section Complete

variable {s : State} {bay : Nat} {r : Running} {o : ArrayOp}

/-- The machine once the operation has left its bay and its flags are set. -/
def State.finished (s : State) (bay : Nat) (r : Running) (o : ArrayOp) : State :=
  (s.onBay bay fun b => { b.onBeat r.entry (fun _ => none) with running := none }).onBay bay fun b =>
    b.setFlags (if r.stop = true ∧ o.allOrNothing = true then 0 else r.flags)

/-- Past its last commit point an operation of a task that is still there leaves its queue, and its rows land. -/
theorem exec_arrayOpComplete (hbay : bay < 256) (hrun : (s.bay bay).running = some r) (hop : r.entry.op = .array o)
    (hdone : o.steps ≤ r.done) (huid : r.entry.task = (s.bay bay).uid) : exec (.arrayOpComplete bay) s =
      .next ((s.finished bay r o).landRows bay r.entry.task r.entry.hold (if r.stop then [] else o.results r.out)) := by
  have hop' : r.op = some o := by simp only [Running.op, hop]
  have huid' : ((s.onBay bay fun b => { b.onBeat r.entry (fun _ => none) with running := none }).bay bay).uid = r.entry.task := by
    rw [State.onBay_bay_same, huid]; rfl
  show execArrayOpComplete bay s = _
  simp only [execArrayOpComplete, not_le.mpr hbay, hrun, hop', not_lt.mpr hdone, if_false, State.onTask_of_uid huid', Bool.and_eq_true]
  rfl

theorem State.finished_bay : (s.finished bay r o).bay bay = ({ (s.bay bay).onBeat r.entry (fun _ => none) with running := none }).setFlags
    (if r.stop = true ∧ o.allOrNothing = true then 0 else r.flags) := by
  rw [State.finished, State.onBay_bay_same, State.onBay_bay_same]

theorem State.finished_uid : ((s.finished bay r o).bay bay).uid = (s.bay bay).uid := by
  rw [State.finished_bay]; rfl

end Complete

/-! ## AWRITE_PIECE_SAMPLE (R271) -/

section Awrite

variable {s : State} {bay src b0 nb row nrow : Nat} {e : BEntry}

/-- The entry once its next piece has been sampled. -/
def State.sampledEntry (s : State) (bay src nb nrow : Nat) (e : BEntry) : BEntry :=
  { e with got := e.got ++ s.scratchBytes bay (src + e.got.length) 128, next := s.now + 1
           served := decide (nb * nrow * 8 ≤ (e.got.length + 128) / 128) }

/-- The next piece of an AWRITE of the own task: after its last one its hold ends. -/
theorem exec_awritePieceSample (hbay : bay < 256) (hdue : s.awriteDue bay = some e) (hop : e.op = .awrite src b0 nb row nrow)
    (hclean : s.pkg.poisonScratch = []) (hhome : e.bay = bay) (huid : e.task = (s.bay bay).uid) (hqueue : (s.bay bay).bq = [e]) :
    exec (.awritePieceSample bay) s = .next (
      let s1 := s.onBay bay fun b => { b with bq := [s.sampledEntry bay src nb nrow e] }
      if nb * nrow * 8 ≤ (e.got.length + 128) / 128 then s1.onBay bay fun b => b.endHold s.now e.hold else s1) := by
  have hlen : (e.got ++ s.scratchBytes bay (src + e.got.length) 128).length = e.got.length + 128 := by simp [State.scratchBytes]
  have hput : (s.onBay bay fun b => b.onBeat e fun x => some { x with
      got := e.got ++ s.scratchBytes bay (src + e.got.length) 128, next := s.now + 1
      served := decide (nb * nrow * 8 ≤ (e.got.length + 128) / 128) }) =
      s.onBay bay fun b => { b with bq := [s.sampledEntry bay src nb nrow e] } := by
    simp [State.onBay, Bay.onBeat, hqueue, State.sampledEntry]
  have huid' : ((s.onBay bay fun b => { b with bq := [s.sampledEntry bay src nb nrow e] }).bay bay).uid = e.task := by
    rw [State.onBay_bay_same, huid]; rfl
  show execAwritePieceSample bay s = _
  simp only [execAwritePieceSample, not_le.mpr hbay, hdue, hop, State.sectorReport_none hclean, awritePieces, hlen, hput, hhome,
    State.onTask_of_uid huid', if_false]

end Awrite

/-! ## The clauses of the statement -/

section Clauses

variable {s : State} {bay : Nat}

/-- A commit point of AZERO zeroes its row of every bank and no other byte. -/
theorem azero_commits {b0 nb arow cnt : Nat} {r : Running} (hbay : bay < 256) (hrun : (s.bay bay).running = some r)
    (hop : r.entry.op = .array (.azero b0 nb arow cnt)) (hdue : s.commitDue bay = true) (hrow : arow + cnt ≤ 16) (hstop : r.stop = false) :
    ∃ t, exec (.arrayCommitPoint bay) s = .next t ∧ (t.bay bay).running = some { r with done := r.done + 1 } ∧
      (∀ k, b0 ≤ k → k < b0 + nb → ∀ i, i < 1024 → t.acc.byte (accAt bay k (arow + r.done) + i) = 0) ∧
      (∀ a, (∀ k i, b0 ≤ k → k < b0 + nb → i < 1024 → a ≠ accAt bay k (arow + r.done) + i) → t.acc.byte a = s.acc.byte a) ∧
      t.beat = s.beat ∧ t.scratch = s.scratch ∧ t.host = s.host ∧ t.expander = s.expander := by
  have hlt : r.done < cnt := State.commitDue_done hrun hop hdue
  have hloc := azeroTurn_local s (bay := bay) (row := arow + r.done) (by omega)
  have hkeep {α : Type} (p : State → α) (hp : ∀ (u : State) k, p (azeroTurn bay (arow + r.done) u k).1 = p u) :=
    overBanksFrom_keeps (s := s) (b0 := b0) p hp nb
  have hflags : (overBanksFrom (azeroTurn bay (arow + r.done)) s b0 nb).2 = 0 := by
    refine BitVec.eq_of_getLsbD_eq fun i _ => ?_
    rw [overBanksFrom_flags hloc]
    simp [azeroTurn]
  have hexec := exec_arrayCommitPoint hbay hrun hop hdue (by rw [State.arrayStep_azero])
  simp only [State.arrayStep_azero, hflags, hstop, flags_or_zero, Bool.false_eq_true, if_false] at hexec
  refine ⟨_, hexec, ?_, fun k hlo hhi i hi => ?_, fun a ha => ?_, ?_, ?_, ?_, ?_⟩
  · rw [State.withRunning, State.onBay_bay_same]
    exact congrArg some (by rw [← hstop])
  · have hin := inBank_accRow (bay := bay) (bank := k) (row := arow + r.done) (by omega)
    exact (overBanksFrom_bank hloc nb hlo hhi _ (hin.div hi)).2.trans (azeroTurn_byte hi)
  · refine overBanksFrom_acc_byte hloc nb a fun k hlo hhi _ => State.setAccRow_byte_out s [] ?_
    by_contra hcon
    exact ha k (a - accAt bay k (arow + r.done)) hlo hhi (by omega) (by omega)
  · exact hkeep State.beat fun _ _ => rfl
  · exact hkeep State.scratch fun _ _ => rfl
  · exact hkeep State.host fun _ _ => rfl
  · exact hkeep State.expander fun _ _ => rfl

/-- An AZERO that was abandoned has passed its last commit point after the next one. -/
theorem azero_stops {b0 nb arow cnt : Nat} {r : Running} (hbay : bay < 256) (hrun : (s.bay bay).running = some r)
    (hop : r.entry.op = .array (.azero b0 nb arow cnt)) (hdue : s.commitDue bay = true) (hstop : r.stop = true) :
    ∃ t x, exec (.arrayCommitPoint bay) s = .next t ∧ (t.bay bay).running = some x ∧ x.done = cnt := by
  have hexec := exec_arrayCommitPoint hbay hrun hop hdue (by rw [State.arrayStep_azero])
  simp only [State.arrayStep_azero, hstop, if_true] at hexec
  refine ⟨_, _, hexec, by rw [State.withRunning, State.onBay_bay_same], rfl⟩

/-- A completed operation: its rows, flags and holds, and its queue. -/
theorem array_completes {r : Running} {o : ArrayOp} (hbay : bay < 256) (hrun : (s.bay bay).running = some r) (hop : r.entry.op = .array o)
    (hdone : o.steps ≤ r.done) (huid : r.entry.task = (s.bay bay).uid) {rows : List (Nat × Row)}
    (hrows : (if r.stop then [] else o.results r.out) = rows) :
    ∃ t, exec (.arrayOpComplete bay) s = .next t ∧ (t.bay bay).running = none ∧ s.sameBytes t ∧
      { t.pkg with poisonTile := s.pkg.poisonTile } = s.pkg ∧ (t.bay bay).holds = ((s.bay bay).endHold s.now r.entry.hold).holds ∧
      (t.bay bay).stat = (s.bay bay).stat ||| (if r.stop = true ∧ o.allOrNothing = true then 0 else r.flags) ∧
      ((rows.map (·.1)).Nodup → ∀ x ∈ rows, (t.bay bay).row x.1 = x.2) ∧
      (∀ n, n ∉ rows.map (·.1) → (t.bay bay).row n = (s.bay bay).row n) ∧
      ∀ x ∈ (t.bay bay).bq, ¬ (x.id = r.entry.id ∧ x.bay = r.entry.bay) := by
  have huid' : ((s.finished bay r o).bay bay).uid = r.entry.task := State.finished_uid.trans huid.symm
  have hbayAfter : ((s.finished bay r o).landRows bay r.entry.task r.entry.hold rows).bay bay = _ := State.landRows_bay huid'
  rw [exec_arrayOpComplete hbay hrun hop hdone huid, hrows]
  refine ⟨_, rfl, ?_, ?_, State.landRows_pkg huid', ?_, ?_, fun hnd x hx => ?_, fun n hn => ?_, fun x hx => ?_⟩
  · rw [hbayAfter, Bay.setRows_eq, State.finished_bay]; rfl
  · exact ((s.onBay_sameBytes _ _).trans (State.onBay_sameBytes _ _ _)).trans (State.landRows_sameBytes huid')
  · rw [hbayAfter, Bay.landed_holds, State.finished_bay]; rfl
  · rw [hbayAfter, Bay.setRows_eq, State.finished_bay]; rfl
  · rw [hbayAfter, Bay.landed_row]
    exact Bay.setRows_row _ _ hnd hx
  · rw [hbayAfter, Bay.landed_row, Bay.setRows_row_other _ _ hn, State.finished_bay]; rfl
  · rw [hbayAfter, Bay.landed_bq, State.finished_bay] at hx
    exact Bay.onBeat_none (s.bay bay) hx

/-- A sampled piece: the entry, and the hold by whether it was the last one. -/
theorem awrite_samples {src b0 nb row nrow : Nat} {e : BEntry} (hbay : bay < 256) (hdue : s.awriteDue bay = some e)
    (hop : e.op = .awrite src b0 nb row nrow) (hclean : s.pkg.poisonScratch = []) (hhome : e.bay = bay) (hqueue : (s.bay bay).bq = [e])
    (huid : e.task = (s.bay bay).uid) :
    ∃ t x, exec (.awritePieceSample bay) s = .next t ∧ (t.bay bay).bq = [x] ∧ x.got = e.got ++ s.scratchBytes bay (src + e.got.length) 128 ∧
      x.next = s.now + 1 ∧ s.sameBytes t ∧ t.pkg = s.pkg ∧ (x.served = true ↔ nb * nrow * 8 ≤ (e.got.length + 128) / 128) ∧
      (x.served = true → (t.bay bay).holds = ((s.bay bay).endHold s.now e.hold).holds) ∧
      (x.served = false → (t.bay bay).holds = (s.bay bay).holds) := by
  have hserved : (s.sampledEntry bay src nb nrow e).served = true ↔ nb * nrow * 8 ≤ (e.got.length + 128) / 128 := decide_eq_true_iff
  rw [exec_awritePieceSample hbay hdue hop hclean hhome huid hqueue]
  by_cases hlast : nb * nrow * 8 ≤ (e.got.length + 128) / 128
  · have hyes := hserved.mpr hlast
    simp only [hlast, if_true]
    refine ⟨_, s.sampledEntry bay src nb nrow e, rfl, ?_, rfl, rfl, (s.onBay_sameBytes _ _).trans (State.onBay_sameBytes _ _ _), rfl,
      by simpa using hyes, fun _ => ?_, fun hno => by simp [hyes] at hno⟩
    · rw [State.onBay_bay_same, State.onBay_bay_same]; rfl
    · rw [State.onBay_bay_same, State.onBay_bay_same]; rfl
  · have hno : (s.sampledEntry bay src nb nrow e).served = false := by simpa using fun h => hlast (hserved.mp h)
    simp only [hlast, if_false]
    refine ⟨_, s.sampledEntry bay src nb nrow e, rfl, ?_, rfl, rfl, s.onBay_sameBytes _ _, rfl, by simp [hno],
      fun hyes => by simp [hno] at hyes, fun _ => ?_⟩
    · rw [State.onBay_bay_same]
    · rw [State.onBay_bay_same]

end Clauses

end Sys2Proof.Machine

namespace Sys2Proof

/-- Settles O33: the array's start by what is frozen, the commit points of AZERO, completion, and the pieces of AWRITE. -/
theorem arrayWork : Obligations.ArrayWork := by
  unfold Obligations.ArrayWork
  refine ⟨fun bay s hbay => ⟨fun e hrun hcalm hfrozen hnext => ?_, fun r rest hrun hcalm hfrozen hbeat => ⟨fun hsave hat hempty => ?_,
      fun hstopped hnext => ?_⟩, fun r b0 nb arow cnt hrun hop hdue _ hrow hstop => azero_commits hbay hrun hop hdue hrow hstop,
      fun r b0 nb arow cnt => azero_stops hbay, fun r o hrun hop hdone huid => array_completes hbay hrun hop hdone huid rfl⟩,
    fun bay src b0 nb row nrow e s hbay hdue hop hclean hhome hqueue huid => awrite_samples hbay hdue hop hclean hhome hqueue huid⟩
  · refine ⟨_, exec_arrayOpStart_next hbay hrun hcalm hfrozen hnext, ?_, s.onBay_sameBut _ _, ?_⟩
    · rw [State.withRunning, State.onBay_bay_same]
    · rw [State.withRunning, State.onBay_bay_same, ← hrun]
  · have hthawed : (s.bay bay).thawed = true := by simp [Bay.thawed, hsave, hat, hempty]
    refine ⟨_, exec_arrayOpStart_resume hbay hrun hcalm hfrozen hbeat hthawed, ?_, ?_, ?_, s.onBay_sameBut _ _⟩ <;>
      rw [State.onBay_bay_same]
  · have hcold : (s.bay bay).thawed = false := by
      rcases hstopped with h | h <;> simp [Bay.thawed, ← Option.not_isSome, h]
    exact exec_arrayOpStart_stays hbay hrun hcalm hcold hnext

end Sys2Proof
end

section
/-!
SUPPORT. The close of a beat and the opening of the next, the overrun, and refresh, and the statement about them. First what changes of all bays
or of several dies leave, and sorted lists.
-/

open Sys2Proof Sys2Proof.Machine

namespace Sys2Proof.Machine

/-! ## Changes of many bays and dies -/

theorem Tbl.get_map {α : Type} (d : α) (f : Nat → α → α) (t : Tbl α) (k : Nat) :
    Tbl.get d (t.map fun x => (x.1, f x.1 x.2)) k = if k ∈ t.map (·.1) then f k (Tbl.get d t k) else d := by
  induction t with
  | nil => rfl
  | cons x t ih =>
    obtain ⟨j, v⟩ := x
    rw [List.map_cons, Tbl.get_cons, Tbl.get_cons, ih]
    by_cases h : j = k
    · subst h; simp
    · have hmem : k ∈ ((j, v) :: t).map (·.1) ↔ k ∈ t.map (·.1) := by simp [Ne.symm h]
      simp only [h, hmem, if_false]

/-- A bay that is listed is changed. -/
theorem State.mapBays_bay_listed (s : State) (f : Nat → Bay → Bay) {k : Nat} (h : k ∈ s.bays.map (·.1)) :
    (s.mapBays f).bay k = f k (s.bay k) := by
  simp only [State.bay, State.mapBays, Tbl.get_map, h, if_true]

/-- What a change of every bay keeps, each bay keeps. -/
theorem State.mapBays_bay_keeps {α : Type} (π : Bay → α) (s : State) {f : Nat → Bay → Bay} (hf : ∀ k b, π (f k b) = π b) (k : Nat) :
    π ((s.mapBays f).bay k) = π (s.bay k) := by
  by_cases h : k ∈ s.bays.map (·.1)
  · rw [State.mapBays_bay_listed s f h, hf]
  · rw [State.bay_unlisted s k h, State.bay_unlisted _ k (by simpa [State.mapBays] using h)]

/-- A bay that does not stand as at reset is listed. -/
theorem State.bay_listed {α : Type} (π : Bay → α) (s : State) {k : Nat} (h : π (s.bay k) ≠ π Bay.reset) : k ∈ s.bays.map (·.1) := by
  by_contra hk
  exact h (congrArg π (s.bay_unlisted k hk))

/-- One change of each of several dies, by what no change of a die touches. -/
theorem State.foldl_onDie_die (g : State → Die → Die) (hg : ∀ (u : State) d f, g (u.onDie d f) = g u) (ds : List Nat) (hds : ds.Nodup)
    (s : State) (d : Nat) :
    (ds.foldl (fun u d => u.onDie d (g u)) s).die d = if d ∈ ds then g s (s.die d) else s.die d := by
  induction ds generalizing s with
  | nil => simp
  | cons x ds ih =>
    obtain ⟨hx, hds'⟩ := List.nodup_cons.mp hds
    rw [List.foldl_cons, ih hds', State.onDie_die, hg]
    by_cases h : d = x
    · subst h; simp [hx]
    · simp [h]

theorem State.mem_diesOf {s : State} {p d : Nat} : d ∈ s.diesOf p ↔ d < 4 ∧ s.partOfDie d = p := by
  simp [State.diesOf]

theorem State.diesOf_nodup (s : State) (p : Nat) : (s.diesOf p).Nodup := List.nodup_range.filter _

/-! ## Sorted lists -/

theorem mem_insertBy {α : Type} (key : α → Nat) (x y : α) (l : List α) : y ∈ insertBy key x l ↔ y = x ∨ y ∈ l := by
  induction l with
  | nil => simp [insertBy]
  | cons z l ih =>
    rw [insertBy]
    split
    · simp
    · simp only [List.mem_cons, ih]
      tauto

theorem mem_sortBy {α : Type} (key : α → Nat) (y : α) (l : List α) : y ∈ sortBy key l ↔ y ∈ l := by
  have hfold (acc : List α) : y ∈ l.foldl (fun acc x => insertBy key x acc) acc ↔ y ∈ acc ∨ y ∈ l := by
    induction l generalizing acc with
    | nil => simp
    | cons x l ih =>
      rw [List.foldl_cons, ih, mem_insertBy, List.mem_cons]
      tauto
  exact (hfold []).trans (by simp)

/-! ## Writes applied at a close (R55) -/

/-- Nothing but beat memory, accumulators and their poison differs. -/
structure State.OnlyBanks (s u : State) : Prop where
  now : u.now = s.now
  bays : u.bays = s.bays
  dies : u.dies = s.dies
  parts : u.parts = s.parts
  scratch : u.scratch = s.scratch
  host : u.host = s.host
  expander : u.expander = s.expander
  pids : u.pkg.pids = s.pkg.pids

theorem State.OnlyBanks.refl (s : State) : s.OnlyBanks s := ⟨rfl, rfl, rfl, rfl, rfl, rfl, rfl, rfl⟩

theorem State.OnlyBanks.trans {s t u : State} (h : s.OnlyBanks t) (k : t.OnlyBanks u) : s.OnlyBanks u :=
  ⟨k.now.trans h.now, k.bays.trans h.bays, k.dies.trans h.dies, k.parts.trans h.parts, k.scratch.trans h.scratch, k.host.trans h.host,
    k.expander.trans h.expander, k.pids.trans h.pids⟩

/-- A fold of steps that touch only the banks. -/
theorem State.OnlyBanks.foldl {α : Type} {f : State → α → State} (hf : ∀ (u : State) x, u.OnlyBanks (f u x)) (l : List α) (s : State) :
    s.OnlyBanks (l.foldl f s) :=
  List.foldlRecOn (motive := s.OnlyBanks) l f (.refl s) fun u h x _ => h.trans (hf u x)

theorem State.storeRows_onlyBanks (s : State) (acc : Bool) (a : Nat) (bs : List Byte) : s.OnlyBanks (s.storeRows acc a bs) := by
  unfold State.storeRows
  split <;> exact ⟨rfl, rfl, rfl, rfl, rfl, rfl, rfl, rfl⟩

theorem State.applyEntry_onlyBanks (s : State) (bay : Nat) (e : BEntry) : s.OnlyBanks (s.applyEntry bay e) := by
  unfold State.applyEntry
  split
  · exact s.storeRows_onlyBanks _ _ _
  · exact .foldl (fun u i => u.storeRows_onlyBanks _ _ _) _ s
  · exact .refl s

/-- The served writes of the open beat of a partition, with the bays in whose queues they stand. -/
def State.dueWrites (s : State) (p : Nat) : List (Nat × BEntry) :=
  ((s.bays.map (·.1)).filter fun b => s.partOf b == p).flatMap fun bay =>
    ((s.bay bay).bq.filter fun e => e.served && e.beat == ((s.part p).beatno : Int) && e.op.isWrite).map fun e => (bay, e)

/-- The writes of one issuing bay in the order of R55. -/
def writesFrom (ws : List (Nat × BEntry)) (src : Nat) : List (Nat × BEntry) :=
  sortBy (fun (y : Nat × BEntry) => y.2.id) ((ws.filter fun y => y.2.bay == src).filter fun y => y.2.carried) ++
    sortBy (fun (y : Nat × BEntry) => y.2.id) ((ws.filter fun y => y.2.bay == src).filter fun y => !y.2.carried)

theorem mem_writesFrom {ws : List (Nat × BEntry)} {src : Nat} {y : Nat × BEntry} :
    y ∈ writesFrom ws src ↔ y ∈ ws ∧ y.2.bay = src := by
  simp only [writesFrom, List.mem_append, mem_sortBy, List.mem_filter, beq_iff_eq]
  cases y.2.carried <;> simp

/-- The bays from which writes come. -/
def writeSources (ws : List (Nat × BEntry)) : List Nat := sortBy id (ws.map fun y => y.2.bay).eraseDups

theorem mem_writeSources {ws : List (Nat × BEntry)} {src : Nat} : src ∈ writeSources ws ↔ ∃ y ∈ ws, y.2.bay = src := by
  simp [writeSources, mem_sortBy, List.mem_eraseDups]

/-- The writes are applied. -/
def State.applyDue (s : State) (ws : List (Nat × BEntry)) : State :=
  (writeSources ws).foldl (fun s src => (writesFrom ws src).foldl (fun s (y : Nat × BEntry) => s.applyEntry y.1 y.2) s) s

/-- What a bay holds once its writes have been applied: the exchanges are made, and the entries leave. -/
def Bay.afterWrites (b : Bay) (n : Nat) (es : List BEntry) : Bay :=
  if es.isEmpty then b
  else { b with
    wornB := (swapBanks es).foldl (fun l k => if l.contains k then l.filter (· != k) else l ++ [k]) b.wornB
    bq := b.bq.filter fun e => !(e.served && e.beat == (n : Int)) }

/-- Without writes of engines and of the host the close of an access beat applies the entries alone. -/
theorem State.applyBeat_eq {s : State} {p : Nat} (heng : (s.part p).engWrites = []) (hhost : (s.part p).hostWrites = []) : s.applyBeat p =
    ((s.applyDue (s.dueWrites p)).mapBays fun bay b =>
      b.afterWrites (s.part p).beatno ((s.dueWrites p).filterMap fun y => if y.1 = bay then some y.2 else none)).onPart p fun y =>
      { y with engWrites := y.engWrites.filter fun w => w.beat != (s.part p).beatno
               hostWrites := y.hostWrites.filter fun w => decide ((s.part p).beatno < w.1) } := by
  have hnone : sortBy (fun w => w.order * 65536 + w.unit) ([] : List EngWrite) = [] := rfl
  simp only [State.applyBeat, heng, hhost, List.filter_nil, hnone, List.foldl_nil, List.map_nil, List.append_nil]
  rfl

theorem State.applyDue_onlyBanks (s : State) (ws : List (Nat × BEntry)) : s.OnlyBanks (s.applyDue ws) :=
  State.OnlyBanks.foldl (fun u src => State.OnlyBanks.foldl (fun v (y : Nat × BEntry) => v.applyEntry_onlyBanks y.1 y.2) (writesFrom ws src) u) _ s

/-- Exchanges alone write no byte. -/
theorem State.applyDue_swaps (s : State) {ws : List (Nat × BEntry)} {b0 nb : Nat} (h : ∀ y ∈ ws, y.2.op = .aswap b0 nb) :
    s.applyDue ws = s := by
  refine List.foldlRecOn (motive := (· = s)) _ _ rfl fun u hu src _ => ?_
  refine List.foldlRecOn (motive := (· = s)) _ _ hu fun v hv y hy => ?_
  simp only [State.applyEntry, h y (mem_writesFrom.mp hy).1, hv]

/-- A fold over a list that is not empty, of steps that each reach Q from P, where Q implies P. -/
theorem foldl_reaches {α β : Type} {P Q : β → Prop} {f : β → α → β} {l : List α} (hne : l ≠ []) {b : β} (hb : P b)
    (hstep : ∀ b, P b → ∀ x ∈ l, Q (f b x)) (hQP : ∀ b, Q b → P b) : Q (l.foldl f b) := by
  obtain ⟨k, x, rfl⟩ := (List.eq_nil_or_concat' l).resolve_left hne
  rw [List.foldl_append]
  refine hstep _ (List.foldlRecOn (motive := P) k f hb fun b hb y hy => hQP _ (hstep b hb y (by simp [hy]))) x (by simp)

/-- One store applied, however often it stands: its bytes stand, and no other byte changes. -/
theorem State.applyDue_store (s : State) {ws : List (Nat × BEntry)} {pa : Nat} {data : List Row} (hne : ws ≠ [])
    (h : ∀ y ∈ ws, y.2.op = .store false pa data) : (s.applyDue ws).acc = s.acc ∧ ∀ a, (s.applyDue ws).beat.byte a =
      (s.beat.store pa (data.flatMap rowBytes)).byte a := by
  let near (u : State) : Prop := u.acc = s.acc ∧ ∀ a, (u.beat.store pa (data.flatMap rowBytes)).byte a =
    (s.beat.store pa (data.flatMap rowBytes)).byte a
  let done (u : State) : Prop := u.acc = s.acc ∧ ∀ a, u.beat.byte a = (s.beat.store pa (data.flatMap rowBytes)).byte a
  have hdone (u : State) (hu : done u) : near u := ⟨hu.1, fun a => by
    rw [Memory.store_byte_congr (hu.2 a), Memory.store_store_byte]⟩
  have hone (u : State) (hu : near u) (y : Nat × BEntry) (hy : y ∈ ws) : done (u.applyEntry y.1 y.2) := by
    simp only [State.applyEntry, h y hy]
    exact hu
  obtain ⟨y, hy⟩ := List.exists_mem_of_ne_nil ws hne
  refine foldl_reaches (P := near) (Q := done) (List.ne_nil_of_mem (mem_writeSources.mpr ⟨y, hy, rfl⟩)) ⟨rfl, fun _ => rfl⟩
    (fun u hu src hsrc => ?_) hdone
  obtain ⟨z, hz, hzsrc⟩ := mem_writeSources.mp hsrc
  exact foldl_reaches (P := near) (Q := done) (List.ne_nil_of_mem (mem_writesFrom.mpr ⟨hz, hzsrc⟩)) hu
    (fun v hv x hx => hone v hv x (mem_writesFrom.mp hx).1) hdone

/-- The exchanges of one range of banks. -/
theorem mem_swapBanks {es : List BEntry} (hne : es ≠ []) {b0 nb : Nat} (h : ∀ e ∈ es, e.op = .aswap b0 nb) {k : Nat} :
    k ∈ swapBanks es ↔ b0 ≤ k ∧ k < b0 + nb := by
  obtain ⟨e, he⟩ := List.exists_mem_of_ne_nil es hne
  simp only [swapBanks, List.mem_eraseDups, List.mem_flatMap]
  constructor
  · rintro ⟨x, hx, hk⟩
    simp only [h x hx, List.mem_map, List.mem_range] at hk
    omega
  · intro hk
    refine ⟨e, he, ?_⟩
    simp only [h e he, List.mem_map, List.mem_range]
    exact ⟨k - b0, by omega, by omega⟩

theorem nodup_eraseDups {α : Type} [BEq α] [LawfulBEq α] : ∀ l : List α, l.eraseDups.Nodup
  | [] => by simp
  | x :: l => by
    rw [List.eraseDups_cons, List.nodup_cons, List.mem_eraseDups, List.mem_filter]
    exact ⟨by simp, nodup_eraseDups _⟩
termination_by l => l.length
decreasing_by exact Nat.lt_succ_of_le (List.length_filter_le _ l)

theorem swapBanks_nodup (es : List BEntry) : (swapBanks es).Nodup := nodup_eraseDups _

/-- Banks exchanged, each once. -/
theorem mem_foldl_exchange {ks : List Nat} (hnd : ks.Nodup) (l : List Nat) (k : Nat) :
    k ∈ ks.foldl (fun l k => if l.contains k then l.filter (· != k) else l ++ [k]) l ↔ if k ∈ ks then k ∉ l else k ∈ l := by
  induction ks generalizing l with
  | nil => simp
  | cons x ks ih =>
    obtain ⟨hx, hnd'⟩ := List.nodup_cons.mp hnd
    rw [List.foldl_cons, ih hnd']
    by_cases hk : k = x
    · subst hk
      by_cases hl : k ∈ l <;> simp [hx, hl]
    · by_cases hl : x ∈ l <;> simp [hk, hl]

/-- Entries that are no exchanges exchange nothing. -/
theorem swapBanks_store {es : List BEntry} (h : ∀ e ∈ es, ∃ acc pa data, e.op = .store acc pa data) : swapBanks es = [] := by
  have hnone : (es.flatMap fun e => match e.op with
      | .aswap bank0 nb => (List.range nb).map (bank0 + ·)
      | _ => []) = [] := by
    simp only [List.flatMap_eq_nil_iff]
    intro e he
    obtain ⟨acc, pa, data, hop⟩ := h e he
    simp [hop]
  exact congrArg List.eraseDups hnone

/-! ## The opening of a beat (R60, R62, R66) -/

/-- What the opening of a beat does to a die: the owed windows run where it is an access beat. -/
def Die.opened (x : Die) (now n : Nat) : Die :=
  { x with forced := 0
           owedEnd := if n % 2 = 0 then now + 64 * x.rfdebt else 0
           rfend := if n % 2 = 0 ∧ 0 < x.rfdebt then now + 64 * x.rfdebt else x.rfend
           rfdebt := if n % 2 = 0 then 0 else x.rfdebt }

/-- The machine with the next beat open, before its entries are given their times. -/
def State.beatOpened (s : State) (p n : Nat) : State :=
  (s.diesOf p).foldl (fun s d => s.onDie d fun x => x.opened s.now n)
    (s.onPart p fun x => { x with beatno := n, opened := s.now, planned := s.plannedLength p n, overrun := [] })

section OpenBeat

variable {s : State} {p n : Nat}

/-- What no change of a bay touches, the opening of a beat leaves as the dies and the partition make it. -/
theorem State.openBeat_keeps {α : Type} (π : State → α) (hπ : ∀ (u : State) b f, π (u.onBay b f) = π u) :
    π (s.openBeat p n) = π (s.beatOpened p n) := by
  refine List.foldlRecOn (motive := fun u => π u = π (s.beatOpened p n)) _ _ rfl fun u hu k _ => ?_
  split
  · exact hu
  · exact (hπ _ _ _).trans hu

/-- What no change of a bay, of a die or of a partition touches, the opening of a beat leaves. -/
theorem State.openBeat_frame {α : Type} (π : State → α) (hbay : ∀ (u : State) b f, π (u.onBay b f) = π u)
    (hdie : ∀ (u : State) d f, π (u.onDie d f) = π u) (hpart : ∀ (u : State) q f, π (u.onPart q f) = π u) :
    π (s.openBeat p n) = π s :=
  (State.openBeat_keeps π hbay).trans <|
    List.foldlRecOn (motive := fun u => π u = π s) _ _ (hpart _ _ _) fun _ hu _ _ => (hdie _ _ _).trans hu

/-- The partition of the beat that opens. -/
theorem State.openBeat_part : (s.openBeat p n).part p =
    { s.part p with beatno := n, opened := s.now, planned := s.plannedLength p n, overrun := [] } := by
  rw [State.openBeat_keeps (State.part · p) fun _ _ _ => rfl]
  exact List.foldlRecOn (motive := fun (u : State) => u.part p = _) _ _ (State.onPart_part_same _ _ _) fun _ hu _ _ => hu

/-- The dies of its partition. -/
theorem State.openBeat_die {d : Nat} (hd : d < 4) (hp : s.partOfDie d = p) : (s.openBeat p n).die d = (s.die d).opened s.now n := by
  rw [State.openBeat_keeps (State.die · d) fun _ _ _ => rfl, State.beatOpened]
  exact (State.foldl_onDie_die (fun u x => x.opened u.now n) (fun _ _ _ => rfl) _ (s.diesOf_nodup p) _ d).trans
    (if_pos (State.mem_diesOf.mpr ⟨hd, hp⟩))

/-- Where every queue is empty no bay changes. -/
theorem State.openBeat_bay (hempty : ∀ k, (s.bay k).bq = []) (k : Nat) : (s.openBeat p n).bay k = s.bay k := by
  have hopened (j : Nat) : (s.beatOpened p n).bay j = s.bay j :=
    List.foldlRecOn (motive := fun (u : State) => u.bay j = s.bay j) _ _ rfl fun _ hu _ _ => hu
  refine List.foldlRecOn (motive := fun (u : State) => ∀ j, u.bay j = s.bay j) _ _ hopened (fun u hu j _ => ?_) k
  simp [hu j, hempty j, hu]

/-- Where no bay has a plan the beat has the planned length of PLANDEF (R60). -/
theorem State.plannedLength_default (hplan : ∀ k, (s.bay k).plan = []) (m : Nat) :
    s.plannedLength p m = max 32 ((s.part p).plandef.toNat % 65536) := by
  simp [State.plannedLength, hplan]

end OpenBeat

/-! ## The reads of the host (R117) -/

section ServeHost

variable {s : State} {p n : Nat}

/-- What no change of a partition and no answer to the host touches, the service of the host leaves. -/
theorem State.serveHost_frame {α : Type} (π : State → α) (hpart : ∀ (u : State) q f, π (u.onPart q f) = π u)
    (hpkg : ∀ (u : State) (l : Pkg → List (Nat × List Byte)), π (u.onPkg fun k => { k with hostData := l k }) = π u) : π (s.serveHost p n) = π s := by
  rw [State.serveHost, hpart]
  exact hpkg s fun k => k.hostData ++ _

/-- Of a partition it changes what the host has asked for alone. -/
theorem State.serveHost_part {α : Type} (π : Part → α) (hreq : ∀ x reads writes, π { x with hostReads := reads, hostWrites := writes } = π x)
    (q : Nat) : π ((s.serveHost p n).part q) = π (s.part q) := by
  rw [State.serveHost, State.onPart_part]
  split
  · next h => rw [h]; exact hreq _ _ _
  · rfl

end ServeHost

/-! ## BEAT_CLOSE (R62) -/

section Close

variable {s : State} {p : Nat}

theorem exec_beatClose (hp : p < 4) (hclose : s.closable p = true) : exec (.beatClose p) s = .next (s.closeBeat p) := by
  show execBeatClose p s = _
  simp only [execBeatClose, not_le.mpr hp, hclose, if_false, if_true]

/-- The close of a compute beat. -/
theorem State.closeBeat_odd (hodd : (s.part p).beatno % 2 = 1) :
    s.closeBeat p = ((s.snapshot p).openBeat p ((s.part p).beatno + 1)).serveHost p ((s.part p).beatno + 1) := by
  simp [State.closeBeat, hodd]

/-- The close of an access beat. -/
theorem State.closeBeat_even (heven : (s.part p).beatno % 2 = 0) :
    s.closeBeat p = (s.applyBeat p).openBeat p ((s.part p).beatno + 1) := by
  simp [State.closeBeat, heven]

/-- What the writes of a close, or the snapshot, leave for the opening of the next beat. -/
structure State.KeptAtClose (p : Nat) (s u : State) : Prop where
  now : u.now = s.now
  dies : u.dies = s.dies
  pids : u.pkg.pids = s.pkg.pids
  plandef : (u.part p).plandef = (s.part p).plandef
  plans : ∀ k, (u.bay k).plan = (s.bay k).plan
  scratch : u.scratch = s.scratch
  host : u.host = s.host
  expander : u.expander = s.expander

theorem State.snapshot_kept : State.KeptAtClose p s (s.snapshot p) :=
  ⟨rfl, rfl, rfl, by rw [State.snapshot, State.onPart_part_same], fun _ => rfl, rfl, rfl, rfl⟩

theorem State.applyBeat_kept (heng : (s.part p).engWrites = []) (hhost : (s.part p).hostWrites = []) :
    State.KeptAtClose p s (s.applyBeat p) := by
  have h := s.applyDue_onlyBanks (s.dueWrites p)
  have hbay (k : Nat) : (s.applyDue (s.dueWrites p)).bay k = s.bay k := by simp only [State.bay, h.bays]
  have hpart (k : Nat) : (s.applyDue (s.dueWrites p)).part k = s.part k := by simp only [State.part, h.parts]
  rw [State.applyBeat_eq heng hhost]
  refine ⟨h.now, h.dies, h.pids, ?_, fun k => ?_, h.scratch, h.host, h.expander⟩
  · rw [State.onPart_part_same, State.mapBays_part, hpart]
  · rw [State.onPart_bay, State.mapBays_bay_keeps Bay.plan _ fun _ b => ?_, hbay]
    unfold Bay.afterWrites
    split <;> rfl

/-- What the opening of a beat makes of the partition and of its dies, and the memories that it leaves. -/
structure State.NextBeat (p m : Nat) (s t : State) : Prop where
  beatno : (t.part p).beatno = m
  opened : (t.part p).opened = s.now
  planned : (t.part p).planned = max 32 ((s.part p).plandef.toNat % 65536)
  scratch : t.scratch = s.scratch
  host : t.host = s.host
  expander : t.expander = s.expander
  die : ∀ d, d < 4 → s.partOfDie d = p → t.die d = (s.die d).opened s.now m

theorem State.KeptAtClose.opens {u : State} (h : State.KeptAtClose p s u) (hplan : ∀ k, (s.bay k).plan = []) (m : Nat) :
    State.NextBeat p m s (u.openBeat p m) where
  beatno := by rw [State.openBeat_part]
  opened := by rw [State.openBeat_part, h.now]
  planned := by rw [State.openBeat_part, State.plannedLength_default fun k => (h.plans k).trans (hplan k), h.plandef]
  scratch := (State.openBeat_frame State.scratch (fun _ _ _ => rfl) (fun _ _ _ => rfl) fun _ _ _ => rfl).trans h.scratch
  host := (State.openBeat_frame State.host (fun _ _ _ => rfl) (fun _ _ _ => rfl) fun _ _ _ => rfl).trans h.host
  expander := (State.openBeat_frame State.expander (fun _ _ _ => rfl) (fun _ _ _ => rfl) fun _ _ _ => rfl).trans h.expander
  die d hd hp := by
    have hp' : u.partOfDie d = p := by rw [State.partOfDie, h.pids]; exact hp
    rw [State.openBeat_die hd hp', h.now]
    simp only [State.die, h.dies]

theorem State.NextBeat.served {t : State} {m n : Nat} (h : State.NextBeat p m s t) : State.NextBeat p m s (t.serveHost p n) where
  beatno := (State.serveHost_part Part.beatno (fun _ _ _ => rfl) p).trans h.beatno
  opened := (State.serveHost_part Part.opened (fun _ _ _ => rfl) p).trans h.opened
  planned := (State.serveHost_part Part.planned (fun _ _ _ => rfl) p).trans h.planned
  scratch := (State.serveHost_frame State.scratch (fun _ _ _ => rfl) fun _ _ => rfl).trans h.scratch
  host := (State.serveHost_frame State.host (fun _ _ _ => rfl) fun _ _ => rfl).trans h.host
  expander := (State.serveHost_frame State.expander (fun _ _ _ => rfl) fun _ _ => rfl).trans h.expander
  die d hd hp := (State.serveHost_frame (State.die · d) (fun _ _ _ => rfl) fun _ _ => rfl).trans (h.die d hd hp)

/-- Beat n + 1 opens on the cycle on which beat n closes. -/
theorem State.closeBeat_next (heng : (s.part p).engWrites = []) (hhost : (s.part p).hostWrites = []) (hplan : ∀ k, (s.bay k).plan = []) :
    State.NextBeat p ((s.part p).beatno + 1) s (s.closeBeat p) := by
  rcases Nat.mod_two_eq_zero_or_one (s.part p).beatno with h | h
  · rw [State.closeBeat_even h]
    exact (State.applyBeat_kept heng hhost).opens hplan _
  · rw [State.closeBeat_odd h]
    exact (State.snapshot_kept.opens hplan _).served

/-- The close of a compute beat changes no byte, and takes the snapshot. -/
theorem State.closeBeat_odd_bytes (hodd : (s.part p).beatno % 2 = 1) : (s.closeBeat p).beat = s.beat ∧ (s.closeBeat p).acc = s.acc ∧
    ((s.closeBeat p).part p).snapBeat = s.beat ∧ ((s.closeBeat p).part p).snapAcc = s.acc := by
  have hframe {α : Type} (π : State → α) (hbay : ∀ (u : State) b f, π (u.onBay b f) = π u) (hdie : ∀ (u : State) d f, π (u.onDie d f) = π u)
      (hpart : ∀ (u : State) q f, π (u.onPart q f) = π u)
      (hpkg : ∀ (u : State) (l : Pkg → List (Nat × List Byte)), π (u.onPkg fun k => { k with hostData := l k }) = π u) :
      π (s.closeBeat p) = π s := by
    rw [State.closeBeat_odd hodd, State.serveHost_frame π hpart hpkg, State.openBeat_frame π hbay hdie hpart]
    exact hpart _ _ _
  refine ⟨hframe State.beat (fun _ _ _ => rfl) (fun _ _ _ => rfl) (fun _ _ _ => rfl) fun _ _ => rfl,
    hframe State.acc (fun _ _ _ => rfl) (fun _ _ _ => rfl) (fun _ _ _ => rfl) fun _ _ => rfl, ?_, ?_⟩
  · rw [State.closeBeat_odd hodd, State.serveHost_part Part.snapBeat fun _ _ _ => rfl, State.openBeat_part, State.snapshot,
      State.onPart_part_same]
  · rw [State.closeBeat_odd hodd, State.serveHost_part Part.snapAcc fun _ _ _ => rfl, State.openBeat_part, State.snapshot,
      State.onPart_part_same]

theorem State.mem_dueWrites {y : Nat × BEntry} : y ∈ s.dueWrites p ↔ (y.1 ∈ s.bays.map (·.1) ∧ s.partOf y.1 = p) ∧
    y.2 ∈ (s.bay y.1).bq ∧ y.2.served = true ∧ y.2.beat = ((s.part p).beatno : Int) ∧ y.2.op.isWrite = true := by
  obtain ⟨k, e⟩ := y
  simp only [State.dueWrites, List.mem_flatMap, List.mem_filter, List.mem_map, Bool.and_eq_true, beq_iff_eq, Prod.mk.injEq]
  constructor
  · rintro ⟨_, hk, _, ⟨he, ⟨hserved, hbeat⟩, hwrite⟩, rfl, rfl⟩
    exact ⟨hk, he, hserved, hbeat, hwrite⟩
  · rintro ⟨hk, he, hserved, hbeat, hwrite⟩
    exact ⟨k, hk, e, ⟨he, ⟨hserved, hbeat⟩, hwrite⟩, rfl, rfl⟩

/-- The entries of one bay among the writes that are due. -/
def State.dueAt (s : State) (p bay : Nat) : List BEntry := (s.dueWrites p).filterMap fun y => if y.1 = bay then some y.2 else none

theorem State.mem_dueAt {bay : Nat} {e : BEntry} : e ∈ s.dueAt p bay ↔ (bay, e) ∈ s.dueWrites p := by
  simp only [State.dueAt, List.mem_filterMap]
  constructor
  · rintro ⟨⟨k, x⟩, hmem, hx⟩
    by_cases hk : k = bay
    · subst hk
      obtain rfl : x = e := by simpa using hx
      exact hmem
    · simp [hk] at hx
  · exact fun h => ⟨_, h, by simp⟩

/-- A listed bay after the close of an access beat. -/
theorem State.applyBeat_bay (heng : (s.part p).engWrites = []) (hhost : (s.part p).hostWrites = []) {k : Nat}
    (hk : k ∈ s.bays.map (·.1)) : (s.applyBeat p).bay k = (s.bay k).afterWrites (s.part p).beatno (s.dueAt p k) := by
  have h := s.applyDue_onlyBanks (s.dueWrites p)
  rw [State.applyBeat_eq heng hhost, State.onPart_bay, State.mapBays_bay_listed _ _ (by rwa [h.bays])]
  simp only [State.bay, h.bays]
  rfl

/-- The bytes after the close of an access beat are those of its writes. -/
theorem State.closeBeat_even_bytes (heven : (s.part p).beatno % 2 = 0) (heng : (s.part p).engWrites = [])
    (hhost : (s.part p).hostWrites = []) : (s.closeBeat p).beat = (s.applyDue (s.dueWrites p)).beat ∧
      (s.closeBeat p).acc = (s.applyDue (s.dueWrites p)).acc := by
  rw [State.closeBeat_even heven]
  refine ⟨(State.openBeat_frame State.beat (fun _ _ _ => rfl) (fun _ _ _ => rfl) fun _ _ _ => rfl).trans ?_,
    (State.openBeat_frame State.acc (fun _ _ _ => rfl) (fun _ _ _ => rfl) fun _ _ _ => rfl).trans ?_⟩ <;>
    rw [State.applyBeat_eq heng hhost] <;> rfl

/-- A queue of served writes of the beat that closes is emptied, and its exchanges are made. -/
theorem State.closeBeat_queue {bay : Nat} {es : List BEntry} (heven : (s.part p).beatno % 2 = 0) (heng : (s.part p).engWrites = [])
    (hhost : (s.part p).hostWrites = []) (hpart : s.partOf bay = p) (hothers : ∀ k, k ≠ bay → (s.bay k).bq = [])
    (hqueue : (s.bay bay).bq = es) (hne : es ≠ [])
    (hall : ∀ e ∈ es, e.served = true ∧ e.beat = ((s.part p).beatno : Int) ∧ e.op.isWrite = true) :
    (∀ y ∈ s.dueWrites p, y.2 ∈ es) ∧ (∀ e, e ∈ s.dueAt p bay ↔ e ∈ es) ∧ s.dueWrites p ≠ [] ∧ ((s.closeBeat p).bay bay).bq = [] ∧
      ((s.closeBeat p).bay bay).wornB =
        (swapBanks (s.dueAt p bay)).foldl (fun l k => if l.contains k then l.filter (· != k) else l ++ [k]) (s.bay bay).wornB := by
  have hlisted : bay ∈ s.bays.map (·.1) := s.bay_listed Bay.bq (by rw [hqueue]; exact hne)
  have hdue (e : BEntry) : (bay, e) ∈ s.dueWrites p ↔ e ∈ es := by
    rw [State.mem_dueWrites]
    simp only [hqueue]
    exact ⟨fun h => h.2.1, fun he => ⟨⟨hlisted, hpart⟩, he, hall e he⟩⟩
  have honly : ∀ y ∈ s.dueWrites p, y.2 ∈ es := by
    rintro ⟨k, e⟩ hy
    have hmem := (State.mem_dueWrites.mp hy).2.1
    by_cases hk : k = bay
    · subst hk; exact (hdue e).mp hy
    · simp [hothers k hk] at hmem
  obtain ⟨e, he⟩ := List.exists_mem_of_ne_nil es hne
  have hfull : (s.dueAt p bay).isEmpty = false := by
    rw [List.isEmpty_eq_false_iff]
    exact List.ne_nil_of_mem (State.mem_dueAt.mpr ((hdue e).mpr he))
  have hbay : (s.applyBeat p).bay bay = _ := State.applyBeat_bay heng hhost hlisted
  simp only [Bay.afterWrites, hfull, Bool.false_eq_true, if_false] at hbay
  have hgone : (s.bay bay).bq.filter (fun e => !(e.served && e.beat == ((s.part p).beatno : Int))) = [] := by
    rw [hqueue, List.filter_eq_nil_iff]
    intro e he
    obtain ⟨hserved, hbeat, -⟩ := hall e he
    simp [hserved, hbeat]
  have hempty (k : Nat) : ((s.applyBeat p).bay k).bq = [] := by
    by_cases hk : k ∈ s.bays.map (·.1)
    · by_cases hkb : k = bay
      · subst hkb; rw [hbay]; exact hgone
      · rw [State.applyBeat_bay heng hhost hk, Bay.afterWrites]
        split <;> simp [hothers k hkb]
    · have hk' : k ∉ (s.applyBeat p).bays.map (·.1) := by
        rw [State.applyBeat_eq heng hhost]
        simpa [State.onPart, State.setPart, State.mapBays, (s.applyDue_onlyBanks (s.dueWrites p)).bays] using hk
      rw [State.bay_unlisted _ k hk']
      rfl
  refine ⟨honly, fun e => State.mem_dueAt.trans (hdue e), List.ne_nil_of_mem ((hdue e).mpr he), ?_, ?_⟩ <;>
    rw [State.closeBeat_even heven, State.openBeat_bay hempty]
  · exact hempty bay
  · rw [hbay]

end Close

/-! ## BEAT_OVERRUN (R63, R314) -/

section Overrun

variable {s : State} {bay : Nat}

/-- The entries of the open beat that a bay has not served. -/
def State.unservedNow (s : State) (bay : Nat) : List BEntry :=
  (s.bay bay).bq.filter fun e => !e.served && e.beat == ((s.part (s.partOf bay)).beatno : Int)

theorem Bay.givenUp_idle {b : Bay} (h : b.running = none) (e : BEntry) : b.givenUp e = false := by simp [Bay.givenUp, h]

theorem State.unservedNow_eq (s : State) (bay : Nat) : (s.bay bay).unserved.filter
    (fun e => e.beat == ((s.part (s.partOf bay)).beatno : Int)) = s.unservedNow bay := by
  simp only [Bay.unserved, State.unservedNow, List.filter_filter, Bool.and_comm]

/-- At the overrun some entry of the open beat is not served. -/
theorem State.unservedNow_ne_nil (hrun : (s.bay bay).running = none) (hdue : s.overrunDue bay = true) : s.unservedNow bay ≠ [] := by
  simp only [State.overrunDue, Bool.and_eq_true, List.any_eq_true, Bay.givenUp_idle hrun] at hdue
  obtain ⟨-, e, hmem, hbeat, -⟩ := hdue
  rw [← State.unservedNow_eq]
  exact List.ne_nil_of_mem (List.mem_filter.mpr ⟨hmem, hbeat⟩)

/-- The entries that are not served leave the queue. -/
def State.abandoned (s : State) (bay : Nat) : State :=
  s.onBay bay fun b => { b with bq := b.bq.filter fun e => e.served || e.beat != ((s.part (s.partOf bay)).beatno : Int) }

/-- The overrun of a bay with a task and no operation in progress. -/
theorem exec_beatOverrun (hbay : bay < 256) (hrun : (s.bay bay).running = none) (htask : (s.bay bay).task.isSome)
    (hdue : s.overrunDue bay = true) : exec (.beatOverrun bay) s =
      .next ((((s.unservedNow bay).foldl (fun s e => s.onTask e.bay e.task fun b => b.endHold s.now e.hold) (s.abandoned bay)).onPart
        (s.partOf bay) fun x => { x with overrun := x.overrun ++ [bay] }).report bay (s.bay bay).uid
          ⟨0x08, BitVec.ofNat 64 ((s.part (s.partOf bay)).beatno % 65536), BitVec.ofNat 64 (s.unservedNow bay).length, 0, 0⟩) := by
  have hfilter : (s.bay bay).bq.filter (fun e => !(s.unservedNow bay).contains e) =
      (s.bay bay).bq.filter fun e => e.served || e.beat != ((s.part (s.partOf bay)).beatno : Int) := by
    refine List.filter_congr fun e he => ?_
    have hmem : (s.unservedNow bay).contains e = (!e.served && e.beat == ((s.part (s.partOf bay)).beatno : Int)) := by
      rw [Bool.eq_iff_iff, List.contains_iff_mem, State.unservedNow, List.mem_filter]
      simp [he]
    rw [hmem, Bool.not_and, Bool.not_not]
    rfl
  have hgone (g : Running → Running) : (s.onBay bay fun b => { b with
      bq := b.bq.filter fun e => !(s.unservedNow bay).contains e
      running := b.running.map g }) = s.abandoned bay := by
    simp only [State.abandoned, State.onBay, hfilter, hrun, Option.map_none]
  show execBeatOverrun bay s = _
  simp only [execBeatOverrun, not_le.mpr hbay, hdue, hrun, htask, Bay.givenUp_idle hrun, Bool.not_false, Bool.and_true,
    State.unservedNow_eq, Option.any_none, Bool.or_false, Bool.false_eq_true, if_false, if_true, Bool.not_true, hgone]

theorem State.endHolds_bq (es : List BEntry) (u : State) (k : Nat) :
    ((es.foldl (fun s e => s.onTask e.bay e.task fun b => b.endHold s.now e.hold) u).bay k).bq = (u.bay k).bq := by
  refine List.foldlRecOn (motive := fun (v : State) => (v.bay k).bq = (u.bay k).bq) _ _ rfl fun v hv e _ => ?_
  by_cases hk : k = e.bay
  · subst hk
    rw [State.onTask_bay_same]
    split <;> exact hv
  · rw [State.onTask_bay_other hk, hv]

/-- Holds that end touch no memory and no report. -/
theorem State.endHolds_keeps {α : Type} (π : State → α) (hπ : ∀ (u : State) b uid f, π (u.onTask b uid f) = π u) (es : List BEntry)
    (u : State) : π (es.foldl (fun s e => s.onTask e.bay e.task fun b => b.endHold s.now e.hold) u) = π u :=
  List.foldlRecOn (motive := fun v => π v = π u) _ _ rfl fun _ hv _ _ => (hπ _ _ _ _).trans hv

end Overrun

/-! ## Refresh (R64 to R67) -/

section Refresh

variable {s : State} {d : Nat}

/-- The die once the next due time is set. -/
def Die.dueAgain (x : Die) : Die := { x with rfnext := x.rfnext + x.interval }

/-- A window that is owed. -/
theorem exec_refreshDue_owed (hd : d < 4) (hdue : (s.die d).rfnext ≤ s.now) (hodd : (s.part (s.partOfDie d)).beatno % 2 = 1)
    (hroom : (s.die d).rfdebt < 4) :
    exec (.refreshDue d) s = .next (s.setDie d { (s.die d).dueAgain with rfdebt := (s.die d).rfdebt + 1 }) := by
  show execRefreshDue d s = _
  simp only [execRefreshDue, not_le.mpr hd, not_lt.mpr hdue, hodd, hroom, if_false]
  rfl

/-- A window that is forced into a compute beat. -/
theorem exec_refreshDue_forced (hd : d < 4) (hdue : (s.die d).rfnext ≤ s.now) (hodd : (s.part (s.partOfDie d)).beatno % 2 = 1)
    (hfull : 4 ≤ (s.die d).rfdebt) : exec (.refreshDue d) s =
      .next ((s.setDie d { (s.die d).dueAgain with rfend := max (s.die d).rfend s.now + 64, forced := (s.die d).forced + 1 }).mapBays
        fun b x => if dieOf b = d then { x with running := x.running.map fun r => { r with start := r.start + 64 } } else x) := by
  show execRefreshDue d s = _
  simp only [execRefreshDue, not_le.mpr hd, not_lt.mpr hdue, hodd, not_lt.mpr hfull, if_false]
  rfl

/-- A window that runs in an access beat. -/
theorem exec_refreshDue_runs (hd : d < 4) (hdue : (s.die d).rfnext ≤ s.now) (heven : ¬ (s.part (s.partOfDie d)).beatno % 2 = 1) :
    exec (.refreshDue d) s = .next (s.setDie d { (s.die d).dueAgain with rfend := max (s.die d).rfend s.now + 64 }) := by
  have heven' : ((s.part (s.partOfDie d)).beatno % 2 == 1) = false := by simpa using heven
  show execRefreshDue d s = _
  simp only [execRefreshDue, not_le.mpr hd, not_lt.mpr hdue, heven', if_false]
  rfl

/-- The window of a die is over, and in an access beat the reads of the host that waited for it are served. -/
def State.windowEnded (s : State) (d : Nat) : State :=
  let s1 := s.onDie d fun x => { x with rfend := 0 }
  if (s.part (s.partOfDie d)).beatno % 2 = 0 then s1.serveHost (s.partOfDie d) (s.part (s.partOfDie d)).beatno else s1

theorem exec_refreshWindowEnd (hd : d < 4) (hend : (s.die d).rfend ≤ s.now) : exec (.refreshWindowEnd d) s = .next (s.windowEnded d) := by
  show execRefreshWindowEnd d s = _
  simp only [execRefreshWindowEnd, not_le.mpr hd, not_lt.mpr hend, if_false]
  rfl

theorem State.windowEnded_frame {α : Type} (π : State → α) (hpart : ∀ (u : State) q f, π (u.onPart q f) = π u)
    (hpkg : ∀ (u : State) (l : Pkg → List (Nat × List Byte)), π (u.onPkg fun k => { k with hostData := l k }) = π u) :
    π (s.windowEnded d) = π (s.onDie d fun x => { x with rfend := 0 }) := by
  unfold State.windowEnded
  split
  · exact State.serveHost_frame π hpart hpkg
  · rfl

end Refresh

/-! ## The clauses of the statement -/

section Clauses

variable {s : State} {p bay d : Nat}

/-- The served store of the beat is applied at its close. -/
theorem closeBeat_store {e : BEntry} {pa : Nat} {data : List Row} (hpart : s.partOf bay = p) (heng : (s.part p).engWrites = [])
    (hhost : (s.part p).hostWrites = []) (hothers : ∀ k, k ≠ bay → (s.bay k).bq = []) (heven : (s.part p).beatno % 2 = 0)
    (hqueue : (s.bay bay).bq = [e]) (hserved : e.served = true) (hbeat : e.beat = ((s.part p).beatno : Int)) (hop : e.op = .store false pa data) :
    ((s.closeBeat p).bay bay).bq = [] ∧ (s.closeBeat p).acc = s.acc ∧ ((s.closeBeat p).bay bay).wornB = (s.bay bay).wornB ∧
      ∀ a, (s.closeBeat p).beat.byte a = if pa ≤ a ∧ a < pa + (data.flatMap rowBytes).length then (data.flatMap rowBytes).getD (a - pa) 0
        else s.beat.byte a := by
  obtain ⟨honly, hat, hne, hbq, hworn⟩ := State.closeBeat_queue heven heng hhost hpart hothers hqueue (List.cons_ne_nil _ _)
    (by simp [hserved, hbeat, hop, BeatOp.isWrite])
  obtain ⟨hbeatMem, haccMem⟩ := State.closeBeat_even_bytes heven heng hhost
  obtain ⟨hacc, hbytes⟩ := s.applyDue_store hne (pa := pa) (data := data) fun y hy => by
    rw [List.mem_singleton.mp (honly y hy), hop]
  refine ⟨hbq, haccMem.trans hacc, ?_, fun a => ?_⟩
  · rw [hworn, swapBanks_store fun x hx => ⟨false, pa, data, by rw [List.mem_singleton.mp ((hat x).mp hx), hop]⟩]
    rfl
  · rw [hbeatMem, hbytes]
    split
    · next h =>
      obtain ⟨i, rfl⟩ := Nat.exists_eq_add_of_le h.1
      rw [Memory.byte_store_in _ _ _ _ (by omega), Nat.add_sub_cancel_left]
    · exact Memory.byte_store_out _ _ _ _ (by omega)

/-- The exchanges of a beat make one exchange at its close. -/
theorem closeBeat_swaps {es : List BEntry} {b0 nb : Nat} (hpart : s.partOf bay = p) (heng : (s.part p).engWrites = [])
    (hhost : (s.part p).hostWrites = []) (hothers : ∀ k, k ≠ bay → (s.bay k).bq = []) (heven : (s.part p).beatno % 2 = 0)
    (hqueue : (s.bay bay).bq = es) (hne : es ≠ [])
    (hall : ∀ e ∈ es, e.served = true ∧ e.beat = ((s.part p).beatno : Int) ∧ e.op = .aswap b0 nb) :
    ((s.closeBeat p).bay bay).bq = [] ∧ (s.closeBeat p).acc = s.acc ∧ (s.closeBeat p).beat = s.beat ∧
      ∀ k, k ∈ ((s.closeBeat p).bay bay).wornB ↔ if b0 ≤ k ∧ k < b0 + nb then k ∉ (s.bay bay).wornB else k ∈ (s.bay bay).wornB := by
  obtain ⟨honly, hat, -, hbq, hworn⟩ := State.closeBeat_queue heven heng hhost hpart hothers hqueue hne fun e he =>
    ⟨(hall e he).1, (hall e he).2.1, by rw [(hall e he).2.2]; rfl⟩
  obtain ⟨hbeatMem, haccMem⟩ := State.closeBeat_even_bytes heven heng hhost
  have hsame := s.applyDue_swaps fun y hy => (hall y.2 (honly y hy)).2.2
  refine ⟨hbq, by rw [haccMem, hsame], by rw [hbeatMem, hsame], fun k => ?_⟩
  obtain ⟨e, he⟩ := List.exists_mem_of_ne_nil es hne
  have hswaps := mem_swapBanks (k := k) (List.ne_nil_of_mem ((hat e).mpr he)) fun x hx => (hall x ((hat x).mp hx)).2.2
  rw [hworn, mem_foldl_exchange (swapBanks_nodup _)]
  simp only [hswaps]

/-- With no operation running the entries that are not served are abandoned, and the task takes the overrun. -/
theorem overrun_abandons (hbay : bay < 256) (hrun : (s.bay bay).running = none) (htask : (s.bay bay).task.isSome)
    (hdue : s.overrunDue bay = true) :
    let n := (s.part (s.partOf bay)).beatno
    let gone := (s.bay bay).bq.filter fun e => !e.served && e.beat == (n : Int)
    ∃ t, exec (.beatOverrun bay) s = .next t ∧ (t.bay bay).bq = (s.bay bay).bq.filter (fun e => e.served || e.beat != (n : Int)) ∧ gone ≠ [] ∧
      t.pkg.outbox = s.pkg.outbox ++ [⟨bay, (s.bay bay).uid, ⟨0x08, BitVec.ofNat 64 (n % 65536), BitVec.ofNat 64 gone.length, 0, 0⟩, false, 0⟩] ∧
      s.sameBytes t := by
  refine ⟨_, exec_beatOverrun hbay hrun htask hdue, ?_, State.unservedNow_ne_nil hrun hdue, ?_, ?_⟩
  · rw [State.report_bay, State.onPart_bay, State.endHolds_bq, State.abandoned, State.onBay_bay_same]
  · rw [State.report_outbox, State.onPart_pkg, State.endHolds_keeps State.pkg fun _ _ _ _ => State.onTask_pkg]
    rfl
  · exact State.sameBytes_of_eq (State.endHolds_keeps State.scratch (fun _ _ _ _ => State.onTask_scratch) _ _)
      (State.endHolds_keeps State.beat (fun _ _ _ _ => State.onTask_beat) _ _)
      (State.endHolds_keeps State.acc (fun _ _ _ _ => State.onTask_acc) _ _)
      (State.endHolds_keeps State.host (fun _ _ _ _ => State.onTask_host) _ _)
      (State.endHolds_keeps State.expander (fun _ _ _ _ => State.onTask_expander) _ _)

/-- A refresh that falls due is owed or forced in a compute beat, and runs in an access beat. -/
theorem refresh_falls_due (hd : d < 4) (hdue : (s.die d).rfnext ≤ s.now) :
    let x := s.die d
    let odd : Prop := (s.part (s.partOfDie d)).beatno % 2 = 1
    let next := x.rfnext + (if 1360 < x.temp then 4096 else 8192)
    ∃ t, exec (.refreshDue d) s = .next t ∧ (t.die d).rfnext = next ∧ s.sameBytes t ∧ t.pkg = s.pkg ∧ t.parts = s.parts ∧
      (odd → x.rfdebt < 4 → (t.die d).rfdebt = x.rfdebt + 1 ∧ (t.die d).rfend = x.rfend ∧ t.bays = s.bays) ∧
      (odd → 4 ≤ x.rfdebt → (t.die d).rfdebt = x.rfdebt ∧ (t.die d).rfend = max x.rfend s.now + 64 ∧ (t.die d).forced = x.forced + 1 ∧
        ∀ b r, b / 64 = d → (s.bay b).running = some r → (t.bay b).running = some { r with start := r.start + 64 }) ∧
      (¬ odd → (t.die d).rfdebt = x.rfdebt ∧ (t.die d).rfend = max x.rfend s.now + 64 ∧ t.bays = s.bays) := by
  by_cases hodd : (s.part (s.partOfDie d)).beatno % 2 = 1
  · by_cases hroom : (s.die d).rfdebt < 4
    · refine ⟨_, exec_refreshDue_owed hd hdue hodd hroom, ?_, State.sameBytes_of_eq rfl rfl rfl rfl rfl, rfl, rfl, fun _ _ => ?_,
        fun _ hfull => absurd hroom (not_lt.mpr hfull), fun heven => absurd hodd heven⟩ <;> rw [State.setDie_die_same]
      · rfl
      · exact ⟨rfl, rfl, rfl⟩
    · refine ⟨_, exec_refreshDue_forced hd hdue hodd (not_lt.mp hroom), ?_, State.sameBytes_of_eq rfl rfl rfl rfl rfl, rfl, rfl,
        fun _ hroom' => absurd hroom' hroom, fun _ _ => ?_, fun heven => absurd hodd heven⟩ <;>
        rw [State.mapBays_die, State.setDie_die_same]
      · rfl
      · refine ⟨rfl, rfl, rfl, fun b r hb hrun => ?_⟩
        have hlisted : b ∈ s.bays.map (·.1) := s.bay_listed Bay.running (by rw [hrun]; exact Option.some_ne_none r)
        rw [State.mapBays_bay_listed _ _ (by exact hlisted), if_pos (show dieOf b = d from hb), State.setDie_bay, hrun]
        rfl
  · refine ⟨_, exec_refreshDue_runs hd hdue hodd, ?_, State.sameBytes_of_eq rfl rfl rfl rfl rfl, rfl, rfl, fun h => absurd h hodd,
      fun h => absurd h hodd, fun _ => ?_⟩ <;> rw [State.setDie_die_same]
    · rfl
    · exact ⟨rfl, rfl, rfl⟩

/-- A refresh window ends. -/
theorem refresh_window_ends (hd : d < 4) (hend : (s.die d).rfend ≤ s.now) :
    ∃ t, exec (.refreshWindowEnd d) s = .next t ∧ t.die d = { s.die d with rfend := 0 } ∧ t.bays = s.bays ∧ s.sameBytes t := by
  refine ⟨_, exec_refreshWindowEnd hd hend, ?_, ?_, ?_⟩
  · exact (State.windowEnded_frame (State.die · d) (fun _ _ _ => rfl) fun _ _ => rfl).trans (State.onDie_die_same _ _ _)
  · exact State.windowEnded_frame State.bays (fun _ _ _ => rfl) fun _ _ => rfl
  · exact State.sameBytes_of_eq (State.windowEnded_frame State.scratch (fun _ _ _ => rfl) fun _ _ => rfl)
      (State.windowEnded_frame State.beat (fun _ _ _ => rfl) fun _ _ => rfl)
      (State.windowEnded_frame State.acc (fun _ _ _ => rfl) fun _ _ => rfl)
      (State.windowEnded_frame State.host (fun _ _ _ => rfl) fun _ _ => rfl)
      (State.windowEnded_frame State.expander (fun _ _ _ => rfl) fun _ _ => rfl)

end Clauses

end Sys2Proof.Machine

namespace Sys2Proof

/-- Settles O35: the close by the parity of its beat and by what its queue holds, the overrun, and refresh by the beat in which it falls due. -/
theorem beatBoundaries : Obligations.BeatBoundaries := by
  unfold Obligations.BeatBoundaries
  refine ⟨fun p bay s hp hclose hpart heng hhost _ hothers hplan => ?_, fun bay s => overrun_abandons,
    fun d s hd => ⟨refresh_falls_due hd, refresh_window_ends hd⟩⟩
  have hnext := State.closeBeat_next heng hhost hplan
  refine ⟨_, exec_beatClose hp hclose, hnext.beatno, hnext.opened, hnext.planned, hnext.scratch, hnext.host, hnext.expander,
    fun d hd hdp => ?_, State.closeBeat_odd_bytes, fun e pa data => closeBeat_store hpart heng hhost hothers,
    fun es b0 nb => closeBeat_swaps hpart heng hhost hothers⟩
  rw [hnext.die d hd hdp]
  refine ⟨rfl, fun hodd => ⟨?_, fun howed => ?_⟩, fun heven => ?_⟩
  · exact if_pos (by omega)
  · exact if_pos ⟨by omega, howed⟩
  · exact if_neg (by omega)

end Sys2Proof
end


section
/-!
SUPPORT. The handler of a deterministic task after CTXSV has emptied its bay (O14): R371 lets the special registers of such a bay read 0,
so an entry that it sends is strict by the bit that BEATCTL holds alone, not by the task being deterministic.
-/
open Sys2Proof Sys2Proof.Machine

namespace Sys2Proof.Machine

/-- A bay that CTXSV has emptied, with the handler of its deterministic task still on it. -/
def emptiedDetBay : Bay := { Tests.emptied with beatctl := 0, task := some { Tests.task4 with d := true } }

/-- The strict flags of the bay's queue after an instruction. -/
def queueStrict : Out → List Bool
  | .next u => u.here.bq.map BEntry.strict
  | _ => []

/-- LDB of accumulator row 0 of the own bay by that handler sends one entry, and it is not strict. -/
theorem emptiedDetBay_ldb_not_strict :
    queueStrict (exec (.ldb true ⟨false, 0, 0, 0⟩ 0 .empty) (Tests.on emptiedDetBay)) = [false] := rfl

theorem emptiedDetBay_takesWork : (Tests.on emptiedDetBay).carries false .empty none 0 ∧ (Tests.on emptiedDetBay).takesWork 0 :=
  ⟨⟨rfl, rfl⟩, ⟨by decide, by decide, rfl, rfl, rfl, by decide⟩⟩

end Sys2Proof.Machine

namespace Sys2Proof

/-- Refutes O14: the statement makes every entry of a deterministic task strict, also one that its handler sends after CTXSV has emptied the
bay. There BEATCTL reads 0 (R371), and the model marks the entry by what BEATCTL reads: LDB of accumulator row 0 of the own bay into row 0
of tile 0 leaves an entry that is not strict. -/
theorem not_beatRows : ¬ Obligations.BeatRows := by
  intro ⟨hacc, _⟩
  obtain ⟨hcarries, htakes⟩ := emptiedDetBay_takesWork
  have hrow := hacc ⟨false, 0, 0, 0⟩ 0 0 0 .empty (Tests.on emptiedDetBay) 0 0 0 0 rfl (by decide) (by decide) rfl rfl (by decide)
    (by decide) (by decide) rfl (by decide) (fun _ _ => ⟨rfl, rfl⟩)
  have hsends := ((hrow.1 (by decide)).1 rfl).1
  obtain ⟨u, e, hnext, hqueue, -, -, -, -, hstrict, -⟩ := hsends 0 hcarries htakes
  have hflags := emptiedDetBay_ldb_not_strict
  rw [hnext, queueStrict, hqueue, List.map_append, List.map_singleton, hstrict] at hflags
  exact absurd hflags (by decide)

end Sys2Proof
end


section
/-!
SUPPORT. The patterns that rounding gives: each fits in the width of its format (R33, R35).
-/
open Sys2Proof Sys2Proof.Machine

namespace Sys2Proof.Machine

/-! ## Rounded magnitudes (R33) -/

theorem magLt_of_le {m m' : Nat} {e e' : Int} (h : e ≤ e') : magLt m e m' e' = decide (m < m' * 2 ^ (e' - e).toNat) := if_pos h

theorem magLt_of_ge {m m' : Nat} {e e' : Int} (h : e' ≤ e) : magLt m e m' e' = decide (m * 2 ^ (e - e').toNat < m') := by
  rcases h.eq_or_lt with rfl | h
  · simp [magLt]
  · exact if_neg (not_le.mpr h)

/-- On a coarser scale a magnitude rounds down or up. -/
theorem roundMag_coarse {e q : Int} (h : ¬ q ≤ e) (mode u m : Nat) (neg st : Bool) :
    (roundMag mode u neg m e st q).1 = m / 2 ^ (q - e).toNat ∨ (roundMag mode u neg m e st q).1 = m / 2 ^ (q - e).toNat + 1 := by
  rw [roundMag, if_neg h, ← Nat.shiftRight_eq_div_pow]
  exact (ite_eq_or_eq _ _ _).symm

/-- A magnitude below B × 2^q rounds to at most B. -/
theorem roundMag_le {m B : Nat} {e q : Int} (h : magLt m e B q = true) (mode u : Nat) (neg st : Bool) :
    (roundMag mode u neg m e st q).1 ≤ B := by
  by_cases hq : q ≤ e
  · rw [magLt_of_ge hq, decide_eq_true_eq] at h
    rw [roundMag, if_pos hq]
    exact h.le
  · rw [magLt_of_le (by omega), decide_eq_true_eq, ← Nat.div_lt_iff_lt_mul (by positivity)] at h
    rcases roundMag_coarse hq mode u m neg st with hr | hr <;> omega

/-- A magnitude lies below the power of two of its length, on any scale that this power reaches. -/
theorem magLt_two_pow {m p : Nat} {e q : Int} (h : (Nat.log2 m : Int) + 1 + e ≤ p + q) : magLt m e (2 ^ p) q = true := by
  have hlt : m < 2 ^ (Nat.log2 m + 1) := Nat.lt_log2_self
  rcases le_total e q with heq | heq
  · rw [magLt_of_le heq, decide_eq_true_eq, ← Nat.pow_add]
    exact hlt.trans_le (Nat.pow_le_pow_right (by decide) (by omega))
  · rw [magLt_of_ge heq, decide_eq_true_eq]
    calc m * 2 ^ (e - q).toNat < 2 ^ (Nat.log2 m + 1) * 2 ^ (e - q).toNat := Nat.mul_lt_mul_of_pos_right hlt (by positivity)
      _ = 2 ^ (Nat.log2 m + 1 + (e - q).toNat) := (Nat.pow_add ..).symm
      _ ≤ 2 ^ p := Nat.pow_le_pow_right (by decide) (by omega)

/-- A multiple of 2^q that is not above a magnitude of p bits has no more bits than it at that scale. -/
theorem exp_le_of_not_magLt {M r p : Nat} {me q : Int} {x : Nat} (hM : M < 2 ^ p) (hr : 2 ^ x ≤ r) (h : magLt M me r q = false) :
    x + q < p + me := by
  by_contra hcon
  refine absurd h (Bool.not_eq_false _ |>.mpr ?_)
  rcases le_total me q with heq | heq
  · rw [magLt_of_le heq, decide_eq_true_eq]
    calc M < 2 ^ p := hM
      _ ≤ 2 ^ (x + (q - me).toNat) := Nat.pow_le_pow_right (by decide) (by omega)
      _ = 2 ^ x * 2 ^ (q - me).toNat := Nat.pow_add ..
      _ ≤ r * 2 ^ (q - me).toNat := Nat.mul_le_mul_right _ hr
  · rw [magLt_of_ge heq, decide_eq_true_eq]
    calc M * 2 ^ (me - q).toNat < 2 ^ p * 2 ^ (me - q).toNat := Nat.mul_lt_mul_of_pos_right hM (by positivity)
      _ = 2 ^ (p + (me - q).toNat) := (Nat.pow_add ..).symm
      _ ≤ 2 ^ x := Nat.pow_le_pow_right (by decide) (by omega)
      _ ≤ r := hr

/-! ## Packed patterns -/

/-- A packed magnitude whose exponent field is at most E. -/
theorem packMag_lt {L : FloatFmt} {r E : Nat} {q : Int} (hr : r ≤ 2 ^ (L.man + 1)) (hlo : 2 ^ L.man ≤ r → q + L.man + L.bias ≤ E)
    (hhi : 2 ^ (L.man + 1) ≤ r → q + 1 + L.man + L.bias ≤ E) : packMag L r q < (E + 1) * 2 ^ L.man := by
  have htwo : 2 ^ (L.man + 1) = 2 * 2 ^ L.man := Nat.pow_succ'
  have hpos : 0 < 2 ^ L.man := by positivity
  have hfield {z : Int} (h : z ≤ E) {f : Nat} (hf : f < 2 ^ L.man) : z.toNat * 2 ^ L.man + f < (E + 1) * 2 ^ L.man := by
    have hz : z.toNat ≤ E := by omega
    have := Nat.mul_le_mul_right (2 ^ L.man) hz
    rw [Nat.succ_mul]
    omega
  rw [packMag]
  split
  next hsub => exact hsub.trans_le (Nat.le_mul_of_pos_left _ (Nat.succ_pos E))
  next hsub =>
    split
    next hlt => exact hfield (hlo (by omega)) (by omega)
    next hlt => exact hfield (hhi (by omega)) (by omega)

/-- The finite results of a format that is laid out as IEEE formats are, with its largest finite magnitude M × 2^me of full precision. -/
theorem roundF_finite_lt {L : FloatFmt} {m M E mode u : Nat} {e me : Int} {neg st : Bool} (hM : M < 2 ^ (L.man + 1))
    (hE : me + L.man + L.bias = E) (hpos : 1 ≤ E)
    (hbig : magLt M me (roundMag mode u neg m e st ((Nat.log2 m : Int) + e - L.man)).1 ((Nat.log2 m : Int) + e - L.man) = false) :
    packMag L (roundMag mode u neg m e st (max ((Nat.log2 m : Int) + e - L.man) (L.emin - L.man))).1
      (max ((Nat.log2 m : Int) + e - L.man) (L.emin - L.man)) < (E + 1) * 2 ^ L.man := by
  have htwo : 2 ^ (L.man + 1) = 2 * 2 ^ L.man := Nat.pow_succ'
  have hp : 0 < 2 ^ L.man := by positivity
  rcases le_or_gt (L.emin - L.man) ((Nat.log2 m : Int) + e - L.man) with hnorm | hsub
  · rw [max_eq_left hnorm]
    refine packMag_lt (roundMag_le (magLt_two_pow (by omega)) ..) (fun hlo => ?_) fun hhi => ?_
    · have := exp_le_of_not_magLt hM hlo hbig
      omega
    · have := exp_le_of_not_magLt hM hhi hbig
      omega
  · rw [max_eq_right hsub.le]
    have hle : (roundMag mode u neg m e st (L.emin - L.man)).1 ≤ 2 ^ L.man := roundMag_le (magLt_two_pow (by omega)) ..
    refine packMag_lt (hle.trans (by omega)) (fun _ => ?_) fun hhi => by omega
    rw [FloatFmt.emin]
    omega

/-- A format of w bits, laid out as IEEE formats are, whose exponent field is at most E in a finite number. -/
structure IEEEFormat (f w E : Nat) : Prop where
  width : fmtWidth f = w + 1
  field : (E + 1) * 2 ^ (floatFmt f).man ≤ 2 ^ w
  pos : 1 ≤ E
  largest : ∃ (M : Nat) (me : Int), decodeF f (maxFinite f) = .fin false M me ∧ M < 2 ^ ((floatFmt f).man + 1) ∧
    me + (floatFmt f).man + (floatFmt f).bias = E
  overflow : ∀ sat neg, overflowPattern f 0 sat neg < 2 ^ (w + 1)
  nan : canonNaN f < 2 ^ (w + 1)
  infinity : ∃ i, infPattern f = some i ∧ i < 2 ^ w

theorem IEEEFormat.fp32 : IEEEFormat 8 31 254 :=
  ⟨rfl, by decide, by decide, ⟨2 ^ 24 - 1, 104, by decide, by decide, by decide⟩, by decide, by decide, _, rfl, by decide⟩

theorem IEEEFormat.bf16 : IEEEFormat 10 15 254 :=
  ⟨rfl, by decide, by decide, ⟨2 ^ 8 - 1, 120, by decide, by decide, by decide⟩, by decide, by decide, _, rfl, by decide⟩

section

variable {f w E : Nat} (hf : IEEEFormat f w E)
include hf

theorem IEEEFormat.sign_le (neg : Bool) : (if neg then signBit f else 0) ≤ 2 ^ w := by
  rw [signBit, hf.width, Nat.add_sub_cancel]
  split
  · exact le_rfl
  · exact Nat.zero_le _

theorem IEEEFormat.roundF_lt (sat : Bool) (u : Nat) (neg : Bool) (m : Nat) (e : Int) (sticky : Bool) :
    (roundF f 0 sat u neg m e sticky).1 < 2 ^ (w + 1) := by
  have hsign := hf.sign_le neg
  have htwo : 2 ^ (w + 1) = 2 * 2 ^ w := Nat.pow_succ'
  have hpos : 0 < 2 ^ w := by positivity
  obtain ⟨M, me, hmax, hM, hme⟩ := hf.largest
  rw [roundF]
  split
  · dsimp only; omega
  · simp only [hmax]
    split
    next hbig => exact hf.overflow sat neg
    next hbig =>
      have hfin := (roundF_finite_lt (mode := 0) (u := u) (neg := neg) (st := sticky) hM hme hf.pos
        (Bool.not_eq_true _ ▸ hbig)).trans_le hf.field
      dsimp only
      omega

/-- What a rounding to such a format yields fits in its width. -/
theorem IEEEFormat.roundFV_lt (sat : Bool) (u : Nat) (v : FV) : (roundFV f ⟨0, sat⟩ u v).1 < 2 ^ (w + 1) := by
  cases v with
  | nan sig => exact hf.nan
  | inf neg =>
    obtain ⟨i, hi, hlt⟩ := hf.infinity
    have hsign := hf.sign_le neg
    have htwo : 2 ^ (w + 1) = 2 * 2 ^ w := Nat.pow_succ'
    simp only [roundFV, hi]
    omega
  | fin neg m e => exact hf.roundF_lt sat u neg m e false

end

/-! ## Results in FP32 (R44) -/

theorem roundFV_fp32_lt (sat : Bool) (v : FV) : (roundFV 8 ⟨0, sat⟩ 0 v).1 < 2 ^ 32 := IEEEFormat.fp32.roundFV_lt sat 0 v

theorem roundFV_bf16_lt (sat : Bool) (v : FV) : (roundFV 10 ⟨0, sat⟩ 0 v).1 < 2 ^ 16 := IEEEFormat.bf16.roundFV_lt sat 0 v

theorem add32_lt (a b : Nat) : (add32 a b).1 < 2 ^ 32 := roundFV_fp32_lt false _

theorem fma32_lt (a b c : Nat) : (fma32 a b c).1 < 2 ^ 32 := roundFV_fp32_lt false _

theorem amacColumn_lt (L : Lanes) (w mant E mu acc : Nat) : (amacColumn L w mant E mu acc).1 < 2 ^ 32 := by
  rw [amacColumn]
  dsimp only
  split
  · exact IEEEFormat.fp32.nan
  · exact roundFV_fp32_lt false _

end Sys2Proof.Machine
end


section
/-!
SUPPORT. Commit points that act bank by bank, and the statement about AMAC, AOP, ASUM and ADRAIN: the turn of one bank as a function of what the
bank holds, and what the turns of all banks give.
-/
open Sys2Proof Sys2Proof.Machine

namespace Sys2Proof.Machine

theorem beatKey_eq (bay bank side row byte : Nat) : beatKey bay bank side row byte = beatAt bay bank side row + byte := rfl

/-! ## The turns of all banks -/

theorem State.commits_mono {s : State} {bay : Nat} {P Q : State → Running → Prop} (h : s.commits bay P) (hPQ : ∀ t x, P t x → Q t x) :
    s.commits bay Q := by
  obtain ⟨t, x, hexec, hrun, hbay, hother, hscratch, hhost, hexpander, hP⟩ := h
  exact ⟨t, x, hexec, hrun, hbay, hother, hscratch, hhost, hexpander, hPQ t x hP⟩

/-- A turn changes beat memory and accumulators alone. -/
def touchesArrays (act : State → Nat → State × Flags) : Prop :=
  ∀ u k, { (act u k).1 with beat := u.beat, acc := u.acc } = u

/-- A commit step made of the turns of banks. -/
def turnsStep (s : State) (r : Running) (b0 nb : Nat) (act : State → Nat → State × Flags) : Commit :=
  { s := (overBanksFrom act s b0 nb).1, r := { r with flags := r.flags ||| (overBanksFrom act s b0 nb).2 } }

section Turns

variable {s : State} {bay b0 nb : Nat} {r : Running} {o : ArrayOp} {act : State → Nat → State × Flags}

/-- The reads of an operation meet no poison at a commit point of the statement. -/
theorem State.atPoint.clean (h : s.atPoint bay r o) (tiles beat acc : List Nat) : s.arrayPoison bay tiles beat acc = none := by
  obtain ⟨-, -, -, -, -, -, htile, hbeat, hacc⟩ := h
  exact State.arrayPoison_none htile hbeat hacc tiles beat acc

/-- An operation that reads rows and then acts on every bank. -/
theorem State.atPoint.overBanks (h : s.atPoint bay r o) {turn : State → Nat → State × Flags} (tiles beat acc : List Nat)
    (hturn : ∀ u k, turn u k = act u k) :
    s.overBanks r bay ((List.range nb).map (b0 + ·)) tiles beat acc turn = turnsStep s r b0 nb act := by
  rw [State.overBanks_none (h.clean ..), funext fun u => funext (hturn u)]
  rfl

/-- A tile row reads as it stands there. -/
theorem State.atPoint.readRow (h : s.atPoint bay r o) (n i : Nat) : s.readRow bay n i = (s.bay bay).row n := by
  obtain ⟨-, -, -, -, -, hpends, -⟩ := h
  simp [State.readRow, Bay.inWindow, hpends]

theorem State.atPoint.done_lt (h : s.atPoint bay r o) : r.done < o.steps := by
  obtain ⟨-, hrun, hop, -, hdue, -⟩ := h
  exact State.commitDue_done hrun hop hdue

/-- A commit step that does not fail. -/
theorem State.atPoint.commits_of_step {t : State} {x : Running} (h : s.atPoint bay r o)
    (hstep : s.arrayStep bay r o = { s := t, r := x }) (hbays : t.bays = s.bays) (hscratch : t.scratch = s.scratch) (hhost : t.host = s.host)
    (hexpander : t.expander = s.expander) {P : State → Running → Prop}
    (hP : P (t.withRunning bay { x with done := r.done + 1 }) { x with done := r.done + 1 }) : s.commits bay P := by
  obtain ⟨hbay, hrun, hop, hstop, hdue, -⟩ := h
  have hexec := exec_arrayCommitPoint hbay hrun hop hdue (by rw [hstep])
  simp only [hstep, hstop, Bool.false_eq_true, if_false] at hexec
  have hb (k : Nat) : t.bay k = s.bay k := by rw [State.bay, hbays]; rfl
  refine ⟨_, _, hexec, ?_, ?_, fun k hk => ?_, hscratch, hhost, hexpander, hP⟩
  · rw [State.withRunning, State.onBay_bay_same]
  · rw [State.withRunning, State.onBay_bay_same, hb]
  · rw [State.withRunning, State.onBay_bay_other _ _ _ _ hk, hb]

/-- A commit point made of the turns of banks. -/
theorem State.atPoint.commits_of_turns (h : s.atPoint bay r o) (hstep : s.arrayStep bay r o = turnsStep s r b0 nb act)
    (htouch : touchesArrays act) :
    s.commits bay fun t x => r.goesOn x ∧ x.out = r.out ∧ t.pkg = s.pkg ∧ t.beat = (overBanksFrom act s b0 nb).1.beat ∧
      t.acc = (overBanksFrom act s b0 nb).1.acc ∧ x.flags = r.flags ||| (overBanksFrom act s b0 nb).2 := by
  have hkeep {α : Type} (p : State → α) (hp : ∀ (u : State) m n, p { u with beat := m, acc := n } = p u) :
      p (overBanksFrom act s b0 nb).1 = p s :=
    overBanksFrom_keeps p (fun u k => (hp (act u k).1 u.beat u.acc).symm.trans (congrArg p (htouch u k))) nb
  refine h.commits_of_step hstep (hkeep _ fun _ _ _ => rfl) (hkeep _ fun _ _ _ => rfl) (hkeep _ fun _ _ _ => rfl)
    (hkeep _ fun _ _ _ => rfl) ⟨⟨rfl, rfl, rfl, ?_⟩, rfl, hkeep State.pkg fun _ _ _ => rfl, rfl, rfl, rfl⟩
  obtain ⟨-, -, -, hstop, -⟩ := h
  exact hstop

/-- A number of a bank is what the bank's own turn makes it. -/
theorem overBanksFrom_acc_num (hloc : BankLocal s bay act) {k a n : Nat} (hlo : b0 ≤ k) (hhi : k < b0 + nb)
    (hin : inBank (256 * bay + k) a n) : (overBanksFrom act s b0 nb).1.acc.num a n = (act s k).1.acc.num a n :=
  (overBanksFrom_bank hloc nb hlo hhi).acc_num hin

theorem overBanksFrom_beat_num (hloc : BankLocal s bay act) {k a n : Nat} (hlo : b0 ≤ k) (hhi : k < b0 + nb)
    (hin : inBank (256 * bay + k) a n) : (overBanksFrom act s b0 nb).1.beat.num a n = (act s k).1.beat.num a n :=
  (overBanksFrom_bank hloc nb hlo hhi).beat_num hin

/-- Where each turn changes one stretch of its bank, the turns change no byte outside these. -/
theorem overBanksFrom_acc_sameOutside (hloc : BankLocal s bay act) {A : Nat → Nat} {n : Nat}
    (h : ∀ k a, a < A k ∨ A k + n ≤ a → (act s k).1.acc.byte a = s.acc.byte a) :
    sameOutside s.acc (overBanksFrom act s b0 nb).1.acc (fun a => ∃ k, (b0 ≤ k ∧ k < b0 + nb) ∧ a = A k) n :=
  fun a ha => overBanksFrom_acc_byte hloc nb a fun k hlo hhi _ => h k a (ha _ ⟨k, ⟨hlo, hhi⟩, rfl⟩)

theorem overBanksFrom_beat_sameOutside (hloc : BankLocal s bay act) {A : Nat → Nat} {n : Nat}
    (h : ∀ k a, a < A k ∨ A k + n ≤ a → (act s k).1.beat.byte a = s.beat.byte a) :
    sameOutside s.beat (overBanksFrom act s b0 nb).1.beat (fun a => ∃ k, (b0 ≤ k ∧ k < b0 + nb) ∧ a = A k) n :=
  fun a ha => overBanksFrom_beat_byte hloc nb a fun k hlo hhi _ => h k a (ha _ ⟨k, ⟨hlo, hhi⟩, rfl⟩)

/-- The flags of an operation after turns that join those of their elements. -/
theorem joinFlags_of_turns (hloc : BankLocal s bay act) {n : Nat} {g : Nat → Nat → Flags} {x : Running}
    (hx : x.flags = r.flags ||| (overBanksFrom act s b0 nb).2)
    (hg : ∀ k i, (act s (b0 + k)).2.getLsbD i = (List.range n).any fun e => (g k e).getLsbD i) : joinFlags r x nb n g := fun i => by
  rw [hx, BitVec.getLsbD_or, overBanksFrom_flags hloc]
  simp only [hg]

end Turns

/-! ## Elements stored by a turn -/

/-- The list of results of a row, element by element. -/
def rowResults (n : Nat) (f : Nat → Nat × Flags) : List Nat × Flags := orFlags ((List.range n).map f)

theorem rowResults_getD {n e : Nat} (f : Nat → Nat × Flags) (h : e < n) : (rowResults n f).1.getD e 0 = (f e).1 := by
  rw [rowResults, orFlags_range, List.getD_eq_getElem _ _ (by simpa using h)]
  simp

theorem rowResults_flags (n i : Nat) (f : Nat → Nat × Flags) :
    (rowResults n f).2.getLsbD i = (List.range n).any fun e => (f e).2.getLsbD i := orFlags_range_getLsbD n f i

/-- An element of results that have been stored in b bytes each. -/
theorem Memory.num_store_results (m : Memory) (a : Nat) {b n w N e : Nat} (f : Nat → Nat × Flags) (hw : w = 8 * b) (hN : N = b * n)
    (he : e < n) (hlt : (f e).1 < 2 ^ w) :
    (m.store a (leBytes N (packElems w (rowResults n f).1))).num (a + b * e) b = (f e).1 := by
  subst hw hN
  rw [Memory.num_store_elems _ _ _ _ _ _ he, rowResults_getD f he, Nat.mod_eq_of_lt hlt]

/-- The turn that replaces one accumulator row of a bank by results that depend on the bank. -/
def accTurn (bay row : Nat) (f : State → Nat → Nat → Nat × Flags) (u : State) (k : Nat) : State × Flags :=
  (u.setAccRow bay k row (rowResults 256 (f u k)).1, (rowResults 256 (f u k)).2)

section AccTurn

variable {s : State} {bay b0 nb row : Nat} {r : Running} {o : ArrayOp} {f : State → Nat → Nat → Nat × Flags}

/-- Results that depend on one bank alone. -/
def ofBank (s : State) (bay n : Nat) (f : State → Nat → Nat → Nat × Flags) : Prop :=
  ∀ u k e, s.agreeOn (256 * bay + k) u → e < n → f u k e = f s k e

theorem ofBank.rowResults {n : Nat} (h : ofBank s bay n f) {u : State} {k : Nat} (hu : s.agreeOn (256 * bay + k) u) :
    rowResults n (f u k) = Machine.rowResults n (f s k) :=
  congrArg orFlags (List.map_congr_left fun e he => h u k e hu (List.mem_range.mp he))

/-- A commit point that replaces one accumulator row of every bank. -/
theorem State.atPoint.commits_accTurn (h : s.atPoint bay r o) (hstep : s.arrayStep bay r o = turnsStep s r b0 nb (accTurn bay row f))
    (hrow : row < 16) (hf : ofBank s bay 256 f) (hlt : ∀ k e, (f s k e).1 < 2 ^ 32) :
    s.commits bay fun t x => r.goesOn x ∧ x.out = r.out ∧ t.pkg = s.pkg ∧ t.beat = s.beat ∧
      (∀ k, b0 ≤ k ∧ k < b0 + nb → ∀ e, e < 256 → t.acc.num (accAt bay k row + 4 * e) 4 = (f s k e).1) ∧
      sameOutside s.acc t.acc (fun a => ∃ k, (b0 ≤ k ∧ k < b0 + nb) ∧ a = accAt bay k row) 1024 ∧
      joinFlags r x nb 256 (fun k e => (f s (b0 + k) e).2) := by
  have hloc : BankLocal s bay (accTurn bay row f) :=
    bankLocal_setAccRow hrow (fun u k => rowResults 256 (f u k)) fun u k hu => hf.rowResults hu
  refine State.commits_mono (h.commits_of_turns hstep fun _ _ => rfl) fun t x ⟨hgo, hout, hpkg, hbeat, hacc, hflags⟩ =>
    ⟨hgo, hout, hpkg, hbeat.trans (overBanksFrom_keeps State.beat (fun _ _ => rfl) nb), fun k hk e he => ?_, ?_, ?_⟩
  · rw [hacc, overBanksFrom_acc_num hloc hk.1 hk.2 (inBank_accAt hrow (by omega)), accTurn, State.setAccRow_eq, State.putAcc]
    exact Memory.num_store_results _ _ _ rfl rfl he (hlt k e)
  · rw [hacc]
    exact overBanksFrom_acc_sameOutside hloc fun k a ha => by rw [accTurn, State.setAccRow_byte_out s _ ha]
  · exact joinFlags_of_turns hloc hflags fun k i => by rw [accTurn, rowResults_flags]

end AccTurn

/-! ## The commit points of ASUM (R75) -/

section Asum

variable {s : State} {bay b0 nb arow n side row : Nat} {bf hi : Bool} {r : Running}

/-- An element of the beat row, widened. -/
def asumSource (bay side row : Nat) (bf hi : Bool) (u : State) (k e : Nat) : Nat × Flags :=
  if bf then widen32 10 (u.beat.num (beatAt bay k side row + (if hi then 512 else 0) + 2 * e) 2)
  else widen32 8 (u.beat.num (beatAt bay k side row + 4 * e) 4)

/-- The sum with its flags. -/
def asumResult (bay arow side row : Nat) (bf hi : Bool) (u : State) (k e : Nat) : Nat × Flags :=
  ((add32 (u.acc.num (accAt bay k arow + 4 * e) 4) (asumSource bay side row bf hi u k e).1).1,
    (asumSource bay side row bf hi u k e).2 ||| (add32 (u.acc.num (accAt bay k arow + 4 * e) 4) (asumSource bay side row bf hi u k e).1).2)

theorem State.accRow_eq (u : State) (bay bank row : Nat) :
    u.accRow bay bank row = (List.range 256).map fun e => u.acc.num (accAt bay bank row + 4 * e) 4 := by
  rw [State.accRow, accKey_zero]
  exact elems_num u.acc _ 4 256

theorem zipWith_range_map {α β γ : Type} (n : Nat) (g : Nat → α) (h : Nat → β) (op : α → β → γ) :
    List.zipWith op ((List.range n).map g) ((List.range n).map h) = (List.range n).map fun e => op (g e) (h e) := by
  rw [List.zipWith_map, List.zipWith_self]

theorem State.atPoint.step_asum (h : s.atPoint bay r (.asum bf hi b0 nb arow n side row)) :
    s.arrayStep bay r (.asum bf hi b0 nb arow n side row) =
      turnsStep s r b0 nb (accTurn bay arow (asumResult bay arow side (row + r.done) bf hi)) := by
  rw [State.arrayStep]
  refine h.overBanks _ _ _ fun u k => ?_
  have hsrc : (if bf then (elems 16 256 (u.beat.num (beatKey bay k side (row + r.done) 0 + if hi then 512 else 0) 512)).map (widen32 10)
        else (elems 32 256 (u.beat.num (beatKey bay k side (row + r.done) 0) 1024)).map (widen32 8)) =
      (List.range 256).map (asumSource bay side (row + r.done) bf hi u k) := by
    rw [beatKey_zero]
    cases bf
    · exact (congrArg (List.map (widen32 8)) (elems_num u.beat _ 4 256)).trans (List.map_map ..)
    · exact (congrArg (List.map (widen32 10)) (elems_num u.beat _ 2 256)).trans (List.map_map ..)
  rw [accTurn, rowResults]
  dsimp only
  rw [hsrc, State.accRow_eq, zipWith_range_map]
  rfl

/-- A commit point of ASUM. -/
theorem asum_commits (h : s.atPoint bay r (.asum bf hi b0 nb arow n side row)) (hrow : arow < 16) (hsrc : row + n ≤ 1536) (hside : side < 2) :
    s.commits bay fun t x => r.goesOn x ∧ x.out = r.out ∧ t.pkg = s.pkg ∧ t.beat = s.beat ∧
      (∀ k, b0 ≤ k ∧ k < b0 + nb → ∀ e, e < 256 → t.acc.num (accAt bay k arow + 4 * e) 4 =
        (asumResult bay arow side (row + r.done) bf hi s k e).1) ∧
      sameOutside s.acc t.acc (fun a => ∃ k, (b0 ≤ k ∧ k < b0 + nb) ∧ a = accAt bay k arow) 1024 ∧
      joinFlags r x nb 256 (fun k e => (asumResult bay arow side (row + r.done) bf hi s (b0 + k) e).2) := by
  have hdone : r.done < n := h.done_lt
  refine h.commits_accTurn h.step_asum hrow (fun u k e hu he => ?_) fun k e => add32_lt _ _
  have hacc := hu.acc_num (inBank_accAt (j := 4 * e) (n := 4) hrow (by omega))
  have hlong := hu.beat_num (inBank_beatAt (j := 4 * e) (n := 4) hside (show row + r.done < 1536 by omega) (by omega))
  have hhalf := hu.beat_num (inBank_beatAt (j := (if hi then 512 else 0) + 2 * e) (n := 2) hside (show row + r.done < 1536 by omega)
    (by split <;> omega))
  rw [← Nat.add_assoc] at hhalf
  simp only [asumResult, asumSource, hacc, hlong, hhalf]

end Asum

/-! ## The commit points of AMAC (R73) -/

section Amac

variable {s : State} {bay b0 nb src n g wrow a0 sfmt wfmt scale : Nat} {zero : Bool} {r : Running}

/-- The block step of one column: the mantissa bytes, the scale bytes, and the accumulator or +0. -/
def amacResult (bay arow w kb mrow srow : Nat) (L : Lanes) (fresh : Bool) (worn : Nat → Nat) (u : State) (k c : Nat) : Nat × Flags :=
  amacColumn L w (u.beat.num (beatAt bay k (worn k) mrow + 2 * w * (256 * kb + c)) (2 * w))
    (u.beat.num (beatAt bay k (worn k) srow + 2 * (256 * kb + c)) 2 % 256)
    (u.beat.num (beatAt bay k (worn k) srow + 2 * (256 * kb + c)) 2 / 256)
    (if fresh then 0 else u.acc.num (accAt bay k arow + 4 * c) 4)

/-- The columns of a block step, from the windows that hold the bytes of all of them. -/
theorem amac_columns (bay arow w kb mrow srow : Nat) (L : Lanes) (fresh : Bool) (worn : Nat → Nat) (u : State) (k : Nat) :
    List.zipWith (fun (x : Nat × Nat) a => amacColumn L w x.1 (x.2 % 256) (x.2 / 256) a)
      ((elems (16 * w) 256 (u.beat.num (beatKey bay k (worn k) mrow 0 + 512 * w * kb) (512 * w))).zip
        (elems 16 256 (u.beat.num (beatKey bay k (worn k) srow 0 + 512 * kb) 512)))
      (if fresh then List.replicate 256 0 else u.accRow bay k arow) =
    (List.range 256).map (amacResult bay arow w kb mrow srow L fresh worn u k) := by
  have hmant : elems (16 * w) 256 (u.beat.num (beatKey bay k (worn k) mrow 0 + 512 * w * kb) (512 * w)) =
      (List.range 256).map fun c => u.beat.num (beatAt bay k (worn k) mrow + 2 * w * (256 * kb + c)) (2 * w) := by
    have hall := elems_num u.beat (beatAt bay k (worn k) mrow + 512 * w * kb) (2 * w) 256
    rw [beatKey_zero, show 16 * w = 8 * (2 * w) by ring, show 512 * w = 2 * w * 256 by ring]
    rw [show 512 * w = 2 * w * 256 by ring] at hall
    refine hall.trans (List.map_congr_left fun c _ => ?_)
    rw [Nat.add_assoc, show 2 * w * 256 * kb + 2 * w * c = 2 * w * (256 * kb + c) by ring]
  have hscal : elems 16 256 (u.beat.num (beatKey bay k (worn k) srow 0 + 512 * kb) 512) =
      (List.range 256).map fun c => u.beat.num (beatAt bay k (worn k) srow + 2 * (256 * kb + c)) 2 := by
    refine (elems_num u.beat (beatKey bay k (worn k) srow 0 + 512 * kb) 2 256).trans (List.map_congr_left fun c _ => ?_)
    rw [beatKey_zero, Nat.add_assoc, show 512 * kb + 2 * c = 2 * (256 * kb + c) by ring]
  have hold : (if fresh then List.replicate 256 0 else u.accRow bay k arow) =
      (List.range 256).map fun c => if fresh then 0 else u.acc.num (accAt bay k arow + 4 * c) 4 := by
    cases fresh
    · exact u.accRow_eq bay k arow
    · simp
  rw [hmant, hscal, hold, List.zip, zipWith_range_map, zipWith_range_map]
  rfl

/-- A byte of the scale rows. -/
def scaleAt (b : Bay) (scale i : Nat) : Nat := (b.row (scale + i / 128)).toNat / 256 ^ (i % 128) % 256

theorem State.atPoint.scaleByte {o : ArrayOp} (h : s.atPoint bay r o) (scale i : Nat) :
    s.scaleByte bay scale i = scaleAt (s.bay bay) scale i := by
  rw [State.scaleByte, h.readRow, bits, Nat.shiftRight_eq_div_pow, two_pow_bytes, show 8 * (i % 128) + 7 + 1 - 8 * (i % 128) = 8 by omega]
  rfl

/-- The streamed elements of block kb of vector v, aligned. -/
def amacLanes (b : Bay) (src g sfmt scale v kb : Nat) : Lanes :=
  let nth := g * blocksPerRow sfmt * v + kb
  lanes (streamBlock sfmt (kb % blocksPerRow sfmt) (b.row (src + v * g + kb / blocksPerRow sfmt))
    (if isNBF sfmt then scaleAt b scale (2 * nth) else if isMX sfmt then scaleAt b scale (16 * nth / 32) else 0)
    (if isBLK sfmt then scaleAt b scale (2 * nth + 1) else 0))

/-- The first scale byte of a block, by the kind of its format. -/
theorem firstScale_eq (sfmt nth : Nat) (sb : Nat → Nat) : (if isBLK sfmt then sb (if isNBF sfmt then 2 * nth else nth / 2) else 0) =
    if isNBF sfmt then sb (2 * nth) else if isMX sfmt then sb (16 * nth / 32) else 0 := by
  have hhalf : 16 * nth / 32 = nth / 2 := by omega
  rw [isBLK, hhalf]
  cases isMX sfmt <;> cases isNBF sfmt <;> rfl

theorem State.atPoint.step_amac (h : s.atPoint bay r (.amac src n g b0 nb wrow a0 sfmt wfmt scale zero)) {B v kb : Nat}
    (hB : B = g * blocksPerRow sfmt) (hv : v = r.done / B) (hkb : kb = r.done % B) :
    s.arrayStep bay r (.amac src n g b0 nb wrow a0 sfmt wfmt scale zero) =
      turnsStep s r b0 nb (accTurn bay (a0 + v) (amacResult bay (a0 + v) (wfmt - 16) kb wrow (wrow + ceilDiv (B * (wfmt - 16)) 2)
        (amacLanes (s.bay bay) src g sfmt scale v kb) (zero && kb == 0) (s.bay bay).worn)) := by
  subst hB hv hkb
  rw [State.arrayStep]
  refine h.overBanks _ _ _ fun u k => ?_
  rw [accTurn, rowResults, ← amac_columns, amacLanes, ← firstScale_eq]
  simp only [h.scaleByte, h.readRow]

theorem inBank_beatWindow {bay bank side row j n : Nat} (hside : side < 2) (h : 1024 * row + j + n ≤ 1024 * 1536) :
    inBank (256 * bay + bank) (beatAt bay bank side row + j) n := by
  unfold inBank beatAt
  omega

theorem le_two_mul_ceilDiv (x : Nat) : x ≤ 2 * ceilDiv x 2 := by
  unfold ceilDiv
  omega

theorem Bay.worn_lt (b : Bay) (k : Nat) : b.worn k < 2 := by
  unfold Bay.worn
  split <;> decide

/-- A column depends on its bank alone, where the mantissa bytes and the scale bytes of all blocks fit. -/
theorem amacResult_ofBank (s : State) (bay arow w kb B mrow srow : Nat) (L : Lanes) (fresh : Bool) (b : Bay) (hrow : arow < 16) (hkb : kb < B)
    (hmant : 1024 * mrow + 512 * (B * w) ≤ 1024 * 1536) (hscal : 1024 * srow + 512 * B ≤ 1024 * 1536) :
    ofBank s bay 256 (amacResult bay arow w kb mrow srow L fresh b.worn) := fun u k c hu hc => by
  have hblock : 256 * kb + c + 1 ≤ 256 * B := by omega
  have hbytes : 2 * w * (256 * kb + c) + 2 * w ≤ 512 * (B * w) := by
    calc 2 * w * (256 * kb + c) + 2 * w = 2 * w * (256 * kb + c + 1) := by ring
      _ ≤ 2 * w * (256 * B) := Nat.mul_le_mul_left _ hblock
      _ = 512 * (B * w) := by ring
  have hm := hu.beat_num (inBank_beatWindow (row := mrow) (j := 2 * w * (256 * kb + c)) (n := 2 * w) (b.worn_lt k) (by omega))
  have hs := hu.beat_num (inBank_beatWindow (row := srow) (j := 2 * (256 * kb + c)) (n := 2) (b.worn_lt k) (by omega))
  have ha := hu.acc_num (inBank_accAt (row := arow) (j := 4 * c) (n := 4) hrow (by omega))
  simp only [amacResult, hm, hs, ha]

/-- A commit point of AMAC. -/
theorem amac_commits (h : s.atPoint bay r (.amac src n g b0 nb wrow a0 sfmt wfmt scale zero)) {B w v kb : Nat}
    (hB : B = g * blocksPerRow sfmt) (hw : w = wfmt - 16) (hv : v = r.done / B) (hkb : kb = r.done % B) (hdvd : g ∣ n)
    (hrows : wrow + ceilDiv (B * w) 2 + ceilDiv B 2 ≤ 1536) (hacc : a0 + n / g ≤ 16) :
    let step := amacResult bay (a0 + v) w kb wrow (wrow + ceilDiv (B * w) 2) (amacLanes (s.bay bay) src g sfmt scale v kb)
      (zero && kb == 0) (s.bay bay).worn
    s.commits bay fun t x => r.goesOn x ∧ x.out = r.out ∧ t.pkg = s.pkg ∧ t.beat = s.beat ∧
      (∀ k, b0 ≤ k ∧ k < b0 + nb → ∀ c, c < 256 → t.acc.num (accAt bay k (a0 + v) + 4 * c) 4 = (step s k c).1) ∧
      sameOutside s.acc t.acc (fun a => ∃ k, (b0 ≤ k ∧ k < b0 + nb) ∧ a = accAt bay k (a0 + v)) 1024 ∧
      joinFlags r x nb 256 (fun k c => (step s (b0 + k) c).2) := by
  intro step
  have hdone : r.done < n * blocksPerRow sfmt := h.done_lt
  obtain ⟨q, rfl⟩ := hdvd
  have hall : r.done < q * B := by rwa [hB, ← Nat.mul_assoc, Nat.mul_comm q g]
  have hpos : 0 < B := Nat.pos_of_ne_zero fun h0 => by simp [h0] at hall
  have hvec : v < q := by rw [hv]; exact (Nat.div_lt_iff_lt_mul hpos).mpr hall
  have hg : 0 < g := Nat.pos_of_mul_pos_right (hB ▸ hpos)
  rw [Nat.mul_div_cancel_left q hg] at hacc
  have hm := le_two_mul_ceilDiv (B * w)
  have hs := le_two_mul_ceilDiv B
  subst hw
  exact h.commits_accTurn (h.step_amac hB hv hkb) (by omega)
    (amacResult_ofBank s bay _ _ _ B _ _ _ _ _ (by omega) (hkb ▸ Nat.mod_lt _ hpos) (by omega) (by omega)) fun k c => amacColumn_lt ..

end Amac

/-! ## Turns that write a stretch of a bank's beat memory -/

/-- The turn that puts n results of w bits into N bytes of beat memory. -/
def beatTurn (A : Nat → Nat) (N w n : Nat) (f : State → Nat → Nat → Nat × Flags) (u : State) (k : Nat) : State × Flags :=
  (u.putBeat (A k) (leBytes N (packElems w (rowResults n (f u k)).1)), (rowResults n (f u k)).2)

section BeatTurn

variable {s : State} {bay N b w n : Nat} {A : Nat → Nat} {f : State → Nat → Nat → Nat × Flags}

theorem beatTurn_local (hin : ∀ k, inBank (256 * bay + k) (A k) N) (hf : ofBank s bay n f) : BankLocal s bay (beatTurn A N w n f) where
  same u k h := by
    rw [beatTurn, beatTurn, hf.rowResults h]
    exact ⟨h.putBeat _ _, rfl⟩
  other u k q hq := u.putBeat_agreeOn (by rw [leBytes_length]; exact hin k) hq

theorem beatTurn_num {k e : Nat} (hw : w = 8 * b) (hN : N = b * n) (he : e < n) (hlt : (f s k e).1 < 2 ^ w) :
    (beatTurn A N w n f s k).1.beat.num (A k + b * e) b = (f s k e).1 :=
  Memory.num_store_results _ _ _ hw hN he hlt

theorem beatTurn_byte_out {k a : Nat} (h : a < A k ∨ A k + N ≤ a) : (beatTurn A N w n f s k).1.beat.byte a = s.beat.byte a :=
  Memory.byte_store_out _ _ _ _ (by rwa [leBytes_length])

theorem beatTurn_flags {k i : Nat} : (beatTurn A N w n f s k).2.getLsbD i = (List.range n).any fun e => (f s k e).2.getLsbD i :=
  rowResults_flags ..

end BeatTurn

end Sys2Proof.Machine
end


section
/-!
SUPPORT. The commit points of ADRAIN and AOP, and the statement about the operations that act bank by bank.
-/
open Sys2Proof Sys2Proof.Machine

namespace Sys2Proof.Machine

/-! ## The commit points of ADRAIN (R266) -/

section Adrain

variable {s : State} {bay b0 nb arow cnt brow side row : Nat} {bf hi z : Bool} {r : Running}

theorem rowResults_no_flags (n : Nat) (g : Nat → Nat) : rowResults n (fun e => (g e, 0)) = ((List.range n).map g, 0) := by
  refine Prod.ext (orFlags_range n _) (BitVec.eq_of_getLsbD_eq fun i _ => ?_)
  rw [rowResults_flags]
  simp

/-- An element of the accumulator row as it drains. -/
def adrainResult (bay row : Nat) (bf : Bool) (u : State) (k e : Nat) : Nat × Flags :=
  if bf then roundFV 10 ⟨0, false⟩ 0 (decodeF 8 (u.acc.num (accAt bay k row + 4 * e) 4)) else (u.acc.num (accAt bay k row + 4 * e) 4, 0)

theorem adrainResult_ofBank (s : State) (hrow : row < 16) : ofBank s bay 256 (adrainResult bay row bf) := fun u k e hu he => by
  have hacc := hu.acc_num (inBank_accAt (row := row) (j := 4 * e) (n := 4) hrow (by omega))
  simp only [adrainResult, hacc]

/-- Where the results of a bank go. -/
def drainAt (bay side brow : Nat) (bf hi : Bool) (k : Nat) : Nat := beatAt bay k side brow + if bf && hi then 512 else 0

theorem drainAt_long (k : Nat) : drainAt bay side brow false hi k = beatAt bay k side brow := Nat.add_zero _

theorem adrainResult_long (s : State) (k e : Nat) : adrainResult bay row false s k e = (s.acc.num (accAt bay k row + 4 * e) 4, 0) := rfl

theorem inBank_drainAt (hside : side < 2) (hrow : brow < 1536) (k : Nat) :
    inBank (256 * bay + k) (drainAt bay side brow bf hi k) (if bf then 512 else 1024) := by
  refine inBank_beatAt hside hrow ?_
  cases bf <;> cases hi <;> decide

/-- One bank's turn: the row drains, and is zeroed where ZERO is set. -/
def adrainTurn (bay row side brow : Nat) (bf hi z : Bool) (u : State) (k : Nat) : State × Flags :=
  let v := beatTurn (drainAt bay side brow bf hi) (if bf then 512 else 1024) (if bf then 16 else 32) 256 (adrainResult bay row bf) u k
  (if z then v.1.setAccRow bay k row [] else v.1, v.2)

theorem adrainTurn_beat (u : State) (k : Nat) : (adrainTurn bay row side brow bf hi z u k).1.beat =
    (beatTurn (drainAt bay side brow bf hi) (if bf then 512 else 1024) (if bf then 16 else 32) 256 (adrainResult bay row bf) u k).1.beat := by
  cases z <;> rfl

theorem adrainTurn_flags (u : State) (k : Nat) : (adrainTurn bay row side brow bf hi z u k).2 =
    (beatTurn (drainAt bay side brow bf hi) (if bf then 512 else 1024) (if bf then 16 else 32) 256 (adrainResult bay row bf) u k).2 := by
  rw [adrainTurn]

theorem adrainTurn_acc (u : State) (k : Nat) : (adrainTurn bay row side brow bf hi z u k).1.acc =
    if z then (azeroTurn bay row u k).1.acc else u.acc := by
  cases z <;> rfl

theorem adrainTurn_local (s : State) (hrow : row < 16) (hside : side < 2) (hbrow : brow < 1536) :
    BankLocal s bay (adrainTurn bay row side brow bf hi z) := by
  have hdrain := beatTurn_local (w := if bf then 16 else 32) (inBank_drainAt (bf := bf) (hi := hi) hside hbrow)
    (adrainResult_ofBank (bay := bay) (bf := bf) s hrow)
  refine ⟨fun u k h => ⟨fun a ha => ⟨?_, ?_⟩, ?_⟩, fun u k q hq a ha => ⟨?_, ?_⟩⟩
  · rw [adrainTurn_beat, adrainTurn_beat]
    exact ((hdrain.same u k h).1 a ha).1
  · rw [adrainTurn_acc, adrainTurn_acc]
    cases z
    · exact (h a ha).2
    · exact (((azeroTurn_local s hrow).same u k h).1 a ha).2
  · rw [adrainTurn_flags, adrainTurn_flags]
    exact (hdrain.same u k h).2
  · rw [adrainTurn_beat]
    exact (hdrain.other u k q hq a ha).1
  · rw [adrainTurn_acc]
    cases z
    · rfl
    · exact ((azeroTurn_local s hrow).other u k q hq a ha).2

theorem State.atPoint.step_adrain (h : s.atPoint bay r (.adrain b0 nb arow cnt brow side bf hi z)) :
    s.arrayStep bay r (.adrain b0 nb arow cnt brow side bf hi z) =
      turnsStep s r b0 nb (adrainTurn bay (arow + r.done) side (brow + r.done) bf hi z) := by
  rw [State.arrayStep]
  refine h.overBanks _ _ _ fun u k => ?_
  have hround : orFlags ((u.accRow bay k (arow + r.done)).map fun e => roundFV 10 ⟨0, false⟩ 0 (decodeF 8 e)) =
      rowResults 256 (adrainResult bay (arow + r.done) true u k) := by
    rw [State.accRow_eq, List.map_map]
    rfl
  have hbits : (u.accRow bay k (arow + r.done), (0 : Flags)) = rowResults 256 (adrainResult bay (arow + r.done) false u k) := by
    rw [State.accRow_eq]
    exact (rowResults_no_flags 256 _).symm
  cases bf
  · simp only [adrainTurn, beatTurn, drainAt, beatKey_eq, ← hbits, Bool.false_and, Bool.false_eq_true, if_false]
  · simp only [adrainTurn, beatTurn, drainAt, beatKey_eq, hround, Bool.true_and, if_true]

/-- A number of the beat row after a turn. -/
theorem adrainTurn_num {b k e : Nat} (hw : (if bf then 16 else 32) = 8 * b) (hN : (if bf then 512 else 1024) = b * 256) (he : e < 256)
    (hlt : (adrainResult bay row bf s k e).1 < 2 ^ (if bf then 16 else 32)) :
    (adrainTurn bay row side brow bf hi z s k).1.beat.num (drainAt bay side brow bf hi k + b * e) b = (adrainResult bay row bf s k e).1 := by
  rw [adrainTurn_beat]
  exact beatTurn_num hw hN he hlt

/-- A commit point of ADRAIN. -/
theorem adrain_commits (h : s.atPoint bay r (.adrain b0 nb arow cnt brow side bf hi z)) (hacc : arow + cnt ≤ 16) (hbeat : brow + cnt ≤ 1536)
    (hside : side < 2) :
    s.commits bay fun t x => r.goesOn x ∧ x.out = r.out ∧ t.pkg = s.pkg ∧
      (∀ k, b0 ≤ k ∧ k < b0 + nb → ∀ e, e < 256 →
        (bf = false → t.beat.num (beatAt bay k side (brow + r.done) + 4 * e) 4 = s.acc.num (accAt bay k (arow + r.done) + 4 * e) 4) ∧
        (bf = true → t.beat.num (beatAt bay k side (brow + r.done) + (if bf && hi then 512 else 0) + 2 * e) 2 =
          (roundFV 10 ⟨0, false⟩ 0 (decodeF 8 (s.acc.num (accAt bay k (arow + r.done) + 4 * e) 4))).1) ∧
        (z = true → t.acc.num (accAt bay k (arow + r.done) + 4 * e) 4 = 0)) ∧
      sameOutside s.beat t.beat (fun a => ∃ k, (b0 ≤ k ∧ k < b0 + nb) ∧ a = drainAt bay side (brow + r.done) bf hi k)
        (if bf then 512 else 1024) ∧
      sameOutside s.acc t.acc (fun a => z = true ∧ ∃ k, (b0 ≤ k ∧ k < b0 + nb) ∧ a = accAt bay k (arow + r.done)) 1024 ∧
      joinFlags r x nb 256 (fun k e => (adrainResult bay (arow + r.done) bf s (b0 + k) e).2) := by
  have hdone : r.done < cnt := h.done_lt
  have hrow : arow + r.done < 16 := by omega
  have hbrow : brow + r.done < 1536 := by omega
  have hloc := adrainTurn_local (bay := bay) (bf := bf) (hi := hi) (z := z) s hrow hside hbrow
  refine State.commits_mono (h.commits_of_turns h.step_adrain fun u k => by cases z <;> rfl)
    fun t x ⟨hgo, hout, hpkg, hb, ha, hflags⟩ => ⟨hgo, hout, hpkg, fun k hk e he => ⟨fun hbf => ?_, fun hbf => ?_, fun hz => ?_⟩, ?_, ?_, ?_⟩
  · subst hbf
    have hnum := adrainTurn_num (s := s) (bay := bay) (row := arow + r.done) (side := side) (brow := brow + r.done) (bf := false) (hi := hi)
      (z := z) (b := 4) (k := k) rfl rfl he (Memory.num_lt ..)
    rw [drainAt_long, adrainResult_long] at hnum
    rw [hb, overBanksFrom_beat_num hloc hk.1 hk.2 (inBank_beatAt hside hbrow (by omega)), hnum]
  · subst hbf
    have hnum := adrainTurn_num (s := s) (bay := bay) (row := arow + r.done) (side := side) (brow := brow + r.done) (bf := true) (hi := hi)
      (z := z) (b := 2) (k := k) rfl rfl he (roundFV_bf16_lt ..)
    rw [Nat.add_assoc, hb, overBanksFrom_beat_num hloc hk.1 hk.2 (inBank_beatAt hside hbrow (by split <;> omega)), ← Nat.add_assoc]
    exact hnum
  · subst hz
    rw [ha, overBanksFrom_acc_num hloc hk.1 hk.2 (inBank_accAt hrow (by omega)), adrainTurn_acc, if_pos rfl, azeroTurn, State.setAccRow_eq,
      State.putAcc, packElems, Memory.num_store _ _ _ (by omega), Nat.zero_div]
    rfl
  · rw [hb]
    exact overBanksFrom_beat_sameOutside hloc fun k a hout => by rw [adrainTurn_beat, beatTurn_byte_out hout]
  · rw [ha]
    refine fun a hout => overBanksFrom_acc_byte hloc nb a fun k hlo hhi _ => ?_
    rw [adrainTurn_acc]
    cases z
    · rfl
    · exact State.setAccRow_byte_out s _ (hout _ ⟨rfl, k, ⟨hlo, hhi⟩, rfl⟩)
  · exact joinFlags_of_turns hloc hflags fun k i => by rw [adrainTurn_flags, beatTurn_flags]

end Adrain

/-! ## The commit points of AOP (R74) -/

section Aop

theorem aopWidth_le_two {ty : Nat} (h : ty < 3) : fmtWidth ty = aopWidth ty := by
  interval_cases ty <;> rfl

theorem encodeI_lt (f : Nat) (sat : Bool) (x : Int) : encodeI f sat x < 2 ^ fmtWidth f := by
  have hpos : (0 : Int) < (2 ^ fmtWidth f : Nat) := by positivity
  have := Int.emod_lt_of_pos (if sat then satInt x (intRange f).1 (intRange f).2 else x) hpos
  have := Int.emod_nonneg (if sat then satInt x (intRange f).1 (intRange f).2 else x) hpos.ne'
  simp only [encodeI, wrap]
  omega

theorem satInt_eq_max_min {x lo hi : Int} (h : lo ≤ hi) : satInt x lo hi = max lo (min hi x) := by
  unfold satInt
  split_ifs <;> omega

/-- A number of a signed format, wrapped or clamped. -/
theorem encodeI_signed {ty : Nat} (h : ty < 3) (sat : Bool) (v : Int) : encodeI ty sat v =
    ((if sat then max (-2 ^ (aopWidth ty - 1)) (min (2 ^ (aopWidth ty - 1) - 1) v) else v) % 2 ^ aopWidth ty).toNat := by
  have hpow : (0 : Int) < 2 ^ (aopWidth ty - 1) := by positivity
  rw [← satInt_eq_max_min (by omega)]
  simp only [encodeI, wrap, intRange, aopWidth_le_two h, if_pos (show ty < 4 by omega)]
  push_cast
  rfl

theorem minMaxF_lt {f a b B : Nat} {isMax : Bool} (ha : a < B) (hb : b < B) (hn : canonNaN f < B) : (minMaxF f isMax a b).1 < B := by
  unfold minMaxF
  dsimp only
  repeat' split
  all_goals assumption

variable {s : State} {bay b0 nb side d a b n c ty op row : Nat} {sat : Bool} {r : Running}

theorem aopWidth_bytes (ty : Nat) : aopWidth ty = 8 * (aopWidth ty / 8) := by
  unfold aopWidth
  split <;> rfl

theorem aopWidth_row (ty : Nat) : 1024 = aopWidth ty / 8 * (8192 / aopWidth ty) := by
  unfold aopWidth
  split <;> rfl

/-- A result of AOP fits in the width of its type. -/
theorem aopElem_lt (hty : ty < 4) {x y : Nat} (hx : x < 2 ^ aopWidth ty) (hy : y < 2 ^ aopWidth ty) :
    (aopElem ty sat op c x y).1 < 2 ^ aopWidth ty := by
  rw [aopElem]
  dsimp only
  by_cases hmove : op = 5
  · rwa [if_pos hmove]
  by_cases hconst : op = 6
  · rw [if_neg hmove, if_pos hconst]
    exact Nat.mod_lt _ (by positivity)
  rw [if_neg hmove, if_neg hconst]
  by_cases hfloat : ty = 3
  · subst hfloat
    rw [if_pos rfl]
    split
    · exact minMaxF_lt hx hy IEEEFormat.bf16.nan
    · exact roundFV_bf16_lt sat _
  · rw [if_neg hfloat, ← aopWidth_le_two (show ty < 3 by omega)]
    exact encodeI_lt ty sat _

/-- An element of a beat row of a type. -/
def aopSource (bay side ty row : Nat) (u : State) (k e : Nat) : Nat :=
  u.beat.num (beatAt bay k side row + aopWidth ty / 8 * e) (aopWidth ty / 8)

theorem aopSource_lt (u : State) (k e : Nat) : aopSource bay side ty row u k e < 2 ^ aopWidth ty := by
  rw [aopWidth_bytes ty, two_pow_bytes]
  exact Memory.num_lt ..

theorem aopSource_fits {e : Nat} (he : e < 8192 / aopWidth ty) : aopWidth ty / 8 * e + aopWidth ty / 8 ≤ 1024 := by
  calc aopWidth ty / 8 * e + aopWidth ty / 8 = aopWidth ty / 8 * (e + 1) := by ring
    _ ≤ aopWidth ty / 8 * (8192 / aopWidth ty) := Nat.mul_le_mul_left _ he
    _ = 1024 := (aopWidth_row ty).symm

theorem aopSource_ofBank {u : State} {k e : Nat} (hu : s.agreeOn (256 * bay + k) u) (hside : side < 2) (hrow : row < 1536)
    (he : e < 8192 / aopWidth ty) : aopSource bay side ty row u k e = aopSource bay side ty row s k e :=
  hu.beat_num (inBank_beatAt hside hrow (aopSource_fits he))

theorem elems_beatRow (u : State) (bay side ty row k : Nat) :
    elems (aopWidth ty) (8192 / aopWidth ty) (u.beat.num (beatKey bay k side row 0) 1024) =
      (List.range (8192 / aopWidth ty)).map (aopSource bay side ty row u k) := by
  have hall := elems_num u.beat (beatAt bay k side row) (aopWidth ty / 8) (8192 / aopWidth ty)
  rw [← aopWidth_bytes, ← aopWidth_row] at hall
  rw [beatKey_zero, hall]
  rfl

/-- An element of the destination with its flags. -/
def aopResult (bay side ty : Nat) (sat : Bool) (op c a b : Nat) (u : State) (k e : Nat) : Nat × Flags :=
  aopElem ty sat op c (aopSource bay side ty a u k e) (aopSource bay side ty b u k e)

/-- One bank's turn of a commit point of AOP. -/
def aopTurn (bay side ty : Nat) (sat : Bool) (op c d a b : Nat) : State → Nat → State × Flags :=
  beatTurn (fun k => beatAt bay k side d) 1024 (aopWidth ty) (8192 / aopWidth ty) (aopResult bay side ty sat op c a b)

theorem State.atPoint.step_aop (h : s.atPoint bay r (.aop ty sat op b0 nb side d a b n c)) :
    s.arrayStep bay r (.aop ty sat op b0 nb side d a b n c) =
      turnsStep s r b0 nb (aopTurn bay side ty sat op c (d + r.done) (a + r.done) (b + r.done)) := by
  rw [State.arrayStep]
  refine h.overBanks _ _ _ fun u k => ?_
  dsimp only
  rw [elems_beatRow, elems_beatRow, zipWith_range_map, beatKey_zero]
  rfl

/-- A commit point of AOP. -/
theorem aop_commits (h : s.atPoint bay r (.aop ty sat op b0 nb side d a b n c)) (hty : ty < 4) (hside : side < 2) (hd : d + n ≤ 1536)
    (ha : a + n ≤ 1536) (hb : b + n ≤ 1536) :
    s.commits bay fun t x => r.goesOn x ∧ x.out = r.out ∧ t.pkg = s.pkg ∧ t.acc = s.acc ∧
      (∀ k, b0 ≤ k ∧ k < b0 + nb → ∀ e, e < 8192 / aopWidth ty → aopSource bay side ty (d + r.done) t k e =
        (aopResult bay side ty sat op c (a + r.done) (b + r.done) s k e).1) ∧
      sameOutside s.beat t.beat (fun y => ∃ k, (b0 ≤ k ∧ k < b0 + nb) ∧ y = beatAt bay k side (d + r.done)) 1024 ∧
      joinFlags r x nb (8192 / aopWidth ty) (fun k e => (aopResult bay side ty sat op c (a + r.done) (b + r.done) s (b0 + k) e).2) := by
  have hdone : r.done < n := h.done_lt
  have hdest : d + r.done < 1536 := by omega
  have hloc : BankLocal s bay (aopTurn bay side ty sat op c (d + r.done) (a + r.done) (b + r.done)) :=
    beatTurn_local (fun k => inBank_beatRow hside hdest) fun u k e hu he => by
      rw [aopResult, aopResult, aopSource_ofBank hu hside (by omega) he, aopSource_ofBank hu hside (by omega) he]
  refine State.commits_mono (h.commits_of_turns h.step_aop fun _ _ => rfl) fun t x ⟨hgo, hout, hpkg, hbeat, hacc, hflags⟩ =>
    ⟨hgo, hout, hpkg, hacc.trans (overBanksFrom_keeps State.acc (fun _ _ => rfl) nb), fun k hk e he => ?_, ?_, ?_⟩
  · rw [aopSource, hbeat, overBanksFrom_beat_num hloc hk.1 hk.2 (inBank_beatAt hside hdest (aopSource_fits he))]
    exact beatTurn_num (A := fun k => beatAt bay k side (d + r.done)) (aopWidth_bytes ty) (aopWidth_row ty) he
      (aopElem_lt hty (aopSource_lt ..) (aopSource_lt ..))
  · rw [hbeat]
    exact overBanksFrom_beat_sameOutside hloc fun k a hout => by
      rw [aopTurn]
      exact beatTurn_byte_out hout
  · exact joinFlags_of_turns hloc hflags fun k i => by rw [aopTurn, beatTurn_flags]

/-- The exact result of an operation on BF16 elements. -/
def aopExact (op c x y : Nat) : FV × Flags := match op with
  | 0 => addFV 0 (decodeF 10 x) (decodeF 10 y)
  | 1 => addFV 0 (decodeF 10 x) (decodeF 10 y).neg
  | 2 => mulFV (decodeF 10 x) (.fin false 1 c)
  | _ => mulFV (decodeF 10 x) (decodeF 10 (c % 2 ^ 16))

/-- The exact result of an operation on integers of w bits. -/
def aopInt (op w c : Nat) (x y : Int) : Int := match op with
  | 0 => x + y
  | 1 => x - y
  | 2 => x * 2 ^ c
  | 3 => x * signed w c
  | _ => max x y

theorem aopElem_move (ty c x y : Nat) (sat : Bool) : aopElem ty sat 5 c x y = (x, 0) := rfl

theorem aopElem_const (ty c x y : Nat) (sat : Bool) : aopElem ty sat 6 c x y = (c % 2 ^ aopWidth ty, 0) := rfl

theorem aopElem_max (c x y : Nat) (sat : Bool) : aopElem 3 sat 4 c x y = minMaxF 10 true x y := rfl

theorem aopElem_float (hop : op < 4) (x y : Nat) : aopElem 3 sat op c x y = ((roundFV 10 ⟨0, sat⟩ 0 (aopExact op c x y).1).1,
    (aopExact op c x y).2 ||| (roundFV 10 ⟨0, sat⟩ 0 (aopExact op c x y).1).2) := by
  interval_cases op <;> rfl

theorem aopElem_int (hty : ty < 3) (hop : op < 5) (x y : Nat) : aopElem ty sat op c x y =
    (((if sat then max (-2 ^ (aopWidth ty - 1)) (min (2 ^ (aopWidth ty - 1) - 1) (aopInt op (aopWidth ty) c (signed (aopWidth ty) x)
      (signed (aopWidth ty) y))) else aopInt op (aopWidth ty) c (signed (aopWidth ty) x) (signed (aopWidth ty) y)) %
        2 ^ aopWidth ty).toNat, 0) := by
  have hmax (x y : Int) : (if x < y then y else x) = max x y := by split_ifs <;> omega
  rw [aopElem, ← encodeI_signed hty]
  interval_cases op <;> simp [hty.ne, aopInt, hmax]

/-- An element of AOP by its operation and its type. -/
theorem aopElem_eq (hty : ty < 4) (hop : op ≤ 6) (x y : Nat) : aopElem ty sat op c x y =
    if op = 5 then (x, 0) else if op = 6 then (c % 2 ^ aopWidth ty, 0)
    else if ty = 3 then
      if op = 4 then minMaxF 10 true x y
      else ((roundFV 10 ⟨0, sat⟩ 0 (aopExact op c x y).1).1, (aopExact op c x y).2 ||| (roundFV 10 ⟨0, sat⟩ 0 (aopExact op c x y).1).2)
    else (((if sat then max (-2 ^ (aopWidth ty - 1)) (min (2 ^ (aopWidth ty - 1) - 1) (aopInt op (aopWidth ty) c (signed (aopWidth ty) x)
      (signed (aopWidth ty) y))) else aopInt op (aopWidth ty) c (signed (aopWidth ty) x) (signed (aopWidth ty) y)) %
        2 ^ aopWidth ty).toNat, 0) := by
  split_ifs with hmove hconst hfloat hmax
  · rw [hmove, aopElem_move]
  · rw [hconst, aopElem_const]
  · rw [hfloat, hmax, aopElem_max]
  · rw [hfloat, aopElem_float (by omega)]
  · rw [aopElem_int (by omega) (by omega), if_pos ‹_›]
  · rw [aopElem_int (by omega) (by omega), if_neg ‹_›]

end Aop

theorem amacResult_fresh (bay arow w kb mrow srow : Nat) (L : Lanes) (zero : Bool) (worn : Nat → Nat) (u : State) (k c : Nat) :
    amacResult bay arow w kb mrow srow L (zero && kb == 0) worn u k c =
      amacColumn L w (u.beat.num (beatAt bay k (worn k) mrow + 2 * w * (256 * kb + c)) (2 * w))
        (u.beat.num (beatAt bay k (worn k) srow + 2 * (256 * kb + c)) 2 % 256)
        (u.beat.num (beatAt bay k (worn k) srow + 2 * (256 * kb + c)) 2 / 256)
        (if zero = true ∧ kb = 0 then 0 else u.acc.num (accAt bay k arow + 4 * c) 4) := by
  simp only [amacResult, Bool.and_eq_true, beq_iff_eq]

theorem joinFlags_congr {r x : Running} {nb n : Nat} {f g : Nat → Nat → Flags} (h : ∀ k e, f k e = g k e) (hf : joinFlags r x nb n f) :
    joinFlags r x nb n g := by
  rwa [← funext fun k => funext (h k)]

end Sys2Proof.Machine

namespace Sys2Proof

/-- Settles O59: each operation's turn of one bank is found by its own lemma, and the banks do not meet. -/
theorem bankCommitPoints : Obligations.BankCommitPoints := by
  intro s bay b0 nb r _ _
  refine ⟨fun arow cnt brow side bf hi z hat hacc hbeat hside => ?_, fun ty op side d a b n c sat hat hty hop hside hd ha hb => ?_,
    fun arow n side row bf hi hat hrow hsrc hside => ?_,
    fun src n g wrow a0 sfmt wfmt scale zero hat hg hdvd hs hlo hhi hrows hacc => ?_⟩
  · refine State.commits_mono (adrain_commits hat hacc hbeat hside) fun t x ⟨hgo, hout, hpkg, hnums, hbeats, haccs, hflags⟩ =>
      ⟨hgo, hout, hpkg, hnums, hbeats, haccs, ?_⟩
    cases bf <;> exact hflags
  · refine State.commits_mono (aop_commits hat hty hside hd ha hb) fun t x ⟨hgo, hout, hpkg, haccs, hnums, hbeats, hflags⟩ =>
      ⟨hgo, hout, hpkg, haccs, fun k hk e he => (hnums k hk e he).trans (congrArg Prod.fst ?_), hbeats,
        joinFlags_congr (fun k e => congrArg Prod.snd ?_) hflags⟩
    · exact aopElem_eq hty hop _ _
    · exact aopElem_eq hty hop _ _
  · exact asum_commits hat hrow hsrc hside
  · refine State.commits_mono (amac_commits hat rfl rfl rfl rfl hdvd hrows hacc)
      fun t x ⟨hgo, hout, hpkg, hbeat, hnums, haccs, hflags⟩ => ⟨hgo, hout, hpkg, hbeat,
        fun k hk c hc => (hnums k hk c hc).trans (congrArg Prod.fst ?_), haccs, joinFlags_congr (fun k c => congrArg Prod.snd ?_) hflags⟩
    · exact amacResult_fresh ..
    · exact amacResult_fresh ..

end Sys2Proof
end


section
/-!
SUPPORT. The tiles of correcting mode: elements of consecutive tile rows, the rows of a tile in the accumulators and what replacing them does,
and the checks against a limit (R129 to R139).
-/
open Sys2Proof Sys2Proof.Machine

namespace Sys2Proof.Machine

/-! ## Elements of tile rows (R131) -/

/-- Element j of the tile rows from one on. -/
def tileWord (b : Bay) (row j : Nat) : Nat := (b.row (row + j / 32)).toNat / 2 ^ (32 * (j % 32)) % 2 ^ 32

theorem flatten_map_range {α : Type} (f : Nat → α) (w n : Nat) (g : Nat → List α)
    (hg : ∀ i, g i = (List.range w).map fun j => f (w * i + j)) : ((List.range n).map g).flatten = (List.range (w * n)).map f := by
  induction n with
  | zero => rfl
  | succ n ih => rw [List.range_succ, List.map_append, List.flatten_append, ih, Nat.mul_succ, List.range_add, List.map_append]; simp [hg]

theorem take_map_range {α : Type} (f : Nat → α) {n m : Nat} (h : n ≤ m) : ((List.range m).map f).take n = (List.range n).map f := by
  rw [← List.map_take, List.take_range, Nat.min_eq_left h]

theorem State.atPoint.tileElems {s : State} {bay : Nat} {r : Running} {o : ArrayOp} (h : s.atPoint bay r o) {row rows n : Nat}
    (hn : n ≤ 32 * rows) : s.tileElems bay row rows n = (List.range n).map (tileWord (s.bay bay) row) := by
  have hrow (i : Nat) : elems 32 32 (s.readRow bay (row + i) (3100 + i)).toNat =
      (List.range 32).map fun j => tileWord (s.bay bay) row (32 * i + j) := by
    rw [h.readRow, elems_eq]
    refine List.map_congr_left fun j hj => ?_
    have hj' : j < 32 := List.mem_range.mp hj
    rw [tileWord, Nat.mul_add_div (by decide), Nat.div_eq_of_lt hj', Nat.mul_add_mod, Nat.mod_eq_of_lt hj']
    rfl
  rw [State.tileElems, flatten_map_range (tileWord (s.bay bay) row) 32 rows _ hrow, take_map_range _ hn]

/-! ## Rows of a tile (R129) -/

/-- Where element j of row i of a tile stands. -/
def TileDesc.cell (t : TileDesc) (bay i j : Nat) : Nat := accAt bay (t.bank0 + i % t.nb) (t.arow + i / t.nb) + 4 * j

/-- A tile fits in the accumulators of a bay. -/
structure TileDesc.fits (t : TileDesc) : Prop where
  nb : 1 ≤ t.nb
  banks : t.bank0 + t.nb ≤ 256
  rows : t.arow + ceilDiv t.nrow t.nb ≤ 16
  cols : t.ncol ≤ 256

theorem div_lt_ceilDiv {i n k : Nat} (hi : i < n) (hk : 1 ≤ k) : i / k < ceilDiv n k := by
  rw [ceilDiv, Nat.lt_iff_add_one_le, Nat.le_div_iff_mul_le hk, Nat.succ_mul]
  have := Nat.div_mul_le_self i k
  omega

theorem TileDesc.fits.row_lt {t : TileDesc} (h : t.fits) {i : Nat} (hi : i < t.nrow) : t.arow + i / t.nb < 16 := by
  have := div_lt_ceilDiv hi h.nb
  have := h.rows
  omega

theorem TileDesc.cell_zero (t : TileDesc) (bay i : Nat) : accAt bay (t.place i).1 (t.place i).2 = t.cell bay i 0 := by
  rw [TileDesc.cell, TileDesc.place, Nat.mul_zero, Nat.add_zero]

theorem TileDesc.cell_add (t : TileDesc) (bay i j : Nat) : t.cell bay i j = t.cell bay i 0 + 4 * j := by
  rw [TileDesc.cell, TileDesc.cell, Nat.mul_zero, Nat.add_zero]

/-- The rows of a tile lie apart. -/
theorem TileDesc.fits.apart {t : TileDesc} (h : t.fits) (bay : Nat) {i k : Nat} (hi : i < t.nrow) (hk : k < t.nrow) (hne : i ≠ k) :
    t.cell bay i 0 + 1024 ≤ t.cell bay k 0 ∨ t.cell bay k 0 + 1024 ≤ t.cell bay i 0 := by
  have hri := h.row_lt hi
  have hrk := h.row_lt hk
  have hne' : ¬(i % t.nb = k % t.nb ∧ i / t.nb = k / t.nb) := fun ⟨hm, hd⟩ =>
    hne (by rw [← Nat.div_add_mod i t.nb, ← Nat.div_add_mod k t.nb, hm, hd])
  unfold TileDesc.cell accAt
  generalize i % t.nb = mi at *
  generalize k % t.nb = mk at *
  generalize i / t.nb = di at *
  generalize k / t.nb = dk at *
  omega

section TileRows

variable {s : State} {bay i : Nat} {t : TileDesc}

theorem State.tileRow_eq (s : State) (bay i : Nat) (hcols : t.ncol ≤ 256) :
    s.tileRow bay t i = (List.range t.ncol).map fun j => s.acc.num (t.cell bay i j) 4 := by
  rw [State.tileRow, State.accRow_eq, take_map_range _ hcols]
  rfl

theorem State.setTileRow_acc (l : List Nat) : (s.setTileRow bay t i l).acc = s.acc.store (t.cell bay i 0)
    (leBytes 1024 (packElems 32 (l ++ (s.accRow bay (t.place i).1 (t.place i).2).drop t.ncol))) := by
  rw [State.setTileRow, State.setAccRow_eq, State.putAcc, t.cell_zero]

/-- An element of a row once the row of the tile has been replaced: from NCOL on they stay. -/
theorem State.setTileRow_num (f : Nat → Nat) (hcols : t.ncol ≤ 256) {j : Nat} (hj : j < 256) :
    (s.setTileRow bay t i ((List.range t.ncol).map f)).acc.num (t.cell bay i j) 4 =
      if j < t.ncol then f j % 2 ^ 32 else s.acc.num (t.cell bay i j) 4 := by
  have hkept : (List.range t.ncol).map f ++ (s.accRow bay (t.place i).1 (t.place i).2).drop t.ncol =
      (List.range 256).map fun j => if j < t.ncol then f j else s.acc.num (t.cell bay i j) 4 := by
    rw [State.accRow_eq, t.cell_zero]
    refine List.ext_getElem (by simp; omega) fun x h1 h2 => ?_
    rw [List.getElem_append]
    by_cases hx : x < t.ncol
    · simp [hx]
    · simp [hx, Nat.add_sub_cancel' (not_lt.mp hx), ← t.cell_add]
  have hlt : s.acc.num (t.cell bay i j) 4 < 2 ^ 32 := Memory.num_lt ..
  have helem := Memory.num_store_elems s.acc (t.cell bay i 0) 4 256 j
    ((List.range 256).map fun j => if j < t.ncol then f j else s.acc.num (t.cell bay i j) 4) hj
  simp only [Nat.reduceMul] at helem
  rw [State.setTileRow_acc, hkept, t.cell_add bay i j, helem, List.getD_eq_getElem _ _ (by simpa using hj), List.getElem_map,
    List.getElem_range, ← t.cell_add]
  split
  · rfl
  · exact Nat.mod_eq_of_lt hlt

/-- A byte of a number of a memory. -/
theorem Memory.byte_of_num (m : Memory) (a : Nat) {n j : Nat} (hj : j < n) : (m.byte (a + j)).toNat = m.num a n / 256 ^ j % 256 := by
  have hpart := m.num_part a (n := n) (j := j) (k := 1) hj
  rw [Nat.pow_one] at hpart
  rw [hpart]
  simp [Memory.num, Memory.bytes, Tbl.read, leNat, Memory.byte]

/-- Replacing a row of a tile changes no byte outside its elements. -/
theorem State.setTileRow_byte_out (f : Nat → Nat) (hcols : t.ncol ≤ 256) {a : Nat}
    (hout : ∀ j, j < t.ncol → a < t.cell bay i j ∨ t.cell bay i j + 4 ≤ a) :
    (s.setTileRow bay t i ((List.range t.ncol).map f)).acc.byte a = s.acc.byte a := by
  by_cases hin : t.cell bay i 0 ≤ a ∧ a < t.cell bay i 0 + 1024
  · obtain ⟨d, rfl⟩ := Nat.exists_eq_add_of_le hin.1
    have hd : t.cell bay i 0 + d = t.cell bay i (d / 4) + d % 4 := by rw [t.cell_add bay i (d / 4)]; omega
    have hkept : ¬ d / 4 < t.ncol := fun hlt => by have := hout _ hlt; omega
    have hnum := s.setTileRow_num (bay := bay) (i := i) f hcols (show d / 4 < 256 by omega)
    rw [if_neg hkept] at hnum
    refine BitVec.eq_of_toNat_eq ?_
    rw [hd, Memory.byte_of_num _ _ (Nat.mod_lt d (by decide)), Memory.byte_of_num _ _ (Nat.mod_lt d (by decide)), hnum]
  · rw [State.setTileRow_acc]
    exact Memory.byte_store_out _ _ _ _ (by rw [leBytes_length]; omega)

/-- The first m rows of a tile replaced, one after the other. -/
def State.setTile (s : State) (bay : Nat) (t : TileDesc) (L : Nat → Nat → Nat) (m : Nat) : State :=
  (List.range m).foldl (fun u i => u.setTileRow bay t i ((List.range t.ncol).map (L i))) s

theorem State.setTile_succ (L : Nat → Nat → Nat) (m : Nat) :
    s.setTile bay t L (m + 1) = (s.setTile bay t L m).setTileRow bay t m ((List.range t.ncol).map (L m)) := by
  simp [State.setTile, List.range_succ]

/-- What no replacement of a row touches stays. -/
theorem State.setTile_keeps {α : Type} (p : State → α) (hp : ∀ (u : State) a bs, p (u.putAcc a bs) = p u) (L : Nat → Nat → Nat) (m : Nat) :
    p (s.setTile bay t L m) = p s := by
  induction m with
  | zero => rfl
  | succ m ih => rw [State.setTile_succ, State.setTileRow, State.setAccRow, hp, ih]

theorem State.setTile_byte_out (L : Nat → Nat → Nat) (hcols : t.ncol ≤ 256) {a m : Nat}
    (hout : ∀ i j, i < m → j < t.ncol → a < t.cell bay i j ∨ t.cell bay i j + 4 ≤ a) : (s.setTile bay t L m).acc.byte a = s.acc.byte a := by
  induction m with
  | zero => rfl
  | succ m ih =>
    rw [State.setTile_succ, State.setTileRow_byte_out _ hcols fun j hj => hout m j (by omega) hj]
    exact ih fun i j hi hj => hout i j (by omega) hj

/-- An element of a row that has been replaced. -/
theorem State.setTile_num (L : Nat → Nat → Nat) (hfit : t.fits) {m j : Nat} (hm : m ≤ t.nrow) (hi : i < m) (hj : j < t.ncol) :
    (s.setTile bay t L m).acc.num (t.cell bay i j) 4 = L i j % 2 ^ 32 := by
  have hcols := hfit.cols
  induction m with
  | zero => omega
  | succ m ih =>
    rw [State.setTile_succ]
    by_cases heq : i = m
    · subst heq
      rw [State.setTileRow_num _ hcols (by omega), if_pos hj]
    · rw [← ih (by omega) (by omega)]
      refine Memory.num_congr fun d hd => State.setTileRow_byte_out _ hcols fun k hk => ?_
      have hapart := hfit.apart bay (i := i) (k := m) (by omega) (by omega) heq
      rw [t.cell_add bay i j, t.cell_add bay m k]
      omega

end TileRows

/-! ## Checks against a limit (R138) -/

theorem zipIdx_map_range {α : Type} (n : Nat) (f : Nat → α) : ((List.range n).map f).zipIdx = (List.range n).map fun i => (f i, i) :=
  List.ext_getElem (by simp) fun i _ _ => by simp

theorem firstFail_range (limit n : Nat) (e : Nat → Nat) : firstFail limit ((List.range n).map e) =
    (List.range n).findSome? fun i => (failsLimit limit (e i)).map fun how => (i, how, e i) := by
  rw [firstFail, zipIdx_map_range, List.findSome?_map]
  rfl

theorem firstFail_none {limit n : Nat} {e : Nat → Nat} (h : ∀ i, i < n → failsLimit limit (e i) = none) :
    firstFail limit ((List.range n).map e) = none := by
  rw [firstFail_range, List.findSome?_eq_none_iff]
  intro i hi
  rw [h i (List.mem_range.mp hi), Option.map_none]

/-- The first failing element is found, with how it fails. -/
theorem firstFail_some {limit n i how : Nat} {e : Nat → Nat} (hi : i < n) (hfail : failsLimit limit (e i) = some how)
    (hbefore : ∀ j, j < i → failsLimit limit (e j) = none) : firstFail limit ((List.range n).map e) = some (i, how, e i) := by
  have hearlier := firstFail_none hbefore
  rw [firstFail_range] at hearlier ⊢
  obtain ⟨k, rfl⟩ := Nat.exists_eq_add_of_le hi
  rw [List.range_add, List.range_succ, List.append_assoc, List.findSome?_append, hearlier, Option.none_or, List.findSome?_append,
    List.findSome?_singleton, hfail]
  rfl

theorem State.checkTile_none {s : State} {bay : Nat} {t : TileDesc} (hcols : t.ncol ≤ 256)
    (h : ∀ i j, i < t.nrow → j < t.ncol → failsLimit t.divlim (s.acc.num (t.cell bay i j) 4) = none) : s.checkTile bay t = none := by
  rw [State.checkTile, List.findSome?_eq_none_iff]
  intro i hi
  rw [State.tileRow_eq _ _ _ hcols, firstFail_none fun j hj => h i j (List.mem_range.mp hi) hj]
  rfl

end Sys2Proof.Machine
end



section
/-!
SUPPORT. The commit points of correcting mode: a key applied to the rows of a tile, the checks that may end the operation, and the statement about
CRESP, COPA, COPA.C and CSNAP (R134 to R140).
-/
open Sys2Proof Sys2Proof.Machine

namespace Sys2Proof.Machine

/-! ## The arithmetic of one row (R134) -/

/-- The response of a row of S to a key, its products joined in ascending column order. -/
def response (n : Nat) (S K : Nat → Nat) : Nat := (List.range n).foldl (fun y j => (fma32 (S j) (K j) y).1) 0

/-- The value of a running result whose flags are joined on the way. -/
theorem foldl_flags_fst {α β : Type} (g : β → α → β × Flags) (l : List α) (z : β × Flags) :
    (l.foldl (fun p x => ((g p.1 x).1, p.2 ||| (g p.1 x).2)) z).1 = l.foldl (fun y x => (g y x).1) z.1 := by
  induction l generalizing z with
  | nil => rfl
  | cons x l ih => exact ih _

theorem respond_range (n : Nat) (S K : Nat → Nat) : (respond ((List.range n).map S) ((List.range n).map K)).1 = response n S K := by
  rw [respond, List.zip_map', List.foldl_map]
  exact foldl_flags_fst (fun y j => fma32 (S j) (K j) y) (List.range n) (0, 0)

theorem applyKey_range (e n : Nat) (S K : Nat → Nat) :
    (applyKey e ((List.range n).map S) ((List.range n).map K)).1 = (List.range n).map fun j => (fma32 e (K j) (S j)).1 := by
  rw [applyKey, zipWith_range_map, orFlags_range]

/-- An element of S after its decay. -/
def decayed (α : Option Nat) (x : Nat) : Nat := match α with
  | some a => (mul32 a x).1
  | none => x

/-- The error of a row under a key, by what a decay makes of its elements. -/
def keyError (β : Nat) (D : Nat → Nat) (v n : Nat) (S K : Nat → Nat) : Nat :=
  (mul32 β (sub32 v (response n (fun j => D (S j)) K)).1).1

theorem copaRow_range (β v n : Nat) (α : Option Nat) (S K : Nat → Nat) :
    (copaRow β α ((List.range n).map K) v ((List.range n).map S)).1 =
      (List.range n).map (fun j => (fma32 (keyError β (decayed α) v n S K) (K j) (decayed α (S j))).1) ∧
    (copaRow β α ((List.range n).map K) v ((List.range n).map S)).2.1 = keyError β (decayed α) v n S K := by
  cases α with
  | none => exact ⟨by simp only [copaRow, applyKey_range, respond_range]; rfl, by simp only [copaRow, respond_range]; rfl⟩
  | some a =>
    have hdecay : orFlags (((List.range n).map S).map fun x => mul32 a x) = rowResults n fun j => mul32 a (S j) := by
      rw [List.map_map]; rfl
    exact ⟨by simp only [copaRow, hdecay, rowResults, orFlags_range, applyKey_range, respond_range]; rfl,
      by simp only [copaRow, hdecay, rowResults, orFlags_range, respond_range]; rfl⟩

/-! ## Commit points that may end the operation (R138, R139) -/

section KeyStep

variable {s s0 s1 : State} {bay ins mode : Nat} {t : TileDesc} {r r0 r1 : Running} {o : ArrayOp} {e : Nat → Nat}

/-- A commit step that fails. -/
theorem State.atPoint.commits_of_fail {u : State} {x : Running} {rep : Report} (h : s.atPoint bay r o)
    (hstep : s.arrayStep bay r o = { s := u, r := x, fail := some rep }) (hbays : u.bays = s.bays) (hscratch : u.scratch = s.scratch)
    (hhost : u.host = s.host) (hexpander : u.expander = s.expander) {P : State → Running → Prop}
    (hP : P ((u.withRunning bay { x with done := o.steps, out := [], stop := true }).report r.entry.bay r.entry.task rep)
      { x with done := o.steps, out := [], stop := true }) : s.commits bay P := by
  obtain ⟨hbay, hrun, hop, hstop, hdue, -⟩ := h
  have hexec := exec_arrayCommitPoint_fail (x := rep) hbay hrun hop hdue (by rw [hstep])
  simp only [hstep] at hexec
  have hb (k : Nat) : u.bay k = s.bay k := by rw [State.bay, hbays]; rfl
  refine ⟨_, _, hexec, ?_, ?_, fun k hk => ?_, hscratch, hhost, hexpander, hP⟩
  · rw [State.report_bay, State.withRunning, State.onBay_bay_same]
  · rw [State.report_bay, State.withRunning, State.onBay_bay_same, hb]
  · rw [State.report_bay, State.withRunning, State.onBay_bay_other _ _ _ _ hk, hb]

/-- An operation that a failing check ends. -/
def failing (c : Commit) (rep : Report) : Commit := { c with r := { c.r with flags := c.r.flags ||| fTaint }, fail := some rep }

/-- A key's commit step by its checks: where an error fails it comes out as `early`, otherwise as `late`, unless the new state fails. -/
def keyStep (bay : Nat) (t : TileDesc) (ins mode k : Nat) (errors : List Nat) (pc : Nat) (early late : Commit) : Commit :=
  if mode = 0 then late else match firstFail t.errlim errors with
    | some (i, how, x) => failing early (divergence ins (how + 2) 0 i k x t pc)
    | none => if mode = 1 then match late.s.checkTile bay t with
        | some (i, j, how, x) => failing late (divergence ins how j i k x t pc)
        | none => late
      else late

/-- The operation has diverged at an error of its key. -/
def diverged (s : State) (r : Running) (t : TileDesc) (u : State) (x : Running) (ins n how i e : Nat) : Prop :=
  x.stop = true ∧ x.done = n ∧ x.out = [] ∧ x.flags.getLsbD 6 = true ∧
    u.pkg = { s.pkg with outbox := s.pkg.outbox ++ [⟨r.entry.bay, r.entry.task,
      ⟨0x0D, BitVec.ofNat 64 (ins * 2 ^ 29 + (how + 2) * 2 ^ 26 + i * 2 ^ 10 + r.done), BitVec.ofNat 64 e, t.raw, BitVec.ofNat 64 r.entry.pc⟩,
      false, 0⟩] }

/-- A state that differs in its accumulators alone. -/
def onlyAcc (s u : State) : Prop := { u with acc := s.acc } = s

theorem onlyAcc.frame {u : State} (h : onlyAcc s u) : u.bays = s.bays ∧ u.scratch = s.scratch ∧ u.host = s.host ∧ u.expander = s.expander ∧
    u.beat = s.beat ∧ u.pkg = s.pkg := by
  have hu : { u with acc := s.acc } = s := h
  exact ⟨(congrArg State.bays hu :), (congrArg State.scratch hu :), (congrArg State.host hu :), (congrArg State.expander hu :),
    (congrArg State.beat hu :), (congrArg State.pkg hu :)⟩

theorem taint_set (f : Flags) : (f ||| fTaint).getLsbD 6 = true := by
  rw [BitVec.getLsbD_or, show fTaint.getLsbD 6 = true from rfl, Bool.or_true]

/-- What a key's commit step leaves, by which check fails. -/
theorem State.atPoint.commits_keyStep (h : s.atPoint bay r o)
    (hstep : s.arrayStep bay r o = keyStep bay t ins mode r.done ((List.range t.nrow).map e) r.entry.pc { s := s0, r := r0 } { s := s1, r := r1 })
    (h0 : onlyAcc s s0) (h1 : onlyAcc s s1) (hr : r1.entry = r.entry ∧ r1.start = r.start ∧ r1.stop = r.stop) :
    s.commits bay fun u x => u.beat = s.beat ∧ (u.acc = s1.acc ∨ u.acc = s0.acc) ∧
      ((mode = 0 ∨ ∀ i, i < t.nrow → failsLimit t.errlim (e i) = none) → u.acc = s1.acc ∧
        ((mode = 1 → s1.checkTile bay t = none) → r.goesOn x ∧ x.out = r1.out ∧ u.pkg = s.pkg)) ∧
      (∀ i how, mode ≠ 0 → i < t.nrow → failsLimit t.errlim (e i) = some how → (∀ j, j < i → failsLimit t.errlim (e j) = none) →
        u.acc = s0.acc ∧ diverged s r t u x ins o.steps how i (e i)) := by
  obtain ⟨hbays0, hscratch0, hhost0, hexpander0, hbeat0, hpkg0⟩ := h0.frame
  obtain ⟨hbays1, hscratch1, hhost1, hexpander1, hbeat1, hpkg1⟩ := h1.frame
  obtain ⟨hentry, hstart, hstop⟩ := hr
  have hlive : r.stop = false := by
    obtain ⟨-, -, -, hlive, -⟩ := h
    exact hlive
  have hgo : r.goesOn { r1 with done := r.done + 1 } := ⟨hentry, hstart, rfl, hstop.trans hlive⟩
  by_cases hmode : mode = 0
  · rw [keyStep, if_pos hmode] at hstep
    exact h.commits_of_step hstep hbays1 hscratch1 hhost1 hexpander1
      ⟨hbeat1, .inl rfl, fun _ => ⟨rfl, fun _ => ⟨hgo, rfl, hpkg1⟩⟩, fun _ _ hne => absurd hmode hne⟩
  · cases hfirst : firstFail t.errlim ((List.range t.nrow).map e) with
    | some x =>
      obtain ⟨i, how, x⟩ := x
      simp only [keyStep, if_neg hmode, hfirst] at hstep
      refine h.commits_of_fail hstep hbays0 hscratch0 hhost0 hexpander0 ⟨hbeat0, .inr rfl, fun hok => ?_, fun i' how' _ hi hfail hbefore => ?_⟩
      · rw [firstFail_none (hok.resolve_left hmode)] at hfirst
        exact absurd hfirst (by simp)
      · rw [firstFail_some hi hfail hbefore] at hfirst
        obtain ⟨rfl, rfl, rfl⟩ : i' = i ∧ how' = how ∧ e i' = x := by simpa using hfirst
        refine ⟨rfl, rfl, rfl, rfl, taint_set _, ?_⟩
        rw [divergence, Nat.zero_mul, Nat.add_zero, ← hpkg0]
        rfl
    | none =>
      have hnofail {P : Prop} (i how : Nat) (hi : i < t.nrow) (hfail : failsLimit t.errlim (e i) = some how)
          (hbefore : ∀ j, j < i → failsLimit t.errlim (e j) = none) : P := by
        rw [firstFail_some hi hfail hbefore] at hfirst
        exact absurd hfirst (by simp)
      by_cases hgone : mode = 1 ∧ s1.checkTile bay t ≠ none
      · obtain ⟨rfl, hcheck⟩ := hgone
        obtain ⟨⟨i, j, how, x⟩, hx⟩ := Option.ne_none_iff_exists'.mp hcheck
        simp only [keyStep, if_neg hmode, hfirst, if_true, hx] at hstep
        exact h.commits_of_fail hstep hbays1 hscratch1 hhost1 hexpander1 ⟨hbeat1, .inl rfl, fun _ => ⟨rfl, fun hok => absurd (hok rfl) hcheck⟩,
          fun i' how' _ => hnofail i' how'⟩
      · have hlate : s.arrayStep bay r o = { s := s1, r := r1 } := by
          rw [hstep]
          simp only [keyStep, if_neg hmode, hfirst]
          by_cases hone : mode = 1
          · rw [if_pos hone, not_ne_iff.mp fun hne => hgone ⟨hone, hne⟩]
          · rw [if_neg hone]
        exact h.commits_of_step hlate hbays1 hscratch1 hhost1 hexpander1
          ⟨hbeat1, .inl rfl, fun _ => ⟨rfl, fun _ => ⟨hgo, rfl, hpkg1⟩⟩, fun i how _ => hnofail i how⟩

end KeyStep

/-! ## The commit points of COPA and COPA.C (R134, R135) -/

theorem le_mul_ceilDiv (n k : Nat) (hk : 0 < k) : n ≤ k * ceilDiv n k := by
  have := Nat.div_add_mod (n + k - 1) k
  have := Nat.mod_lt (n + k - 1) hk
  unfold ceilDiv
  omega

section Tile

variable {s : State} {bay key val err n mode : Nat} {t : TileDesc} {r : Running} {b : BitVec 128} {errTile : Option Nat} {o : ArrayOp}

/-- The elements of a key or of a value. -/
theorem State.atPoint.tileVector (h : s.atPoint bay r o) (row m : Nat) :
    s.tileElems bay row (ceilDiv m 32) m = (List.range m).map (tileWord (s.bay bay) row) := h.tileElems (le_mul_ceilDiv m 32 (by decide))

/-- Rows of results replaced one after the other. -/
theorem setTile_of_results {β : Type} (s : State) (bay : Nat) (t : TileDesc) (g : Nat → List Nat × β) (L : Nat → Nat → Nat) (m : Nat)
    (hg : ∀ i, (g i).1 = (List.range t.ncol).map (L i)) :
    ((List.range m).map g).zipIdx.foldl (fun u x => u.setTileRow bay t x.2 x.1.1) s = s.setTile bay t L m := by
  rw [zipIdx_map_range, List.foldl_map, State.setTile]
  simp only [hg]

theorem State.setTile_onlyAcc (L : Nat → Nat → Nat) (m : Nat) : onlyAcc s (s.setTile bay t L m) := by
  have hkeep := State.setTile_keeps (s := s) (bay := bay) (t := t) (fun u : State => { u with acc := s.acc }) (fun _ _ _ => rfl) L m
  exact hkeep

/-- No byte outside the tile changes when its rows are replaced. -/
theorem State.setTile_sameOutside (hfit : t.fits) (L : Nat → Nat → Nat) :
    sameOutside s.acc (s.setTile bay t L t.nrow).acc (fun a => ∃ i j, i < t.nrow ∧ j < t.ncol ∧ a = t.cell bay i j) 4 :=
  fun _ ha => State.setTile_byte_out L hfit.cols fun i j hi hj => ha _ ⟨i, j, hi, hj, rfl⟩

/-- The decay of COPA: α of its step register, where it has one. -/
def copaDecay (w x : Nat) : Nat := if w.testBit 10 then (mul32 (w / 2 ^ 96 % 2 ^ 32) x).1 else x

theorem bits_eq (w hi lo : Nat) : bits w hi lo = w / 2 ^ lo % 2 ^ (hi + 1 - lo) := by
  rw [bits, Nat.shiftRight_eq_div_pow]

theorem bit_eq (w n : Nat) : bit w n = w.testBit n := by
  rw [bit, Nat.testBit_eq_decide_div_mod_eq, Nat.shiftRight_eq_div_pow]
  rfl

theorem copaDecay_eq (w : Nat) : decayed (if bit w 10 then some (bits w 127 96) else none) = copaDecay w := by
  funext x
  rw [copaDecay, bit_eq, bits_eq]
  split <;> rfl

/-- The step size of COPA: an element of the row of its step register, or a constant of it. -/
def copaBeta (b : Bay) (w k : Nat) : Nat :=
  if w.testBit 9 then tileWord b (32 * (w % 2 ^ 4) + w / 2 ^ 4 % 2 ^ 5) k else w / 2 ^ 64 % 2 ^ 32

theorem State.atPoint.copaBeta_eq (h : s.atPoint bay r o) {w k : Nat} (hk : k < 32) :
    (if bit w 9 then (s.tileElems bay (rowNum (bits w 3 0) (bits w 8 4)) 1 32).getD k 0 else bits w 95 64) =
      copaBeta (s.bay bay) w k := by
  rw [h.tileElems (Nat.le_refl _), copaBeta, bit_eq, bits_eq, bits_eq, bits_eq, rowNum, Nat.pow_zero, Nat.div_one]
  split
  · rw [List.getD_eq_getElem _ _ (by simpa using hk), List.getElem_map, List.getElem_range]
  · rfl

/-- Element j of row i of the tile. -/
def tileCell (s : State) (bay : Nat) (t : TileDesc) (i j : Nat) : Nat := s.acc.num (t.cell bay i j) 4

/-- The error of row i under key k of COPA. -/
def copaError (s : State) (bay : Nat) (t : TileDesc) (key val w k i : Nat) : Nat :=
  keyError (copaBeta (s.bay bay) w k) (copaDecay w) (tileWord (s.bay bay) (val + k * ceilDiv t.nrow 32) i) t.ncol (tileCell s bay t i)
    (tileWord (s.bay bay) (key + k * ceilDiv t.ncol 32))

/-- The new element of S after key k of COPA. -/
def copaNew (s : State) (bay : Nat) (t : TileDesc) (key val w k i j : Nat) : Nat :=
  (fma32 (copaError s bay t key val w k i) (tileWord (s.bay bay) (key + k * ceilDiv t.ncol 32) j) (copaDecay w (tileCell s bay t i j))).1

/-- What COPA makes of row i under key k: its new elements, its error, and flags. -/
def copaRowOf (s : State) (bay : Nat) (t : TileDesc) (key val w k i : Nat) : List Nat × Nat × Flags :=
  copaRow (copaBeta (s.bay bay) w k) (if bit w 10 then some (bits w 127 96) else none)
    ((List.range t.ncol).map (tileWord (s.bay bay) (key + k * ceilDiv t.ncol 32))) (tileWord (s.bay bay) (val + k * ceilDiv t.nrow 32) i)
    ((List.range t.ncol).map (tileCell s bay t i))

theorem copaRowOf_new (s : State) (bay : Nat) (t : TileDesc) (key val w k i : Nat) :
    (copaRowOf s bay t key val w k i).1 = (List.range t.ncol).map (copaNew s bay t key val w k i) := by
  rw [copaRowOf, (copaRow_range ..).1, copaDecay_eq]
  rfl

theorem copaRowOf_error (s : State) (bay : Nat) (t : TileDesc) (key val w k i : Nat) :
    (copaRowOf s bay t key val w k i).2.1 = copaError s bay t key val w k i := by
  rw [copaRowOf, (copaRow_range ..).2, copaDecay_eq]
  rfl

theorem getD_map_range {n i : Nat} (f : Nat → Nat) (hi : i < n) : ((List.range n).map f).getD i 0 = f i := by
  rw [List.getD_eq_getElem _ _ (by simpa using hi), List.getElem_map, List.getElem_range]

/-- The rows that COPA reads, under its key. -/
theorem State.atPoint.copaRows (h : s.atPoint bay r o) (hcols : t.ncol ≤ 256) (key val w : Nat) {k : Nat} (hk : k < 32) :
    ((List.range t.nrow).map fun i => copaRow
      (if bit w 9 then (s.tileElems bay (rowNum (bits w 3 0) (bits w 8 4)) 1 32).getD k 0 else bits w 95 64)
      (if bit w 10 then some (bits w 127 96) else none) (s.tileElems bay (key + k * t.gk) t.gk t.ncol)
      ((s.tileElems bay (val + k * t.gv) t.gv t.nrow).getD i 0) (s.tileRow bay t i)) =
    (List.range t.nrow).map (copaRowOf s bay t key val w k) := by
  refine List.map_congr_left fun i hi => ?_
  rw [h.copaBeta_eq hk, TileDesc.gk, TileDesc.gv, h.tileVector, h.tileVector, getD_map_range _ (List.mem_range.mp hi),
    State.tileRow_eq s bay i hcols]
  rfl

/-- The operation after key k of COPA, before its checks. -/
def copaRunning (s : State) (bay : Nat) (t : TileDesc) (key val w : Nat) (r : Running) : Running :=
  { r with out := r.out ++ [(List.range t.nrow).map (copaError s bay t key val w r.done)]
           flags := ((List.range t.nrow).map (copaRowOf s bay t key val w r.done)).foldl (fun f x => f ||| x.2.2) r.flags }

theorem State.atPoint.step_copa (h : s.atPoint bay r (.copa t key val n b errTile)) (hcols : t.ncol ≤ 256) (hk : r.done < n) (hn : n ≤ 32) :
    s.arrayStep bay r (.copa t key val n b errTile) = keyStep bay t 0 (divMode b) r.done
      ((List.range t.nrow).map (copaError s bay t key val b.toNat r.done)) r.entry.pc
      { s := s.setTile bay t (copaNew s bay t key val b.toNat r.done) t.nrow, r := copaRunning s bay t key val b.toNat r }
      { s := s.setTile bay t (copaNew s bay t key val b.toNat r.done) t.nrow, r := copaRunning s bay t key val b.toNat r } := by
  have herrors : ((List.range t.nrow).map (copaRowOf s bay t key val b.toNat r.done)).map (fun x => x.2.1) =
      (List.range t.nrow).map (copaError s bay t key val b.toNat r.done) := by
    rw [List.map_map]
    exact List.map_congr_left fun i _ => copaRowOf_error ..
  have hrows := setTile_of_results s bay t (copaRowOf s bay t key val b.toNat r.done) _ t.nrow fun i => copaRowOf_new ..
  rw [State.arrayStep]
  dsimp only
  rw [if_neg (not_le.mpr hk), State.unlessPoison_none (h.clean ..), h.copaRows hcols key val b.toNat (hk.trans_le hn), herrors, hrows]
  rfl

theorem divMode_eq (b : BitVec 128) : divMode b = b.toNat / 2 ^ 11 % 4 := bits_eq ..

/-- A tile whose rows hold elements of FP32 that keep to the limit passes its check. -/
theorem State.setTile_checked (hfit : t.fits) {L : Nat → Nat → Nat} (hlt : ∀ i j, L i j < 2 ^ 32)
    (hok : ∀ i j, i < t.nrow → j < t.ncol → failsLimit t.divlim (L i j) = none) : (s.setTile bay t L t.nrow).checkTile bay t = none :=
  State.checkTile_none hfit.cols fun i j hi hj => by
    rw [State.setTile_num L hfit (Nat.le_refl _) hi hj, Nat.mod_eq_of_lt (hlt i j), hok i j hi hj]

/-- A key's commit point of COPA. -/
theorem copa_commits (h : s.atPoint bay r (.copa t key val n b errTile)) (hfit : t.fits) (hk : r.done < n) (hn : n ≤ 32)
    (hmode : divMode b = mode) :
    s.commits bay fun u x => u.beat = s.beat ∧
      sameOutside s.acc u.acc (fun a => ∃ i j, i < t.nrow ∧ j < t.ncol ∧ a = t.cell bay i j) 4 ∧
      (∀ i j, i < t.nrow → j < t.ncol → u.acc.num (t.cell bay i j) 4 = copaNew s bay t key val b.toNat r.done i j) ∧
      (mode = 0 ∨ ((∀ i, i < t.nrow → failsLimit t.errlim (copaError s bay t key val b.toNat r.done i) = none) ∧
        (mode = 1 → ∀ i j, i < t.nrow → j < t.ncol → failsLimit t.divlim (copaNew s bay t key val b.toNat r.done i j) = none)) →
        r.goesOn x ∧ x.out = r.out ++ [(List.range t.nrow).map (copaError s bay t key val b.toNat r.done)] ∧ u.pkg = s.pkg) ∧
      (∀ i how, mode ≠ 0 → i < t.nrow → failsLimit t.errlim (copaError s bay t key val b.toNat r.done i) = some how →
        (∀ j, j < i → failsLimit t.errlim (copaError s bay t key val b.toNat r.done j) = none) →
        diverged s r t u x 0 (n + if mode = 2 then 1 else 0) how i (copaError s bay t key val b.toNat r.done i)) := by
  have hlt (i j : Nat) : copaNew s bay t key val b.toNat r.done i j < 2 ^ 32 := fma32_lt ..
  subst hmode
  refine State.commits_mono (h.commits_keyStep (h.step_copa hfit.cols hk hn) (State.setTile_onlyAcc _ _) (State.setTile_onlyAcc _ _)
    ⟨rfl, rfl, rfl⟩) fun u x ⟨hbeat, hacc, hgo, hfail⟩ => ?_
  replace hacc : u.acc = (s.setTile bay t (copaNew s bay t key val b.toNat r.done) t.nrow).acc := hacc.elim id id
  refine ⟨hbeat, hacc ▸ State.setTile_sameOutside hfit _, fun i j hi hj => ?_, fun hok => ?_, fun i how hne hi hf hb => (hfail i how hne hi hf hb).2⟩
  · rw [hacc, State.setTile_num _ hfit (Nat.le_refl _) hi hj, Nat.mod_eq_of_lt (hlt i j)]
  · refine (hgo (hok.imp_right And.left)).2 fun hone => State.setTile_checked hfit hlt ?_
    exact (hok.resolve_left (by omega)).2 hone

/-! ### COPA.C -/

/-- The new element of S after key k of COPA.C. -/
def copacNew (s : State) (bay : Nat) (t : TileDesc) (key err k i j : Nat) : Nat :=
  (fma32 (tileWord (s.bay bay) (err + k * ceilDiv t.nrow 32) i) (tileWord (s.bay bay) (key + k * ceilDiv t.ncol 32) j)
    (tileCell s bay t i j)).1

/-- What COPA.C makes of row i under key k. -/
def copacRowOf (s : State) (bay : Nat) (t : TileDesc) (key err k i : Nat) : List Nat × Flags :=
  applyKey (tileWord (s.bay bay) (err + k * ceilDiv t.nrow 32) i) ((List.range t.ncol).map (tileCell s bay t i))
    ((List.range t.ncol).map (tileWord (s.bay bay) (key + k * ceilDiv t.ncol 32)))

theorem State.atPoint.copacRows (h : s.atPoint bay r o) (hcols : t.ncol ≤ 256) (key err k : Nat) :
    ((List.range t.nrow).map fun i => applyKey ((s.tileElems bay (err + k * t.gv) t.gv t.nrow).getD i 0) (s.tileRow bay t i)
      (s.tileElems bay (key + k * t.gk) t.gk t.ncol)) = (List.range t.nrow).map (copacRowOf s bay t key err k) := by
  refine List.map_congr_left fun i hi => ?_
  rw [TileDesc.gk, TileDesc.gv, h.tileVector, h.tileVector, getD_map_range _ (List.mem_range.mp hi), State.tileRow_eq s bay i hcols]
  rfl

theorem State.atPoint.step_copac (h : s.atPoint bay r (.copac t key err n mode)) (hcols : t.ncol ≤ 256) (hk : r.done < n) :
    s.arrayStep bay r (.copac t key err n mode) = keyStep bay t 1 mode r.done
      ((List.range t.nrow).map (tileWord (s.bay bay) (err + r.done * ceilDiv t.nrow 32))) r.entry.pc { s, r }
      { s := s.setTile bay t (copacNew s bay t key err r.done) t.nrow
        r := { r with flags := ((List.range t.nrow).map (copacRowOf s bay t key err r.done)).foldl (fun f x => f ||| x.2) r.flags } } := by
  have hrows := setTile_of_results s bay t (copacRowOf s bay t key err r.done) (copacNew s bay t key err r.done) t.nrow
    fun i => applyKey_range ..
  have hreads (r' : Running) (tiles beat acc : List Nat) (go : Commit) : s.unlessPoison r' bay tiles beat acc go = go :=
    State.unlessPoison_none (h.clean ..) go
  rw [State.arrayStep]
  simp only [if_neg (not_le.mpr hk), hreads, h.copacRows hcols, hrows, keyStep]
  rw [TileDesc.gv, h.tileVector]
  by_cases hmode : mode = 0
  · subst hmode
    rfl
  · rw [if_neg hmode, if_neg hmode]
    rfl

/-- A key's commit point of COPA.C. -/
theorem copac_commits (h : s.atPoint bay r (.copac t key err n mode)) (hfit : t.fits) (hk : r.done < n) :
    let e := tileWord (s.bay bay) (err + r.done * ceilDiv t.nrow 32)
    s.commits bay fun u x => u.beat = s.beat ∧
      (mode = 0 ∨ (∀ i, i < t.nrow → failsLimit t.errlim (e i) = none) →
        sameOutside s.acc u.acc (fun a => ∃ i j, i < t.nrow ∧ j < t.ncol ∧ a = t.cell bay i j) 4 ∧
        (∀ i j, i < t.nrow → j < t.ncol → u.acc.num (t.cell bay i j) 4 = copacNew s bay t key err r.done i j) ∧
        ((mode = 1 → ∀ i j, i < t.nrow → j < t.ncol → failsLimit t.divlim (copacNew s bay t key err r.done i j) = none) →
          r.goesOn x ∧ x.out = r.out ∧ u.pkg = s.pkg)) ∧
      (∀ i how, mode ≠ 0 → i < t.nrow → failsLimit t.errlim (e i) = some how → (∀ j, j < i → failsLimit t.errlim (e j) = none) →
        u.acc = s.acc ∧ diverged s r t u x 1 (n + if mode = 2 then 1 else 0) how i (e i)) := by
  intro e
  have hlt (i j : Nat) : copacNew s bay t key err r.done i j < 2 ^ 32 := fma32_lt ..
  refine State.commits_mono (h.commits_keyStep (h.step_copac hfit.cols hk) rfl (State.setTile_onlyAcc _ _) ⟨rfl, rfl, rfl⟩)
    fun u x ⟨hbeat, _, hgo, hfail⟩ => ⟨hbeat, fun hok => ?_, hfail⟩
  obtain ⟨hacc, hnext⟩ := hgo hok
  refine ⟨hacc ▸ State.setTile_sameOutside hfit _, fun i j hi hj => ?_, fun hstate => hnext fun hone => ?_⟩
  · rw [hacc, State.setTile_num _ hfit (Nat.le_refl _) hi hj, Nat.mod_eq_of_lt (hlt i j)]
  · exact State.setTile_checked hfit hlt (hstate hone)

end Tile

end Sys2Proof.Machine
end


section
/-!
SUPPORT. The commit points of CRESP and CSNAP, and the statement about the correcting mode (R137, R140).
-/
open Sys2Proof Sys2Proof.Machine

namespace Sys2Proof.Machine

/-! ## CRESP (R137) -/

section Cresp

variable {s : State} {bay key n dst : Nat} {t : TileDesc} {r : Running}

/-- The operation after key k of CRESP. -/
def crespRunning (s : State) (bay : Nat) (t : TileDesc) (key : Nat) (r : Running) : Running :=
  { r with
    out := r.out ++ [(List.range t.nrow).map fun i =>
      response t.ncol (tileCell s bay t i) (tileWord (s.bay bay) (key + r.done * ceilDiv t.ncol 32))]
    flags := r.flags ||| (orFlags ((List.range t.nrow).map fun i =>
      respond (s.tileRow bay t i) (s.tileElems bay (key + r.done * t.gk) t.gk t.ncol))).2 }

theorem State.atPoint.step_cresp (h : s.atPoint bay r (.cresp t key n dst)) (hcols : t.ncol ≤ 256) :
    s.arrayStep bay r (.cresp t key n dst) = { s, r := crespRunning s bay t key r } := by
  have hresp : (orFlags ((List.range t.nrow).map fun i =>
      respond (s.tileRow bay t i) (s.tileElems bay (key + r.done * t.gk) t.gk t.ncol))).1 =
      (List.range t.nrow).map fun i => response t.ncol (tileCell s bay t i) (tileWord (s.bay bay) (key + r.done * ceilDiv t.ncol 32)) := by
    rw [orFlags_range]
    refine List.map_congr_left fun i _ => ?_
    rw [TileDesc.gk, h.tileVector, State.tileRow_eq s bay i hcols]
    exact respond_range ..
  rw [State.arrayStep]
  dsimp only
  rw [State.unlessPoison_none (h.clean ..), crespRunning, ← hresp]

/-- A commit point of CRESP keeps the responses of its key. -/
theorem cresp_commits (h : s.atPoint bay r (.cresp t key n dst)) (hcols : t.ncol ≤ 256) :
    s.commits bay fun u x => r.goesOn x ∧ u.beat = s.beat ∧ u.acc = s.acc ∧ u.pkg = s.pkg ∧
      x.out = r.out ++ [(List.range t.nrow).map fun i =>
        response t.ncol (tileCell s bay t i) (tileWord (s.bay bay) (key + r.done * ceilDiv t.ncol 32))] := by
  refine h.commits_of_step (h.step_cresp hcols) rfl rfl rfl rfl ⟨⟨rfl, rfl, rfl, ?_⟩, rfl, rfl, rfl, rfl⟩
  obtain ⟨-, -, -, hlive, -⟩ := h
  exact hlive

end Cresp

/-! ## CSNAP (R140) -/

section Csnap

variable {s : State} {bay side rowb arow nb b0 : Nat} {ld : Bool} {t : TileDesc} {r : Running}

/-- One bank's turn: a row goes to the accumulators or to beat memory. -/
def csnapTurn (bay arow side rowb : Nat) (ld : Bool) (u : State) (k : Nat) : State × Flags :=
  (if ld then u.putAcc (accAt bay k arow) (u.beat.bytes (beatAt bay k side rowb) 1024)
    else u.putBeat (beatAt bay k side rowb) (u.acc.bytes (accAt bay k arow) 1024), 0)

theorem csnapTurn_local (s : State) (hrow : arow < 16) (hside : side < 2) (hbeat : rowb < 1536) :
    BankLocal s bay (csnapTurn bay arow side rowb ld) where
  same u k h := by
    refine ⟨?_, rfl⟩
    cases ld
    · rw [csnapTurn, csnapTurn, h.acc_bytes (inBank_accRow hrow)]
      exact h.putBeat _ _
    · rw [csnapTurn, csnapTurn, h.beat_bytes (inBank_beatRow hside hbeat)]
      exact h.putAcc _ _
  other u k q hq := by
    cases ld
    · exact u.putBeat_agreeOn (by rw [Memory.bytes_length]; exact inBank_beatRow hside hbeat) hq
    · exact u.putAcc_agreeOn (by rw [Memory.bytes_length]; exact inBank_accRow hrow) hq

theorem State.atPoint.step_csnap (h : s.atPoint bay r (.csnap ld t side rowb)) : s.arrayStep bay r (.csnap ld t side rowb) =
    turnsStep s r t.bank0 (min t.nb t.nrow) (csnapTurn bay (t.arow + r.done) side (rowb + r.done) ld) := by
  rw [State.arrayStep]
  refine h.overBanks _ _ _ fun u k => ?_
  dsimp only
  rw [accKey_zero, beatKey_zero, csnapTurn]

/-- The turns of a copy raise no flag. -/
theorem overBanksFrom_no_flags {act : State → Nat → State × Flags} (hloc : BankLocal s bay act) (h : ∀ k, (act s k).2 = 0) (n : Nat) :
    (overBanksFrom act s b0 n).2 = 0 := by
  refine BitVec.eq_of_getLsbD_eq fun i _ => ?_
  rw [overBanksFrom_flags hloc]
  simp [h]

/-- A copied byte reads as its source did. -/
theorem Memory.byte_store_bytes (m k : Memory) (a x : Nat) {n i : Nat} (hi : i < n) : (m.store a (k.bytes x n)).byte (a + i) = k.byte (x + i) := by
  rw [Memory.byte_store_in _ _ _ _ (by rwa [Memory.bytes_length]), Memory.bytes_getD _ _ _ _ hi]

/-- A commit point of CSNAP copies one row of every bank that holds rows of the tile. -/
theorem csnap_commits (h : s.atPoint bay r (.csnap ld t side rowb)) (hfit : t.fits) (hside : side < 2) (hrowb : rowb + ceilDiv t.nrow t.nb ≤ 1536) :
    s.commits bay fun u x => r.goesOn x ∧ x.out = r.out ∧ x.flags = r.flags ∧ u.pkg = s.pkg ∧
      (ld = true → u.beat = s.beat ∧
        sameOutside s.acc u.acc (fun a => ∃ b, (t.bank0 ≤ b ∧ b < t.bank0 + min t.nb t.nrow) ∧ a = accAt bay b (t.arow + r.done)) 1024 ∧
        ∀ b i, t.bank0 ≤ b ∧ b < t.bank0 + min t.nb t.nrow → i < 1024 →
          u.acc.byte (accAt bay b (t.arow + r.done) + i) = s.beat.byte (beatAt bay b side (rowb + r.done) + i)) ∧
      (ld = false → u.acc = s.acc ∧
        sameOutside s.beat u.beat (fun a => ∃ b, (t.bank0 ≤ b ∧ b < t.bank0 + min t.nb t.nrow) ∧ a = beatAt bay b side (rowb + r.done)) 1024 ∧
        ∀ b i, t.bank0 ≤ b ∧ b < t.bank0 + min t.nb t.nrow → i < 1024 →
          u.beat.byte (beatAt bay b side (rowb + r.done) + i) = s.acc.byte (accAt bay b (t.arow + r.done) + i)) := by
  have hdone : r.done < ceilDiv t.nrow t.nb := h.done_lt
  have hrows := hfit.rows
  have hrow : t.arow + r.done < 16 := by omega
  have hbeatRow : rowb + r.done < 1536 := by omega
  have hloc := csnapTurn_local (bay := bay) (ld := ld) s hrow hside hbeatRow
  refine State.commits_mono (h.commits_of_turns h.step_csnap fun u k => by cases ld <;> rfl) fun u x ⟨hgo, hout, hpkg, hbeat, hacc, hflags⟩ =>
    ⟨hgo, hout, ?_, hpkg, fun hld => ?_, fun hld => ?_⟩
  · rw [hflags, overBanksFrom_no_flags hloc fun _ => rfl]
    exact flags_or_zero _
  · subst hld
    refine ⟨hbeat.trans (overBanksFrom_keeps State.beat (fun _ _ => rfl) _), ?_, fun b i hb hi => ?_⟩
    · rw [hacc]
      exact overBanksFrom_acc_sameOutside hloc fun k a hout => Memory.byte_store_out _ _ _ _ (by rwa [Memory.bytes_length])
    · rw [hacc, (overBanksFrom_bank hloc _ hb.1 hb.2 _ ((inBank_accRow hrow).div hi)).2]
      exact Memory.byte_store_bytes _ _ _ _ hi
  · subst hld
    refine ⟨hacc.trans (overBanksFrom_keeps State.acc (fun _ _ => rfl) _), ?_, fun b i hb hi => ?_⟩
    · rw [hbeat]
      exact overBanksFrom_beat_sameOutside hloc fun k a hout => Memory.byte_store_out _ _ _ _ (by rwa [Memory.bytes_length])
    · rw [hbeat, (overBanksFrom_bank hloc _ hb.1 hb.2 _ ((inBank_beatRow hside hbeatRow).div hi)).1]
      exact Memory.byte_store_bytes _ _ _ _ hi

end Csnap

end Sys2Proof.Machine

namespace Sys2Proof

/-- Settles O60: COPA and COPA.C by the new tile and the checks of their key, CRESP by its responses, CSNAP by the turns of the banks. -/
theorem correctingCommitPoints : Obligations.CorrectingCommitPoints := by
  intro s bay r t hnb hbanks hrows _ hcols _
  have hfit : t.fits := ⟨hnb, hbanks, hrows, hcols⟩
  refine ⟨fun key val n b err hat hk hn => ?_, fun key err n mode hat hk _ => ?_, fun key n dst hat => ?_,
    fun ld side rowb hat hside hrowb => ?_⟩
  · exact copa_commits hat hfit hk hn (divMode_eq b)
  · exact copac_commits hat hfit hk
  · exact cresp_commits hat hcols
  · exact csnap_commits hat hfit hside hrowb

end Sys2Proof
end

section
/-!
SUPPORT. The memories of the machine stay in canonical form. A function of the model either leaves them alone (`State.f_mems`) or keeps the
canonical form (`Canonical.f`); an instruction or a step keeps it in its outcome (`f_canonical`). The lemmas stand in the order of the model,
under the names of its files: each is the body of its function read once through the lemmas before it.
-/

open Sys2Proof Sys2Proof.Machine

namespace Sys2Proof.Machine

/-! ## The memories of a state -/

/-- The memories of the machine. -/
def State.mems (s : State) : List Memory := [s.scratch, s.beat, s.acc, s.host, s.expander]

/-- Every memory of a list is in its canonical form. -/
def Canonical (ms : List Memory) : Prop := ms.all Memory.wf = true

theorem State.memWf_iff (s : State) : s.memWf = true ↔ Canonical s.mems := by
  simp [State.memWf, State.mems, Canonical, and_assoc]

@[simp] theorem canonical_nil : Canonical [] := by simp [Canonical]

@[simp] theorem canonical_cons (m : Memory) (ms : List Memory) : Canonical (m :: ms) ↔ m.wf = true ∧ Canonical ms := by
  simp [Canonical]

@[simp] theorem canonical_ite (c : Prop) [Decidable c] (l m : List Memory) :
    Canonical (if c then l else m) ↔ if c then Canonical l else Canonical m := by split <;> rfl

@[simp] theorem State.mems_mk (now : Nat) (bays : Tbl Bay) (dies : Tbl Die) (parts : Tbl Part) (pkg : Pkg)
    (scratch beat acc host expander : Memory) (tlb : List TlbEntry) (tables : List TableEntry) (cur : Cur) (inputs : List (Nat × Instr)) :
    (State.mk now bays dies parts pkg scratch beat acc host expander tlb tables cur inputs).mems = [scratch, beat, acc, host, expander] := rfl

@[simp] theorem State.mems_eta (s : State) : [s.scratch, s.beat, s.acc, s.host, s.expander] = s.mems := rfl

@[simp] theorem State.mems_ite (c : Prop) [Decidable c] (s t : State) : (if c then s else t).mems = if c then s.mems else t.mems :=
  apply_ite _ _ _ _

theorem Canonical.wf {ms : List Memory} (h : Canonical ms) {m : Memory} (hm : m ∈ ms) : m.wf = true := List.all_eq_true.1 h m hm

section
variable {s : State} (h : Canonical s.mems)
include h

@[simp] theorem Canonical.scratch : s.scratch.wf = true := h.wf (.head _)
@[simp] theorem Canonical.beat : s.beat.wf = true := h.wf (.tail _ (.head _))
@[simp] theorem Canonical.acc : s.acc.wf = true := h.wf (.tail _ (.tail _ (.head _)))
@[simp] theorem Canonical.host : s.host.wf = true := h.wf (.tail _ (.tail _ (.tail _ (.head _))))
@[simp] theorem Canonical.expander : s.expander.wf = true := h.wf (.tail _ (.tail _ (.tail _ (.tail _ (.head _)))))

end

/-! ## Steps that are repeated -/

/-- What every step of a fold leaves alone, the fold leaves alone. -/
@[simp] theorem foldl_mems {α : Type} (f : State → α → State) (l : List α) (s : State) (hf : ∀ s x, (f s x).mems = s.mems) :
    (l.foldl f s).mems = s.mems := by
  induction l generalizing s with
  | nil => rfl
  | cons x l ih => rw [List.foldl_cons, ih, hf]

theorem Canonical.foldl {α : Type} {f : State → α → State} {s : State} (h : Canonical s.mems)
    (hf : ∀ s x, Canonical s.mems → Canonical (f s x).mems) (l : List α) : Canonical (l.foldl f s).mems := by
  induction l generalizing s with
  | nil => exact h
  | cons x l ih => exact ih (hf _ _ h)

/-- A fold that carries something beside the state. -/
theorem Canonical.foldlPair {α β : Type} {f : State × β → α → State × β} {x : State × β} (h : Canonical x.1.mems)
    (hf : ∀ x a, Canonical x.1.mems → Canonical (f x a).1.mems) (l : List α) : Canonical (l.foldl f x).1.mems := by
  induction l generalizing x with
  | nil => exact h
  | cons a l ih => exact ih (hf _ _ h)

/-! ## Outcomes -/

/-- A next state, if there is one, has its memories in canonical form. -/
def Out.canonical (o : Out) : Prop := ∀ t, o = .next t → Canonical t.mems

@[simp] theorem Out.canonical_next (t : State) : Out.canonical (.next t) ↔ Canonical t.mems := by simp [Out.canonical]
@[simp] theorem Out.canonical_fault (r : Fault) : Out.canonical (.fault r) := by simp [Out.canonical]

/-- The memories in which an access of a command ends. -/
def Access.mems : Access → List Memory
  | .ok s _ _ | .wait s _ | .fail s _ _ => s.mems

@[simp] theorem Access.mems_ok (s : State) (c : Cmd) (d : List Byte) : (Access.ok s c d).mems = s.mems := rfl
@[simp] theorem Access.mems_wait (s : State) (c : Cmd) : (Access.wait s c).mems = s.mems := rfl
@[simp] theorem Access.mems_fail (s : State) (c : Cmd) (r : Report) : (Access.fail s c r).mems = s.mems := rfl


/-! ### State -/

@[simp] theorem State.setDie_mems (s : State) (d x) : (s.setDie d x).mems = s.mems := by rfl

/-! ### Ops -/

@[simp] theorem State.upd_mems (s : State) (f) : (s.upd f).mems = s.mems := by rfl

@[simp] theorem State.updCur_mems (s : State) (f) : (s.updCur f).mems = s.mems := by rfl

@[simp] theorem State.onBay_mems (s : State) (b f) : (s.onBay b f).mems = s.mems := by rfl

@[simp] theorem State.onDie_mems (s : State) (d f) : (s.onDie d f).mems = s.mems := by rfl

@[simp] theorem State.onPart_mems (s : State) (p f) : (s.onPart p f).mems = s.mems := by rfl

@[simp] theorem State.onPkg_mems (s : State) (f) : (s.onPkg f).mems = s.mems := by rfl

@[simp] theorem State.mapBays_mems (s : State) (f) : (s.mapBays f).mems = s.mems := by rfl

@[simp] theorem State.mapDies_mems (s : State) (f) : (s.mapDies f).mems = s.mems := by rfl

@[simp] theorem State.writeS_mems (s : State) (r L v) : (s.writeS r L v).mems = s.mems := by
  unfold State.writeS
  simp

@[simp] theorem State.raiseFlags_mems (s : State) (L f) : (s.raiseFlags L f).mems = s.mems := by
  unfold State.raiseFlags
  simp

@[simp] theorem State.cleanRows_mems (s : State) (bay rows) : (s.cleanRows bay rows).mems = s.mems := by rfl

@[simp] theorem State.raise_mems (s : State) (r) : (s.raise r).mems = s.mems := by rfl

@[simp] theorem State.protect_mems (s : State) : (s.protect).mems = s.mems := by rfl

@[simp] theorem State.illegal_mems (s : State) (source) : (s.illegal source).mems = s.mems := by rfl

@[simp] theorem State.addrFault_mems (s : State) (cause a) : (s.addrFault cause a).mems = s.mems := by rfl

@[simp] theorem State.raiseLate_mems (s : State) (r) : (s.raiseLate r).mems = s.mems := by rfl

@[simp] theorem State.report_mems (s : State) (bay uid r own from_) : (s.report bay uid r own from_).mems = s.mems := by rfl

@[simp] theorem State.takeTrap_mems (s : State) (bay r pc) : (s.takeTrap bay r pc).mems = s.mems := by rfl

@[simp] theorem State.returnTrap_mems (s : State) (bay) : (s.returnTrap bay).mems = s.mems := by rfl

@[simp] theorem State.newOp_mems (s : State) : (s.newOp).2.mems = s.mems := by rfl

@[simp] theorem State.wantHold_mems (s : State) (id dest regs ends) : (s.wantHold id dest regs ends).mems = s.mems := by rfl

@[simp] theorem State.mapCmd_mems (s : State) (bay id f) : (s.mapCmd bay id f).mems = s.mems := by rfl

@[simp] theorem State.onTask_mems (s : State) (bay uid f) : (s.onTask bay uid f).mems = s.mems := by
  unfold State.onTask
  simp

@[simp] theorem State.enqueue_mems (s : State) (q e) : (s.enqueue q e).mems = s.mems := by rfl

@[simp] theorem State.claim_mems (s : State) (common n) : (s.claim common n).2.mems = s.mems := by
  unfold State.claim
  split <;> simp

/-! ### Array -/

@[simp] theorem Canonical.putBeat {s : State} (h : Canonical s.mems) (a bs) : Canonical (s.putBeat a bs).mems := by
  simp [State.putBeat, Memory.wf_store, h]

@[simp] theorem Canonical.putAcc {s : State} (h : Canonical s.mems) (a bs) : Canonical (s.putAcc a bs).mems := by
  simp [State.putAcc, Memory.wf_store, h]

@[simp] theorem Canonical.storeRows {s : State} (h : Canonical s.mems) (acc a bs) : Canonical (s.storeRows acc a bs).mems := by
  unfold State.storeRows
  simp [h]

@[simp] theorem Canonical.setAccRow {s : State} (h : Canonical s.mems) (bay bank row l) : Canonical (s.setAccRow bay bank row l).mems := by
  unfold State.setAccRow
  simp [h]

@[simp] theorem Canonical.setTileRow {s : State} (h : Canonical s.mems) (bay t i l) : Canonical (s.setTileRow bay t i l).mems := by
  unfold State.setTileRow
  simp [h]

theorem Canonical.unlessPoison {s : State} (h : Canonical s.mems) {go : Commit} (hgo : Canonical go.s.mems) (r bay tiles beat acc) :
    Canonical (s.unlessPoison r bay tiles beat acc go).s.mems := by
  unfold State.unlessPoison
  split <;> assumption

theorem Canonical.overBanks {s : State} (h : Canonical s.mems) {act : State → Nat → State × Flags}
    (hact : ∀ t k, Canonical t.mems → Canonical (act t k).1.mems) (r bay banks tiles beat acc) :
    Canonical (s.overBanks r bay banks tiles beat acc act).s.mems :=
  h.unlessPoison (Canonical.foldlPair (f := fun (s, f) k => let (s', g) := act s k; (s', f ||| g)) (x := (s, 0)) h
    (fun x k hx => hact x.1 k hx) banks) ..

theorem Canonical.setTileRows {α : Type} {s : State} (h : Canonical s.mems) (bay t) (l : List (α × Nat)) (f : α → List Nat) :
    Canonical (l.foldl (fun s (x, i) => s.setTileRow bay t i (f x)) s).mems := h.foldl (fun _ _ ht => ht.setTileRow ..) l
/-- A commit step writes accumulators and beat memory only through the operations on rows. -/
theorem Canonical.arrayStep {s : State} (h : Canonical s.mems) (bay r o) : Canonical (s.arrayStep bay r o).s.mems := by
  unfold State.arrayStep
  cases o with
  | amac | azero | asum => exact h.overBanks (fun t k ht => ht.setAccRow ..) ..
  | aop => exact h.overBanks (fun t k ht => ht.putBeat ..) ..
  | csnap ld => exact h.overBanks (fun t k ht => by cases ld <;> simp [ht]) ..
  | adrain bank0 nb arow _ brow side bf16 hi zero => exact h.overBanks (fun t k ht => by cases zero <;> simp [ht]) ..
  | cresp => exact h.unlessPoison h ..
  | copa t key val n b2 _ =>
    dsimp only
    split <;> refine h.unlessPoison ?_ ..
    · split <;> exact h
    · (repeat' split) <;> exact h.setTileRows ..
  | copac t key err n div =>
    dsimp only
    split <;> refine h.unlessPoison ?_ ..
    · split <;> exact h
    · split
      · exact h
      · refine h.unlessPoison ?_ ..
        (repeat' split) <;> exact h.setTileRows ..
  | cchk t err n =>
    dsimp only
    split <;> refine h.unlessPoison ?_ .. <;> split <;> exact h

/-! ### Global -/

@[simp] theorem Canonical.rekey {s : State} (h : Canonical s.mems) (key l) : Canonical (s.rekey key l).mems := by
  unfold State.rekey
  split <;> simp [Memory.wf_store, h]

@[simp] theorem Canonical.writePhys {s : State} (h : Canonical s.mems) (exp key a bs) : Canonical (s.writePhys exp key a bs).mems := by
  have store {t : State} (ht : Canonical t.mems) : Canonical { t with expander := t.expander.store a bs }.mems := by
    simp [Memory.wf_store, ht]
  have rekeys {t : State} (ht : Canonical t.mems) (ls : List Nat) := ht.foldl (f := fun s l => s.rekey key l) (fun _ _ ht => ht.rekey ..) ls
  unfold State.writePhys
  split
  · exact h
  · dsimp only
    split
    · split
      · exact store h
      · exact store (rekeys (t := s.onPkg _) h _)
    · simp [Memory.wf_store, h]

@[simp] theorem State.cacheWalk_mems (s : State) (p asid va w) : (s.cacheWalk p asid va w).mems = s.mems := by
  unfold State.cacheWalk
  split <;> simp

@[simp] theorem State.lookup_mems (s : State) (p asid va key) : (s.lookup p asid va key).2.mems = s.mems := by
  unfold State.lookup
  dsimp only
  (repeat' split) <;> simp

@[simp] theorem State.translate_mems (s : State) (acc p asid priv va key) : (s.translate acc p asid priv va key).2.mems = s.mems := by
  unfold State.translate
  dsimp only
  (repeat' split) <;> simp

@[simp] theorem Canonical.writeLeaf {s : State} (h : Canonical s.mems) (l off bs) : Canonical (s.writeLeaf l off bs).mems := by
  unfold State.writeLeaf
  simp [h]

@[simp] theorem State.llcTouch_mems (s : State) (p ways l dirty) : (s.llcTouch p ways l dirty).mems = s.mems := by rfl

@[simp] theorem State.llcTouchAll_mems (s : State) (p ways ls dirty) : (s.llcTouchAll p ways ls dirty).mems = s.mems := by
  unfold State.llcTouchAll
  simp

@[simp] theorem State.llcClean_mems (s : State) (picks drop) : (s.llcClean picks drop).mems = s.mems := by rfl

@[simp] theorem State.arrive_mems (s : State) (p src l w) : (s.arrive p src l w).mems = s.mems := by
  unfold State.arrive
  simp

@[simp] theorem State.leaveIntake_mems (s : State) (w) : (s.leaveIntake w).mems = s.mems := by rfl

@[simp] theorem State.dropCopies_mems (s : State) (l) : (s.dropCopies l).mems = s.mems := by
  unfold State.dropCopies
  simp

@[simp] theorem Canonical.homeStore {s : State} (h : Canonical s.mems) (p exp key a bs) : Canonical (s.homeStore p exp key a bs).mems := by
  unfold State.homeStore
  simp [h]

/-! ### Flags -/

@[simp] theorem State.floatS_mems (s : State) (d L p draws f) : (s.floatS d L p draws f).mems = s.mems := by
  unfold State.floatS
  split <;> simp

/-! ### Tile -/

theorem State.claimIf_mems (s : State) (c : Prop) [Decidable c] (common n) : (if c then (0, s) else s.claim common n).2.mems = s.mems := by
  split <;> simp
@[simp] theorem State.vec_mems (s : State) (k t o r) : (s.vec k t o r).mems = s.mems := by
  unfold State.vec
  dsimp only
  generalize (if vecRounds k o.ty.toNat r.f2.toNat then s.rnd o.p else _) = rnd
  split
  · simp
  · split
    · rw [State.raiseFlags_mems, State.mems_ite, State.upd_mems, State.upd_mems, State.upd_mems, ite_self]
      split
      · exact (State.report_mems ..).trans (State.claimIf_mems ..)
      · exact State.claimIf_mems ..
    · rw [State.upd_mems, State.newOp_mems]
      exact State.claimIf_mems ..

@[simp] theorem State.vecStep_mems (s : State) (bay j k o r sc mode sat common draw per bound) :
    (s.vecStep bay j k o r sc mode sat common draw per bound).mems = s.mems := by
  unfold State.vecStep
  dsimp only
  split <;> simp

/-! ### Scratch -/

@[simp] theorem Canonical.putScratch {s : State} (h : Canonical s.mems) (bay off bs) : Canonical (s.putScratch bay off bs).mems := by
  simp [State.putScratch, Memory.wf_store, h]

@[simp] theorem State.scratchAccess_mems (s : State) (load align n ea) (go : Nat → Nat → State) (hgo : ∀ bay off, (go bay off).mems = s.mems) :
    (s.scratchAccess load align n ea go).mems = s.mems := by
  unfold State.scratchAccess
  (repeat' split) <;> simp [hgo]

@[simp] theorem State.addSample_mems (s : State) (x) : (s.addSample x).mems = s.mems := by rfl

@[simp] theorem State.expect_mems (s : State) (d due id) : (s.expect d due id).mems = s.mems := by rfl

@[simp] theorem State.ld_mems (s : State) (m off) : (s.ld m off).mems = s.mems := by
  unfold State.ld
  simp

@[simp] theorem State.ldt_mems (s : State) (m off) : (s.ldt m off).mems = s.mems := by
  unfold State.ldt
  simp

@[simp] theorem State.readPoison_mems (s : State) (kind rows) : (s.readPoison kind rows).mems = s.mems := by
  unfold State.readPoison
  split <;> simp

@[simp] theorem State.addJob_mems (s : State) (k id rows) : (s.addJob k id rows).mems = s.mems := by rfl

@[simp] theorem State.addWrite_mems (s : State) (bay w) : (s.addWrite bay w).mems = s.mems := by rfl

@[simp] theorem State.sendRemote_mems (s : State) (st sc id bay pieces wait) :
    (s.sendRemote st sc id bay pieces wait).mems = s.mems := by rfl

@[simp] theorem State.st_mems (s : State) (m off p) : (s.st m off p).mems = s.mems := by
  unfold State.st
  simp

@[simp] theorem State.stt_mems (s : State) (m off p) : (s.stt m off p).mems = s.mems := by
  unfold State.stt
  simp

@[simp] theorem State.scratchStep_mems (s : State) (bay j) : (s.scratchStep bay j).mems = s.mems := by
  unfold State.scratchStep
  dsimp only
  (repeat' split) <;> simp

@[simp] theorem State.sampleOne_mems (s : State) (bay x) : (s.sampleOne bay x).mems = s.mems := by
  unfold State.sampleOne
  dsimp only
  (repeat' split) <;> simp

@[simp] theorem State.takeSamples_mems (s : State) (bay) : (s.takeSamples bay).mems = s.mems := by
  unfold State.takeSamples
  simp

theorem execScratchLoadSample_canonical {s : State} (h : Canonical s.mems) (bay) : Out.canonical (execScratchLoadSample bay s) := by
  unfold execScratchLoadSample
  split <;> simp [h]

@[simp] theorem Canonical.applyWrites {s : State} (h : Canonical s.mems) (bay) : Canonical (s.applyWrites bay).mems := by
  unfold State.applyWrites
  simp +contextual [h, Canonical.foldl]

theorem execScratchWriteApply_canonical {s : State} (h : Canonical s.mems) (bay) : Out.canonical (execScratchWriteApply bay s) := by
  unfold execScratchWriteApply
  split <;> simp [h]

@[simp] theorem State.jobRow_mems (s : State) (bay j) : (s.jobRow bay j).mems = s.mems := by
  unfold State.jobRow
  split <;> simp

@[simp] theorem State.landShort_mems (s : State) (bay) : (s.landShort bay).mems = s.mems := by
  unfold State.landShort
  simp

@[simp] theorem State.ldx_mems (s : State) (m off) : (s.ldx m off).mems = s.mems := by
  unfold State.ldx
  dsimp only
  (repeat' split) <;> simp

@[simp] theorem State.stx_mems (s : State) (m off p) : (s.stx m off p).mems = s.mems := by
  unfold State.stx
  dsimp only [State.newOp]
  split
  · simp
  · (repeat' split) <;> simp

/-! ### Beat -/

@[simp] theorem State.lateEntry_mems (s : State) (bay e) : (s.lateEntry bay e).mems = s.mems := by
  unfold State.lateEntry
  simp

@[simp] theorem State.enterQueue_mems (s : State) (bay e) : (s.enterQueue bay e).mems = s.mems := by rfl

@[simp] theorem State.sendBeat_mems (s : State) (odd p tag target addr op dest src use) :
    (s.sendBeat odd p tag target addr op dest src use).mems = s.mems := by
  unfold State.sendBeat
  split <;> simp

theorem execBeatQueueArrival_canonical {s : State} (h : Canonical s.mems) (bay id) : Out.canonical (execBeatQueueArrival bay id s) := by
  unfold execBeatQueueArrival
  (repeat' split) <;> simp [h]

@[simp] theorem State.beatEA_mems (s : State) (load acc t ea) : (s.beatEA load acc t ea).1.mems = s.mems := by
  unfold State.beatEA
  dsimp only
  (repeat' split) <;> simp

@[simp] theorem State.beatMove_mems (s : State) (load acc m ea p tag) : (s.beatMove load acc m ea p tag).mems = s.mems := by
  have checked := State.beatEA_mems s load acc m.t ea
  unfold State.beatMove
  generalize s.beatEA load acc m.t ea = x at checked ⊢
  dsimp only
  (repeat' split) <;> simp_all

@[simp] theorem State.landRows_mems (s : State) (bay task hold rows) : (s.landRows bay task hold rows).mems = s.mems := by
  unfold State.landRows
  simp

@[simp] theorem State.serveEntry_mems (s : State) (bay e) : (s.serveEntry bay e).mems = s.mems := by
  unfold State.serveEntry
  dsimp only
  (repeat' split) <;> simp

theorem execBeatLoadServe_canonical {s : State} (h : Canonical s.mems) (bay id) : Out.canonical (execBeatLoadServe bay id s) := by
  unfold execBeatLoadServe
  (repeat' split) <;> simp [h]

theorem execRemoteLoadLand_canonical {s : State} (h : Canonical s.mems) (bay id) : Out.canonical (execRemoteLoadLand bay id s) := by
  unfold execRemoteLoadLand
  (repeat' split) <;> simp [h]

theorem execArrayOpStart_canonical {s : State} (h : Canonical s.mems) (bay) : Out.canonical (execArrayOpStart bay s) := by
  unfold execArrayOpStart
  dsimp only
  (repeat' split) <;> simp [h]

theorem execArrayCommitPoint_canonical {s : State} (h : Canonical s.mems) (bay) : Out.canonical (execArrayCommitPoint bay s) := by
  unfold execArrayCommitPoint
  dsimp only
  (repeat' split) <;> simp [h.arrayStep, h]

theorem execArrayOpComplete_canonical {s : State} (h : Canonical s.mems) (bay) : Out.canonical (execArrayOpComplete bay s) := by
  unfold execArrayOpComplete
  (repeat' split) <;> simp [h]

theorem execAwritePieceSample_canonical {s : State} (h : Canonical s.mems) (bay) : Out.canonical (execAwritePieceSample bay s) := by
  unfold execAwritePieceSample
  dsimp only
  (repeat' split) <;> simp [h]

@[simp] theorem Canonical.applyEntry {s : State} (h : Canonical s.mems) (bay e) : Canonical (s.applyEntry bay e).mems := by
  unfold State.applyEntry
  dsimp only
  (repeat' split) <;> simp +contextual [h, Canonical.foldl]

@[simp] theorem Canonical.applyEngine {s : State} (h : Canonical s.mems) (w) : Canonical (s.applyEngine w).mems := by
  unfold State.applyEngine
  simp [h]

@[simp] theorem Canonical.applyBeat {s : State} (h : Canonical s.mems) (p) : Canonical (s.applyBeat p).mems := by
  unfold State.applyBeat
  dsimp only
  rw [State.onPart_mems, State.mapBays_mems]
  refine Canonical.foldl (h.foldl (fun s src h => ?_) _) (fun s w h => h.storeRows ..) _
  exact (h.foldl (fun s y h => h.applyEntry ..) _).foldl (fun s w h => h.applyEngine w) _

@[simp] theorem State.openBeat_mems (s : State) (p n) : (s.openBeat p n).mems = s.mems := by
  unfold State.openBeat
  simp

@[simp] theorem State.serveHost_mems (s : State) (p n) : (s.serveHost p n).mems = s.mems := by rfl

@[simp] theorem State.snapshot_mems (s : State) (p) : (s.snapshot p).mems = s.mems := by rfl

@[simp] theorem Canonical.closeBeat {s : State} (h : Canonical s.mems) (p) : Canonical (s.closeBeat p).mems := by
  unfold State.closeBeat
  simp [h]

theorem execBeatClose_canonical {s : State} (h : Canonical s.mems) (part) : Out.canonical (execBeatClose part s) := by
  unfold execBeatClose
  (repeat' split) <;> simp [h]

theorem execBeatOverrun_canonical {s : State} (h : Canonical s.mems) (bay) : Out.canonical (execBeatOverrun bay s) := by
  unfold execBeatOverrun
  (repeat' split) <;> simp [h]

theorem execRefreshDue_canonical {s : State} (h : Canonical s.mems) (die) : Out.canonical (execRefreshDue die s) := by
  unfold execRefreshDue
  dsimp only
  (repeat' split) <;> simp [h]

theorem execRefreshWindowEnd_canonical {s : State} (h : Canonical s.mems) (die) : Out.canonical (execRefreshWindowEnd die s) := by
  unfold execRefreshWindowEnd
  (repeat' split) <;> simp [h]

/-! ### Stream -/

@[simp] theorem State.globalAccess_mems (s : State) (align ea go) (hgo : State.mems go = s.mems) :
    (s.globalAccess align ea go).mems = s.mems := by
  unfold State.globalAccess
  split <;> simp [hgo]

@[simp] theorem State.sendGlobal_mems (s : State) (p op ea acq rel id) : (s.sendGlobal p op ea acq rel id).mems = s.mems := by rfl

@[simp] theorem State.ldg_mems (s : State) (acq m off p) : (s.ldg acq m off p).mems = s.mems := by
  unfold State.ldg
  simp

@[simp] theorem State.storeCopy_mems (s : State) (ea data) : (s.storeCopy ea data).mems = s.mems := by
  unfold State.storeCopy
  dsimp only
  (repeat' split) <;> simp

@[simp] theorem State.stg_mems (s : State) (rel m off p) : (s.stg rel m off p).mems = s.mems := by
  unfold State.stg
  simp

@[simp] theorem State.atom_mems (s : State) (o off p) : (s.atom o off p).mems = s.mems := by
  unfold State.atom
  simp

@[simp] theorem State.park_mems (s : State) (die node asid page form wr what) : (s.park die node asid page form wr what).mems = s.mems := by
  unfold State.park
  simp

@[simp] theorem State.onEntry_mems (s : State) (bay q id f) : (s.onEntry bay q id f).mems = s.mems := by rfl

@[simp] theorem State.entryDone_mems (s : State) (bay q e) : (s.entryDone bay q e).mems = s.mems := by rfl

@[simp] theorem Canonical.storeHome {s : State} (h : Canonical s.mems) (bay q id l pa off data) :
    Canonical (s.storeHome bay q id l pa off data).mems := by
  unfold State.storeHome
  simp [h]

@[simp] theorem Canonical.performGlobal {s : State} (h : Canonical s.mems) (bay q e) : Canonical (s.performGlobal bay q e).mems := by
  unfold State.performGlobal
  dsimp only
  (repeat' split) <;> simp [h]

theorem execStreamDeliver_canonical {s : State} (h : Canonical s.mems) (bay q) : Out.canonical (execStreamDeliver bay q s) := by
  unfold execStreamDeliver
  (repeat' split) <;> simp [h]

theorem execHostAck_canonical {s : State} (h : Canonical s.mems) (line) : Out.canonical (execHostAck line s) := by
  unfold execHostAck
  simp [h]

@[simp] theorem State.placeMarkers_mems (s : State) (mask sc bar) : (s.placeMarkers mask sc bar).mems = s.mems := by
  unfold State.placeMarkers
  simp

theorem execFence_canonical {s : State} (h : Canonical s.mems) (sc mask) : Out.canonical (execFence sc mask s) := by
  unfold execFence
  simp [h]

@[simp] theorem State.checkBarrier_mems (s : State) (bay) : (s.checkBarrier bay).mems = s.mems := by
  unfold State.checkBarrier
  simp

theorem execFenceMarkerLeave_canonical {s : State} (h : Canonical s.mems) (bay) : Out.canonical (execFenceMarkerLeave bay s) := by
  unfold execFenceMarkerLeave
  split <;> simp [h]

/-! ### Engine -/

@[simp] theorem State.setCmds_mems (s : State) (e l) : (s.setCmds e l).mems = s.mems := by
  unfold State.setCmds
  split <;> simp

@[simp] theorem State.setCmd_mems (s : State) (e c) : (s.setCmd e c).mems = s.mems := by
  unfold State.setCmd
  simp

@[simp] theorem State.dropPin_mems (s : State) (run) : (s.dropPin run).mems = s.mems := by
  unfold State.dropPin
  split <;> simp

@[simp] theorem State.pinPage_mems (s : State) (c va l pa) : (s.pinPage c va l pa).1.mems = s.mems := by
  unfold State.pinPage
  dsimp only
  (repeat' split) <;> simp

@[simp] theorem Canonical.setFrames {s : State} (h : Canonical s.mems) (p f n v) : Canonical (s.setFrames p f n v).mems := by
  unfold State.setFrames
  simp +contextual [h, Canonical.foldl]

@[simp] theorem Canonical.freeFrames {s : State} (h : Canonical s.mems) (p) : Canonical (s.freeFrames p).mems := by
  unfold State.freeFrames
  simp +contextual [h, Canonical.foldl]

@[simp] theorem Canonical.unpin {s : State} (h : Canonical s.mems) (c keep) : Canonical (s.unpin c keep).1.mems := by
  unfold State.unpin
  dsimp only
  split <;> simp [h]

@[simp] theorem State.engLeaf_mems (s : State) (c acc va) : (s.engLeaf c acc va).2.mems = s.mems := by
  unfold State.engLeaf
  (repeat' split) <;> simp

@[simp] theorem Canonical.engStore {s : State} (h : Canonical s.mems) (c l off lines data) :
    Canonical (s.engStore c l off lines data).mems := by
  unfold State.engStore
  simp [h]

theorem Canonical.engGlobal {s : State} (h : Canonical s.mems) (e c w va n data) : Canonical (s.engGlobal e c w va n data).mems := by
  unfold State.engGlobal
  dsimp only
  (repeat' split) <;> simp [h]

theorem Canonical.engHost {s : State} (h : Canonical s.mems) (c w a n data) : Canonical (s.engHost c w a n data).mems := by
  simp only [State.engHost]
  (repeat' split) <;> simp [h]

theorem Canonical.engRead {s : State} (h : Canonical s.mems) (e c a n) : Canonical (s.engRead e c a n).mems := by
  unfold State.engRead
  dsimp only
  (repeat' split) <;> simp [h.engGlobal, h.engHost, h]

theorem Canonical.engWrite {s : State} (h : Canonical s.mems) (e c a data own) : Canonical (s.engWrite e c a data own).mems := by
  have atGlobal := h.engGlobal e c true a.addr data.length data
  have atHost := h.engHost c true a.addr data.length data
  unfold State.engWrite
  dsimp only
  (repeat' split) <;> simp_all

@[simp] theorem Canonical.settleCmd {s : State} (h : Canonical s.mems) (e c st cause count) :
    Canonical (s.settleCmd e c st cause count).mems := by
  unfold State.settleCmd
  simp [h]

@[simp] theorem Canonical.failCmd {s : State} (h : Canonical s.mems) (e c r) : Canonical (s.failCmd e c r).mems := by
  unfold State.failCmd
  simp [h]

@[simp] theorem State.releaseEngine_mems (s : State) (die u passes) : (s.releaseEngine die u passes).mems = s.mems := by rfl

@[simp] theorem State.releaseIdle_mems (s : State) (e) : (s.releaseIdle e).mems = s.mems := by
  unfold State.releaseIdle
  split <;> simp

@[simp] theorem State.detach_mems (s : State) (e c) : (s.detach e c).mems = s.mems := by
  unfold State.detach
  split <;> simp

@[simp] theorem Canonical.dropCmd {s : State} (h : Canonical s.mems) (e c) : Canonical (s.dropCmd e c).mems := by
  unfold State.dropCmd
  split <;> simp [h]

@[simp] theorem Canonical.runMicro {s : State} (h : Canonical s.mems) (e c) : Canonical (s.runMicro e c).mems := by
  unfold State.runMicro
  split
  · exact h
  · extract_lets next finish
    have hfinish (x : Access) (put) (hx : Canonical x.mems) : Canonical (finish x put).mems := by
      unfold finish
      clear finish
      split
      · next s' c' d =>
        dsimp only
        split
        all_goals
          generalize hu : State.unpin _ _ _ = u
          have hu : Canonical u.1.mems := hu ▸ Canonical.unpin (s := s') hx ..
          (repeat' split)
          all_goals simp only [State.onBay_mems, State.setCmd_mems, hu, Canonical.dropCmd]
      · rw [State.setCmd_mems]; exact hx
      · split
        · rw [State.report_mems]; exact Canonical.dropCmd hx ..
        · exact Canonical.failCmd hx ..
    split
    · exact hfinish _ _ (h.engRead ..)
    · exact hfinish _ _ (h.engWrite ..)
    · clear hfinish finish
      split
      · dsimp only
        (repeat' split) <;> simp [h]
      · exact h

theorem Canonical.readStart {s : State} (h : Canonical s.mems) (e c fuel got) : Canonical (s.readStart e c fuel got).mems := by
  induction fuel generalizing s c got with
  | zero => simp [State.readStart, h]
  | succ n ih =>
    unfold State.readStart
    split
    · simp [h]
    · next a n _ =>
      have read := h.engRead e c a n
      split <;> simp_all

theorem execEngineCmdStart_canonical {s : State} (h : Canonical s.mems) (eng) : Out.canonical (execEngineCmdStart eng s) := by
  unfold execEngineCmdStart
  split
  · exact (Out.canonical_next _).2 h
  · exact (Out.canonical_next _).2 (h.readStart ..)

theorem Canonical.pinWrites {s : State} (h : Canonical s.mems) (c) (l : List Micro) : ∀ x ∈ s.pinWrites c l, Canonical x.1.mems := by
  induction l generalizing s c with
  | nil => simp [State.pinWrites, h]
  | cons m rest ih =>
    unfold State.pinWrites
    split
    · simpa using h
    · next a d own rest' heq =>
      cases heq
      split
      · exact ih h c
      · split
        · dsimp only
          split
          · simp
          · exact ih h c
        · split
          · split
            · next l pa s1 heq =>
              have h1 : s1.mems = s.mems := by simpa [heq] using s.engLeaf_mems c .engWrite a.addr
              exact ih (s := (s1.pinPage c a.addr l pa).1) (by rwa [State.pinPage_mems, h1]) _
            · simp
          · simp
    · simp

theorem Canonical.earlyWord {s : State} (h : Canonical s.mems) (e) : ∀ x ∈ s.earlyWord e, Canonical x.1.mems := by
  unfold State.earlyWord
  split
  · simp
  · split
    · exact Canonical.pinWrites h _ _
    · simp

theorem Canonical.writeWord {s : State} (h : Canonical s.mems) (e c count st cause) {after : State → Cmd → State}
    (hafter : ∀ s c, Canonical s.mems → Canonical (after s c).mems) : Canonical (s.writeWord e c count st cause after).mems := by
  have write := h.engGlobal e c true c.word.toNat 8 (wordOf count st cause)
  unfold State.writeWord
  dsimp only
  split
  · exact hafter _ _ h
  · split <;> simp_all

@[simp] theorem Canonical.leaveTail {s : State} (h : Canonical s.mems) (e c) : Canonical (s.leaveTail e c).mems := by
  unfold State.leaveTail
  simp [h]

theorem execEngineCmdFinish_canonical {s : State} (h : Canonical s.mems) (eng) : Out.canonical (execEngineCmdFinish eng s) := by
  unfold execEngineCmdFinish
  split
  · exact (Out.canonical_next _).2 (h.writeWord _ _ _ _ _ fun s c h => h.dropCmd ..)
  · split
    · next x hx => exact (Out.canonical_next _).2 (Canonical.writeWord (Canonical.earlyWord h eng _ hx) _ _ _ _ _ fun s c h => h.leaveTail ..)
    · exact (Out.canonical_next _).2 h

@[simp] theorem State.withdrawRank_mems (s : State) (g r rank) : (s.withdrawRank g r rank).mems = s.mems := by rfl

@[simp] theorem Canonical.abortCmd {s : State} (h : Canonical s.mems) (e c st cause count) :
    Canonical (s.abortCmd e c st cause count).mems := by
  unfold State.abortCmd
  dsimp only
  split <;> simp [h]

theorem execIndexPopTimeout_canonical {s : State} (h : Canonical s.mems) (bay ch) : Out.canonical (execIndexPopTimeout bay ch s) := by
  unfold execIndexPopTimeout
  (repeat' split) <;> simp [h]

/-! ### Scalar -/

@[simp] theorem State.op1_mems (s : State) (L d b f) : (s.op1 L d b f).mems = s.mems := by
  unfold State.op1
  simp

@[simp] theorem State.op2_mems (s : State) (L d b c f) : (s.op2 L d b c f).mems = s.mems := by
  unfold State.op2
  simp

@[simp] theorem State.lih_mems (s : State) (d i) : (s.lih d i).mems = s.mems := by
  unfold State.lih
  simp

@[simp] theorem State.minMaxS_mems (s : State) (isMax d b c) : (s.minMaxS isMax d b c).mems = s.mems := by
  unfold State.minMaxS
  simp

theorem execFcmp_canonical {s : State} (h : Canonical s.mems) (cc d b c) : Out.canonical (execFcmp cc d b c s) := by
  unfold execFcmp
  simp [h]

theorem execFcvt_canonical {s : State} (h : Canonical s.mems) (dst src d b p) : Out.canonical (execFcvt dst src d b p s) := by
  unfold execFcvt
  simp [h]

@[simp] theorem State.readLate_mems (s : State) : (s.readLate).mems = s.mems := by rfl

theorem execRds_canonical {s : State} (h : Canonical s.mems) (n d) : Out.canonical (execRds n d s) := by
  unfold execRds
  simp [h]

@[simp] theorem State.clearFlight_mems (s : State) (h v) : (s.clearFlight h v).mems = s.mems := by rfl

@[simp] theorem State.writeSpecialAt_mems (s : State) (h n v) : (s.writeSpecialAt h n v).mems = s.mems := by
  unfold State.writeSpecialAt
  simp

/-! ### Lease -/

@[simp] theorem State.onLease_mems (s : State) (die i f) : (s.onLease die i f).mems = s.mems := by rfl

@[simp] theorem State.onEng_mems (s : State) (die u f) : (s.onEng die u f).mems = s.mems := by rfl

@[simp] theorem State.freeLease_mems (s : State) (die i) : (s.freeLease die i).mems = s.mems := by rfl

@[simp] theorem State.grantLease_mems (s : State) (die i u reserved readyAt) :
    (s.grantLease die i u reserved readyAt).mems = s.mems := by rfl

@[simp] theorem State.dropHeld_mems (s : State) (die i) : (s.dropHeld die i).mems = s.mems := by
  unfold State.dropHeld
  simp

@[simp] theorem State.grantOwn_mems (s : State) (die i u node) : (s.grantOwn die i u node).mems = s.mems := by rfl

@[simp] theorem Canonical.evict {s : State} (h : Canonical s.mems) (die v toFree) : Canonical (s.evict die v toFree).mems := by
  unfold State.evict
  dsimp only
  (repeat' split) <;> simp +contextual [h, Canonical.foldl]

@[simp] theorem Canonical.giveUp {s : State} (h : Canonical s.mems) (die i) : Canonical (s.giveUp die i).mems := by
  unfold State.giveUp
  dsimp only
  (repeat' split) <;> simp [h]

@[simp] theorem State.lostLease_mems (s : State) (r) : (s.lostLease r).mems = s.mems := by
  unfold State.lostLease
  simp

@[simp] theorem State.lease_mems (s : State) (d b cls prio) : (s.lease d b cls prio).mems = s.mems := by
  unfold State.lease
  dsimp only
  (repeat' split) <;> simp

theorem execUnlease_canonical {s : State} (h : Canonical s.mems) (b) : Out.canonical (execUnlease b s) := by
  unfold execUnlease
  simp [h]

theorem execLstat_canonical {s : State} (h : Canonical s.mems) (d b) : Out.canonical (execLstat d b s) := by
  unfold execLstat
  split <;> simp [h]

theorem execWaitl_canonical {s : State} (h : Canonical s.mems) (b) : Out.canonical (execWaitl b s) := by
  unfold execWaitl
  split <;> simp [h]

theorem execLeaseGrant_canonical {s : State} (h : Canonical s.mems) (die) : Out.canonical (execLeaseGrant die s) := by
  unfold execLeaseGrant
  (repeat' split) <;> simp [h]

theorem execLeaseWakeComplete_canonical {s : State} (h : Canonical s.mems) (die lease) :
    Out.canonical (execLeaseWakeComplete die lease s) := by
  unfold execLeaseWakeComplete
  dsimp only
  (repeat' split) <;> simp [h]

theorem execLeaseDeadlinePass_canonical {s : State} (h : Canonical s.mems) (die lease) :
    Out.canonical (execLeaseDeadlinePass die lease s) := by
  unfold execLeaseDeadlinePass
  dsimp only
  (repeat' split) <;> simp [h]

theorem execEvictionGraceEnd_canonical {s : State} (h : Canonical s.mems) (die lease) :
    Out.canonical (execEvictionGraceEnd die lease s) := by
  unfold execEvictionGraceEnd
  (repeat' split) <;> simp [h]

theorem execDrowsyHoldExpire_canonical {s : State} (h : Canonical s.mems) (die unit) : Out.canonical (execDrowsyHoldExpire die unit s) := by
  unfold execDrowsyHoldExpire
  dsimp only
  (repeat' split) <;> simp [h]

theorem execReservedEngineDrowsy_canonical {s : State} (h : Canonical s.mems) (die unit) :
    Out.canonical (execReservedEngineDrowsy die unit s) := by
  unfold execReservedEngineDrowsy
  dsimp only
  (repeat' split) <;> simp [h]

/-! ### Control -/

@[simp] theorem State.goTo_mems (s : State) (a) : (s.goTo a).mems = s.mems := by rfl

@[simp] theorem State.branchIf_mems (s : State) {n : Nat} (c off) : (State.branchIf (n := n) s c off).mems = s.mems := by
  unfold State.branchIf
  simp

@[simp] theorem State.bcc_mems (s : State) {n : Nat} (f cc b c off) : (State.bcc (n := n) s f cc b c off).mems = s.mems := by
  unfold State.bcc
  simp

@[simp] theorem State.loopBack_mems (s : State) {n : Nat} (b off) : (State.loopBack (n := n) s b off).mems = s.mems := by
  unfold State.loopBack
  simp

theorem execCall_canonical {s : State} (h : Canonical s.mems) (off) : Out.canonical (execCall off s) := by
  unfold execCall
  simp [h]

theorem execCall64_canonical {s : State} (h : Canonical s.mems) (off) : Out.canonical (execCall64 off s) := by
  unfold execCall64
  simp [h]

theorem execCallr_canonical {s : State} (h : Canonical s.mems) (b) : Out.canonical (execCallr b s) := by
  unfold execCallr
  simp [h]

@[simp] theorem State.trapAfter_mems (s : State) (cause imm) : (s.trapAfter cause imm).mems = s.mems := by rfl

theorem execEndTask_canonical {s : State} (h : Canonical s.mems) : Out.canonical (execEndTask s) := by
  unfold execEndTask
  dsimp only
  rw [Out.canonical_next, State.checkBarrier_mems, State.upd_mems]
  exact h.foldl (fun _ _ ht => ht.giveUp ..) _

theorem execSetf_canonical {s : State} (h : Canonical s.mems) (b) : Out.canonical (execSetf b s) := by
  unfold execSetf
  simp [h]

theorem execFrame_canonical {s : State} (h : Canonical s.mems) (k) : Out.canonical (execFrame k s) := by
  unfold execFrame
  simp [h]

@[simp] theorem State.setDbeat_mems (s : State) (v) : (s.setDbeat v).mems = s.mems := by rfl

@[simp] theorem State.bplan_mems (s : State) (off) : (s.bplan off).mems = s.mems := by
  unfold State.bplan
  simp

theorem execBplan_canonical {s : State} (h : Canonical s.mems) (b) : Out.canonical (execBplan b s) := by
  unfold execBplan
  simp [h]

theorem execBplanTableSample_canonical {s : State} (h : Canonical s.mems) (bay) : Out.canonical (execBplanTableSample bay s) := by
  unfold execBplanTableSample
  dsimp only
  (repeat' split) <;>
    simp only [Out.canonical_next, Out.canonical_fault, State.report_mems, State.onTask_mems, State.onBay_mems, h]

@[simp] theorem State.blocked_mems (s : State) (w) : (s.blocked w).mems = s.mems := by rfl

theorem execBar_canonical {s : State} (h : Canonical s.mems) (sc) : Out.canonical (execBar sc s) := by
  unfold execBar
  split <;> simp [h]

theorem execWaitcReg_canonical {s : State} (h : Canonical s.mems) (n) : Out.canonical (execWaitcReg n s) := by
  unfold execWaitcReg
  simp [h]

@[simp] theorem State.waitWord_mems (s : State) (word) : (s.waitWord word).mems = s.mems := by
  unfold State.waitWord
  split <;> simp

theorem execWaitcWord_canonical {s : State} (h : Canonical s.mems) (b) : Out.canonical (execWaitcWord b s) := by
  unfold execWaitcWord
  dsimp only
  (repeat' split) <;> simp [h]

theorem execWaitcG_canonical {s : State} (h : Canonical s.mems) (b) : Out.canonical (execWaitcG b s) := by
  unfold execWaitcG
  dsimp only
  (repeat' split) <;> simp [h]

@[simp] theorem State.dropRange_mems (s : State) (bay a n) : (s.dropRange bay a n).mems = s.mems := by rfl

@[simp] theorem State.releaseRange_mems (s : State) (bay a n) : (s.releaseRange bay a n).mems = s.mems := by rfl

@[simp] theorem State.cacheRange_mems (s : State) (b c) (go : Nat → Nat → State) (hgo : ∀ a n, (go a n).mems = s.mems) :
    (s.cacheRange b c go).mems = s.mems := by
  unfold State.cacheRange
  dsimp only
  (repeat' split) <;> simp [hgo]

theorem execCinvLlc_canonical {s : State} (h : Canonical s.mems) (b c) : Out.canonical (execCinvLlc b c s) := by
  unfold execCinvLlc
  simp [h]

theorem execCwb_canonical {s : State} (h : Canonical s.mems) (b c) : Out.canonical (execCwb b c s) := by
  unfold execCwb
  simp [h]

@[simp] theorem State.finishCache_mems (s : State) (bay) : (s.finishCache bay).mems = s.mems := by
  unfold State.finishCache
  split <;> simp

theorem execRdsys_canonical {s : State} (h : Canonical s.mems) (n d) : Out.canonical (execRdsys n d s) := by
  unfold execRdsys
  simp [h]

theorem execBformWrite_canonical {s : State} (h : Canonical s.mems) (bay v) : Out.canonical (execBformWrite bay v s) := by
  unfold execBformWrite
  dsimp only
  (repeat' split) <;> simp [h]

@[simp] theorem State.applySystem_mems (s : State) (bay n v) : (s.applySystem bay n v).mems = s.mems := by
  unfold State.applySystem
  split <;> simp

@[simp] theorem State.writeSystem_mems (s : State) (bay n v) : (s.writeSystem bay n v).mems = s.mems := by
  unfold State.writeSystem
  simp

theorem execWrsys_canonical {s : State} (h : Canonical s.mems) (n b) : Out.canonical (execWrsys n b s) := by
  unfold execWrsys
  simp [h]

/-! ### ArraySlot -/

@[simp] theorem State.checkRanges_mems (s : State) (array rs go) (hgo : State.mems go = s.mems) :
    (s.checkRanges array rs go).mems = s.mems := by
  unfold State.checkRanges
  dsimp only
  (repeat' split) <;> simp [hgo]

@[simp] theorem State.sendArray_mems (s : State) (p tag op rs dest src) : (s.sendArray p tag op rs dest src).mems = s.mems := by
  unfold State.sendArray
  simp

@[simp] theorem State.amac_mems (s : State) (o p tag) : (s.amac o p tag).mems = s.mems := by
  unfold State.amac
  dsimp only
  split <;> simp

@[simp] theorem State.azero_mems (s : State) (b c p tag) : (s.azero b c p tag).mems = s.mems := by
  unfold State.azero
  split <;> simp

@[simp] theorem State.adrain_mems (s : State) (b c p tag) : (s.adrain b c p tag).mems = s.mems := by
  unfold State.adrain
  split <;> simp

@[simp] theorem State.aswap_mems (s : State) (b p tag) : (s.aswap b p tag).mems = s.mems := by
  unfold State.aswap
  split <;> simp

@[simp] theorem State.awrite_mems (s : State) (b c p tag) : (s.awrite b c p tag).mems = s.mems := by
  unfold State.awrite
  dsimp only
  (repeat' split) <;> simp

@[simp] theorem State.aop_mems (s : State) (o p tag) : (s.aop o p tag).mems = s.mems := by
  unfold State.aop
  dsimp only
  (repeat' split) <;> simp

@[simp] theorem State.asum_mems (s : State) (o p tag) : (s.asum o p tag).mems = s.mems := by
  unfold State.asum
  split <;> simp

@[simp] theorem State.tmmaStart_mems (s : State) (bay t) : (s.tmmaStart bay t).2.mems = s.mems := by
  unfold State.tmmaStart
  split <;> simp

@[simp] theorem State.tmma_mems (s : State) (o) : (s.tmma o).mems = s.mems := by
  unfold State.tmma
  dsimp only
  (repeat' split) <;> simp

theorem execTmmaComplete_canonical {s : State} (h : Canonical s.mems) (bay) : Out.canonical (execTmmaComplete bay s) := by
  unfold execTmmaComplete
  (repeat' split) <;> simp [h]

@[simp] theorem State.cresp_mems (s : State) (o p tag) : (s.cresp o p tag).mems = s.mems := by
  unfold State.cresp
  dsimp only
  split <;> simp

@[simp] theorem State.copa_mems (s : State) (c o p tag) : (s.copa c o p tag).mems = s.mems := by
  unfold State.copa
  dsimp only
  (repeat' split) <;> simp

@[simp] theorem State.cchk_mems (s : State) (o p tag) : (s.cchk o p tag).mems = s.mems := by
  unfold State.cchk
  dsimp only
  split <;> simp

@[simp] theorem State.csnap_mems (s : State) (ld a b p tag) : (s.csnap ld a b p tag).mems = s.mems := by
  unfold State.csnap
  split <;> simp

/-! ### Command -/

@[simp] theorem State.acceptCmd_mems (s : State) (e room queued c) : (s.acceptCmd e room queued c).mems = s.mems := by
  unfold State.acceptCmd
  split <;> simp

@[simp] theorem State.sendCmd_mems (s : State) (o k ch par lease e room queued pre ops) :
    (s.sendCmd o k ch par lease e room queued pre ops).mems = s.mems := by
  unfold State.sendCmd
  dsimp only
  (repeat' split) <;> simp

@[simp] theorem State.btxCmd_mems (s : State) (ch o bad a0 a1 n0 n1 unit k ops) :
    (s.btxCmd ch o bad a0 a1 n0 n1 unit k ops).mems = s.mems := by
  unfold State.btxCmd
  simp

@[simp] theorem State.xcpy_mems (s : State) (ch o) : (s.xcpy ch o).mems = s.mems := by
  unfold State.xcpy
  simp

@[simp] theorem State.xgather_mems (s : State) (scatter ch nm1 o) : (s.xgather scatter ch nm1 o).mems = s.mems := by
  unfold State.xgather
  simp

@[simp] theorem State.tackCmd_mems (s : State) (o k) : (s.tackCmd o k).mems = s.mems := by
  unfold State.tackCmd
  dsimp only
  (repeat' split) <;> simp

@[simp] theorem State.spawn_mems (s : State) (o) : (s.spawn o).mems = s.mems := by
  unfold State.spawn
  simp

theorem execXpush_canonical {s : State} (h : Canonical s.mems) (ch b) : Out.canonical (execXpush ch b s) := by
  unfold execXpush
  simp [h]

theorem execWaitw_canonical {s : State} (h : Canonical s.mems) (ch b) : Out.canonical (execWaitw ch b s) := by
  unfold execWaitw
  simp [h]

@[simp] theorem State.failHeld_mems (s : State) (die i c cause) : (s.failHeld die i c cause).mems = s.mems := by rfl

@[simp] theorem Canonical.recheckPhase {s : State} (h : Canonical s.mems) (bay) : Canonical (s.recheckPhase bay).mems := by
  refine Canonical.foldl (h.foldl (fun s x h => ?_) _) (fun s x h => ?_) _
  · dsimp only
    (repeat' split) <;> simp [h]
  · split <;> simp [h]

theorem execPhase_canonical {s : State} (h : Canonical s.mems) (b) : Out.canonical (execPhase b s) := by
  unfold execPhase
  dsimp only
  (repeat' split) <;> simp [h]

/-! ### Region -/

@[simp] theorem Canonical.vaStore {s : State} (h : Canonical s.mems) (p asid va v) : Canonical (s.vaStore p asid va v).mems := by
  unfold State.vaStore
  split <;> simp [h]

@[simp] theorem Canonical.makeWrite {s : State} (h : Canonical s.mems) (w) : Canonical (s.makeWrite w).mems := by
  unfold State.makeWrite
  split <;> simp [h]

@[simp] theorem State.askPage_mems (s : State) (node p asid va) : (s.askPage node p asid va).mems = s.mems := by
  unfold State.askPage
  simp

@[simp] theorem Canonical.schedPut {s : State} (h : Canonical s.mems) (w) : Canonical (s.schedPut w).mems := by
  unfold State.schedPut
  simp [h]

@[simp] theorem State.onNode_mems (s : State) (n f) : (s.onNode n f).mems = s.mems := by rfl

@[simp] theorem Canonical.putState {s : State} (h : Canonical s.mems) (node p asid addr st cause) :
    Canonical (s.putState node p asid addr st cause).mems := by
  unfold State.putState
  simp [h]

@[simp] theorem Canonical.moveNode {s : State} (h : Canonical s.mems) (n st cause) : Canonical (s.moveNode n st cause).mems := by
  unfold State.moveNode
  split <;> simp [h]

@[simp] theorem Canonical.putSlot {s : State} (h : Canonical s.mems) (node par slot st) : Canonical (s.putSlot node par slot st).mems := by
  unfold State.putSlot
  simp [h]

@[simp] theorem Canonical.signal {s : State} (h : Canonical s.mems) (node n) : Canonical (s.signal node n).mems := by
  unfold State.signal
  simp +contextual [h, Canonical.foldl]

@[simp] theorem State.queueLeaf_mems (s : State) (id n) : (s.queueLeaf id n).mems = s.mems := by
  unfold State.queueLeaf
  simp

@[simp] theorem State.noteDeps_mems (s : State) : (s.noteDeps).mems = s.mems := by
  unfold State.noteDeps
  simp

@[simp] theorem Canonical.advance {s : State} (h : Canonical s.mems) (id) : Canonical (s.advance id).mems := by
  unfold State.advance
  split <;> simp [h]

@[simp] theorem Canonical.refuseChild {s : State} (h : Canonical s.mems) (node slot addr par n cause) :
    Canonical (s.refuseChild node slot addr par n cause).mems := ((h.putState ..).putSlot ..).signal ..

@[simp] theorem Canonical.admitNode {s : State} (h : Canonical s.mems) (parId slot addr par ws) :
    Canonical (s.admitNode parId slot addr par ws).1.mems := by
  unfold State.admitNode
  dsimp only
  split <;> simp [h]

@[simp] theorem Canonical.refuseKids {s : State} (h : Canonical s.mems) (id) : Canonical (s.refuseKids id).mems := by
  unfold State.refuseKids
  (repeat' split) <;> simp +contextual [h, Canonical.foldl]

@[simp] theorem Canonical.readmit {s : State} (h : Canonical s.mems) (parId id) : Canonical (s.readmit parId id).mems := by
  unfold State.readmit
  dsimp only
  (repeat' split) <;> simp [h]

@[simp] theorem Canonical.scanSlot {s : State} (h : Canonical s.mems) (parId x slot) : Canonical (s.scanSlot parId x slot).1.mems := by
  have admitted (n p i st w n' j a q ws) := ((h.putSlot n p i st).schedPut w).admitNode n' j a q ws
  unfold State.scanSlot
  dsimp only
  (repeat' split) <;> simp [admitted, h]

@[simp] theorem State.loadAnchor_mems (s : State) (p) : (s.loadAnchor p).mems = s.mems := by
  have fresh (a : Nat) : (State.loadAnchor.fresh s p a).mems = s.mems := by
    unfold State.loadAnchor.fresh
    (repeat' split) <;> rfl
  unfold State.loadAnchor
  dsimp only
  (repeat' split) <;> simp [fresh]

@[simp] theorem Canonical.flushWrites {s : State} (h : Canonical s.mems) (node) : Canonical (s.flushWrites node).mems := by
  unfold State.flushWrites
  dsimp only
  rw [State.onPkg_mems]
  refine Canonical.foldlPair (x := (s, [])) h (fun a w ha => ?_) _
  split
  · exact ha
  · exact ha.makeWrite _

@[simp] theorem State.askSlots_mems (s : State) (node n slots) : (s.askSlots node n slots).mems = s.mems := by
  refine foldl_mems _ _ _ fun s i => ?_
  (repeat' split) <;> simp

theorem execSchedChildScan_canonical {s : State} (h : Canonical s.mems) (node) : Out.canonical (execSchedChildScan node s) := by
  unfold execSchedChildScan
  dsimp only
  have flushed : Canonical (if (s.nextWrite.any fun x => x.2.node == node) then s.flushWrites node else s).mems := by
    split <;> simp [h]
  generalize (if (s.nextWrite.any fun x => x.2.node == node) then s.flushWrites node else s) = s0 at flushed ⊢
  have loaded : Canonical (if node < 4 then s0.loadAnchor node else s0).mems := by split <;> simp [flushed]
  generalize (if node < 4 then s0.loadAnchor node else s0) = s1 at loaded ⊢
  have scan {t : State} (ht : Canonical t.mems) (n : Nat) :
      Canonical ((List.range n).foldl (fun (a : State × List Nat) i => a.1.scanSlot node a.2 i) (t, [])).1.mems :=
    Canonical.foldlPair (x := (t, [])) ht (fun a i ha => ha.scanSlot ..) _
  have kids (l : List Nat) := loaded.foldl (f := fun s k => s.readmit node k) (fun _ k ht => ht.readmit node k) l
  split
  · split <;> simp [loaded]
  · split
    · exact (Out.canonical_next _).2 loaded
    · simp only [Out.canonical_next, State.onNode_mems]
      split <;> simp only [State.onNode_mems, State.askPage_mems, State.askSlots_mems] <;> exact scan (kids _) _

theorem execNodeDepReached_canonical {s : State} (h : Canonical s.mems) (node) : Out.canonical (execNodeDepReached node s) := by
  unfold execNodeDepReached
  split <;> simp [h]

@[simp] theorem Canonical.spawnChild {s : State} (h : Canonical s.mems) (c rcb) : Canonical (s.spawnChild c rcb).1.mems := by
  unfold State.spawnChild
  dsimp only
  (repeat' split) <;> first | exact h | skip
  all_goals
    rename_i heq
    exact congrArg (·.1) heq ▸ (h.schedPut _).admitNode ..

@[simp] theorem State.unreserve_mems (s : State) (id) : (s.unreserve id).mems = s.mems := by rfl

@[simp] theorem Canonical.retryHeld {s : State} (h : Canonical s.mems) (q) : Canonical (s.retryHeld q).mems := by
  unfold State.retryHeld
  simp +contextual [h, Canonical.foldl]

theorem execNodeComplete_canonical {s : State} (h : Canonical s.mems) (node) : Out.canonical (execNodeComplete node s) := by
  have moved (st cause) : Canonical ((s.moveNode node st cause).unreserve node).mems := by simp [h]
  unfold execNodeComplete
  split
  · exact Out.canonical_fault _
  · split
    · exact (Out.canonical_next _).2 h
    · dsimp only
      split
      · exact (Out.canonical_next _).2 ((moved ..).signal ..)
      · split
        · exact (Out.canonical_next _).2 ((moved ..).signal ..)
        · exact (Out.canonical_next _).2 ((((moved ..).putSlot ..).signal ..).retryHeld _)

@[simp] theorem Canonical.stopTask {s : State} (h : Canonical s.mems) (bay cause) : Canonical (s.stopTask bay cause).mems := by
  unfold State.stopTask
  dsimp only
  rw [State.onBay_mems, State.mapBays_mems]
  refine Canonical.foldl (h.foldl (fun s x h => ?_) _) (fun s x h => ?_) _
  · split <;> simp [h]
  · exact Canonical.giveUp (by simp [h]) ..

@[simp] theorem Canonical.freeLeases {s : State} (h : Canonical s.mems) (id) : Canonical (s.freeLeases id).mems := by
  unfold State.freeLeases
  simp +contextual [h, Canonical.foldl]

@[simp] theorem Canonical.killNode {s : State} (h : Canonical s.mems) (id cause) : Canonical (s.killNode id cause).mems := by
  unfold State.killNode
  dsimp only
  refine Canonical.foldl (Canonical.foldl ?_ (fun s b h => h.stopTask ..) _) (fun s k h => by simp [h]) _
  rw [foldl_mems _ _ _ fun s b => State.onBay_mems .., State.mapDies_mems, foldl_mems _ _ _ fun s b => State.onNode_mems ..]
  exact h

@[simp] theorem State.setStop_mems (s : State) (p cause) : (s.setStop p cause).mems = s.mems := by rfl

@[simp] theorem State.finishStops_mems (s : State) : (s.finishStops).mems = s.mems := by
  unfold State.finishStops
  simp

@[simp] theorem Canonical.stopPart {s : State} (h : Canonical s.mems) (p cause) : Canonical (s.stopPart p cause).mems := by
  unfold State.stopPart
  simp +contextual [h, Canonical.foldl]

@[simp] theorem Canonical.fatal {s : State} (h : Canonical s.mems) (p node cause) : Canonical (s.fatal p node cause).mems := by
  unfold State.fatal
  split <;> simp [h]

theorem execRgnkillWrite_canonical {s : State} (h : Canonical s.mems) (part v) : Out.canonical (execRgnkillWrite part v s) := by
  unfold execRgnkillWrite
  (repeat' split) <;> simp [h]

theorem execPreemptWrite_canonical {s : State} (h : Canonical s.mems) (part v) : Out.canonical (execPreemptWrite part v s) := by
  unfold execPreemptWrite
  (repeat' split) <;> simp [h]

/-! ### Sched -/

@[simp] theorem State.onGang_mems (s : State) (id g f) : (s.onGang id g f).mems = s.mems := by rfl

@[simp] theorem State.requeue_mems (s : State) (id die n) : (s.requeue id die n).mems = s.mems := by rfl

@[simp] theorem Canonical.loadData {s : State} (h : Canonical s.mems) (bay n) : Canonical (s.loadData bay n).mems := by
  unfold State.loadData
  simp +contextual [h, Canonical.foldl]

@[simp] theorem Canonical.startTask {s : State} (h : Canonical s.mems) (bay n t) : Canonical (s.startTask bay n t).mems := by
  unfold State.startTask
  simp [h]

@[simp] theorem State.reserve_mems (s : State) (die id sadl) : (s.reserve die id sadl).mems = s.mems := by
  refine foldl_mems _ _ _ fun s c => ?_
  dsimp only
  rw [foldl_mems _ _ _ fun _ _ => by simp, foldl_mems _ _ _ fun _ _ => by simp]

@[simp] theorem Canonical.placeGang {s : State} (h : Canonical s.mems) (die id g n) : Canonical (s.placeGang die id g n).mems := by
  unfold State.placeGang
  simp +contextual [h, Canonical.foldl]

@[simp] theorem State.resumeGang_mems (s : State) (r g n) : (s.resumeGang r g n).mems = s.mems := by rfl

theorem Canonical.serveClass {s : State} (h : Canonical s.mems) (die cls fuel) : Canonical (s.serveClass die cls fuel).1.mems := by
  induction fuel generalizing s with
  | zero => exact h
  | succ n ih =>
    unfold State.serveClass
    dsimp only
    (repeat' split) <;> simp [ih, h]

@[simp] theorem State.resumeSaved_mems (s : State) (die) : (s.resumeSaved die).mems = s.mems := by
  refine foldl_mems _ _ _ fun s i => ?_
  (repeat' split) <;> simp

theorem execGangPlace_canonical {s : State} (h : Canonical s.mems) (die) : Out.canonical (execGangPlace die s) := by
  unfold execGangPlace
  split
  · simp
  · split
    · simpa
    · extract_lets s0 idle s1
      have h0 : Canonical s0.mems := by
        unfold s0
        rwa [State.onDie_mems]
      have h1 : Canonical s1.mems := by
        unfold s1
        split
        · exact h0
        · refine Canonical.foldlPair (x := (s0, false)) h0 (fun x c hx => ?_) _
          split
          · exact hx
          · exact Canonical.serveClass hx ..
      rw [Out.canonical_next, State.mems_ite, State.resumeSaved_mems, ite_self]
      exact h1

theorem execClass0Preempt_canonical {s : State} (h : Canonical s.mems) (die) : Out.canonical (execClass0Preempt die s) := by
  unfold execClass0Preempt
  split <;> simp [h]

@[simp] theorem State.endTask_mems (s : State) (bay) : (s.endTask bay).mems = s.mems := by
  unfold State.endTask
  (repeat' split) <;> simp

theorem execTaskEnd_canonical {s : State} (h : Canonical s.mems) (bay) : Out.canonical (execTaskEnd bay s) := by
  unfold execTaskEnd
  split <;> simp [h]

/-! ### Context -/

@[simp] theorem Canonical.putVa {s : State} (h : Canonical s.mems) (p asid va bs) : Canonical (s.putVa p asid va bs).mems := by
  unfold State.putVa
  split
  · exact h
  · refine h.foldl (fun s x h => ?_) _
    split
    · dsimp only
      rw [foldl_mems _ _ _ fun _ _ => State.dropCopies_mems ..]
      exact h.writeLeaf ..
    · exact h

@[simp] theorem State.withdrawBeats_mems (s : State) (bay) : (s.withdrawBeats bay).mems = s.mems := by rfl

@[simp] theorem State.freeze_mems (s : State) (bay) : (s.freeze bay).mems = s.mems := by
  unfold State.freeze
  simp

@[simp] theorem Canonical.cancelCmd {s : State} (h : Canonical s.mems) (e c) : Canonical (s.cancelCmd e c).mems := by
  unfold State.cancelCmd
  simp [h]

@[simp] theorem Canonical.withdrawAll {s : State} (h : Canonical s.mems) (bay) : Canonical (s.withdrawAll bay).mems := by
  unfold State.withdrawAll
  simp +contextual [h, Canonical.foldl]

@[simp] theorem State.savePoison_mems (s : State) (bay p asid addr) : (s.savePoison bay p asid addr).mems = s.mems := by rfl

@[simp] theorem State.loadPoison_mems (s : State) (bay p asid addr) : (s.loadPoison bay p asid addr).mems = s.mems := by
  unfold State.loadPoison
  simp

@[simp] theorem Canonical.writeFreeze {s : State} (h : Canonical s.mems) (bay addr) : Canonical (s.writeFreeze bay addr).mems := by
  unfold State.writeFreeze
  simp [h]

@[simp] theorem State.resumeLeases_mems (s : State) (uid fb) : (s.resumeLeases uid fb).mems = s.mems := by
  unfold State.resumeLeases
  simp

@[simp] theorem State.leaveBay_mems (s : State) (bay) : (s.leaveBay bay).mems = s.mems := by
  unfold State.leaveBay
  dsimp only
  (repeat' split) <;> simp

theorem Canonical.putSections {s : State} (h : Canonical s.mems) (p asid addr) (l : List (Nat × List Byte)) :
   Canonical ((l.foldl (fun (s:State) (x : Nat × List Byte) => s.putVa p asid (addr + x.1) x.2) s)).mems :=
  h.foldl (fun _ _ h => h.putVa ..) l

@[simp] theorem Canonical.finishSave {s : State} (h : Canonical s.mems) (bay sv) : Canonical (s.finishSave bay sv).mems := by
  unfold State.finishSave
  extract_lets s1 b p s2 s3 s4 s5
  have h1 : Canonical s1.mems := Canonical.withdrawAll (by rwa [State.withdrawBeats_mems]) bay
  have h2 : Canonical s2.mems := by
    unfold s2
    rw [State.savePoison_mems]
    exact h1.putSections p b.asid sv.addr.toNat (s1.imageSections bay sv.own)
  have h3 : Canonical s3.mems := by
    unfold s3
    rw [State.onPkg_mems]
    exact h2.writeFreeze ..
  have h5 : s5.mems = s3.mems := by
    have h4 : s4.mems = s3.mems := State.onBay_mems ..
    unfold s5
    split
    · rw [State.mems_ite, State.onGang_mems, h4, ite_self]
    · exact h4
  split
  · rw [State.leaveBay_mems, h5]; exact h3
  · rw [State.onBay_mems, h5]; exact h3

@[simp] theorem State.askImage_mems (s : State) (node p asid addr) : (s.askImage node p asid addr).mems = s.mems := by
  unfold State.askImage
  simp

theorem execContextDrainExpire_canonical {s : State} (h : Canonical s.mems) (bay) : Out.canonical (execContextDrainExpire bay s) := by
  unfold execContextDrainExpire
  dsimp only
  (repeat' split) <;> simp [h]

@[simp] theorem State.imageAddr_mems (s : State) (acc b) (go : Word → State) (hgo : ∀ a, (go a).mems = s.mems) :
    (s.imageAddr acc b go).mems = s.mems := by
  unfold State.imageAddr
  dsimp only
  (repeat' split) <;> simp [hgo]

theorem execFrz_canonical {s : State} (h : Canonical s.mems) (b) : Out.canonical (execFrz b s) := by
  unfold execFrz
  simp [h]

theorem execCtxsv_canonical {s : State} (h : Canonical s.mems) (b) : Out.canonical (execCtxsv b s) := by
  unfold execCtxsv
  (repeat' split) <;> simp [h]

@[simp] theorem State.saveVictim_mems (s : State) (n bay) : (s.saveVictim n bay).mems = s.mems := by
  unfold State.saveVictim
  dsimp only
  (repeat' split) <;> simp

theorem execPreemptSave_canonical {s : State} (h : Canonical s.mems) (leaf gang) : Out.canonical (execPreemptSave leaf gang s) := by
  unfold execPreemptSave
  (repeat' split) <;> simp [h]

@[simp] theorem Canonical.restoreTask {s : State} (h : Canonical s.mems) (bay p asid addr id n taskid delta) :
    Canonical (s.restoreTask bay p asid addr id n taskid delta).mems := by
  unfold State.restoreTask
  simp +contextual [h, Canonical.foldl]

theorem execContextRestore_canonical {s : State} (h : Canonical s.mems) (leaf gang) : Out.canonical (execContextRestore leaf gang s) := by
  unfold execContextRestore
  split
  · simp
  · extract_lets g ms addr bmin delta s1
    split
    · simpa
    · split
      · rw [Out.canonical_next]
        refine h.foldl (fun t x ht => ?_) ms
        rwa [State.askImage_mems]
      · split
        · rw [Out.canonical_next, State.requeue_mems, State.onGang_mems]
          exact h
        · split
          · exact (Out.canonical_next _).2 (h.fatal ..)
          · rw [Out.canonical_next, State.onGang_mems]
            exact h.foldl (fun _ _ ht => ht.restoreTask ..) ms

theorem execCtxld_canonical {s : State} (h : Canonical s.mems) (b) : Out.canonical (execCtxld b s) := by
  unfold execCtxld
  dsimp only
  rw [Out.canonical_next]
  split
  · simp [h]
  · unfold State.imageAddr
    dsimp only
    split
    · simp [h]
    · split
      · simp [h]
      · split
        · simp [h]
        · split
          · simp [h]
          · split
            · simp [h]
            · simp [h]
            · split
              · rw [State.goTo_mems, State.onBay_mems]; exact h.restoreTask ..
              · rw [State.onBay_mems]; exact h.restoreTask ..

theorem execEret_canonical {s : State} (h : Canonical s.mems) : Out.canonical (execEret s) := by
  unfold execEret
  dsimp only
  (repeat' split) <;> simp [h]

theorem execTlbinv_canonical {s : State} (h : Canonical s.mems) (b c) : Out.canonical (execTlbinv b c s) := by
  unfold execTlbinv
  simp [h]

/-! ### Trap -/

theorem execShortOpLand_canonical {s : State} (h : Canonical s.mems) (bay) : Out.canonical (execShortOpLand bay s) := by
  unfold execShortOpLand
  split <;> simp [h]

@[simp] theorem Canonical.doubleTrap {s : State} (h : Canonical s.mems) (bay cause) : Canonical (s.doubleTrap bay cause).mems := by
  unfold State.doubleTrap
  dsimp only
  split <;> simp [h]

@[simp] theorem Canonical.trap {s : State} (h : Canonical s.mems) (bay r pc again) : Canonical (s.trap bay r pc again).mems := by
  unfold State.trap
  simp [h]

@[simp] theorem Canonical.deliver {s : State} (h : Canonical s.mems) (m) : Canonical (s.deliver m).mems := by
  unfold State.deliver
  dsimp only
  (repeat' split) <;> simp [h]

theorem execReportArrive_canonical {s : State} (h : Canonical s.mems) (bay rep) : Out.canonical (execReportArrive bay rep s) := by
  unfold execReportArrive
  (repeat' split) <;> simp [h]

theorem execTrapTake_canonical {s : State} (h : Canonical s.mems) (bay) : Out.canonical (execTrapTake bay s) := by
  unfold execTrapTake
  dsimp only
  (repeat' split) <;> simp [h]

@[simp] theorem State.throttleGang_mems (s : State) (id g) : (s.throttleGang id g).mems = s.mems := by
  unfold State.throttleGang
  simp

@[simp] theorem State.periodOfDie_mems (s : State) (p die) : (s.periodOfDie p die).mems = s.mems := by
  unfold State.periodOfDie
  simp

theorem execTimePeriodBoundary_canonical {s : State} (h : Canonical s.mems) (part) : Out.canonical (execTimePeriodBoundary part s) := by
  unfold execTimePeriodBoundary
  (repeat' split) <;> simp [h]

theorem execThermalT3Entry_canonical {s : State} (h : Canonical s.mems) (die) : Out.canonical (execThermalT3Entry die s) := by
  unfold execThermalT3Entry
  (repeat' split) <;> simp [h]

/-! ### Fetch -/

@[simp] theorem State.cachedWord_mems (s : State) (bay l pa off key) : (s.cachedWord bay l pa off key).2.mems = s.mems := by
  unfold State.cachedWord
  dsimp only
  (repeat' split) <;> simp

@[simp] theorem State.fetchWord_mems (s : State) (bay va) : (s.fetchWord bay va).2.mems = s.mems := by
  unfold State.fetchWord
  dsimp only
  (repeat' split) <;> simp

@[simp] theorem State.fillCode_mems (s : State) (bay) : (s.fillCode bay).mems = s.mems := by
  unfold State.fillCode
  rw [foldl_mems]
  · exact State.onBay_mems ..
  · intro s va
    split
    · split
      · dsimp only
        split <;> rfl
      · rfl
    · rfl

@[simp] theorem State.scan_mems (s : State) (bay pc fuel due off p first n dup items) : (s.scan bay pc fuel due off p first n dup items).s.mems = s.mems := by
  induction fuel generalizing s due off p first n dup items with
  | zero => rfl
  | succ k ih =>
    have hw (t : State) (va) : (t.fetchWord bay va).2.mems = t.mems := State.fetchWord_mems ..
    unfold State.scan
    have h1 := hw s (pc + off)
    split
    · next heq => simpa [heq] using h1
    · next heq => simpa [heq] using h1
    · next w s1 heq =>
      replace h1 : s1.mems = s.mems := by simpa [heq] using h1
      have h2 := hw s1 (pc + off + 4)
      dsimp only
      split
      · (repeat' split) <;> simp only [ih, h1]
      · split
        · split <;> exact h1
        · split
          · (repeat' split) <;> simp only [ih, h1]
          · split
            · exact (ih ..).trans h1
            · split
              · next heq => rw [heq] at h2; exact h2.trans h1
              · next heq => rw [heq] at h2; exact h2.trans h1
              · next heq => rw [heq] at h2; exact (ih ..).trans (h2.trans h1)

@[simp] theorem State.fetchBundle_mems (s : State) (bay h) : (s.fetchBundle bay h).mems = s.mems := by
  unfold State.fetchBundle
  have h1 := State.fetchWord_mems s bay ((s.bay bay).pc + 4)
  generalize scanFuel = fuel
  dsimp only
  split
  · split
    · next heq => simpa [heq] using h1
    · next heq => simpa [heq] using h1
    · next heq =>
      rw [heq] at h1
      split
      · exact h1
      · exact (State.scan_mems ..).trans h1
  · exact State.scan_mems ..

theorem execBundleIssue_canonical {s : State} (h : Canonical s.mems) (bay) : Out.canonical (execBundleIssue bay s) := by
  unfold execBundleIssue
  split
  · exact Out.canonical_fault _
  · split
    · exact (Out.canonical_next _).2 h
    · extract_lets first src ready s0 b bad target t
      split
      · exact (Out.canonical_next _).2 h
      · have h0 : s0.mems = s.mems := by
          unfold s0
          rw [State.onBay_mems, State.mems_ite, State.fillCode_mems, ite_self]
          exact State.finishCache_mems ..
        have ht : t.mems = s.mems := by
          unfold t
          split
          · exact h0
          · have h1 := State.fetchWord_mems s0 bay b.pc
            split
            · next heq => rw [heq] at h1; exact h1.trans h0
            · next heq => rw [heq] at h1; exact h1.trans h0
            · next heq =>
              rw [heq] at h1
              split
              · exact h1.trans h0
              · exact (State.fetchBundle_mems ..).trans (h1.trans h0)
        rw [Out.canonical_next, State.mems_ite, State.onBay_mems, ite_self, ht]
        exact h

/-! ### Plan -/

@[simp] theorem Canonical.doneCmd {s : State} (h : Canonical s.mems) (e c count) : Canonical (s.doneCmd e c count).mems := by
  unfold State.doneCmd
  simp [h]

@[simp] theorem Canonical.stopCmd {s : State} (h : Canonical s.mems) (e c cause) : Canonical (s.stopCmd e c cause).mems := by
  unfold State.stopCmd
  simp [h]

@[simp] theorem Canonical.readThen {s : State} (h : Canonical s.mems) (e c stage rs) : Canonical (s.readThen e c stage rs).mems := by
  unfold State.readThen
  simp [h]

@[simp] theorem Canonical.writeThen {s : State} (h : Canonical s.mems) (e c stage a data own) :
    Canonical (s.writeThen e c stage a data own).mems := by
  unfold State.writeThen
  simp [h]

@[simp] theorem Canonical.planXcpy {s : State} (h : Canonical s.mems) (e c src dst len) : Canonical (s.planXcpy e c src dst len).mems := by
  unfold State.planXcpy
  simp [h]

@[simp] theorem Canonical.planGather {s : State} (h : Canonical s.mems) (e c scatter own tbl rlen nrows n) :
    Canonical (s.planGather e c scatter own tbl rlen nrows n).mems := by
  unfold State.planGather
  split <;> simp [h]

@[simp] theorem Canonical.planXred {s : State} (h : Canonical s.mems) (e c) : Canonical (s.planXred e c).mems := by
  unfold State.planXred
  split <;> simp [h]

@[simp] theorem Canonical.planXsrt {s : State} (h : Canonical s.mems) (e c) : Canonical (s.planXsrt e c).mems := by
  unfold State.planXsrt
  split <;> simp [h]

@[simp] theorem Canonical.planXmrg {s : State} (h : Canonical s.mems) (e c) : Canonical (s.planXmrg e c).mems := by
  unfold State.planXmrg
  split <;> simp [h]

@[simp] theorem Canonical.planXsolv {s : State} (h : Canonical s.mems) (e c) : Canonical (s.planXsolv e c).mems := by
  unfold State.planXsolv
  split <;> simp [h]

@[simp] theorem State.onLink_mems (s : State) (k f) : (s.onLink k f).mems = s.mems := by rfl

@[simp] theorem State.sendOut_mems (s : State) (c) : (s.sendOut c).mems = s.mems := by
  unfold State.sendOut
  simp

@[simp] theorem State.takeRound_mems (s : State) (x rank) : (s.takeRound x rank).mems = s.mems := by rfl

@[simp] theorem Canonical.planXcoll {s : State} (h : Canonical s.mems) (e c) : Canonical (s.planXcoll e c).mems := by
  unfold State.planXcoll
  dsimp only
  (repeat' split) <;> simp [h]

@[simp] theorem Canonical.planSpawn {s : State} (h : Canonical s.mems) (e c rcb) : Canonical (s.planSpawn e c rcb).mems := by
  have spawned := h.spawnChild c rcb
  unfold State.planSpawn
  dsimp only
  (repeat' split) <;> simp_all

/-! ### Attention -/

@[simp] theorem State.onEngine_mems (s : State) (e f) : (s.onEngine e f).mems = s.mems := by
  unfold State.onEngine
  split <;> simp

@[simp] theorem Canonical.planXkvt {s : State} (h : Canonical s.mems) (e c) : Canonical (s.planXkvt e c).mems := by
  unfold State.planXkvt
  dsimp only
  split
  · simp [h]
  split
  · simp [h]
  · have read := h.engRead e c ⟨1, bits (parWord c.params 2) 19 0⟩ (2 * (32 * 2 ^ bits (parWord c.params 0) 46 45))
    split <;> simp_all

@[simp] theorem Canonical.planXsplc {s : State} (h : Canonical s.mems) (e c) : Canonical (s.planXsplc e c).mems := by
  unfold State.planXsplc
  (repeat' split) <;> simp [h]

@[simp] theorem Canonical.planXsplcDone {s : State} (h : Canonical s.mems) (e c rec_) : Canonical (s.planXsplcDone e c rec_).mems := by
  unfold State.planXsplcDone
  simp [h]

@[simp] theorem Canonical.awaitPage {s : State} (h : Canonical s.mems) (e c va) : Canonical (s.awaitPage e c va).mems := by
  have read := h.engGlobal e c false va 1 []
  unfold State.awaitPage
  split <;> simp_all

@[simp] theorem Canonical.openUnit {s : State} (h : Canonical s.mems) (e c g en) : Canonical (s.openUnit e c g en).mems := by
  unfold State.openUnit
  dsimp only
  (repeat' split) <;> simp [h]

@[simp] theorem Canonical.planXatt {s : State} (h : Canonical s.mems) (e c) : Canonical (s.planXatt e c).mems := by
  unfold State.planXatt
  dsimp only
  (repeat' split) <;> simp [h]

theorem execAttnEntrySample_canonical {s : State} (h : Canonical s.mems) (eng) : Out.canonical (execAttnEntrySample eng s) := by
  unfold execAttnEntrySample
  split
  · simpa
  · next c g b due heq =>
    have k := h.engRead eng c ⟨1, g.tbl + 16 * b⟩ 16
    split
    · simpa
    · split
      · simp [h]
      · split <;> simp_all
        split <;> simp_all

theorem execAttnTripleArrive_canonical {s : State} (h : Canonical s.mems) (eng slice) :
    Out.canonical (execAttnTripleArrive eng slice s) := by
  unfold execAttnTripleArrive
  (repeat' split) <;> simp [h]

/-! ### Page -/

@[simp] theorem Canonical.storeEntry {s : State} (h : Canonical s.mems) (c l a bs) : Canonical (s.storeEntry c l a bs).mems := by
  unfold State.storeEntry
  simp [h]

@[simp] theorem Canonical.swapLeaf {s : State} (h : Canonical s.mems) (e c l va w0 w1 count) :
    Canonical (s.swapLeaf e c l va w0 w1 count).mems := by
  unfold State.swapLeaf
  simp [h]

@[simp] theorem Canonical.endSwap {s : State} (h : Canonical s.mems) (e c va) : Canonical (s.endSwap e c va).mems := by
  unfold State.endSwap
  simp [h]

@[simp] theorem Canonical.putPage {s : State} (h : Canonical s.mems) (e c l va count frames data w1 cmp) : Canonical (s.putPage e c l va count frames data w1 cmp).mems := by
  unfold State.putPage
  dsimp only
  split
  · simpa
  · split
    · simp [h]
    · split
      · simp [h]
      · simp [h]
      · simp [h]
      · exact ((h.setFrames ..).homeStore ..).swapLeaf ..

@[simp] theorem Canonical.openPage {s : State} (h : Canonical s.mems) (e c va mayAct) : Canonical (s.openPage e c va mayAct).mems := by
  unfold State.openPage
  dsimp only
  split <;> simp [h]

@[simp] theorem Canonical.planXqnt {s : State} (h : Canonical s.mems) (e c) : Canonical (s.planXqnt e c).mems := by
  unfold State.planXqnt
  dsimp only
  (repeat' split) <;> simp [h]

@[simp] theorem Canonical.planXcmp {s : State} (h : Canonical s.mems) (e c) : Canonical (s.planXcmp e c).mems := by
  unfold State.planXcmp
  dsimp only
  (repeat' split) <;> simp [h]

@[simp] theorem Canonical.planXdcmp {s : State} (h : Canonical s.mems) (e c) : Canonical (s.planXdcmp e c).mems := by
  unfold State.planXdcmp
  dsimp only
  (repeat' split) <;> simp [h]

/-! ### Perform -/

@[simp] theorem Canonical.plan {s : State} (h : Canonical s.mems) (e c) : Canonical (s.plan e c).mems := by
  unfold State.plan
  split <;> simp [h]

@[simp] theorem State.afterPlan_mems (s : State) (e c) : (s.afterPlan e c).mems = s.mems := by
  unfold State.afterPlan
  simp

theorem execEngineAccessPerform_canonical {s : State} (h : Canonical s.mems) (eng) : Out.canonical (execEngineAccessPerform eng s) := by
  unfold execEngineAccessPerform
  split <;> simp [h]

/-! ### Host -/

@[simp] theorem State.answer_mems (s : State) (kind bs) : (s.answer kind bs).mems = s.mems := by rfl

@[simp] theorem State.keyErr_mems (s : State) : (s.keyErr).mems = s.mems := by rfl

@[simp] theorem State.writeManagement_mems (s : State) (off v) : (s.writeManagement off v).mems = s.mems := by
  unfold State.writeManagement
  simp

theorem execRegisterWrite_canonical {s : State} (h : Canonical s.mems) (off v) : Out.canonical (execRegisterWrite off v s) := by
  unfold execRegisterWrite
  (repeat' split) <;> simp [h]

theorem execRaserrRead_canonical {s : State} (h : Canonical s.mems) (die) : Out.canonical (execRaserrRead die s) := by
  unfold execRaserrRead
  split <;> simp [h]

@[simp] theorem State.setBusy_mems (s : State) (ps) : (s.setBusy ps).mems = s.mems := by rfl

@[simp] theorem State.formPart_mems (s : State) (p) : (s.formPart p).mems = s.mems := by
  unfold State.formPart
  simp

@[simp] theorem State.moveRequests_mems (s : State) (ps) : (s.moveRequests ps).mems = s.mems := by
  unfold State.moveRequests
  simp

@[simp] theorem State.flushDies_mems (s : State) (dies) : (s.flushDies dies).mems = s.mems := by rfl

theorem execPartcfgGo_canonical {s : State} (h : Canonical s.mems) (v) : Out.canonical (execPartcfgGo v s) := by
  unfold execPartcfgGo
  simp [h]

theorem execKeyctlGo_canonical {s : State} (h : Canonical s.mems) (v) : Out.canonical (execKeyctlGo v s) := by
  unfold execKeyctlGo
  simp [h]

theorem execKeyctlZap_canonical {s : State} (h : Canonical s.mems) (v) : Out.canonical (execKeyctlZap v s) := by
  unfold execKeyctlZap
  simp [h]

@[simp] theorem State.setFwState_mems (s : State) (st) : (s.setFwState st).mems = s.mems := by rfl

theorem execFwctlGo_canonical {s : State} (h : Canonical s.mems) (v) : Out.canonical (execFwctlGo v s) := by
  unfold execFwctlGo
  split <;> simp [h]

theorem execFwVerifyComplete_canonical {s : State} (h : Canonical s.mems) : Out.canonical (execFwVerifyComplete s) := by
  unfold execFwVerifyComplete
  (repeat' split) <;> simp [h]

theorem execFwWriteComplete_canonical {s : State} (h : Canonical s.mems) : Out.canonical (execFwWriteComplete s) := by
  unfold execFwWriteComplete
  split <;> simp [h]

@[simp] theorem Canonical.again {s : State} (h : Canonical s.mems) (recovery) : Canonical (s.again recovery).mems := by
  simp [State.again, State.reset, h]

theorem execFwctlRecover_canonical {s : State} (h : Canonical s.mems) (_v) : Out.canonical (execFwctlRecover _v s) := by
  unfold execFwctlRecover
  simp [h]

theorem execPowerFail_canonical {s : State} (h : Canonical s.mems) : Out.canonical (execPowerFail s) := by
  unfold execPowerFail
  simp [h]

theorem execPowerOnReset_canonical {s : State} (h : Canonical s.mems) : Out.canonical (execPowerOnReset s) := by
  unfold execPowerOnReset
  split <;> simp [h]

@[simp] theorem State.setReady_mems (s : State) (n) : (s.setReady n).mems = s.mems := by rfl

theorem execDieReady_canonical {s : State} (h : Canonical s.mems) (die) : Out.canonical (execDieReady die s) := by
  unfold execDieReady
  split <;> simp [Memory.wf_filter, h]

theorem execExpandersReady_canonical {s : State} (h : Canonical s.mems) (ports) : Out.canonical (execExpandersReady ports s) := by
  unfold execExpandersReady
  simp [h]

theorem execJexvikTrained_canonical {s : State} (h : Canonical s.mems) : Out.canonical (execJexvikTrained s) := by
  unfold execJexvikTrained
  simp [h]

theorem execHostPortUp_canonical {s : State} (h : Canonical s.mems) (up) : Out.canonical (execHostPortUp up s) := by
  unfold execHostPortUp
  dsimp only
  (repeat' split) <;> simp [h]

@[simp] theorem State.programHdm_mems (s : State) (exp a n on) : (s.programHdm exp a n on).mems = s.mems := by rfl

theorem execHostRequestArrive_canonical {s : State} (h : Canonical s.mems) (req) : Out.canonical (execHostRequestArrive req s) := by
  unfold execHostRequestArrive
  (repeat' split) <;> simp [h]

@[simp] theorem Canonical.retryCmd {s : State} (h : Canonical s.mems) (e c) : Canonical (s.retryCmd e c).mems := by
  unfold State.retryCmd
  dsimp only
  generalize hs1 : State.setCmd .. = s1
  have h1 : Canonical s1.mems := by rwa [← hs1, State.setCmd_mems]
  have hrun (o : Out) (ho : o.canonical) : Canonical (match o with
    | .next t => t
    | _ => s1).mems := by
    cases o
    case next t => exact ho _ rfl
    all_goals exact h1
  split
  · exact hrun _ (execEngineAccessPerform_canonical h1 e)
  · split
    · exact hrun _ (execEngineCmdFinish_canonical h1 e)
    · exact h1

@[simp] theorem Canonical.retryArrival {s : State} (h : Canonical s.mems) (a) : Canonical (s.retryArrival a).mems := by
  unfold State.retryArrival
  (repeat' split) <;> simp [h]

@[simp] theorem Canonical.retryHome {s : State} (h : Canonical s.mems) : Canonical s.retryHome.mems := by
  unfold State.retryHome
  dsimp only
  rw [State.onPkg_mems]
  refine Canonical.foldl (Canonical.foldl h (fun s a hs => ?_) _) (fun s p hs => ?_) _
  · rw [State.noteDeps_mems]; exact hs.retryArrival ..
  · split
    · exact hs
    · exact hs.freeFrames ..

theorem execHostSnoop_canonical {s : State} (h : Canonical s.mems) (line) : Out.canonical (execHostSnoop line s) := by
  unfold execHostSnoop
  simp [h]

theorem execHostCxlCacheResponse_canonical {s : State} (h : Canonical s.mems) (x) : Out.canonical (execHostCxlCacheResponse x s) := by
  unfold execHostCxlCacheResponse
  split <;> simp [h]

theorem execBackInvalidateResponse_canonical {s : State} (h : Canonical s.mems) (line data) :
    Out.canonical (execBackInvalidateResponse line data s) := by
  unfold execBackInvalidateResponse
  split <;> simp [h]

@[simp] theorem Canonical.poisonPort {s : State} (h : Canonical s.mems) (port) : Canonical (s.poisonPort port).mems := by
  unfold State.poisonPort
  refine Canonical.foldl (Canonical.foldl h (fun s x hs => ?_) _) (fun s x hs => ?_) _
  · split
    · exact hs
    · rw [State.report_mems, State.entryDone_mems]; exact hs
  · split
    · exact Canonical.failCmd (by rwa [State.leaveIntake_mems]) ..
    · exact hs

@[simp] theorem Canonical.loseAcks {s : State} (h : Canonical s.mems) : Canonical s.loseAcks.mems := by
  unfold State.loseAcks
  rw [State.onPkg_mems]
  exact h.foldl (fun s a ht => by simp [Memory.wf_store, ht]) _

theorem execUpstreamPortDown_canonical {s : State} (h : Canonical s.mems) (port) : Out.canonical (execUpstreamPortDown port s) := by
  unfold execUpstreamPortDown
  split
  · simp
  · split
    · simpa
    · extract_lets s1 lost s2 s3 cause
      have h1 : Canonical s1.mems := by
        unfold s1
        rw [State.onPkg_mems]
        exact h.poisonPort ..
      split
      · simpa
      · rw [Out.canonical_next]
        refine Canonical.foldl ?_ (fun _ _ ht => ht.stopPart ..) _
        unfold s3
        rw [State.onPkg_mems]
        refine Canonical.loseAcks (Canonical.foldl h1 (fun _ _ ht => ?_) _)
        rwa [State.entryDone_mems]

theorem execDownstreamPortDown_canonical {s : State} (h : Canonical s.mems) (port) : Out.canonical (execDownstreamPortDown port s) := by
  unfold execDownstreamPortDown
  split <;> simp [h]

@[simp] theorem Canonical.replayParked {s : State} (h : Canonical s.mems) (page what) : Canonical (s.replayParked page what).mems := by
  unfold State.replayParked
  dsimp only
  (repeat' split) <;> simp [h]

@[simp] theorem Canonical.refuseParked {s : State} (h : Canonical s.mems) (page what) : Canonical (s.refuseParked page what).mems := by
  unfold State.refuseParked
  (repeat' split) <;> simp [h]

theorem execPageRequestResponse_canonical {s : State} (h : Canonical s.mems) (die asid page ok) :
    Out.canonical (execPageRequestResponse die asid page ok s) := by
  unfold execPageRequestResponse
  dsimp only
  (repeat' split) <;> simp +contextual [h, Canonical.foldl]

@[simp] theorem State.contribute_mems (s : State) (c) : (s.contribute c).mems = s.mems := by
  unfold State.contribute
  split <;> simp

theorem execCollRoundTimeout_canonical {s : State} (h : Canonical s.mems) (group) : Out.canonical (execCollRoundTimeout group s) := by
  unfold execCollRoundTimeout
  simp [h]

theorem execJexvikFlitReceive_canonical {s : State} (h : Canonical s.mems) (link flit) :
    Out.canonical (execJexvikFlitReceive link flit s) := by
  unfold execJexvikFlitReceive
  dsimp only
  (repeat' split) <;> simp [h]

theorem execJexvikReplayTimeout_canonical {s : State} (h : Canonical s.mems) (link) : Out.canonical (execJexvikReplayTimeout link s) := by
  unfold execJexvikReplayTimeout
  split <;> simp [h]

@[simp] theorem State.poison_mems (s : State) (e) : (s.poison e).mems = s.mems := by rfl

@[simp] theorem State.recordError_mems (s : State) (e) : (s.recordError e).mems = s.mems := by
  unfold State.recordError
  simp

theorem execEccUncorrectable_canonical {s : State} (h : Canonical s.mems) (err) : Out.canonical (execEccUncorrectable err s) := by
  unfold execEccUncorrectable
  split <;> simp [h]

theorem execEccCorrected_canonical {s : State} (h : Canonical s.mems) (err) : Out.canonical (execEccCorrected err s) := by
  unfold execEccCorrected
  split <;> simp [h]

@[simp] theorem State.spdm_mems (s : State) (code bs) : (s.spdm code bs).mems = s.mems := by rfl

@[simp] theorem State.afterNegotiation_mems (s : State) (kind bs) : (s.afterNegotiation kind bs).mems = s.mems := by
  unfold State.afterNegotiation
  simp

theorem execGetVersion_canonical {s : State} (h : Canonical s.mems) (_req) : Out.canonical (execGetVersion _req s) := by
  unfold execGetVersion
  simp [h]

theorem execGetCapabilities_canonical {s : State} (h : Canonical s.mems) (_req) : Out.canonical (execGetCapabilities _req s) := by
  unfold execGetCapabilities
  simp [h]

theorem execNegotiateAlgorithms_canonical {s : State} (h : Canonical s.mems) (req) : Out.canonical (execNegotiateAlgorithms req s) := by
  unfold execNegotiateAlgorithms
  simp [h]

theorem execChallenge_canonical {s : State} (h : Canonical s.mems) (req) : Out.canonical (execChallenge req s) := by
  unfold execChallenge
  simp [h]

theorem execGetMeasurements_canonical {s : State} (h : Canonical s.mems) (req) : Out.canonical (execGetMeasurements req s) := by
  unfold execGetMeasurements
  simp [h]

/-! ### Dispatch -/

/-- Every instruction keeps the canonical form. An instruction without a lemma of its own is one operation on the state. -/
theorem exec_canonical (i : Instr) {s : State} (h : Canonical s.mems) : Out.canonical (exec i s) := by
  cases i
  case bundleIssue => exact execBundleIssue_canonical h _
  case shortOpLand => exact execShortOpLand_canonical h _
  case scratchWriteApply => exact execScratchWriteApply_canonical h _
  case scratchLoadSample => exact execScratchLoadSample_canonical h _
  case streamDeliver => exact execStreamDeliver_canonical h _ _
  case fenceMarkerLeave => exact execFenceMarkerLeave_canonical h _
  case hostAck => exact execHostAck_canonical h _
  case beatQueueArrival => exact execBeatQueueArrival_canonical h _ _
  case beatLoadServe => exact execBeatLoadServe_canonical h _ _
  case remoteLoadLand => exact execRemoteLoadLand_canonical h _ _
  case beatClose => exact execBeatClose_canonical h _
  case beatOverrun => exact execBeatOverrun_canonical h _
  case refreshDue => exact execRefreshDue_canonical h _
  case refreshWindowEnd => exact execRefreshWindowEnd_canonical h _
  case arrayOpStart => exact execArrayOpStart_canonical h _
  case arrayCommitPoint => exact execArrayCommitPoint_canonical h _
  case arrayOpComplete => exact execArrayOpComplete_canonical h _
  case awritePieceSample => exact execAwritePieceSample_canonical h _
  case tmmaComplete => exact execTmmaComplete_canonical h _
  case bplanTableSample => exact execBplanTableSample_canonical h _
  case engineCmdStart => exact execEngineCmdStart_canonical h _
  case engineAccessPerform => exact execEngineAccessPerform_canonical h _
  case engineCmdFinish => exact execEngineCmdFinish_canonical h _
  case indexPopTimeout => exact execIndexPopTimeout_canonical h _ _
  case attnEntrySample => exact execAttnEntrySample_canonical h _
  case attnTripleArrive => exact execAttnTripleArrive_canonical h _ _
  case leaseGrant => exact execLeaseGrant_canonical h _
  case leaseWakeComplete => exact execLeaseWakeComplete_canonical h _ _
  case leaseDeadlinePass => exact execLeaseDeadlinePass_canonical h _ _
  case evictionGraceEnd => exact execEvictionGraceEnd_canonical h _ _
  case drowsyHoldExpire => exact execDrowsyHoldExpire_canonical h _ _
  case taskEnd => exact execTaskEnd_canonical h _
  case trapTake => exact execTrapTake_canonical h _
  case reportArrive => exact execReportArrive_canonical h _ _
  case timePeriodBoundary => exact execTimePeriodBoundary_canonical h _
  case thermalT3Entry => exact execThermalT3Entry_canonical h _
  case contextDrainExpire => exact execContextDrainExpire_canonical h _
  case preemptSave => exact execPreemptSave_canonical h _ _
  case contextRestore => exact execContextRestore_canonical h _ _
  case schedChildScan => exact execSchedChildScan_canonical h _
  case nodeDepReached => exact execNodeDepReached_canonical h _
  case nodeComplete => exact execNodeComplete_canonical h _
  case gangPlace => exact execGangPlace_canonical h _
  case class0Preempt => exact execClass0Preempt_canonical h _
  case rgnkillWrite => exact execRgnkillWrite_canonical h _ _
  case preemptWrite => exact execPreemptWrite_canonical h _ _
  case partcfgGo => exact execPartcfgGo_canonical h _
  case keyctlGo => exact execKeyctlGo_canonical h _
  case keyctlZap => exact execKeyctlZap_canonical h _
  case fwctlGo => exact execFwctlGo_canonical h _
  case fwctlRecover v => exact execFwctlRecover_canonical h v
  case fwWriteComplete => exact execFwWriteComplete_canonical h
  case bformWrite => exact execBformWrite_canonical h _ _
  case raserrRead => exact execRaserrRead_canonical h _
  case registerWrite => exact execRegisterWrite_canonical h _ _
  case pageRequestResponse => exact execPageRequestResponse_canonical h _ _ _ _
  case hostRequestArrive => exact execHostRequestArrive_canonical h _
  case hostSnoop => exact execHostSnoop_canonical h _
  case backInvalidateResponse => exact execBackInvalidateResponse_canonical h _ _
  case upstreamPortDown => exact execUpstreamPortDown_canonical h _
  case hostPortUp => exact execHostPortUp_canonical h _
  case downstreamPortDown => exact execDownstreamPortDown_canonical h _
  case jexvikFlitReceive => exact execJexvikFlitReceive_canonical h _ _
  case jexvikReplayTimeout => exact execJexvikReplayTimeout_canonical h _
  case collRoundTimeout => exact execCollRoundTimeout_canonical h _
  case getVersion req => exact execGetVersion_canonical h req
  case getCapabilities req => exact execGetCapabilities_canonical h req
  case negotiateAlgorithms => exact execNegotiateAlgorithms_canonical h _
  case challenge => exact execChallenge_canonical h _
  case getMeasurements => exact execGetMeasurements_canonical h _
  case powerOnReset => exact execPowerOnReset_canonical h
  case dieReady => exact execDieReady_canonical h _
  case expandersReady => exact execExpandersReady_canonical h _
  case jexvikTrained => exact execJexvikTrained_canonical h
  case eccUncorrectable => exact execEccUncorrectable_canonical h _
  case eccCorrected => exact execEccCorrected_canonical h _
  case fcmp => exact execFcmp_canonical h _ _ _ _
  case fcvt => exact execFcvt_canonical h _ _ _ _ _
  case rds => exact execRds_canonical h _ _
  case call => exact execCall_canonical h _
  case call64 => exact execCall64_canonical h _
  case callr => exact execCallr_canonical h _
  case endTask => exact execEndTask_canonical h
  case setf => exact execSetf_canonical h _
  case frame => exact execFrame_canonical h _
  case bplan => exact execBplan_canonical h _
  case phase => exact execPhase_canonical h _
  case bar => exact execBar_canonical h _
  case waitw => exact execWaitw_canonical h _ _
  case waitl => exact execWaitl_canonical h _
  case waitcReg => exact execWaitcReg_canonical h _
  case waitcWord => exact execWaitcWord_canonical h _
  case waitcG => exact execWaitcG_canonical h _
  case fence => exact execFence_canonical h _ _
  case cinvLlc => exact execCinvLlc_canonical h _ _
  case cwb => exact execCwb_canonical h _ _
  case eret => exact execEret_canonical h
  case rdsys => exact execRdsys_canonical h _ _
  case wrsys => exact execWrsys_canonical h _ _
  case ctxsv => exact execCtxsv_canonical h _
  case ctxld => exact execCtxld_canonical h _
  case tlbinv => exact execTlbinv_canonical h _ _
  case frz => exact execFrz_canonical h _
  case unlease => exact execUnlease_canonical h _
  case lstat => exact execLstat_canonical h _ _
  case xpush => exact execXpush_canonical h _ _
  case fwVerifyComplete => exact execFwVerifyComplete_canonical h
  case powerFail => exact execPowerFail_canonical h
  case hostCxlCacheResponse => exact execHostCxlCacheResponse_canonical h _
  case reservedEngineDrowsy => exact execReservedEngineDrowsy_canonical h _ _
  all_goals exact (Out.canonical_next _).2 (by simp [h])

/-! ### Issue -/

@[simp] theorem State.atSlot_mems (s : State) (x) : (s.atSlot x).mems = s.mems := by rfl

@[simp] theorem State.keepOps_mems (s : State) (old ops) : (s.keepOps old ops).mems = s.mems := by
  unfold State.keepOps
  simp

@[simp] theorem State.afterSlot_mems (t s : State) (x) : (t.afterSlot s x).mems = t.mems := by simp [State.afterSlot]

theorem runSlots_canonical {s : State} (h : Canonical s.mems) (l) : Out.canonical (State.runSlots l s) := by
  induction l generalizing s with
  | nil => exact (Out.canonical_next _).2 h
  | cons x l ih =>
    have hx := exec_canonical x.2 (s := s.atSlot x) (by rwa [State.atSlot_mems])
    unfold State.runSlots
    split
    · next heq => exact ih (by rw [State.afterSlot_mems]; exact hx _ heq)
    · exact hx

@[simp] theorem State.clearCur_mems (s : State) : (s.clearCur).mems = s.mems := by rfl

@[simp] theorem Canonical.precise {s : State} (h : Canonical s.mems) (r again) : Canonical (s.precise r again).mems := by
  unfold State.precise
  simp [h]

@[simp] theorem State.holdBack_mems (s : State) (at_) : (s.holdBack at_).mems = s.mems := by rfl

@[simp] theorem State.keepWaiting_mems (s : State) (w) : (s.keepWaiting w).mems = s.mems := by
  unfold State.keepWaiting
  split <;> simp

@[simp] theorem State.occupy_mems (s : State) (l) : (s.occupy l).mems = s.mems := by
  unfold State.occupy
  simp

@[simp] theorem State.retire_mems (s : State) (l) : (s.retire l).mems = s.mems := by
  unfold State.retire
  extract_lets c isEret
  split
  · exact State.clearCur_mems s
  · rw [State.clearCur_mems, State.upd_mems, State.occupy_mems]

theorem Canonical.settle {s t : State} (hs : Canonical s.mems) (ht : Canonical t.mems) (l late) : Canonical (s.settle t l late).mems := by
  unfold State.settle
  extract_lets asked live
  split
  · exact hs.precise ..
  · split
    · exact hs.precise ..
    · split
      · exact hs.precise ..
      · split
        · exact hs.precise ..
        · split
          · exact hs.precise ..
          · rw [State.retire_mems, State.upd_mems]; exact ht

theorem issueRun_canonical {s : State} (h : Canonical s.mems) (l run) : Out.canonical (s.issueRun l run) := by
  unfold State.issueRun
  extract_lets stamp at_ early late
  split
  · exact (Out.canonical_next _).2 (by rwa [State.holdBack_mems])
  · have hr := runSlots_canonical h run
    split
    · next heq => exact (Out.canonical_next _).2 (Canonical.settle h (hr _ heq) ..)
    · exact hr

theorem issueCur_canonical {s : State} (h : Canonical s.mems) : Out.canonical s.issueCur := by
  unfold State.issueCur
  split
  · exact (Out.canonical_next _).2 (h.precise ..)
  · split
    · exact issueRun_canonical h _ _
    · next l _ x _ =>
      split
      · exact issueRun_canonical h _ _
      · have hx := exec_canonical x.2 (s := s.atSlot x) (by rwa [State.atSlot_mems])
        split
        · next t heq =>
          split
          · exact (Out.canonical_next _).2 (by rw [State.keepWaiting_mems]; exact hx _ heq)
          · exact issueRun_canonical h _ _
        · exact hx

@[simp] theorem State.lostCommand_mems (s : State) (o ops) : (s.lostCommand o ops).mems = s.mems := by
  unfold State.lostCommand
  split <;> simp

@[simp] theorem Canonical.reissueOne {s : State} (h : Canonical s.mems) (bay r) : Canonical (s.reissueOne bay r).mems := by
  unfold State.reissueOne
  split
  · exact h
  · extract_lets tag
    split
    · exact h
    · next i _ =>
      rename Bay => b
      extract_lets s1 s2 lost t rep back
      have h1 : s1.mems = s.mems := State.onBay_mems ..
      have h2 : s2.mems = s.mems := h1
      have hx : Out.canonical (exec i s2) := exec_canonical i (by rwa [h2])
      have ht : Canonical t.mems := by
        have hrun : Canonical (match exec i s2 with
            | .next t => t.keepOps b.opCount r.ops
            | _ => s2).mems := by
          split
          · next heq => rw [State.keepOps_mems]; exact hx _ heq
          · rwa [h2]
        unfold t
        generalize lost = l, Instr.eop i = o
        cases l with
        | false => exact hrun
        | true => cases o with
          | none => exact hrun
          | some o => rwa [State.lostCommand_mems, h2]
      have hb : back.mems = t.mems := State.onBay_mems ..
      clear_value rep
      split
      · rw [State.clearCur_mems, State.report_mems, hb]; exact ht
      · rw [State.clearCur_mems, hb]; exact ht

@[simp] theorem Canonical.reissue {s : State} (h : Canonical s.mems) (bay) : Canonical (s.reissue bay).mems := by
  unfold State.reissue
  simp +contextual [h, Canonical.foldl]

/-! ### Moves -/

theorem takes_canonical {s : State} (h : Canonical s.mems) (x) : Out.canonical (s.takes x) := by
  unfold State.takes
  dsimp only
  split
  · exact exec_canonical _ h
  · exact (Out.canonical_next _).2 h

theorem issueAt_canonical {s : State} (h : Canonical s.mems) (bay) : Out.canonical (s.issueAt bay) := by
  unfold State.issueAt
  have hx := exec_canonical (.bundleIssue bay) h
  split
  · next heq =>
    split
    · exact issueCur_canonical (hx _ heq)
    · exact (Out.canonical_next _).2 (hx _ heq)
  · exact hx

theorem move_canonical {s : State} (h : Canonical s.mems) : Out.canonical s.move := by
  unfold State.move
  split
  · exact exec_canonical _ h
  · split
    · exact takes_canonical h _
    · split
      · exact (Out.canonical_next _).2 (h.reissue ..)
      · split
        · exact (Out.canonical_next _).2 (by rwa [State.noteDeps_mems])
        · split
          · exact (Out.canonical_next _).2 (by rwa [State.finishStops_mems])
          · split
            · exact exec_canonical _ h
            · split
              · exact takes_canonical h _
              · split
                · exact exec_canonical _ h
                · split
                  · exact issueAt_canonical h _
                  · split
                    · exact exec_canonical _ h
                    · exact (Out.canonical_next _).2 h

end Sys2Proof.Machine

namespace Sys2Proof

/-- Settles O57: the memories are written only through stores, which keep the canonical form, and every step is made of operations that
leave the memories alone or write them so. -/
theorem stepKeepsMemory : Obligations.StepKeepsMemory := by
  unfold Obligations.StepKeepsMemory
  intro s t hs hst
  exact t.memWf_iff.2 (move_canonical (s.memWf_iff.1 hs) t hst)

end Sys2Proof
end

section
/-!
SUPPORT. LDG, STG and ATOM.op at issue: what the access counts and holds before it joins its stream queue, and the statement about them.
-/

open Sys2Proof Sys2Proof.Machine

namespace Sys2Proof.Machine

/-! ## Issue of a global access (R110, R263, R264) -/

theorem scaleOff_eq {n : Nat} (off : BitVec n) (k : Nat) : scaleOff off k = BitVec.ofInt 64 (off.toInt * k) := by
  rw [BitVec.ofInt_mul, BitVec.ofInt_natCast]
  rfl

theorem State.ea_settled {s : State} {b : Reg} (hb : s.settled b) (off : Word) : s.ea b off = s.val b + off := by
  rw [State.ea, State.readS_settled s b 0 hb]

theorem State.globalAccess_aligned {s : State} {n : Nat} {ea : Word} (h : ea.toNat % n = 0) (go : State) : s.globalAccess n ea go = go :=
  if_neg (not_not.2 h)

theorem State.globalAccess_misaligned {s : State} {n : Nat} {ea : Word} (h : ea.toNat % n ≠ 0) (go : State) :
    s.globalAccess n ea go = s.addrFault 0x12 ea := if_pos h

theorem State.lt_notBefore (s : State) : s.now < s.notBefore := by
  unfold State.notBefore
  omega

/-- A state in which an access has been counted and has placed its hold. -/
structure State.Counted (s t : State) (store : Bool) (dest : List Nat) : Prop where
  same : s.sameBut s.cur.bay t
  cur : t.cur = { s.cur with
    holds := s.cur.holds ++ if store then [] else [⟨s.here.opCount + 1, true, (dest.filter (· ≠ 0)).map s.here.holdNum, none⟩] }
  count : t.here.opCount = s.here.opCount + 1
  here : { t.here with opCount := s.here.opCount, l1data := s.here.l1data, l1ext := s.here.l1ext } = s.here
  copies : store = false ∨ s.here.l1 = [] → t.here.l1data = s.here.l1data ∧ t.here.l1ext = s.here.l1ext

/-- The entry that a global access is in its stream queue. -/
def State.globalEntry (s : State) (p : Pfx) (op : StreamOp) (ea : Word) (acq rel : Bool) (id : Nat) : SEntry :=
  { id, op, va := ea, scope := (pfxStream p).2, acq, rel, notBefore := s.notBefore, hold := id, pc := s.cur.pc, item := s.item
    priv := s.here.handler }

theorem State.sendGlobal_eq (s : State) (p : Pfx) (op : StreamOp) (ea : Word) (acq rel : Bool) (id : Nat) :
    s.sendGlobal p op ea acq rel id = s.enqueue (pfxStream p).1 (s.globalEntry p op ea acq rel id) := rfl

/-- What has been counted and then joins its queue has been sent. -/
theorem State.Counted.sends {s t : State} {store : Bool} {dest : List Nat} (h : s.Counted t store dest) (p : Pfx) (op : StreamOp) (ea : Word)
    (acq rel : Bool) : s.sendsGlobal (.next (t.sendGlobal p op ea acq rel (s.here.opCount + 1))) p op ea acq rel store dest := by
  obtain ⟨hsame, hcur, hcount, hhere, hcopies⟩ := h
  have hsq : t.here.sq = s.here.sq := by simpa using congrArg Bay.sq hhere
  have hbay : t.cur.bay = s.cur.bay := by rw [hcur]
  have hnow : t.now = s.now := hsame.1
  rw [State.sendGlobal_eq, State.enqueue]
  refine ⟨_, t.globalEntry p op ea acq rel (s.here.opCount + 1), rfl, rfl, rfl, rfl, rfl, rfl, rfl, hnow ▸ t.lt_notBefore, rfl, rfl, ?_,
    fun q => ?_, hcur, hsame.trans (hbay ▸ t.upd_sameBut _), fun hl => ?_, ?_⟩ <;> rw [State.upd_here]
  · exact hcount
  · simp only [Tbl.get_set, hsq]
    split <;> simp_all
  · exact hcopies hl
  · exact hsq ▸ hhere

theorem State.updCur_sameBut (s : State) (b : Nat) (f : Cur → Cur) : s.sameBut b (s.updCur f) :=
  ⟨rfl, fun _ _ => rfl, rfl, rfl, rfl, rfl, rfl, rfl, rfl, rfl, rfl, rfl, rfl⟩

theorem State.newOp_here (s : State) : s.newOp.2.here = { s.here with opCount := s.here.opCount + 1 } := s.upd_here _

theorem State.wantHold_here (s : State) (id : Nat) (dest : Bool) (regs : List Nat) (ends : Option Nat) :
    (s.wantHold id dest regs ends).here = s.here := rfl

theorem State.counted_hold (s : State) (dest : List Nat) : s.Counted (s.newOp.2.wantHold (s.here.opCount + 1) true dest) false dest := by
  have hhere : (s.newOp.2.wantHold (s.here.opCount + 1) true dest).here = { s.here with opCount := s.here.opCount + 1 } := s.newOp_here
  have hnum : s.newOp.2.here.holdNum = s.here.holdNum := by
    rw [State.newOp_here]
    rfl
  constructor
  · exact (s.upd_sameBut _).trans (State.updCur_sameBut ..)
  · rw [State.wantHold, State.updCur_cur, hnum]
    rfl
  all_goals simp [hhere]

theorem State.storeCopy_cases (s : State) (ea : Nat) (data : List Byte) :
    s.storeCopy ea data = s ∨ s.here.l1 ≠ [] ∧ ∃ exp a, s.storeCopy ea data = s.upd fun b => b.setCopy exp a data := by
  unfold State.storeCopy
  extract_lets b
  split
  · exact .inl rfl
  · split
    · split
      · dsimp only
        split
        · next h => 
          refine .inr ⟨fun h0 => ?_, _, _, rfl⟩
          simp [b, h0] at h
        · exact .inl rfl
      · exact .inl rfl
    · exact .inl rfl

theorem State.counted_store (s : State) (ea : Nat) (data : List Byte) : s.Counted (s.newOp.2.storeCopy ea data) true [] := by
  have hnew := s.newOp_here
  have hcur : s.newOp.2.cur = { s.cur with holds := s.cur.holds ++ [] } := by simp [State.newOp]
  obtain h | ⟨hl, exp, a, h⟩ := s.newOp.2.storeCopy_cases ea data <;> rw [h]
  · constructor
    · exact s.upd_sameBut _
    · exact hcur
    all_goals simp [hnew]
  · constructor
    · exact (s.upd_sameBut _).trans (State.upd_sameBut s.newOp.2 _)
    · exact hcur
    all_goals
      rw [State.upd_here, hnew]
      cases exp <;> simp_all [Bay.setCopy]

theorem State.ldg_sends (acq : Bool) (m : MemA) (off : Word) (p : Pfx) {s : State} (hb : s.settled m.b)
    (hea : (s.val m.b + off).toNat % 2 ^ m.size.toNat = 0) :
    s.sendsGlobal (.next (s.ldg acq m off p)) p (.load m.a.toNat (2 ^ m.size.toNat) m.sx (s.here.bank m.a.toNat)) (s.val m.b + off) acq false
      false (if 2 ^ m.size.toNat = 16 then [m.a.toNat, m.a.toNat + 1] else [m.a.toNat]) := by
  simp only [State.ldg, State.ea_settled hb, State.globalAccess_aligned hea]
  exact (s.counted_hold _).sends ..

/-- The bytes that STG stores: those of one register, or of two. -/
def State.stgData (s : State) (m : MemA) : List Byte :=
  if 2 ^ m.size.toNat = 16 then leBytes 8 (s.val m.a).toNat ++ leBytes 8 (s.val (m.a + 1)).toNat
  else leBytes (2 ^ m.size.toNat) (s.val m.a).toNat

theorem State.stgData_eq (s : State) {m : MemA} (h : m.size.toNat ≤ 4) : s.stgData m =
    if 2 ^ m.size.toNat = 16 then leBytes (min (2 ^ m.size.toNat) 8) (s.val m.a).toNat ++ leBytes 8 (s.val (m.a + 1)).toNat
    else leBytes (min (2 ^ m.size.toNat) 8) (s.val m.a).toNat := by
  unfold State.stgData
  interval_cases m.size.toNat <;> rfl

theorem State.stg_sends (rel : Bool) (m : MemA) (off : Word) (p : Pfx) {s : State} (hb : s.settled m.b) (ha : s.settled m.a)
    (ha1 : s.settled (m.a + 1)) (hsize : m.size.toNat ≤ 4) (hea : (s.val m.b + off).toNat % 2 ^ m.size.toNat = 0) :
    s.sendsGlobal (.next (s.stg rel m off p)) p (.store (s.stgData m)) (s.val m.b + off) false rel true [] := by
  simp only [State.stg, State.ea_settled hb, State.globalAccess_aligned hea, State.readS_settled _ _ _ ha, State.readS_settled _ _ _ ha1,
    ← s.stgData_eq hsize]
  exact (s.counted_store _ _).sends ..

theorem State.atom_sends (o : AtomOp) (off : Word) (p : Pfx) {s : State} (hb : s.settled o.b) (ha : s.settled o.a) (hc : s.settled o.c)
    (hea : (s.val o.b + off).toNat % 2 ^ o.size.toNat = 0) :
    s.sendsGlobal (.next (s.atom o off p)) p (.atom o.a.toNat (2 ^ o.size.toNat) o.op.toNat (s.val o.c)
      (if o.op = 10 then s.val o.a else 0) (s.here.bank o.a.toNat)) (s.val o.b + off) o.acq o.rel false [o.a.toNat] := by
  have hop : o.op.toNat = 10 ↔ o.op = 10 := BitVec.toNat_inj (y := 10#4)
  simp only [State.atom, State.ea_settled hb, State.globalAccess_aligned hea, State.readS_settled _ _ _ ha, State.readS_settled _ _ _ hc, hop]
  exact (s.counted_hold _).sends ..

theorem State.ldg_misaligned (f : Bool) {m : MemA} {off : Word} (p : Pfx) {s : State} (hb : s.settled m.b)
    (hea : (s.val m.b + off).toNat % 2 ^ m.size.toNat ≠ 0) : s.ldg f m off p = s.addrFault 0x12 (s.val m.b + off) := by
  simp only [State.ldg, State.ea_settled hb, State.globalAccess_misaligned hea]

theorem State.stg_misaligned (f : Bool) {m : MemA} {off : Word} (p : Pfx) {s : State} (hb : s.settled m.b)
    (hea : (s.val m.b + off).toNat % 2 ^ m.size.toNat ≠ 0) : s.stg f m off p = s.addrFault 0x12 (s.val m.b + off) := by
  simp only [State.stg, State.ea_settled hb, State.globalAccess_misaligned hea]

theorem State.atom_misaligned {o : AtomOp} {off : Word} (p : Pfx) {s : State} (hb : s.settled o.b)
    (hea : (s.val o.b + off).toNat % 2 ^ o.size.toNat ≠ 0) : s.atom o off p = s.addrFault 0x12 (s.val o.b + off) := by
  simp only [State.atom, State.ea_settled hb, State.globalAccess_misaligned hea]

end Sys2Proof.Machine

namespace Sys2Proof

/-- Settles O18: an aligned access is counted, places its hold or changes a line copy, and joins its queue; a misaligned one faults. -/
theorem globalAccess : Obligations.GlobalAccess := by
  intro f m o off8 off32 off p s hb ha ha1 hoa hob hoc hsize n a8 a32 data load regs
  have h8 : s.val m.b + scaleOff off8 n = a8 := by rw [scaleOff_eq]
  have hldg {ea : Word} (off : Word) (he : s.val m.b + off = ea) (hal : ea.toNat % n = 0) :
      s.sendsGlobal (.next (s.ldg f m off p)) p load ea f false false regs := he ▸ State.ldg_sends f m off p hb (he ▸ hal)
  have hstg {ea : Word} (off : Word) (he : s.val m.b + off = ea) (hal : ea.toNat % n = 0) :
      s.sendsGlobal (.next (s.stg f m off p)) p (.store data) ea false f true [] := he ▸ State.stg_sends f m off p hb ha ha1 hsize (he ▸ hal)
  refine ⟨fun hal => ⟨hldg _ h8 hal, hstg _ h8 hal⟩, fun hal => ⟨hldg _ rfl hal, hstg _ rfl hal⟩, fun hal => ⟨?_, ?_⟩, ?_⟩
  · exact congrArg _ (h8 ▸ State.ldg_misaligned f p hb (h8 ▸ hal))
  · exact congrArg _ (h8 ▸ State.stg_misaligned f p hb (h8 ▸ hal))
  · intro k ea
    have hea : s.val o.b + optOff off = ea := by cases off <;> rfl
    clear_value ea
    subst hea
    split
    · next hal => exact State.atom_sends o _ p hob hoa hoc hal
    · next hal => exact congrArg _ (State.atom_misaligned p hob hal)

end Sys2Proof
end

section
/-!
SUPPORT. Acknowledgements, snoops and answers of the host: what they do to the lines of the homes and to the copies in the bays, and the
statement about them.
-/

open Sys2Proof Sys2Proof.Machine

namespace Sys2Proof.Machine

/-! ## Copies of a host line -/

/-- Two states of a bay hold the same outside its copies of host lines. -/
def Bay.sameButHostCopies (b c : Bay) : Prop := { c with l1 := b.l1, l1data := b.l1data } = b

theorem Bay.dropCopy_sameButHostCopies {b c : Bay} (h : b.sameButHostCopies c) (line : Nat) : b.sameButHostCopies (c.dropCopy (false, line)) := by
  unfold Bay.dropCopy
  split
  · exact h
  · exact h

theorem State.dropCopies_sameButHostCopies (s : State) (line b : Nat) : (s.bay b).sameButHostCopies ((s.dropCopies (false, line)).bay b) := by
  have hfold (ks : List Nat) (t : State) (ht : (s.bay b).sameButHostCopies (t.bay b)) :
      (s.bay b).sameButHostCopies ((ks.foldl (fun s b => s.onBay b fun x => x.dropCopy (false, line)) t).bay b) := by
    induction ks generalizing t with
    | nil => exact ht
    | cons k ks ih =>
      refine ih _ ?_
      rw [State.onBay_bay]
      split
      · next e => exact Bay.dropCopy_sameButHostCopies (e ▸ ht) line
      · exact ht
  exact hfold _ s rfl

/-! ## Lines of the homes (R381) -/

/-- A line of the host answers the accesses that wait; where none waits, nothing else changes. -/
theorem State.retryHome_idle {s : State} (hin : s.pkg.intake = []) (hfree : ∀ p, p < 4 → (s.part p).freeing = []) :
    s.retryHome = { s with pkg := { s.pkg with hostServed := s.now + 1 } } := by
  have hnone : (List.range 4).foldl (fun s p => if (s.part p).freeing.isEmpty then s else s.freeFrames p) s = s := by
    simp [List.range_succ, hfree]
  rw [State.retryHome, hin]
  exact congrArg (fun t : State => { t with pkg := { t.pkg with hostServed := s.now + 1 } }) hnone

theorem contains_filter_ne {l : List Nat} {k line : Nat} (h : k ≠ line) : (l.filter (· != line)).contains k = l.contains k := by
  simp [h]

theorem not_contains_filter_ne (l : List Nat) (line : Nat) : (l.filter (· != line)).contains line = false := by
  simp

theorem contains_joined (l : List Nat) (line : Nat) : (if l.contains line then l else l ++ [line]).contains line = true := by
  split
  · assumption
  · simp

theorem contains_joined_ne {l : List Nat} {k line : Nat} (h : k ≠ line) :
    (if l.contains line then l else l ++ [line]).contains k = l.contains k := by
  split
  · rfl
  · simp [h]

theorem Pkg.takeLine_owned (p : Pkg) (line : Nat) :
    (p.takeLine line false).sliceOwns.contains line = true ∧ (p.takeLine line false).sliceShares.contains line = false :=
  ⟨contains_joined .., not_contains_filter_ne ..⟩

theorem Pkg.takeLine_shared (p : Pkg) (line : Nat) :
    (p.takeLine line true).sliceShares.contains line = true ∧ (p.takeLine line true).sliceOwns = p.sliceOwns :=
  ⟨contains_joined .., rfl⟩

theorem Pkg.takeLine_other (p : Pkg) {k line : Nat} (h : k ≠ line) (shared : Bool) :
    (p.takeLine line shared).sliceOwns.contains k = p.sliceOwns.contains k ∧
      (p.takeLine line shared).sliceShares.contains k = p.sliceShares.contains k := by
  cases shared with
  | false => exact ⟨contains_joined_ne h, contains_filter_ne h⟩
  | true => exact ⟨rfl, contains_joined_ne h⟩

theorem Pkg.takeLine_intake (p : Pkg) (line : Nat) (shared : Bool) : (p.takeLine line shared).intake = p.intake := by
  cases shared <;> rfl

/-- The line with the data that come with an answer of the host, if any do. -/
def State.lineBack (s : State) (exp : Bool) (line : Nat) (data : Option (BitVec 512)) : State := match data with
  | some d => (s.writePhys exp 0 (64 * line) (leBytes 64 d.toNat)).dropCopies (exp, line)
  | none => s

/-- A whole line in a memory. -/
theorem Memory.byte_store_line (m : Memory) (line a : Nat) (d : BitVec 512) :
    (m.store (64 * line) (leBytes 64 d.toNat)).byte a = if a / 64 = line then BitVec.ofNat 8 (d.toNat / 256 ^ (a % 64)) else m.byte a := by
  split
  · next h =>
    obtain ⟨i, hi, rfl⟩ : ∃ i, i < 64 ∧ a = 64 * line + i := ⟨a % 64, by omega, by omega⟩
    have hmod : (64 * line + i) % 64 = i := by omega
    rw [Memory.byte_store_in _ _ _ _ (by rwa [leBytes_length]), leBytes_getD _ _ _ hi, hmod, Nat.pow_mul]
  · exact Memory.byte_store_out _ _ _ _ (by rw [leBytes_length]; omega)


theorem State.writePhys_host (s : State) (key a : Nat) (bs : List Byte) : s.writePhys false key a bs =
    { s with host := s.host.store a bs, pkg := { s.pkg with poisonLlc := cleanLines s.pkg.poisonLlc false a bs.length } } := rfl

theorem exec_hostCxlCacheResponse (line : Nat) (data : Option (BitVec 512)) (shared : Bool) (s : State) :
    exec (.hostCxlCacheResponse ⟨line, data, shared⟩) s =
      .next (((s.lineBack false line data).onPkg fun p => p.takeLine line shared).retryHome) := by
  cases data <;> rfl

theorem exec_backInvalidateResponse (line : Nat) (data : Option (BitVec 512)) (s : State) : exec (.backInvalidateResponse line data) s =
    .next (((s.lineBack true line data).onPkg fun p => { p with hostOwns := p.hostOwns.filter (· != line) }).retryHome) := by
  cases data <;> rfl

/-- What comes back with a line of the host changes host memory, the marks of poison and the copies of host lines. -/
theorem State.lineBack_host (s : State) (line : Nat) (data : Option (BitVec 512)) : ∃ m l b,
    s.lineBack false line data = { s with host := m, pkg := { s.pkg with poisonLlc := l }, bays := b } ∧
      (match data with
      | some d => ∀ a, m.byte a = if a / 64 = line then BitVec.ofNat 8 (d.toNat / 256 ^ (a % 64)) else s.host.byte a
      | none => m = s.host) ∧
      ∀ k, (s.bay k).sameButHostCopies ((s.lineBack false line data).bay k) := by
  cases data with
  | none => exact ⟨_, _, _, rfl, rfl, fun _ => rfl⟩
  | some d =>
    refine ⟨_, _, _, State.dropCopies_eq _ _, fun a => Memory.byte_store_line .., fun k => ?_⟩
    exact State.dropCopies_sameButHostCopies (s.writePhys false 0 (64 * line) (leBytes 64 d.toNat)) line k

/-- What comes back with a line of expander memory changes that memory, the key of the line, the marks of poison and the copies in the bays. -/
theorem State.lineBack_expander (s : State) {line : Nat} (hline : line < 2 ^ 37) (data : Option (BitVec 512)) : ∃ m l k b,
    s.lineBack true line data = { s with expander := m, pkg := { s.pkg with poisonLlc := l, lineKey := k }, bays := b } ∧
      match data with
      | some d => Tbl.get 0 s.pkg.lineKey line = 0 →
          ∀ a, m.byte a = if a / 64 = line then BitVec.ofNat 8 (d.toNat / 256 ^ (a % 64)) else s.expander.byte a
      | none => m = s.expander := by
  cases data with
  | none => exact ⟨_, _, _, _, rfl, rfl⟩
  | some d =>
    have hlen : (leBytes 64 d.toNat).length = 64 := leBytes_length ..
    have hdiv : 64 * line / 64 = line := by omega
    have hwrite := State.writePhys_eq_rekey (s := s) (key := 0) (a := 64 * line) (bs := leBytes 64 d.toNat) (by omega) (by omega)
      (by simp [← List.length_eq_zero_iff, hlen])
    obtain ⟨m, k, hphys⟩ := State.writePhys_eq (s := s) (key := 0) (a := 64 * line) (bs := leBytes 64 d.toNat) (by omega) (by omega)
    have hback : s.lineBack true line (some d) = _ := State.dropCopies_eq _ _
    refine ⟨_, _, _, _, hback.trans (by rw [hphys]), fun hkey a => ?_⟩
    have hm := congrArg State.expander hwrite
    rw [hphys, hdiv, State.rekey, if_pos (by exact hkey)] at hm
    rw [hm]
    exact Memory.byte_store_line ..

/-- The answer to a snoop: poison, or the bytes of a line that the home owns. -/
def State.snooped (s : State) (line : Nat) : List (Nat × List Byte) :=
  if s.pkg.sliceOwns.contains line then [if s.poisoned false (64 * line) then (1, []) else (0, s.host.bytes (64 * line) 64)] else []

/-- The machine once the answer to a snoop has been sent. -/
def State.answerSnoop (s : State) (line : Nat) : State := s.onPkg fun p => { p with hostData := p.hostData ++ s.snooped line }

/-- A snoop takes the line out of the home: its bytes go to the host, and the copies of the line go with it. -/
theorem exec_hostSnoop (line : Nat) (s : State) : exec (.hostSnoop line) s =
    .next ((((s.answerSnoop line).dropCopies (false, line)).llcClean (· == (false, line)) true).onPkg fun p =>
      { p with
        sliceOwns := p.sliceOwns.filter (· != line), sliceShares := p.sliceShares.filter (· != line)
        acks := p.acks.filter fun a => a.line != line, hostServed := s.now + 1 }) := by
  have hanswer : (if !s.pkg.sliceOwns.contains line then s
      else if s.poisoned false (64 * line) then s.answer 1 []
      else s.answer 0 (s.readPhys false 0 (64 * line) 64)) = s.answerSnoop line := by
    unfold State.answerSnoop State.snooped
    cases s.pkg.sliceOwns.contains line with
    | false => simp [State.onPkg]
    | true => cases s.poisoned false (64 * line) <;> rfl
  exact congrArg (fun t : State => (.next (((t.dropCopies (false, line)).llcClean (· == (false, line)) true).onPkg _) : Out)) hanswer

end Sys2Proof.Machine

namespace Sys2Proof

/-- Settles O21: an answer of the host changes its line and the copies of it before the waiting accesses follow; a snoop is answered and then
takes the line, its acknowledgements and its copies away. -/
theorem hostLines : Obligations.HostLines := by
  intro line data s
  refine ⟨fun a ha => ?_, fun ha => ?_, ?_, fun shared => ?_, fun hline => ?_⟩
  · simp [exec, execHostAck, State.onPkg, ha]
  · simp [exec, execHostAck, State.onPkg, ha]
  · have hdrop := (s.answerSnoop line).dropCopies_eq (false, line)
    refine ⟨_, exec_hostSnoop line s, ?_⟩
    have hcopies := (s.answerSnoop line).not_mem_l1_dropCopies (false, line)
    have hbays := (s.answerSnoop line).dropCopies_sameButHostCopies line
    rw [hdrop] at hcopies hbays ⊢
    refine ⟨?_, ?_, fun k hk => ?_, ?_, ?_, fun how => ?_, fun b => ⟨?_, ?_⟩⟩
    · exact not_contains_filter_ne ..
    · exact not_contains_filter_ne ..
    · exact contains_filter_ne hk
    · rfl
    · exact fun _ => ⟨rfl, rfl, rfl, rfl, rfl⟩
    · exact congrArg (s.pkg.hostData ++ ·) (if_pos how)
    · exact (List.contains_eq_mem ..).trans (decide_eq_false (hcopies b))
    · rw [State.onPkg_bay, State.llcClean, State.onPkg_bay]
      exact hbays b
  · obtain ⟨m, l, b, heq, hbytes, hbays⟩ := s.lineBack_host line data
    refine ⟨_, exec_hostCxlCacheResponse .., ?_⟩
    rw [heq] at hbays ⊢
    refine ⟨?_, ?_, fun k hk => Pkg.takeLine_other _ hk _, ?_, rfl, rfl, rfl, rfl, hbays, fun hin hfree => ?_⟩
    · rintro rfl
      exact Pkg.takeLine_owned ..
    · rintro rfl
      exact Pkg.takeLine_shared ..
    · cases data <;> exact hbytes
    · exact State.retryHome_idle ((Pkg.takeLine_intake ..).trans hin) hfree
  · obtain ⟨m, l, k, b, heq, hbytes⟩ := s.lineBack_expander hline data
    refine ⟨_, exec_backInvalidateResponse .., ?_⟩
    rw [heq]
    refine ⟨not_contains_filter_ne .., ?_, rfl, rfl, rfl, rfl, fun hin hfree => State.retryHome_idle hin hfree⟩
    cases data <;> exact hbytes

end Sys2Proof
end

section
/-!
SUPPORT. The timetables of engines: what a command in hand becomes as it starts, reads and writes own scratch, finishes or fails, and the
statement about the four steps.
-/

open Sys2Proof Sys2Proof.Machine

namespace Sys2Proof.Machine

/-- What leaves the memories alone changes no byte. -/
theorem State.sameBytes_of_mems {s t : State} (h : t.mems = s.mems) : s.sameBytes t := by
  injection h with hscratch h
  injection h with hbeat h
  injection h with hacc h
  injection h with hhost h
  injection h with hexpander _
  exact State.sameBytes_of_eq hscratch hbeat hacc hhost hexpander

/-! ## Timetables (R153, R160) -/

section Timetable

variable {s : State} {e : Engine} {c c' : Cmd}

theorem State.cmds_setCmds (l : List Cmd) : (s.setCmds e l).cmds e = l := by
  cases e <;> simp [State.setCmds, State.cmds]

theorem State.setCmds_pkg (l : List Cmd) : (s.setCmds e l).pkg = s.pkg := by
  cases e <;> rfl

theorem State.setCmds_swrites (l : List Cmd) (k : Nat) : ((s.setCmds e l).bay k).swrites = (s.bay k).swrites := by
  cases e with
  | btx bay ch =>
    simp only [State.setCmds, State.onBay_bay]
    split
    · next h => rw [h]
    · rfl
  | tack die unit => rfl

/-- The command at the head of a timetable, replaced. -/
theorem State.setCmd_head (h : (s.cmds e).head? = some c) (hid : c'.id = c.id) (hbay : c'.bay = c.bay) :
    ((s.setCmd e c').cmds e).head? = some c' := by
  rw [State.setCmd, State.cmds_setCmds, List.head?_map, h]
  simp [hid, hbay]

/-- A bay that keeps its channels keeps its timetables. -/
theorem State.onBay_cmds (k : Nat) {f : Bay → Bay} (h : ∀ b, (f b).btx = b.btx) : (s.onBay k f).cmds e = s.cmds e := by
  cases e with
  | btx bay ch =>
    simp only [State.cmds, State.onBay_bay]
    split
    · next hk => rw [h, hk]
    · rfl
  | tack die unit => rfl

theorem State.addWrite_cmds (k : Nat) (w : SWrite) : (s.addWrite k w).cmds e = s.cmds e := State.onBay_cmds k fun _ => rfl

/-- A command that has pinned no page gives none up. -/
theorem State.unpin_none (h : c.pinned = []) (keep : Pin → Bool) : s.unpin c keep = (s, c) := by
  simp [State.unpin, h]

theorem State.headCmd_btx (bay : Nat) {ch : Nat} (h : ch ≠ 9) : s.headCmd (.btx bay ch) = (s.cmds (.btx bay ch)).head? := by
  unfold State.headCmd
  split
  · simp_all
  · rfl

end Timetable

/-! ## Own scratch (R155, R161) -/

section OwnScratch

variable {s : State} {e : Engine} {c : Cmd} {a n : Nat}

theorem State.scratchMay_own (h : (s.bay c.bay).lent = false) (off : Nat) : s.scratchMay c c.bay off = true := by
  simp [State.scratchMay, Bay.scratchOpen, h]

theorem State.engRead_own (hpoison : s.pkg.poisonScratch = []) (hlent : (s.bay c.bay).lent = false) (habsent : s.absent c.bay a n c = false) :
    s.engRead e c ⟨1, a⟩ n = .ok s c (s.scratchBytes c.bay a n) := by
  simp [State.engRead, habsent, State.scratchMay_own hlent, State.sectorReport_none hpoison]

theorem State.engWrite_own (hlent : (s.bay c.bay).lent = false) (data : List Byte) :
    s.engWrite e c ⟨1, a⟩ data none = .ok (s.addWrite c.bay ⟨s.now, 0, 0, a, data⟩) c [] := by
  simp [State.engWrite, State.scratchMay_own hlent, Cmd.wroteTo]

/-- A bay without channels has armed nothing. -/
theorem State.absent_unarmed (h : (s.bay c.bay).btx = []) (off k : Nat) : s.absent c.bay off k c = false := by
  simp [State.absent, State.cmds, h, Channel.reset]

theorem State.scratchBytes_length (bay off k : Nat) : (s.scratchBytes bay off k).length = k := Memory.bytes_length ..

end OwnScratch

/-! ## Start (R118) -/

theorem State.startable_eq {s : State} {e : Engine} {c : Cmd} (h : s.startable e = some c) : (s.cmds e).head? = some c ∧ c.result = none := by
  unfold State.startable at h
  split at h
  · cases h
  · next hd =>
    dsimp only at h
    rw [Option.ite_none_left_eq_some] at h
    obtain ⟨hno, hc⟩ := h
    cases hc
    refine ⟨hd, ?_⟩
    simp only [Bool.or_eq_true, not_or] at hno
    simpa using hno.1.1.1.1.2

theorem CmdKind.atStart_block {k : CmdKind} (h : k.blockLen ≠ 0) (par : Nat) : k.atStart par [] = some (⟨1, par⟩, k.blockLen) := by
  simp [CmdKind.atStart, h]

theorem CmdKind.atStart_read {k : CmdKind} (hm : k ≠ .xmrg) (hr : k ≠ .xred) (par : Nat) {got : List Byte} (hgot : got.length = k.blockLen) :
    k.atStart par got = none := by
  unfold CmdKind.atStart
  by_cases h0 : k.blockLen = 0
  · simp [h0]
  · have hne : got ≠ [] := by
      rintro rfl
      exact h0 hgot.symm
    simp [h0, hne, hgot, hm, hr]

/-- A command of one parameter block reads that block and has started. -/
theorem State.readStart_block {s : State} {e : Engine} {c : Cmd} (hpoison : s.pkg.poisonScratch = []) (hlent : (s.bay c.bay).lent = false)
    (habsent : c.kind.blockLen = 0 ∨ (s.bay c.bay).btx = []) (hm : c.kind ≠ .xmrg) (hr : c.kind ≠ .xred) :
    s.readStart e c 2 [] = s.setCmd e { c with params := s.scratchBytes c.bay c.par c.kind.blockLen } := by
  by_cases h0 : c.kind.blockLen = 0
  · have hnone : c.kind.atStart c.par [] = none := CmdKind.atStart_read hm hr _ h0.symm
    rw [State.readStart, hnone, h0]
    rfl
  · have habs := State.absent_unarmed (c := c) (habsent.resolve_left h0) c.par c.kind.blockLen
    have hnone := CmdKind.atStart_read hm hr c.par (s.scratchBytes_length c.bay c.par c.kind.blockLen)
    simp only [State.readStart, CmdKind.atStart_block h0, State.engRead_own hpoison hlent habs, List.nil_append, hnone]

theorem exec_engineCmdStart {s : State} {e : Engine} {c : Cmd} (h : s.startable e = some c) (hpoison : s.pkg.poisonScratch = [])
    (hlent : (s.bay c.bay).lent = false) (habsent : c.kind.blockLen = 0 ∨ (s.bay c.bay).btx = []) (hm : c.kind ≠ .xmrg) (hr : c.kind ≠ .xred) :
    exec (.engineCmdStart e) s = .next (s.setCmd e
      { c with started := some s.now, next := s.now, popped := s.now, params := s.scratchBytes c.bay c.par c.kind.blockLen }) := by
  simp only [exec, execEngineCmdStart, h]
  exact congrArg _ (State.readStart_block hpoison hlent habsent hm hr)

/-! ## An access (R118, R161) -/

theorem exec_engineAccessPerform {s : State} {e : Engine} {c : Cmd} (h : s.performable e = some c) (htodo : c.todo ≠ []) :
    exec (.engineAccessPerform e) s = .next (s.runMicro e c) := by
  simp [exec, execEngineAccessPerform, h, htodo]

theorem State.performable_head {s : State} {bay ch : Nat} {c : Cmd} (hch : ch ≠ 9) (h : s.performable (.btx bay ch) = some c) :
    (s.cmds (.btx bay ch)).head? = some c := by
  unfold State.performable at h
  rw [State.headCmd_btx bay hch] at h
  split at h
  · cases h
  · next hd =>
    split at h
    · cases h
      exact hd
    · cases h

/-- A command that has performed the access at the head of its list and read some bytes. -/
def State.movedOn (s : State) (c : Cmd) (rest : List Micro) (data : List Byte) : Cmd :=
  { c with todo := rest, buf := c.buf ++ data, next := s.now + 1 + s.cmdDelay c 5 }

theorem State.lt_movedOn_next (s : State) (c : Cmd) (rest : List Micro) (data : List Byte) : s.now < (s.movedOn c rest data).next := by
  dsimp only [State.movedOn]
  omega

section Micro

variable {s : State} {bay ch a : Nat} {c : Cmd} {rest : List Micro} (hpinned : c.pinned = []) (htail : c.tail = false)
  (hlent : (s.bay c.bay).lent = false)
include hpinned htail hlent

theorem State.runMicro_read (n : Nat) (htodo : c.todo = .read ⟨1, a⟩ n :: rest) (hpoison : s.pkg.poisonScratch = [])
    (habsent : s.absent c.bay a n c = false) : s.runMicro (.btx bay ch) c =
      s.setCmd (.btx bay ch) (s.movedOn c rest (s.scratchBytes c.bay a n)) := by
  unfold State.runMicro
  simp only [htodo, State.engRead_own hpoison hlent habsent]
  rw [State.unpin_none (by exact hpinned)]
  simp [htail, State.movedOn]

theorem State.runMicro_write (data : List Byte) (htodo : c.todo = .write ⟨1, a⟩ data none :: rest) : s.runMicro (.btx bay ch) c =
    ((s.addWrite c.bay ⟨s.now, 0, 0, a, data⟩).setCmd (.btx bay ch) ((s.movedOn c rest []).hasPut data.length)).onBay c.bay
      fun b => { b with btxNext := s.now + 1 } := by
  unfold State.runMicro
  simp only [htodo, State.engWrite_own hlent]
  rw [State.unpin_none (by exact hpinned)]
  simp [htail, State.movedOn]

end Micro

/-! ## Finish (R118, R154) -/

/-- A little-endian number in two parts. -/
theorem leBytes_add (m n v w : Nat) (h : v < 256 ^ m) : leBytes (m + n) (v + 256 ^ m * w) = leBytes m v ++ leBytes n w := by
  induction m generalizing v with
  | zero =>
    obtain rfl : v = 0 := by omega
    simp [leBytes]
  | succ m ih =>
    have hdiv : (v + 256 ^ (m + 1) * w) / 256 = v / 256 + 256 ^ m * w := by
      rw [pow_succ, mul_comm (256 ^ m) 256, mul_assoc, Nat.add_mul_div_left _ _ (by norm_num)]
    have hlow : BitVec.ofNat 8 (v + 256 ^ (m + 1) * w) = BitVec.ofNat 8 v := by
      apply BitVec.eq_of_toNat_eq
      rw [BitVec.toNat_ofNat, BitVec.toNat_ofNat, pow_succ, mul_comm (256 ^ m) 256, mul_assoc, Nat.add_mul_mod_self_left]
    rw [Nat.add_right_comm, leBytes, leBytes, hdiv, hlow, ih _ (by rw [pow_succ] at h; omega), List.cons_append]

theorem leBytes_mod (n v : Nat) : leBytes n (v % 256 ^ n) = leBytes n v := by
  have h := leBytes_add n 0 (v % 256 ^ n) (v / 256 ^ n) (Nat.mod_lt _ (by positivity))
  simpa [leBytes, Nat.mod_add_div] using h.symm

theorem wordOf_eq (count : Nat) {status cause : Nat} (hs : status < 256) (hc : cause < 256) :
    wordOf count status cause = completionWord count cause status := by
  have hparts : status + cause * 2 ^ 8 + count % 2 ^ 32 * 2 ^ 32 = status + 256 ^ 1 * (cause + 256 ^ 1 * (0 + 256 ^ 2 * (count % 256 ^ 4))) := by
    omega
  rw [wordOf, hparts, leBytes_add 1 7 _ _ (by omega), leBytes_add 1 6 _ _ (by omega), leBytes_add 2 4 _ _ (by norm_num), leBytes_mod]
  simp [completionWord]

section Drop

variable {s : State} {c : Cmd} {bay ch die unit : Nat}

/-- The watermark of a channel set. -/
def State.setMark (s : State) (bay ch wm : Nat) : State := s.onBay bay fun b =>
  { b with btx := Tbl.set Channel.reset b.btx ch { Tbl.get Channel.reset b.btx ch with wm := wm } }

theorem State.setMark_cmds (wm : Nat) : (s.setMark bay ch wm).cmds (.btx bay ch) = s.cmds (.btx bay ch) := by
  simp [State.setMark, State.cmds]

theorem State.setMark_swrites (wm k : Nat) : ((s.setMark bay ch wm).bay k).swrites = (s.bay k).swrites := by
  rw [State.setMark, State.onBay_bay]
  split
  · next h => rw [h]
  · rfl

theorem State.releaseIdle_cmds (e : Engine) : (s.releaseIdle e).cmds e = s.cmds e := by
  cases e with
  | btx bay ch => rfl
  | tack die unit =>
    unfold State.releaseIdle
    dsimp only
    (repeat' split) <;> simp [State.releaseEngine, State.cmds]

theorem State.releaseIdle_eq (e : Engine) : ∃ d, s.releaseIdle e = { s with dies := d } := by
  cases e with
  | btx bay ch => exact ⟨_, rfl⟩
  | tack die unit =>
    unfold State.releaseIdle
    dsimp only
    (repeat' split) <;> exact ⟨_, rfl⟩

/-- A timetable without a command. -/
def State.withoutCmd (s : State) (e : Engine) (c : Cmd) : State := s.setCmds e ((s.cmds e).filter fun x => !(x.id == c.id && x.bay == c.bay))

theorem State.dropCmd_tack (h : c.pinned = []) : s.dropCmd (.tack die unit) c = (s.withoutCmd (.tack die unit) c).releaseIdle (.tack die unit) := by
  unfold State.dropCmd
  rw [State.unpin_none h]
  rfl

theorem State.dropCmd_btx (h : c.pinned = []) : ∃ wm, s.dropCmd (.btx bay ch) c = (s.withoutCmd (.btx bay ch) c).setMark bay ch wm ∨
    ∃ wm', s.dropCmd (.btx bay ch) c = ((s.withoutCmd (.btx bay ch) c).setMark bay ch wm).setMark bay ch wm' := by
  unfold State.dropCmd
  rw [State.unpin_none h]
  cases c.dest with
  | none => exact ⟨_, .inl rfl⟩
  | some x => exact ⟨_, .inr ⟨_, rfl⟩⟩

/-- What a command that has pinned no page changes as it leaves its timetable: the timetable, and what its channel or its engine remembers. -/
theorem State.dropCmd_unpinned (s : State) (e : Engine) (h : c.pinned = []) :
    (s.dropCmd e c).cmds e = (s.cmds e).filter (fun x => !(x.id == c.id && x.bay == c.bay)) ∧ (s.dropCmd e c).pkg = s.pkg ∧
      (s.dropCmd e c).mems = s.mems ∧ ∀ k, ((s.dropCmd e c).bay k).swrites = (s.bay k).swrites := by
  cases e with
  | tack die unit =>
    obtain ⟨d, hd⟩ := State.releaseIdle_eq (s := s.withoutCmd (.tack die unit) c) (.tack die unit)
    refine ⟨?_, ?_, ?_, fun k => ?_⟩ <;> rw [State.dropCmd_tack h]
    · exact (State.releaseIdle_cmds _).trans (State.cmds_setCmds _)
    all_goals rw [hd]; rfl
  | btx bay ch =>
    obtain ⟨wm, hd | ⟨wm', hd⟩⟩ := State.dropCmd_btx (s := s) (bay := bay) (ch := ch) h <;> rw [hd]
    · exact ⟨(State.setMark_cmds _).trans (State.cmds_setCmds _), rfl, rfl, fun k => (State.setMark_swrites ..).trans (State.setCmds_swrites ..)⟩
    · exact ⟨(State.setMark_cmds _).trans ((State.setMark_cmds _).trans (State.cmds_setCmds _)), rfl, rfl,
        fun k => (State.setMark_swrites ..).trans ((State.setMark_swrites ..).trans (State.setCmds_swrites ..))⟩

theorem exec_engineCmdFinish {s : State} {e : Engine} {st cause : Nat} (h : s.finishable e = some c) (hwg : c.wg = false)
    (hresult : c.result = some (st, cause)) : exec (.engineCmdFinish e) s =
      .next ((s.addWrite c.bay ⟨s.now, 0, 0, c.word.toNat, wordOf c.count st cause⟩).dropCmd e c) := by
  simp [exec, execEngineCmdFinish, h, hresult, State.writeWord, hwg]

end Drop

/-! ## Failure (R155, R163) -/

/-- A command that has left nothing to its last writes fails at once. -/
theorem State.failCmd_unpinned {s : State} {e : Engine} {c : Cmd} (hpinned : c.pinned = []) (hlate : c.late = []) (r : Report) :
    s.failCmd e c r = (s.setCmd e { c with todo := [], result := some (4, r.cause), next := max c.next (s.now + 1) }).report c.bay c.task r := by
  simp [State.failCmd, hlate, State.settleCmd, State.unpin_none hpinned]

theorem exec_indexPopTimeout {s : State} {bay ch : Nat} {c : Cmd} (hbay : bay < 256) (hch : ch < 8) (hhead : (s.cmds (.btx bay ch)).head? = some c)
    (hpop : c.todo.head? = some .pop) (hstarted : c.started.isSome) (hlate : c.popped + 256 < s.now)
    (hqueue : (Tbl.get Channel.reset (s.bay bay).btx ch).queue = []) :
    exec (.indexPopTimeout bay ch) s = .next (s.failCmd (.btx bay ch) c (plain 0x07)) := by
  have hin : ¬ (256 ≤ bay ∨ 8 ≤ ch) := by omega
  simp only [exec, execIndexPopTimeout, if_neg hin, State.headCmd_btx bay (show ch ≠ 9 by omega), hhead]
  exact if_pos ⟨hpop, hstarted, hlate, hqueue⟩

end Sys2Proof.Machine

namespace Sys2Proof

/-- Settles O30: each step replaces the command at the head of its timetable, or takes it out, and writes own scratch through its timeline. -/
theorem engineSteps : Obligations.EngineSteps := by
  refine ⟨fun e c s => ⟨fun hstart hpoison hlent habsent hm hr => ?_, ?_, ?_⟩, fun e c st cause s hfin hwg hresult hpinned hst hcause => ?_,
    fun bay ch c rest s hbay hch hcmds hpop hstarted hpinned hlate hpopped hqueue => ?_⟩
  · obtain ⟨hhead, hresult⟩ := State.startable_eq hstart
    exact ⟨_, _, exec_engineCmdStart hstart hpoison hlent habsent hm hr, State.setCmd_head hhead rfl rfl, rfl, rfl, rfl, hresult,
      State.sameBytes_of_mems (State.setCmd_mems ..), State.setCmds_pkg _⟩
  · rintro a n rest hperf hpinned htail htodo hpoison hlent habsent ⟨bay, ch, rfl, hch⟩
    have hexec := exec_engineAccessPerform hperf (by simp [htodo])
    rw [State.runMicro_read hpinned htail hlent n htodo hpoison habsent] at hexec
    exact ⟨_, _, hexec, State.setCmd_head (State.performable_head hch hperf) rfl rfl, rfl, rfl,
      s.lt_movedOn_next .., State.sameBytes_of_mems (State.setCmd_mems ..), State.setCmds_pkg _⟩
  · rintro a data rest hperf hpinned htail htodo hlent ⟨bay, ch, rfl, hch⟩
    have hexec := exec_engineAccessPerform hperf (by simp [htodo])
    rw [State.runMicro_write hpinned htail hlent data htodo] at hexec
    have hhead := State.performable_head hch hperf
    rw [← State.addWrite_cmds c.bay ⟨s.now, 0, 0, a, data⟩] at hhead
    have hset := State.setCmd_head (c' := (s.movedOn c rest []).hasPut data.length) hhead rfl rfl
    refine ⟨_, (s.movedOn c rest []).hasPut data.length, hexec, ?_, rfl, s.lt_movedOn_next c rest [], ?_, State.sameBytes_of_mems (by simp), ?_⟩
    · rwa [State.onBay_cmds]
      exact fun _ => rfl
    · rw [State.onBay_bay_same]
      exact (State.setCmds_swrites ..).trans (by rw [State.addWrite, State.onBay_bay_same])
    · exact State.setCmds_pkg _
  · obtain ⟨hcmds, hpkg, hmems, hswrites⟩ := State.dropCmd_unpinned
      (s.addWrite c.bay ⟨s.now, 0, 0, c.word.toNat, wordOf c.count st cause⟩) e hpinned
    refine ⟨_, exec_engineCmdFinish hfin hwg hresult, ?_, ?_, State.sameBytes_of_mems hmems, hpkg⟩
    · rw [hswrites, ← wordOf_eq _ hst hcause, State.addWrite, State.onBay_bay_same]
    · rw [hcmds, State.addWrite_cmds]
  · have hhead : (s.cmds (.btx bay ch)).head? = some c := by rw [hcmds]; rfl
    have hexec := exec_indexPopTimeout hbay hch hhead hpop hstarted hpopped hqueue
    rw [State.failCmd_unpinned hpinned hlate] at hexec
    refine ⟨_, _, hexec, State.setCmd_head hhead rfl rfl, rfl, rfl, ?_, State.sameBytes_of_mems (by simp)⟩
    rw [State.report_outbox, State.setCmd, State.setCmds_pkg]
    rfl

end Sys2Proof
end

section
/-!
SUPPORT. The head of a stream queue at its destination: the copies and the bookkeeping that an entry leaves alone, the three ways in which an
access of an ordinary host page is performed, and the statement about STREAM_DELIVER.
-/

open Sys2Proof Sys2Proof.Machine

namespace Sys2Proof.Machine

/-! ## What an access of a line leaves alone in a bay -/

/-- Two states of a bay hold the same outside its copies of lines. -/
def Bay.sameButCopies (b c : Bay) : Prop := { c with l1 := b.l1, l1data := b.l1data, l1ext := b.l1ext } = b

section Copies

variable {b c : Bay}

theorem Bay.sameButHostCopies.sameButCopies (h : b.sameButHostCopies c) : b.sameButCopies c := by
  have hext := congrArg (fun x : Bay => { x with l1ext := b.l1ext }) h
  exact hext

theorem Bay.sameButCopies.sq (h : b.sameButCopies c) : c.sq = b.sq := by simpa using congrArg Bay.sq h

theorem Bay.sameButCopies.holds (h : b.sameButCopies c) : c.holds = b.holds := by simpa using congrArg Bay.holds h

theorem Bay.sameButCopies.scalar (h : b.sameButCopies c) (k : Bool) (r : Nat) : c.scalar k r = b.scalar k r := by
  simpa [Bay.scalar] using congrArg (fun x : Bay => x.scalar k r) h

theorem Bay.dropCopy_sameButCopies (b : Bay) (l : Line) : b.sameButCopies (b.dropCopy l) := by
  unfold Bay.dropCopy
  split
  · unfold Bay.setCopy
    split <;> rfl
  · rfl

theorem Bay.takeCopy_sameButCopies (b : Bay) (l : Line) (data : List Byte) (key : Nat) : b.sameButCopies (b.takeCopy l data key) := by
  have hset {c : Bay} (h : b.sameButCopies c) : b.sameButCopies
      { c.setCopy l.1 (64 * l.2) data with l1 := if c.l1.contains l then c.l1 else c.l1 ++ [l] } := by
    unfold Bay.setCopy
    split <;> exact h
  unfold Bay.takeCopy
  refine hset ?_
  split
  · rfl
  · split
    · exact b.dropCopy_sameButCopies _
    · rfl

end Copies

/-! ## Loaded registers (R263, R264) -/

section LoadRegs

variable (b : Bay) (r n : Nat) (sx h : Bool) (v : Nat)

theorem Bay.setScalar_sq (w : Word) : (b.setScalar h r w).sq = b.sq := by
  unfold Bay.setScalar
  (repeat' split) <;> rfl

theorem Bay.setScalar_holds (w : Word) : (b.setScalar h r w).holds = b.holds := by
  unfold Bay.setScalar
  (repeat' split) <;> rfl

theorem Bay.loadRegs_sq : (b.loadRegs r n sx h v).sq = b.sq := by
  unfold Bay.loadRegs
  split <;> simp only [Bay.setScalar_sq]

theorem Bay.loadRegs_holds : (b.loadRegs r n sx h v).holds = b.holds := by
  unfold Bay.loadRegs
  split <;> simp only [Bay.setScalar_holds]

theorem Bay.loadRegs_other {h' : Bool} {r' : Nat} (hr : r' ≠ r) (hr1 : n = 16 → r' ≠ r + 1) :
    (b.loadRegs r n sx h v).scalar h' r' = b.scalar h' r' := by
  unfold Bay.loadRegs
  split
  · next hn => rw [Bay.scalar_setScalar _ _ _ _ _ _ (.inl (hr1 hn)), Bay.scalar_setScalar _ _ _ _ _ _ (.inl hr)]
  · exact Bay.scalar_setScalar _ _ _ _ _ _ (.inl hr)

theorem ofNat_wrap (x : Int) : BitVec.ofNat 64 (wrap 64 x) = BitVec.ofInt 64 x := by
  apply BitVec.eq_of_toNat_eq
  simp only [wrap, BitVec.toNat_ofNat, BitVec.toNat_ofInt]
  have hlt := Int.emod_lt_of_pos x (show (0 : Int) < 2 ^ 64 by norm_num)
  have hge := Int.emod_nonneg x (show (2 ^ 64 : Int) ≠ 0 by norm_num)
  exact Nat.mod_eq_of_lt (by push_cast; omega)

theorem Bay.loadRegs_first : (b.loadRegs r n sx h v).scalar h r =
    if r = 0 then 0 else if n = 16 then BitVec.ofNat 64 v else if sx then BitVec.ofInt 64 (signed (8 * n) v) else BitVec.ofNat 64 v := by
  by_cases hr : r = 0
  · subst hr
    rfl
  · rw [if_neg hr]
    unfold Bay.loadRegs
    split
    · rw [Bay.scalar_setScalar _ _ _ _ _ _ (.inl (by omega)), Bay.scalar_setScalar_same _ _ _ _ hr]
    · rw [Bay.scalar_setScalar_same _ _ _ _ hr]
      cases sx
      · rfl
      · exact ofNat_wrap _

theorem Bay.loadRegs_second (hn : n = 16) : (b.loadRegs r n sx h v).scalar h (r + 1) = BitVec.ofNat 64 (v / 2 ^ 64) := by
  rw [Bay.loadRegs, if_pos hn, Bay.scalar_setScalar_same _ _ _ _ (by omega)]

end LoadRegs

/-! ## The home of a line (R114, R115, R381) -/

section Home

variable (s : State)

theorem State.arrive_eq (p src : Nat) (l : Line) (w : ArrivalOf) : ∃ q, s.arrive p src l w = { s with pkg := { s.pkg with intake := q } } := by
  unfold State.arrive
  split
  · exact ⟨s.pkg.intake, rfl⟩
  · exact ⟨_, rfl⟩

theorem State.llcTouchAll_eq (p : Nat) (ways : List Nat) (ls : List Line) (dirty : Bool) :
    ∃ c, s.llcTouchAll p ways ls dirty = { s with pkg := { s.pkg with llc := c } } := by
  unfold State.llcTouchAll
  induction ls generalizing s with
  | nil => exact ⟨s.pkg.llc, rfl⟩
  | cons l ls ih =>
    obtain ⟨c, hc⟩ := ih (s.llcTouch p ways l dirty)
    exact ⟨c, hc⟩

theorem State.writeLeaf_plainHost {l : Leaf} (hl : l.PlainHost) (off : Nat) (bs : List Byte) : s.writeLeaf l off bs =
    { s with host := s.host.store (l.pa + off) bs, pkg := { s.pkg with poisonLlc := cleanLines s.pkg.poisonLlc false (l.pa + off) bs.length } } := by
  simp only [State.writeLeaf, hl.tgt]
  rfl


/-- A store to an ordinary host page: its bytes, the copies of its line that go, and the acknowledgement that it awaits. -/
theorem State.storeHome_plainHost {l : Leaf} (hl : l.PlainHost) (bay q id off : Nat) (data : List Byte) :
    let t := s.storeHome bay q id l (l.pa + off) off data
    t.now = s.now ∧ t.mems = [s.scratch, s.beat, s.acc, s.host.store (l.pa + off) data, s.expander] ∧
      (∀ k, (s.bay k).sameButCopies (t.bay k)) ∧
      ∃ k, t.pkg.acks = s.pkg.acks ++
        [⟨(l.pa + off) / 64, bay, (s.bay bay).uid, id, s.now + 1 + k, false, q, s.host.bytes ((l.pa + off) / 64 * 64) 64⟩] := by
  have hwrite := s.writeLeaf_plainHost hl off data
  have hcopies := (s.writeLeaf l off data).dropCopies_sameButHostCopies ((l.pa + off) / 64)
  have hdrop := (s.writeLeaf l off data).dropCopies_eq (false, (l.pa + off) / 64)
  simp only [State.storeHome, hl.tgt, if_true]
  generalize s.writeLeaf l off data = w at hwrite hcopies hdrop
  refine ⟨(congrArg State.now hdrop).trans ?_, (congrArg State.mems hdrop).trans ?_, fun k => ?_, Config.freeDelay (s.freeKey bay 14 (id % 4096)),
    congrArg (· ++ _) ((congrArg (fun u : State => u.pkg.acks) hdrop).trans ?_)⟩
  · rw [hwrite]
  · rw [hwrite]
    rfl
  · have hbay : w.bay k = s.bay k := by
      rw [hwrite]
      rfl
    exact hbay ▸ (hcopies k).sameButCopies
  · rw [hwrite]

theorem mem_linesOf_of {a n k : Nat} (h : k ∈ linesOf a n) : ∃ x, (x = a ∨ (a ≤ x ∧ x < a + n)) ∧ x / 64 = k := by
  obtain rfl | hn := Nat.eq_zero_or_pos n
  · have hone : k = a / 64 := by
      simp only [linesOf, List.mem_map, List.mem_range] at h
      omega
    exact ⟨a, .inl rfl, hone.symm⟩
  · obtain ⟨x, hlo, hhi, hk⟩ := (mem_linesOf hn).1 h
    exact ⟨x, .inr ⟨hlo, hhi⟩, hk⟩

end Home

/-! ## The three ways of an access (R113 to R115, R264) -/

section Perform

variable {s s1 : State} {bay q pa : Nat} {e : SEntry} {l : Leaf}

/-- What becomes of a bay when an entry leaves one of its queues. -/
def Bay.doneEntry (b : Bay) (now q : Nat) (e : SEntry) : Bay :=
  ({ b with sq := Tbl.set [] b.sq q ((Tbl.get [] b.sq q).filter fun x => x.id != e.id)
            sqLast := Tbl.set 0 b.sqLast q (now + 1) } : Bay).endHold now e.hold

theorem State.entryDone_bay (s : State) (bay q : Nat) (e : SEntry) : (s.entryDone bay q e).bay bay = (s.bay bay).doneEntry s.now q e :=
  State.onBay_bay_same ..

/-- The lines of n bytes from an address are held for writing by the home, and none is poisoned. -/
def State.ownsClean (s : State) (pa n : Nat) : Prop :=
  ∀ a, a = pa ∨ (pa ≤ a ∧ a < pa + n) → s.pkg.sliceOwns.contains (a / 64) = true ∧ s.poisoned false a = false

theorem State.ownsClean.holds_line {n : Nat} (h : s.ownsClean pa n) (hl : l.PlainHost) (w : Bool) :
    s.hostHolds [(l.tgt == 1, pa / 64)] w = false := by
  have hown := (h pa (.inl rfl)).1
  simp only [List.contains_eq_mem, decide_eq_true_eq] at hown
  simp [State.hostHolds, hl.tgt, hown]

theorem State.poisoned_line (s : State) (a : Nat) : s.poisoned false (64 * (a / 64)) = s.poisoned false a := by
  simp [State.poisoned, State.unanswered]

theorem State.ownsClean.clean_line {n : Nat} (h : s.ownsClean pa n) (hl : l.PlainHost) : s.poisonedOf [(l.tgt == 1, pa / 64)] = none := by
  have hclean := (h pa (.inl rfl)).2
  rw [← State.poisoned_line] at hclean
  simp [State.poisonedOf, hl.tgt, hclean]

theorem State.ownsClean.holds_leaf {off n : Nat} (h : s.ownsClean (l.pa + off) n) (hl : l.PlainHost) : s.hostHolds (s.leafLines l off n) = false := by
  rw [State.leafLines_plainHost hl, State.hostHolds, List.any_eq_false]
  intro x hx
  obtain ⟨k, hk, rfl⟩ := List.mem_map.1 hx
  obtain ⟨a, ha, rfl⟩ := mem_linesOf_of hk
  have hown := (h a ha).1
  simp at hown
  simp [hown]

theorem State.ownsClean.clean_leaf {off n : Nat} (h : s.ownsClean (l.pa + off) n) (hl : l.PlainHost) : s.poisonedOf (s.leafLines l off n) = none := by
  rw [State.leafLines_plainHost hl, State.poisonedOf, Option.map_eq_none_iff, List.find?_eq_none]
  intro x hx
  obtain ⟨k, hk, rfl⟩ := List.mem_map.1 hx
  obtain ⟨a, ha, rfl⟩ := mem_linesOf_of hk
  dsimp only
  rw [State.poisoned_line, (h a ha).2]
  exact Bool.false_ne_true

/-- An access that has been translated and has arrived at its home: only the translation caches and the intake have changed. -/
theorem State.arrived {acc : Acc} {p asid va key n : Nat} {priv : Bool} {x : Trans} (htr : s.translate acc p asid priv va key = (x, s1))
    (hown : s1.ownsClean pa n) (p' src : Nat) (line : Line) (w : ArrivalOf) : ∃ tlb tables k,
      s1.arrive p' src line w = { s with tlb := tlb, tables := tables, pkg := { s.pkg with intake := k } } ∧
        (s1.arrive p' src line w).ownsClean pa n := by
  obtain ⟨tlb, tables, rfl⟩ := State.translate_state htr
  obtain ⟨k, hk⟩ := State.arrive_eq { s with tlb := tlb, tables := tables } p' src line w
  refine ⟨tlb, tables, k, hk, ?_⟩
  rw [hk]
  exact hown

variable (htr : s.translate e.acc (s.partOf bay) (s.bay bay).asid e.priv e.va.toNat (s.freeKey bay 13 (e.id % 4096)) = (.ok l pa, s1))
  (hl : l.PlainHost)
include htr hl

theorem State.performGlobal_load {r n : Nat} {sx h : Bool} (hop : e.op = .load r n sx h) (hown : s1.ownsClean pa n) (hl1 : (s.bay bay).l1 = []) :
    ∃ (u : State) (line : Line) (data : List Byte) (key : Nat),
      s.performGlobal bay q e = u.onBay bay (fun b => (b.takeCopy line data key).loadRegs r n sx h (s.host.num pa n)) ∧
      u.mems = s.mems ∧ u.bay bay = (s.bay bay).doneEntry s.now q e := by
  obtain rfl := State.translate_ok htr
  have hplain : l.plain = true := by simp [Leaf.plain, bit_eq_testBit, hl.packed, hl.elided]
  unfold State.performGlobal
  simp only [htr, hop, hplain, hl1, List.contains_nil, Bool.and_false, Bool.false_and, Bool.false_eq_true, if_false, if_true]
  obtain ⟨tlb, tables, k, hs2, hown2⟩ :=
    State.arrived htr hown (s.partOf bay) bay (l.tgt == 1, (l.pa + e.va.toNat % l.size) / 64) (.entry bay q e.id)
  generalize s1.arrive _ _ _ _ = s2 at hs2 hown2 ⊢
  have hbay : s2.bay bay = s.bay bay := by rw [hs2]; rfl
  have hnow : s2.now = s.now := by rw [hs2]
  have hmems : s2.mems = s.mems := by rw [hs2]; rfl
  have hhost : s2.host = s.host := by rw [hs2]
  rw [hown2.holds_leaf hl, hown2.clean_leaf hl, State.readLeaf_plainHost hl s2 _ n, hhost]
  simp only [Bool.false_eq_true, if_false]
  refine ⟨_, _, _, _, rfl, ?_, ?_⟩
  · rw [State.llcTouchAll_mems, State.entryDone_mems, hmems]
  · obtain ⟨c, hc⟩ := State.llcTouchAll_eq (s2.entryDone bay q e) (s.partOf bay) (s.waysOf (s.bay bay).node)
      (s2.leafLines l (e.va.toNat % l.size) n) false
    rw [hc]
    exact (State.entryDone_bay ..).trans (by rw [hbay, hnow])

theorem State.performGlobal_store {data : List Byte} (hop : e.op = .store data) (hown : s1.ownsClean pa data.length) :
    ∃ u : State, s.performGlobal bay q e = u.entryDone bay q e ∧ u.now = s.now ∧ (s.bay bay).sameButCopies (u.bay bay) ∧
      u.mems = [s.scratch, s.beat, s.acc, s.host.store pa data, s.expander] ∧
      ∃ k, u.pkg.acks = s.pkg.acks ++ [⟨pa / 64, bay, (s.bay bay).uid, e.id, s.now + 1 + k, false, q, s.host.bytes (pa / 64 * 64) 64⟩] := by
  obtain rfl := State.translate_ok htr
  unfold State.performGlobal
  simp only [htr, hop]
  obtain ⟨tlb, tables, k, hs2, hown2⟩ :=
    State.arrived htr hown (s.partOf bay) bay (l.tgt == 1, (l.pa + e.va.toNat % l.size) / 64) (.entry bay q e.id)
  generalize s1.arrive _ _ _ _ = s2 at hs2 hown2 ⊢
  have hanswered : s2.unanswered (l.tgt == 1) (l.pa + e.va.toNat % l.size) = false := by
    rw [hl.tgt]
    rfl
  rw [hown2.holds_line hl, hanswered]
  obtain ⟨hnow, hmems, hcopies, k', hacks⟩ := s2.storeHome_plainHost hl bay q e.id (e.va.toNat % l.size) data
  subst hs2
  exact ⟨_, rfl, hnow, hcopies bay, hmems, k', hacks⟩

theorem State.performGlobal_atom {r n op : Nat} {v cmp : Word} {h : Bool} (hop : e.op = .atom r n op v cmp h) (hown : s1.ownsClean pa n) :
    ∃ u : State, s.performGlobal bay q e = (u.entryDone bay q e).onBay bay (fun b => b.loadRegs r n false h (s.host.num pa n)) ∧
      u.now = s.now ∧ (s.bay bay).sameButCopies (u.bay bay) ∧
      u.mems = [s.scratch, s.beat, s.acc, s.host.store pa (leBytes n (atomNew n op (s.host.num pa n) v.toNat cmp.toNat)), s.expander] := by
  obtain rfl := State.translate_ok htr
  unfold State.performGlobal
  simp only [htr, hop]
  obtain ⟨tlb, tables, k, hs2, hown2⟩ :=
    State.arrived htr hown (s.partOf bay) bay (l.tgt == 1, (l.pa + e.va.toNat % l.size) / 64) (.entry bay q e.id)
  generalize s1.arrive _ _ _ _ = s2 at hs2 hown2 ⊢
  have hold : leNat (s2.readLeaf l (e.va.toNat % l.size) n) = s.host.num (l.pa + e.va.toNat % l.size) n := by
    rw [State.readLeaf_plainHost hl, hs2]
    rfl
  rw [hown2.holds_line hl, hown2.clean_line hl, hold]
  obtain ⟨hnow, hmems, hcopies, -⟩ := s2.storeHome_plainHost hl bay q e.id (e.va.toNat % l.size)
    (leBytes n (atomNew n op (s.host.num (l.pa + e.va.toNat % l.size) n) v.toNat cmp.toNat))
  subst hs2
  exact ⟨_, rfl, hnow, hcopies bay, hmems⟩

end Perform

/-- The new value of an atomic operation, FADD apart (R264). -/
theorem atomNew_eq {n op old : Nat} (v cmp : Nat) (hop : op ≠ 1) (hold : old < 2 ^ (8 * n)) : atomNew n op old v cmp = atomic op n old v cmp := by
  unfold atomNew atomic
  simp only [Nat.mod_eq_of_lt hold]
  split <;> simp_all

theorem atomic_lt {op n old : Nat} (v cmp : Nat) (hold : old < 2 ^ (8 * n)) : atomic op n old v cmp < 2 ^ (8 * n) := by
  have hv : v % 2 ^ (8 * n) < 2 ^ (8 * n) := Nat.mod_lt _ (by positivity)
  unfold atomic
  dsimp only
  split
  · exact Nat.mod_lt _ (by positivity)
  · split <;> assumption
  · split <;> assumption
  · exact lt_of_le_of_lt (Nat.min_le_left ..) hold
  · exact max_lt hold hv
  · exact Nat.and_lt_two_pow _ hv
  · exact Nat.or_lt_two_pow hold hv
  · exact Nat.xor_lt_two_pow hold hv
  · exact hv
  · split <;> assumption

theorem Bay.doneEntry_sq (b : Bay) (now q : Nat) (e : SEntry) :
    Tbl.get [] (b.doneEntry now q e).sq q = (Tbl.get [] b.sq q).filter fun x => x.id != e.id :=
  Tbl.get_set_same ..

theorem Bay.doneEntry_holds {b c : Bay} (h : c.holds = b.holds) (now q : Nat) (e : SEntry) :
    (c.doneEntry now q e).holds = (b.endHold now e.hold).holds := by
  simp [Bay.doneEntry, Bay.endHold, h]

theorem Bay.doneEntry_scalar (b : Bay) (now q : Nat) (e : SEntry) (h : Bool) (r : Nat) : (b.doneEntry now q e).scalar h r = b.scalar h r := rfl

/-- The bytes of a memory after a store. -/
theorem Memory.byte_store (m : Memory) (pa : Nat) (data : List Byte) (a : Nat) :
    (m.store pa data).byte a = if pa ≤ a ∧ a < pa + data.length then data.getD (a - pa) 0 else m.byte a := by
  split
  · next h =>
    obtain ⟨i, rfl⟩ := Nat.exists_eq_add_of_le h.1
    rw [Memory.byte_store_in _ _ _ _ (by omega), Nat.add_sub_cancel_left]
  · exact Memory.byte_store_out _ _ _ _ (by omega)

theorem State.mems_eq_iff {s : State} {scratch beat acc host expander : Memory} : s.mems = [scratch, beat, acc, host, expander] ↔
    s.scratch = scratch ∧ s.beat = beat ∧ s.acc = acc ∧ s.host = host ∧ s.expander = expander := by
  simp only [State.mems, List.cons.injEq, and_true]

/-- What is left of an entry that has been performed: its queue without it, its hold ended, and nothing but host memory changed. -/
structure State.Performed (s t : State) (bay q : Nat) (e : SEntry) : Prop where
  sq : Tbl.get [] (t.bay bay).sq q = (Tbl.get [] (s.bay bay).sq q).filter fun x => x.id != e.id
  holds : (t.bay bay).holds = ((s.bay bay).endHold s.now e.hold).holds
  scratch : t.scratch = s.scratch
  beat : t.beat = s.beat
  acc : t.acc = s.acc
  expander : t.expander = s.expander

section Delivered

variable {s s1 : State} {bay q pa : Nat} {e : SEntry} {l : Leaf}
  (htr : s.translate e.acc (s.partOf bay) (s.bay bay).asid e.priv e.va.toNat (s.freeKey bay 13 (e.id % 4096)) = (.ok l pa, s1))
  (hl : l.PlainHost)
include htr hl

theorem State.load_performed {r n : Nat} {sx h : Bool} (hop : e.op = .load r n sx h) (hown : s1.ownsClean pa n) (hl1 : (s.bay bay).l1 = []) :
    s.Performed (s.performGlobal bay q e) bay q e ∧ (s.performGlobal bay q e).host = s.host ∧
      ∃ b : Bay, (s.performGlobal bay q e).bay bay = b.loadRegs r n sx h (s.host.num pa n) ∧
        ∀ h r, b.scalar h r = (s.bay bay).scalar h r := by
  obtain ⟨u, line, data, key, ht, hmems, hbay⟩ := State.performGlobal_load (q := q) htr hl hop hown hl1
  obtain ⟨hscratch, hbeat, hacc, hhost, hexpander⟩ := State.mems_eq_iff.1 hmems
  have hcopies := (u.bay bay).takeCopy_sameButCopies line data key
  have htbay : (s.performGlobal bay q e).bay bay = ((u.bay bay).takeCopy line data key).loadRegs r n sx h (s.host.num pa n) := by
    rw [ht, State.onBay_bay_same]
  refine ⟨⟨?_, ?_, ?_, ?_, ?_, ?_⟩, ?_, _, htbay, fun h r => ?_⟩
  · rw [htbay, Bay.loadRegs_sq, hcopies.sq, hbay, Bay.doneEntry_sq]
  · rw [htbay, Bay.loadRegs_holds, hcopies.holds, hbay, Bay.doneEntry_holds rfl]
  · rw [ht, State.onBay_scratch, hscratch]
  · rw [ht, State.onBay_beat, hbeat]
  · rw [ht, State.onBay_acc, hacc]
  · rw [ht, State.onBay_expander, hexpander]
  · rw [ht, State.onBay_host, hhost]
  · rw [hcopies.scalar, hbay, Bay.doneEntry_scalar]

theorem State.store_performed {data : List Byte} (hop : e.op = .store data) (hown : s1.ownsClean pa data.length) :
    s.Performed (s.performGlobal bay q e) bay q e ∧ (s.performGlobal bay q e).host = s.host.store pa data ∧
      (∀ h r, ((s.performGlobal bay q e).bay bay).scalar h r = (s.bay bay).scalar h r) ∧
      ∃ k, (s.performGlobal bay q e).pkg.acks =
        s.pkg.acks ++ [⟨pa / 64, bay, (s.bay bay).uid, e.id, s.now + 1 + k, false, q, s.host.bytes (pa / 64 * 64) 64⟩] := by
  obtain ⟨u, ht, hnow, hcopies, hmems, hacks⟩ := State.performGlobal_store (q := q) htr hl hop hown
  rw [← State.entryDone_mems u bay q e, ← ht] at hmems
  obtain ⟨hscratch, hbeat, hacc, hhost, hexpander⟩ := State.mems_eq_iff.1 hmems
  have htbay : (s.performGlobal bay q e).bay bay = (u.bay bay).doneEntry s.now q e := by rw [ht, State.entryDone_bay, hnow]
  refine ⟨⟨?_, ?_, hscratch, hbeat, hacc, hexpander⟩, hhost, fun h r => ?_, ht ▸ hacks⟩
  · rw [htbay, Bay.doneEntry_sq, hcopies.sq]
  · rw [htbay, Bay.doneEntry_holds hcopies.holds]
  · rw [htbay, Bay.doneEntry_scalar, hcopies.scalar]

theorem State.atom_performed {r n op : Nat} {v cmp : Word} {h : Bool} (hop : e.op = .atom r n op v cmp h) (hown : s1.ownsClean pa n) :
    s.Performed (s.performGlobal bay q e) bay q e ∧
      (s.performGlobal bay q e).host = s.host.store pa (leBytes n (atomNew n op (s.host.num pa n) v.toNat cmp.toNat)) ∧
      ∃ b : Bay, (s.performGlobal bay q e).bay bay = b.loadRegs r n false h (s.host.num pa n) ∧
        ∀ h r, b.scalar h r = (s.bay bay).scalar h r := by
  obtain ⟨u, ht, hnow, hcopies, hmems⟩ := State.performGlobal_atom (q := q) htr hl hop hown
  rw [← State.entryDone_mems u bay q e, ← State.onBay_mems (u.entryDone bay q e) bay, ← ht] at hmems
  obtain ⟨hscratch, hbeat, hacc, hhost, hexpander⟩ := State.mems_eq_iff.1 hmems
  have htbay : (s.performGlobal bay q e).bay bay = ((u.bay bay).doneEntry s.now q e).loadRegs r n false h (s.host.num pa n) := by
    rw [ht, State.onBay_bay_same, State.entryDone_bay, hnow]
  refine ⟨⟨?_, ?_, hscratch, hbeat, hacc, hexpander⟩, hhost, _, htbay, fun h r => ?_⟩
  · rw [htbay, Bay.loadRegs_sq, Bay.doneEntry_sq, hcopies.sq]
  · rw [htbay, Bay.loadRegs_holds, Bay.doneEntry_holds hcopies.holds]
  · rw [Bay.doneEntry_scalar, hcopies.scalar]

end Delivered

/-! ## STREAM_DELIVER (R112, R113) -/

section Deliver

variable {s : State} {bay q : Nat} {e : SEntry}

/-- A fence marker is not delivered. -/
theorem State.deliverable_not_marker (h : s.deliverable bay q = some e) (n : Nat) : e.op ≠ .marker n := by
  intro hop
  unfold State.deliverable at h
  dsimp only at h
  split at h
  · cases h
  · rw [Option.ite_none_left_eq_some] at h
    obtain ⟨hno, hx⟩ := h
    cases hx
    simp [hop] at hno

theorem exec_streamDeliver_home (hbay : bay < 256) (hq : q < 16) (h : s.deliverable bay q = some e) (hop : ∀ t ps, e.op ≠ .remote t ps) :
    exec (.streamDeliver bay q) s = .next (s.performGlobal bay q e) := by
  have hin : ¬ (256 ≤ bay ∨ 16 ≤ q) := by omega
  simp only [exec, execStreamDeliver, if_neg hin, h]

theorem exec_streamDeliver_remote (hbay : bay < 256) (hq : q < 16) (h : s.deliverable bay q = some e) {target : Nat} {ps : List (Nat × List Byte)}
    (hop : e.op = .remote target ps) : exec (.streamDeliver bay q) s =
      .next ((ps.foldl (fun s x => s.addWrite target ⟨s.now, 1, bay, x.1, x.2⟩) s).entryDone bay q e) := by
  have hin : ¬ (256 ≤ bay ∨ 16 ≤ q) := by omega
  simp only [exec, execStreamDeliver, if_neg hin, h, hop]

/-- The pieces of a remote write join the timeline of their bay, in order. -/
theorem State.addWrites (target src : Nat) (ps : List (Nat × List Byte)) (s : State) :
    let t := ps.foldl (fun s x => s.addWrite target ⟨s.now, 1, src, x.1, x.2⟩) s
    t.now = s.now ∧ (∀ k, k ≠ target → t.bay k = s.bay k) ∧ t.mems = s.mems ∧
      (t.bay target).swrites = (s.bay target).swrites ++ ps.map (fun x => ⟨s.now, 1, src, x.1, x.2⟩) := by
  induction ps generalizing s with
  | nil => simp
  | cons x ps ih =>
    obtain ⟨hnow, hbays, hmems, hwrites⟩ := ih (s.addWrite target ⟨s.now, 1, src, x.1, x.2⟩)
    refine ⟨hnow, fun k hk => (hbays k hk).trans (State.onBay_bay_other _ _ _ _ hk), hmems, ?_⟩
    refine hwrites.trans ?_
    rw [State.addWrite, State.onBay_bay_same]
    simp

end Deliver

end Sys2Proof.Machine

namespace Sys2Proof

/-- Settles O19: an access of an ordinary host page is performed in one of three ways, and a remote write joins the timeline of its bay. -/
theorem streamDelivery : Obligations.StreamDelivery := by
  constructor
  · intro bay q e l pa s s1 hbay hq hdel hop htr n htgt hpacked helided hown hl1
    have hl : l.PlainHost := ⟨htgt, hpacked, helided⟩
    have hexec := exec_streamDeliver_home hbay hq hdel hop
    unfold n at hown
    clear n
    cases hx : e.op with
    | remote t ps => exact absurd hx (hop t ps)
    | marker n => exact absurd hx (State.deliverable_not_marker hdel n)
    | load r n sx h =>
      rw [hx] at hown
      obtain ⟨hdone, hhost, b, hb, hregs⟩ := State.load_performed (q := q) htr hl hx hown hl1
      refine ⟨_, hexec, hdone.sq, hdone.holds, hdone.scratch, hdone.beat, hdone.acc, hdone.expander, hhost, ?_, fun hn _ => ?_,
        fun h' r' hr hr1 => ?_⟩ <;> rw [hb]
      · exact Bay.loadRegs_first ..
      · exact Bay.loadRegs_second _ _ _ _ _ _ hn
      · rw [Bay.loadRegs_other _ _ _ _ _ _ hr hr1, hregs]
    | store data =>
      rw [hx] at hown
      obtain ⟨hdone, hhost, hregs, hacks⟩ := State.store_performed (q := q) htr hl hx hown
      refine ⟨_, hexec, hdone.sq, hdone.holds, hdone.scratch, hdone.beat, hdone.acc, hdone.expander, fun a => ?_, hregs, hacks⟩
      rw [hhost, Memory.byte_store]
    | atom r n op v cmp h =>
      rw [hx] at hown
      obtain ⟨hdone, hhost, b, hb, hregs⟩ := State.atom_performed (q := q) htr hl hx hown
      have hold : s.host.num pa n < 2 ^ (8 * n) := by
        rw [Nat.pow_mul]
        exact Memory.num_lt ..
      refine ⟨_, hexec, hdone.sq, hdone.holds, hdone.scratch, hdone.beat, hdone.acc, hdone.expander, fun hfadd => ?_, fun a ha => ?_,
        fun hn hr => ?_, fun h' r' hr hr1 => ?_⟩
      · have hstore := s.host.num_store pa (atomNew n op (s.host.num pa n) v.toNat cmp.toNat) (n := n) (j := 0) (k := n) (by omega)
        rw [atomNew_eq _ _ hfadd hold, Nat.add_zero, pow_zero, Nat.div_one, show (256 : Nat) = 2 ^ 8 from rfl, ← Nat.pow_mul,
          Nat.mod_eq_of_lt (atomic_lt _ _ hold)] at hstore
        rw [hhost, atomNew_eq _ _ hfadd hold, hstore]
      · rw [hhost]
        exact Memory.byte_store_out _ _ _ _ (by rwa [leBytes_length])
      · rw [hb, Bay.loadRegs_first, if_neg hr, if_neg (by omega)]
        rfl
      · rw [hb, Bay.loadRegs_other _ _ _ _ _ _ hr hr1, hregs]
  · intro bay q target e ps s hbay hq hdel hop htarget
    obtain ⟨hnow, hbays, hmems, hwrites⟩ := State.addWrites target bay ps s
    refine ⟨_, exec_streamDeliver_remote hbay hq hdel hop, ?_, ?_, ?_, State.sameBytes_of_mems ?_⟩
    · rw [State.entryDone, State.onBay_bay_other _ _ _ _ htarget]
      exact hwrites
    · rw [State.entryDone_sq, hbays bay htarget.symm]
    · rw [State.entryDone_holds, hbays bay htarget.symm, hnow]
    · rw [State.entryDone_mems, hmems]

end Sys2Proof
end

section
/-!
SUPPORT. A step that issues a bundle of one slot word: the step reaches the issue, the bundle reads as its one instruction, and what the settling
and the retirement leave in the bay; and the statement about it.
-/

open Sys2Proof Sys2Proof.Machine

namespace Sys2Proof.Machine

/-! ## The step reaches the issue point (R111) -/

theorem takeInput_none {now : Nat} {l : List (Nat × Instr)} (ok : Instr → Bool) (h : takeInput now (fun _ => true) l = none) :
    takeInput now ok l = none := by
  induction l with
  | nil => rfl
  | cons x l ih =>
    unfold takeInput at h ⊢
    split at h
    · cases h
    · next hlate =>
      have hskip : ¬ (decide (x.1 ≤ now) && ok x.2) = true := fun hx => hlate (by simp_all)
      rw [if_neg hskip, ih (Option.map_eq_none_iff.1 h)]
      rfl

theorem step_issues {s : State} {bay : Nat} (hpower : s.pkg.poweron = false) (hreplay : s.replayBay = none) (hdeps : s.depsDue = false)
    (hstops : s.stopsDue = []) (hhome : s.homeMove = none) (hdue : s.dueStep = none) (hinputs : takeInput s.now (fun _ => true) s.inputs = none)
    (htrap : s.trapMove = none) (hissue : s.issueBay = some bay) : step s = s.issueAt bay := by
  simp [step, State.move, hpower, takeInput_none Instr.early hinputs, hreplay, hdeps, hstops, hhome, hinputs, hdue, htrap, hissue]

/-! ## A bundle of one slot word (R195, R213) -/

section OneWord

variable {t : State} {it : Item} {i : Instr} (hitems : t.cur.items = [it]) (hfault : t.cur.wordFault = none)
  (hdecode : decodeDoubled it.slot it.word it.pay it.pfx it.dup (t.here.dbeat.truncate 16) = .ok i) (hbundle : t.bundleFault [(it, i)] = none)
include hitems hfault hdecode hbundle

theorem State.readBundle_one : t.readBundle = .ok [(it, i)] := by
  simp [State.readBundle, State.wordsRead, hitems, decodeItems, hdecode, hfault, hbundle]

theorem State.issueCur_one (hwait : Instr.isWait i = false) : t.issueCur = t.issueRun [(it, i)] [(it, i)] := by
  simp only [State.issueCur, State.readBundle_one hitems hfault hdecode hbundle]
  simp [hwait, State.issueBundle]

theorem State.issueCur_waits (hwait : Instr.isWait i = true) (hheld : t.here.heldFault t.now true (Instr.holdReads i) = none) {u : State} {w : Wait}
    (hexec : exec i (t.atSlot (it, i)) = .next u) (hno : u.cur.fault = none) (hw : u.cur.wait = some w) : t.issueCur = .next (u.keepWaiting w) := by
  simp only [State.issueCur, State.readBundle_one hitems hfault hdecode hbundle]
  simp [hwait, hheld, hexec, hno, hw]

end OneWord

section OneInstr

variable {t u : State} {x : SlotInstr} (hstamp : Instr.stamp x.2 = none)
include hstamp

theorem State.issueRun_next (hexec : exec x.2 (t.atSlot x) = .next u) :
    t.issueRun [x] [x] = .next (t.settle (u.afterSlot (t.atSlot x) x) [x] none) := by
  simp [State.issueRun, hstamp, State.runSlots, hexec]

theorem State.issueRun_fault {r : Fault} (hexec : exec x.2 (t.atSlot x) = .fault r) : t.issueRun [x] [x] = .fault r := by
  simp [State.issueRun, hstamp, State.runSlots, hexec]

end OneInstr

/-! ## What a bundle that issues leaves in its bay -/

/-- Two states agree on the bundle in hand, the cycle, and the task, the registers and the results in flight of a bay. -/
structure State.Stands (s t : State) (bay : Nat) : Prop where
  cur : t.cur = s.cur
  now : t.now = s.now
  task : (t.bay bay).task = (s.bay bay).task
  sreg : (t.bay bay).sreg = (s.bay bay).sreg
  pends : (t.bay bay).pends = (s.bay bay).pends

theorem State.Stands.refl (s : State) (bay : Nat) : s.Stands s bay := ⟨rfl, rfl, rfl, rfl, rfl⟩

theorem State.Stands.trans {s t u : State} {bay : Nat} (h : s.Stands t bay) (k : t.Stands u bay) : s.Stands u bay :=
  ⟨k.cur.trans h.cur, k.now.trans h.now, k.task.trans h.task, k.sreg.trans h.sreg, k.pends.trans h.pends⟩

theorem State.stands_onBay (s : State) (k bay : Nat) {f : Bay → Bay}
    (h : ∀ b, (f b).task = b.task ∧ (f b).sreg = b.sreg ∧ (f b).pends = b.pends) :
    s.Stands (s.onBay k f) bay := by
  obtain ⟨htask, hsreg, hpends⟩ := h (s.bay k)
  by_cases hk : bay = k
  · subst hk
    constructor <;> simp only [State.onBay_bay_same, htask, hsreg, hpends, State.onBay_cur, State.onBay_now]
  · constructor <;> simp only [State.onBay_bay_other _ _ _ _ hk, State.onBay_cur, State.onBay_now]

theorem State.stands_upd (s : State) (bay : Nat) {f : Bay → Bay}
    (h : ∀ b, (f b).task = b.task ∧ (f b).sreg = b.sreg ∧ (f b).pends = b.pends) :
    s.Stands (s.upd f) bay :=
  s.stands_onBay s.cur.bay bay h

theorem State.stands_foldl {α : Type} {f : State → α → State} {bay : Nat} (h : ∀ (s : State) x, s.Stands (f s x) bay) (l : List α)
    (s : State) : s.Stands (l.foldl f s) bay := by
  induction l generalizing s with
  | nil => exact .refl s bay
  | cons x l ih => exact (h s x).trans (ih _)

theorem State.stands_mapCmd (s : State) (k id bay : Nat) (f : Cmd → Cmd) : s.Stands (s.mapCmd k id f) bay := by
  have h := s.stands_onBay k bay (f := fun b => { b with btx := b.btx.map fun (k', c) =>
    (k', { c with buf := c.buf.map fun c => if c.bay = k ∧ c.id = id then f c else c }) }) fun _ => ⟨rfl, rfl, rfl⟩
  exact ⟨h.cur, h.now, h.task, h.sreg, h.pends⟩

theorem State.stands_keepOps (s : State) (old : Nat) (ops : List Word) (bay : Nat) : s.Stands (s.keepOps old ops) bay := by
  unfold State.keepOps
  extract_lets k new fit beat s1
  have h1 : s.Stands s1 bay := by
    refine State.stands_upd s bay ?_
    exact fun _ => ⟨rfl, rfl, rfl⟩
  split
  · exact .refl s bay
  · split
    · exact h1.trans (State.stands_foldl (fun s id => s.stands_mapCmd ..) _ _)
    · exact h1

theorem State.stands_occupy (s : State) (l : List SlotInstr) (bay : Nat) : s.Stands (s.occupy l) bay := by
  refine State.stands_foldl (fun t x => ?_) l s
  dsimp only
  split
  · exact .refl t bay
  · refine State.stands_upd t bay ?_
    exact fun _ => ⟨rfl, rfl, rfl⟩

/-- What a bundle with a task behind it leaves in its bay as it retires. -/
theorem State.retire_eq {s : State} (l : List SlotInstr) (htask : s.here.task.isSome) :
    ∃ f : Bay → Bay, s.retire l = ((s.occupy l).upd f).clearCur ∧
      ∀ b, (f b).pc = s.cur.next.getD (s.cur.pc + s.cur.len) ∧ (f b).due = s.cur.after ∧ (f b).sreg = b.sreg ∧ (f b).pends = b.pends := by
  have hsome : ¬ s.here.task.isNone = true := by
    rw [Option.isNone_iff_eq_none]
    exact Option.isSome_iff_ne_none.1 htask
  exact ⟨_, if_neg hsome, fun _ => ⟨rfl, rfl, rfl, rfl⟩⟩

theorem State.retire_stands {s : State} {bay : Nat} (hbay : s.cur.bay = bay) (htask : (s.bay bay).task.isSome) (l : List SlotInstr) :
    ((s.retire l).bay bay).pc = s.cur.next.getD (s.cur.pc + s.cur.len) ∧ ((s.retire l).bay bay).due = s.cur.after ∧ (s.retire l).cur = {} ∧
      ((s.retire l).bay bay).sreg = (s.bay bay).sreg ∧ ((s.retire l).bay bay).pends = (s.bay bay).pends ∧ (s.retire l).now = s.now := by
  subst hbay
  have hocc := s.stands_occupy l s.cur.bay
  obtain ⟨f, hretire, hf⟩ := State.retire_eq l htask
  have hafter : (s.retire l).bay s.cur.bay = f ((s.occupy l).bay s.cur.bay) := by
    rw [hretire, ← hocc.cur]
    exact State.onBay_bay_same ..
  obtain ⟨hpc, hdue, hsreg, hpends⟩ := hf ((s.occupy l).bay s.cur.bay)
  rw [hafter]
  exact ⟨hpc, hdue, by rw [hretire]; rfl, hsreg.trans hocc.sreg, hpends.trans hocc.pends, by rw [hretire]; exact hocc.now⟩

/-- One slot word clashes with no other. -/
theorem destClash_one (y : SlotInstr × List Hold) : destClash [y] = none := rfl

/-- A bundle of one instruction that has found no fault, and against whose holds nothing stands, retires with those holds placed. -/
theorem State.settle_retires {t u : State} {x : SlotInstr} {held : Bay} {hs : List Hold} (bay : Nat) (hfault : u.cur.fault = none)
    (hlate : u.cur.late = none) (hasked : u.cur.asked = [hs]) (hheld : t.here.bundleHolds t.now t.here [(x, hs)] = .ok held) :
    ∃ v : State, t.settle u [x] none = v.retire [x] ∧ u.Stands v bay := by
  simp only [State.settle, hasked, hfault, hlate, List.length_singleton, Nat.sub_self, List.replicate_zero, List.append_nil,
    List.zip_cons_cons, List.zip_nil_right, destClash_one, hheld]
  refine ⟨_, rfl, State.stands_upd u bay ?_⟩
  exact fun _ => ⟨rfl, rfl, rfl⟩

theorem State.afterSlot_cur (t u : State) (x : SlotInstr) :
    ∃ again, (u.afterSlot t x).cur = { u.cur with asked := u.cur.asked ++ [u.cur.holds], holds := [], again := again } := by
  have hkeep := u.stands_keepOps t.here.opCount (t.operands x.2) 0
  refine ⟨(u.afterSlot t x).cur.again, ?_⟩
  unfold State.afterSlot State.updCur
  rw [hkeep.cur]

theorem State.afterSlot_bay (t u : State) (x : SlotInstr) (bay : Nat) :
    ((u.afterSlot t x).bay bay).task = (u.bay bay).task ∧ ((u.afterSlot t x).bay bay).sreg = (u.bay bay).sreg ∧
      ((u.afterSlot t x).bay bay).pends = (u.bay bay).pends ∧ (u.afterSlot t x).now = u.now := by
  have hkeep := u.stands_keepOps t.here.opCount (t.operands x.2) bay
  exact ⟨hkeep.task, hkeep.sreg, hkeep.pends, hkeep.now⟩

end Sys2Proof.Machine

namespace Sys2Proof

/-- Settles O55: the step comes to the issue, the bundle reads as its one instruction, and the settling of a bundle without a fault or a hold
against it is its retirement. -/
theorem stepRunsDecoded : Obligations.StepRunsDecoded := by
  intro bay s t it i hpower hreplay hdeps hstops hhome hdue hinputs htrap hissue hexec hlive hitems hword hdecode hbundle at_
  have hstep : step s = t.issueCur := by
    rw [step_issues hpower hreplay hdeps hstops hhome hdue hinputs htrap hissue]
    simp [State.issueAt, hexec, hlive]
  rw [hstep]
  refine ⟨fun hwait hstamp => ?_, fun u w hwait hheld hnext hfault hw =>
    State.issueCur_waits hitems hword hdecode hbundle hwait hheld hnext hfault hw⟩
  rw [State.issueCur_one hitems hword hdecode hbundle hwait]
  refine ⟨fun u hnext => State.issueRun_next hstamp hnext, fun r hr => State.issueRun_fault hstamp hr, ?_⟩
  intro u held hnext hfault hlate hasked hheld hbay htask
  rw [State.issueRun_next (x := (it, i)) hstamp hnext]
  obtain ⟨again, hcur⟩ := State.afterSlot_cur at_ u (it, i)
  obtain ⟨hatask, hasreg, hapends, hanow⟩ := State.afterSlot_bay at_ u (it, i) bay
  obtain ⟨v, hsettle, hv⟩ := State.settle_retires (u := u.afterSlot at_ (it, i)) bay (by rw [hcur]; exact hfault) (by rw [hcur]; exact hlate)
    (by rw [hcur, hasked, List.nil_append]) hheld
  have hvcur := hv.cur.trans hcur
  obtain ⟨hpc, hrdue, hrcur, hrsreg, hrpends, hrnow⟩ := State.retire_stands (s := v) (bay := bay) (by rw [hvcur]; exact hbay)
    (by rw [hv.task, hatask]; exact htask) [(it, i)]
  rw [hvcur] at hpc hrdue
  refine ⟨v.retire [(it, i)], by rw [hsettle], hpc.trans ?_, hrdue, hrcur, hrsreg.trans (hv.sreg.trans hasreg),
    hrpends.trans (hv.pends.trans hapends), hrnow.trans (hv.now.trans hanow)⟩
  cases u.cur.next <;> rfl

end Sys2Proof
end
